-- ==== Sys2Proof/Word.lean ====
section
/-! DEFINITION. The word types of both parts. -/

namespace Sys2Proof

abbrev Byte := BitVec 8
abbrev Half := BitVec 16
abbrev Word := BitVec 32
abbrev DWord := BitVec 64
/-- A die identifier (R17). -/
abbrev Did := BitVec 24
/-- A whole nanosecond count (R28). -/
abbrev Ns := BitVec 64

/-- `0x00_0000`: no die (R17). -/
abbrev didNone : Did := 0x000000#24
/-- `0xFF_FFFF`: every die (R17). -/
abbrev didAll : Did := 0xFFFFFF#24

end Sys2Proof
end

