-- ==== Sys2Proof/Syntax.lean ====
section
/-! DEFINITION. The commands of the block: the operand types of the opcode table's rows and `Instr`, one constructor per
row. A row whose event is an arriving frame carries the frame's header and payload fields; a row that a part takes by
itself carries what it measures at that moment (a timestamp, a reading) and names the part, port or slot. -/

namespace Sys2Proof

/-- The two leaves of the model: a leaf on a ring, and the Tervon's internal leaf (R220). -/
inductive LeafId where
  | ring
  | internal
  deriving DecidableEq, Repr

/-- The parts of the model. -/
inductive Part where
  | leaf (who : LeafId)
  | tervon
  deriving DecidableEq, Repr

/-- A port under R128: the ring leaf's two ports and the Tervon's 13; the internal link of R220 stands beside them. -/
inductive PortId where
  | west
  | east
  | tv (k : Nat)
  | internal
  deriving DecidableEq, Repr

/-- The frame header fields of R137. -/
structure Hdr where
  type    : BitVec 6
  cls     : BitVec 2
  dst     : BitVec 4
  src     : BitVec 4
  length  : BitVec 12
  linkSeq : BitVec 12
  alive   : BitVec 8
  epoch   : BitVec 16
  tag     : BitVec 16
  flags   : BitVec 8
  srcDid  : Did
  deriving DecidableEq, Repr

/-- A frame as it arrived: its port, its header, whether the replay bit was set and whether an uncorrectable codeword or a
retrain hit its exchange (R136, R48). -/
structure Rx where
  port     : PortId
  hdr      : Hdr
  replayed : Bool
  hit      : Bool
  deriving DecidableEq, Repr

/-- A timestamp: whole ns and a fraction in 2^-16 ns (R28). -/
structure Stamp where
  ns   : Ns
  frac : Half
  deriving DecidableEq, Repr

/-- TIME_SYNC payload (R145). -/
structure TimeSyncP where
  origin : Ns
  seq    : Half
  tq     : BitVec 4
  hop    : Byte
  deriving DecidableEq, Repr

/-- TIME_FOLLOW payload (R145). -/
structure TimeFollowP where
  t1   : Stamp
  seq  : Half
  corr : DWord
  a0   : Half
  deriving DecidableEq, Repr

/-- TIME_DELAY_REQ payload (R145). -/
structure DelayReqP where
  seq  : Half
  corr : DWord
  deriving DecidableEq, Repr

/-- TIME_DELAY_RESP payload (R145). -/
structure DelayRespP where
  t4   : Stamp
  seq  : Half
  pos  : Byte
  tq   : BitVec 4
  corr : DWord
  did  : Did
  deriving DecidableEq, Repr

/-- LEASE_REQ payload (R146). -/
structure LeaseReqP where
  op       : Byte
  duration : Half
  epoch    : Half
  did      : Did
  deriving DecidableEq, Repr

/-- LEASE_GRANT payload (R148). -/
structure LeaseGrantP where
  result   : Byte
  holder   : Byte
  epoch    : Half
  duration : Half
  position : Byte
  ringLen  : Byte
  expiry   : Ns
  serial   : DWord
  did      : Did
  tq       : BitVec 4
  deriving DecidableEq, Repr

/-- TALLY frame header (R149). -/
structure TallyHdr where
  seq    : Word
  kind   : Byte
  flags  : Byte
  index  : Half
  offset : Word
  refSeq : Word
  deriving DecidableEq, Repr

/-- TALLY_END payload (R152). -/
structure TallyEndP where
  seq         : Word
  kind        : Byte
  flags       : Byte
  tallyFrames : Half
  instant     : Ns
  tq          : BitVec 4
  histFrames  : Half
  streamBytes : Word
  streamCrc   : Word
  overrun     : Word
  tooSoon     : Word
  refSeq      : Word
  deriving DecidableEq, Repr

/-- HIST frame header (R151). -/
structure HistHdr where
  seq       : Word
  histogram : Byte
  absolute  : Bool
  deriving DecidableEq, Repr

/-- A health record without its check, which is the CRC-32C of the rest (R185). -/
structure HealthRec where
  time    : Ns
  did     : Did
  cls     : Byte
  unit    : Half
  op      : Half
  temp    : Half
  volt    : Half
  step    : Word
  quality : Byte
  detail  : BitVec 24
  deriving DecidableEq, Repr

/-- A verdict record without its check (R316). -/
structure VerdictRec where
  verdict    : Byte
  reason     : Byte
  flags      : Byte
  quality    : Byte
  checkpoint : Half
  operation  : Half
  unit       : Half
  stage      : Half
  capture    : Word
  step       : DWord
  firstElem  : Word
  differing  : Word
  ulp        : Word
  modelId    : Word
  modelDig   : DWord
  time       : Ns
  did        : Did
  deriving DecidableEq, Repr

/-- The appointment structure of R55. -/
structure Appointment where
  instant  : Ns
  action   : Byte
  flags    : Byte
  slot     : Byte
  period   : Word
  count    : Half
  argument : BitVec 48
  deriving DecidableEq, Repr

/-- REG_RSP payload (R157). -/
structure RegRspP where
  status    : Byte
  duplicate : Bool
  data      : List Byte
  deriving DecidableEq, Repr

/-- SLEEPING payload (R163). -/
structure SleepingP where
  state   : Byte
  refType : Byte
  refTag  : Half
  time    : Ns
  deriving DecidableEq, Repr

/-- REDUCE_PART and REDUCE_RESULT payload (R253): the header and the element bytes. -/
structure ReduceP where
  instant   : Ns
  id        : Byte
  flags     : Byte
  digest    : Word
  leavesIn  : Half
  leavesOut : Half
  tvIn      : Byte
  tvOut     : Byte
  elems     : List Byte
  deriving DecidableEq, Repr

/-- A mirror item of R357. `entry` of kind 1 is the 64-byte stream entry. -/
inductive MirrorItem where
  | stream (index : BitVec 20) (entry : List Byte)
  | image (did : Did) (sect : Byte) (item : Half) (value : BitVec 96) (instant : Ns) (seq : Word)
  | lease (did : Did) (epoch : Half) (expiry : Ns)
  deriving DecidableEq, Repr

/-- BUDDY_STATE payload (R357). -/
structure BuddyStateP where
  time     : Ns
  did      : Did
  flags    : Byte
  lastSent : Word
  lastApp  : Word
  leases   : DWord
  deriving DecidableEq, Repr

/-- CAL_REPORT payload (R357); time values signed in 2^-16 ns. -/
structure CalReportP where
  ring      : Byte
  leaves    : Byte
  exchanges : Word
  ownOffset : DWord
  channel   : DWord
  thetaB    : List DWord
  deriving DecidableEq, Repr

/-- A frame's payload. Types whose body the leaf or host die produces as bytes keep them as bytes. -/
inductive Payload where
  | timeSync (p : TimeSyncP)
  | timeFollow (p : TimeFollowP)
  | delayReq (p : DelayReqP)
  | delayResp (p : DelayRespP)
  | leaseReq (p : LeaseReqP)
  | leaseGrant (p : LeaseGrantP)
  | tally (h : TallyHdr) (bytes : List Byte)
  | tallyEnd (p : TallyEndP)
  | hist (h : HistHdr) (bytes : List Byte)
  | health (recs : List HealthRec)
  | trace (core : BitVec 3) (offset : Word) (bytes : List Byte)
  | traceLoss (bytes : List Byte)
  | dump (id : Word) (entry : Half) (kind status : Byte) (address : DWord) (bytes : List Byte)
  | captureDesc (id total frames : Word) (hdr : List Byte)
  | captureData (id offset : Word) (bytes : List Byte)
  | verdict (did : Did) (capture : Word) (r : VerdictRec)
  | regRd (did : Did) (offset count : Half)
  | regWr (did : Did) (lockOp : Byte) (offset count : Half) (data : List Byte)
  | regRsp (p : RegRspP)
  | appoint (did : Did) (a : Appointment)
  | sleeping (p : SleepingP)
  | nop (bytes : List Byte)
  | routed (dx dy sx sy : BitVec 3) (hop : Byte) (h : Hdr) (body : List Byte)
  | reducePart (p : ReduceP)
  | reduceResult (p : ReduceP)
  | mirror (seq : Word) (items : List MirrorItem)
  | mirrorAck (seq discarded : Word)
  | buddyState (p : BuddyStateP)
  | calReport (p : CalReportP)
  | stateLoad (sect : Byte) (offset : Word) (data : List Byte)
  | stateDone (bitmap : Word) (total : DWord) (crc : Word)
  deriving DecidableEq, Repr

structure Frame where
  hdr : Hdr
  pay : Payload
  deriving DecidableEq, Repr

/-- A requester of a leaf's registers: a host port requester identifier, or a ring end by its REG frames. -/
inductive Requester where
  | host (id : BitVec 4)
  | ring (rx : Rx)
  deriving DecidableEq, Repr

/-- A 64-bit register is written whole, or by its low or high 32-bit word (R433). -/
inductive WriteData where
  | low (w : Word)
  | high (w : Word)
  | full (d : DWord)
  deriving DecidableEq, Repr

/-- A narrow or full write of a check-value feed (R409). -/
inductive FeedData where
  | b1 (d : Byte)
  | b2 (d : Half)
  | b4 (d : Word)
  deriving DecidableEq, Repr

/-- A job: the function (0 physical, 1 to 16 virtual), its command ring and the descriptor index. -/
structure JobRef where
  fn   : Nat
  ring : Nat
  idx  : Word
  deriving DecidableEq, Repr

/-- Bytes that a job reads from host memory, with the mark of R393. -/
structure HostData where
  bytes    : List Byte
  poisoned : Bool
  deriving DecidableEq, Repr

/-- How a descriptor read ended (R377, R393). -/
inductive FetchResult where
  | read (bytes : List Byte)
  | poisoned (bytes : List Byte)
  | error
  deriving DecidableEq, Repr

/-- One valid trace-port cycle (R105). -/
structure BranchCycle where
  cnt   : BitVec 3
  taken : BitVec 4
  ev    : BitVec 2
  evPos : BitVec 3
  tgt   : DWord
  epc   : DWord
  ctx   : Word
  npc   : DWord
  exc   : Byte
  deriving DecidableEq, Repr

/-- What a calibrating end holds when the exchanges end (R43): per leaf its port latencies and channel round trip, and the
mean offsets; all in 2^-16 ns. `asymPma h` is the PMA part of hop h's asymmetry. -/
structure CalData where
  thetaA  : List Int
  thetaB  : List Int
  ownA    : Int
  ownB    : Int
  asymPma : List Int
  chan    : List Nat
  deriving DecidableEq, Repr

/-- A leaf's measured port latencies, in 2^-16 ns: the port part of its path constants (R46). -/
structure PortLatency where
  partA : Int
  partB : Int
  deriving DecidableEq, Repr

/-- A sensor reading of one quantity: the code of R87, or none when the site has no valid reading. -/
structure ThermalSample where
  site : Nat
  code : Option (BitVec 16)
  deriving DecidableEq, Repr

structure SupplySample where
  site   : Nat
  supply : Option (BitVec 16)
  margin : Option Byte
  deriving DecidableEq, Repr

/-- The answer to an attestation read-out (R361): the signature, the attested fields and the public key read. -/
structure AttestAnswer where
  signature  : List Byte
  identity   : List Byte
  serial     : DWord
  powerCount : Word
  opTime     : Word
  did        : Did
  publicKey  : List Byte
  deriving DecidableEq, Repr

/-- An access to a function's BAR0 or BAR2 (R371), with the EP mark of a poisoned TLP (R393). -/
structure BarAccess where
  fn   : Nat
  bar2 : Bool
  off  : Nat
  ep   : Bool
  deriving DecidableEq, Repr

/-- The target of a plain register access: a leaf window offset by a requester, or a BAR0 offset of a function. -/
inductive RegTarget where
  | leaf (who : LeafId) (by' : Requester) (off : Nat)
  | bar (b : BarAccess)
  /-- A function's PCI Express Command register, whose bit 2 is Bus Master Enable (R391). -/
  | command (fn : Nat)
  deriving DecidableEq, Repr

/-- The cause of a leaf cold reset (R426, LF_RST_STAT.cause 0 to 2). -/
inductive ColdCause where
  | powerOn
  | brownOut
  | pin
  deriving DecidableEq, Repr

/-- The cause of a Tervon cold reset (R428, TV_RST_STAT.cause). -/
inductive TvColdCause where
  | firstPowerOn
  | powerGood
  | thermalTrip
  deriving DecidableEq, Repr

/-- A scrub read: the raw word found (R416); `hbm` words carry their unit. -/
structure ScrubRead where
  target : Nat
  tile   : Nat
  addr   : Nat
  deriving DecidableEq, Repr

/-- The commands: one constructor per row of the opcode table, in its order. Each docstring names the row's rule. -/
inductive Instr where
  /-- EXCHANGE_PERIOD (R462): At each 125 µs boundary of its own time, a part acting as master starts a time exchange by sending TIME_SYNC and TIME_FOLLOW. -/
  | exchangePeriod
  /-- TIME_SYNC (R142): A TIME_SYNC frame arrives; a leaf copies and forwards it, and the receiver checks the class and hop count. -/
  | timeSync (who : Part) (rx : Rx) (p : TimeSyncP) (t2 : Stamp) (residence : DWord)
  /-- TIME_FOLLOW (R142): A TIME_FOLLOW arrives; a forwarding leaf adds its residence time, and the steering part records t1 and then sends its TIME_DELAY_REQ. -/
  | timeFollow (who : Part) (rx : Rx) (p : TimeFollowP) (t3 : Stamp)
  /-- TIME_DELAY_REQ (R142): A TIME_DELAY_REQ arrives; a forwarding leaf adds its residence time, and the master answers with TIME_DELAY_RESP. -/
  | timeDelayReq (who : Part) (rx : Rx) (p : DelayReqP) (t4 : Stamp) (residence : DWord)
  /-- TIME_DELAY_RESP (R47): A TIME_DELAY_RESP completes an exchange; the receiver forms and filters the offset and stores it for its source. -/
  | timeDelayResp (who : Part) (rx : Rx) (p : DelayRespP) (tempC : Int)
  /-- SLEW_TICK (R50): At each whole microsecond in slew mode, the part recomputes its rate and drains the pending slew. -/
  | slewTick (who : Part)
  /-- HOLDOVER_TIMEOUT (R52): When no exchange has been accepted for 500 µs, the part enters holdover and reports TQ5. -/
  | holdoverTimeout (who : Part)
  /-- HOLDOVER_LONG (R52): After 1 s in holdover, the part reports TQ6. -/
  | holdoverLong (who : Part)
  /-- PRIMARY_LINK_FAIL (R39): When the primary upstream link fails, the Tervon switches frequency and phase to its secondary port within 1 ms and holds TQ5. -/
  | primaryLinkFail
  /-- PPS_IN_EDGE (R33): A building 1PPS edge is accepted or rejected against the expected second, and any pending set-second step is applied. -/
  | ppsInEdge (at' : Stamp)
  /-- REF10M_QUALIFIED (R33): After 1 s within ±5 ppm, the 10 MHz input is qualified and the root synthesises its time clock from it. -/
  | ref10mQualified
  /-- PPS_DISQUALIFY (R33): After three seconds without an accepted edge, 1PPS is disqualified and the root enters holdover. -/
  | ppsDisqualify
  /-- STEER_EXPIRY (R35): Twice the declared steering interval after the last TIME_ADJUST, a software-steered root enters holdover. -/
  | steerExpiry
  /-- PPS_OUT_EDGE (R38): At each whole second of its time, a Tervon with pps_out_en set drives a rising edge on 1PPS out, unless its class is TQ0 or TQ7. -/
  | ppsOutEdge
  /-- TIME_CTL_WRITE (R440): A write to LF_TIME_CTL or TV_TIME_CTL is range-checked and held until the next exchange period boundary. -/
  | timeCtlWrite (who : Part) (by' : Requester) (fn : Nat) (v : DWord)
  /-- TIME_CTL_APPLY (R440): At the next exchange period boundary, a pending TIME_CTL change takes effect and carries the frequency estimate across a mode change. -/
  | timeCtlApply (who : Part)
  /-- PORT_LATENCY_MEASURE (R46): Every 10 ms, a leaf remeasures the latencies of the ports in use and updates its path constants. -/
  | portLatencyMeasure (lat : PortLatency)
  /-- RING_CALIBRATION_COMPLETE (R43): After the calibration exchanges end, the calibrating end forms S and ρ and writes the path constants to each leaf, or fails when |ρ| exceeds 4 ns. -/
  | ringCalibrationComplete (ring : Nat) (data : CalData)
  /-- CALIBRATION_RERUN (R45): After a lane change on one hop, the calibration reruns for that hop alone, within 40 ms. -/
  | calibrationRerun (ring : Nat) (hop : Nat) (data : CalData)
  /-- CAL_REPORT (R43): Tervon A receives end B's calibration measurements in a CAL_REPORT frame. -/
  | calReport (rx : Rx) (p : CalReportP)
  /-- SOFTWARE_PTP_TRANSMIT (R60): When a software PTP message is sent, its PMA transmit timestamp is queued, or dropped and counted when the queue is full. -/
  | softwarePtpTransmit (id : Half) (port : BitVec 2) (at' : Stamp)
  /-- SOFTWARE_PTP_RECEIVE (R60): A received software PTP message is delivered in a TIME_EVENT record on the physical function's record ring. -/
  | softwarePtpReceive (id : Half) (port : BitVec 2) (at' : Stamp)
  /-- PTP_TXQ_ENTRY_READ (R442): A read of TV_PTP_TXQ_ENTRY0 latches the oldest transmit timestamp entry into the four ENTRY registers. -/
  | ptpTxqEntryRead
  /-- PTP_TXQ_POP (R61): A write to TV_PTP_TXQ_POP removes the oldest entry when the latched copy shows it valid. -/
  | ptpTxqPop
  /-- APPOINT (R56): The APPOINT command stores an appointment in the Tervon or sends it to leaves, and completes with the appointment status. -/
  | appoint (job : JobRef)
  /-- APPOINT_FRAME (R158): A leaf receives an APPOINT frame, stores or refuses the appointment, and answers with REG_RSP carrying the status. -/
  | appointFrame (who : LeafId) (rx : Rx) (did : Did) (a : Appointment)
  /-- SNAPSHOT (R92): A SNAPSHOT appointment falls due; the leaf applies the too-soon test and toggles the freeze strobe for instant T. -/
  | snapshot (who : Part) (slot : Nat)
  /-- CELLAR_ENTER (R420): A CELLAR_ENTER appointment fires; the part latches wake phrases and starts preparing to enter Cellar. -/
  | cellarEnter (who : Part) (slot : Nat)
  /-- MODE_SWITCH (R340): A MODE_SWITCH appointment fires and sets fleet deterministic mode to its argument, counting the switch. -/
  | modeSwitch (who : Part) (slot : Nat)
  /-- SAMPLING_RATE (R300): A SAMPLING_RATE appointment fires and sets LF_ASSAY_RATE.pending and k_next. -/
  | samplingRate (who : Part) (slot : Nat)
  /-- LANE_RECAL (R130): A LANE_RECAL appointment fires; the named lane recalibrates, with traffic moved off it, or with the direction halted when no spare is usable. -/
  | laneRecal (who : Part) (slot : Nat)
  /-- LANE_RECAL_COMPLETE (R129): After at most 40 µs, the recalibrated lane becomes the spare and any halted direction resumes. -/
  | laneRecalComplete (port : PortId)
  /-- MARK (R55): A MARK appointment fires and inserts a marker record carrying its value. -/
  | mark (who : Part) (slot : Nat)
  /-- STATION_ENTRY_DRAIN (R67): The leaf drains a station queue entry and applies its delta to every counter bound to its source. -/
  | stationEntryDrain (who : LeafId) (stn : Nat)
  /-- STATION_FREEZE_EDGE (R93): At the first station clock edge that shows the strobe toggle, the station copies its pre-counters to a drain bank and toggles its acknowledge. -/
  | stationFreezeEdge (who : LeafId) (stn : Nat)
  /-- FREEZE_ACK_TIMESTAMP (R93): The leaf timestamps the toggle of stn_frz_ack and records the time of the station's freeze edge. -/
  | freezeAckTimestamp (who : LeafId) (stn : Nat) (at' : Stamp)
  /-- FREEZE_MARKER_APPLIED (R93): Once a station's freeze marker has been applied, the leaf freezes that station's counters and slot counters. -/
  | freezeMarkerApplied (who : LeafId) (stn : Nat)
  /-- HISTOGRAM_FREEZE (R94): Once every queued sample timed before T has been applied, histograms freeze and the extremes are reset. -/
  | histogramFreeze (who : LeafId)
  /-- STATION_STALL_TIMEOUT (R95): When no freeze marker has arrived from a station by T + 10 µs, the leaf freezes its applied values and marks the station stalled. -/
  | stationStallTimeout (who : LeafId) (stn : Nat)
  /-- SNAPSHOT_COMPLETE (R97): The snapshot completes: it takes a sequence number, enters the 4-snapshot store and starts its TALLY frames. -/
  | snapshotComplete (who : LeafId)
  /-- SNAP_ACK_WRITE (R98): The holder writes LF_SNAP_ACK, acknowledging the held snapshots at or before q and setting the reference. -/
  | snapAckWrite (who : LeafId) (by' : Requester) (did : Did) (q : Word)
  /-- SNAP_RESEND_WRITE (R98): The holder writes LF_SNAP_RESEND, and the leaf resends that snapshot's Tally or reports it absent. -/
  | snapResendWrite (who : LeafId) (by' : Requester) (did : Did) (q : Word)
  /-- SNAP_NOW_WRITE (R464): A REG_WR to LF_SNAP_NOW from the holder toggles the freeze strobe at once, and REG_RSP returns the sequence or the skip. -/
  | snapNowWrite (who : LeafId) (by' : Requester) (did : Did) (v : Word)
  /-- SNAPSHOT_NOW (R464): The SNAPSHOT_NOW command writes LF_SNAP_NOW at the leaf and completes DONE or TOO_SOON. -/
  | snapshotNow (job : JobRef)
  /-- VALUE_PORT_WRITE (R82): A write to a histogram value port holds a low word or submits a 64-bit sample. -/
  | valuePortWrite (who : LeafId) (id : BitVec 4) (hist : Byte) (data : WriteData)
  /-- HISTOGRAM_SAMPLE_APPLY (R85): The shared update unit takes a sample from its queue and bins it into its histogram. -/
  | histogramSampleApply (who : LeafId)
  /-- TIMING_START_EDGE (R83): A rising edge on a timing pair's start input opens the interval, or counts a fault when it is already open. -/
  | timingStartEdge (who : LeafId) (pair : BitVec 5) (at' : Stamp)
  /-- TIMING_STOP_EDGE (R83): A rising edge on a timing pair's stop input closes the interval and submits its length, or counts a fault. -/
  | timingStopEdge (who : LeafId) (pair : BitVec 5) (at' : Stamp)
  /-- THERMAL_READING (R463): At each whole millisecond of leaf time, each present site's thermal reading is taken and submitted to sensor histograms. -/
  | thermalReading (who : LeafId) (samples : List ThermalSample)
  /-- SUPPLY_MARGIN_READING (R463): At each 10 µs grid instant, each present site's supply and margin readings are taken and submitted. -/
  | supplyMarginReading (who : LeafId) (samples : List SupplySample)
  /-- DROOP_BEGIN (R88): The supply falls below the droop threshold; the droop count rises and the crossing is timestamped. -/
  | droopBegin (who : LeafId) (site : Nat) (at' : Stamp)
  /-- DROOP_END (R88): The supply rises above the threshold plus the hysteresis; the end is timestamped and the duration is submitted. -/
  | droopEnd (who : LeafId) (site : Nat) (at' : Stamp)
  /-- ALARM_EDGE (R89): An inactive-to-active edge of an alarm input raises a HEALTH record, unless the rate limiter is engaged. -/
  | alarmEdge (who : LeafId) (input : BitVec 4)
  /-- ALARM_RELEASE (R90): An active-to-inactive edge clears the stuck-active flag and re-arms the input. -/
  | alarmRelease (who : LeafId) (input : BitVec 5)
  /-- STUCK_ACTIVE_TIMEOUT (R90): After an input has stayed active for 10 ms, the leaf sets its stuck flag and raises one HEALTH record. -/
  | stuckActiveTimeout (who : LeafId) (input : BitVec 5)
  /-- CHATTER_RECORD_TIMER (R91): Each ms while the limiter is engaged, the leaf raises one CHATTER record with the suppressed edge count. -/
  | chatterRecordTimer (who : LeafId) (input : BitVec 5)
  /-- CHATTER_RELEASE (R91): After 1 ms without chatter, the limiter releases and a final CHATTER record is raised. -/
  | chatterRelease (who : LeafId) (input : BitVec 5)
  /-- HEARTBEAT_EDGE (R119): A heartbeat edge refreshes its timeout and arms it; a hung heartbeat is re-armed and HANG_CLEAR is raised. -/
  | heartbeatEdge (who : LeafId) (hb : BitVec 3)
  /-- HEARTBEAT_TIMEOUT (R119): An armed heartbeat passes tmo without refresh and is declared hung; HANG is raised. -/
  | heartbeatTimeout (who : LeafId) (hb : BitVec 3)
  /-- HB_CTL_WRITE (R119): A write to LF_HB_CTL enables or disarms hang detection, or restarts the count on a change of tmo. -/
  | hbCtlWrite (who : LeafId) (by' : Requester) (hb : BitVec 3) (data : WriteData)
  /-- BRANCH_RETIRE_CYCLE (R108): A valid trace-port cycle is checked and packed into entries, which are queued or discarded and counted when the queue is full. -/
  | branchRetireCycle (who : LeafId) (port : BitVec 3) (c : BranchCycle)
  /-- TRACE_ENTRY_ENCODE (R114): The encoder takes an entry and emits outcome, TARGET, EXCEPTION and SYNC packets into the port's share. -/
  | traceEntryEncode (who : LeafId) (port : BitVec 3)
  /-- TRACE_FLUSH_IDLE (R114): After 10 µs idle, the encoder flushes any open run and pending outcomes. -/
  | traceFlushIdle (who : LeafId) (port : BitVec 3)
  /-- SYNC_PERIODIC (R113): When 1 ms has passed since the last SYNC and content has retired, the encoder emits a SYNC. -/
  | syncPeriodic (who : LeafId) (port : BitVec 3)
  /-- TRACE_FRAME_CLOSE_TIMER (R115): 100 µs after its first packet, a TRACE frame is closed and queued. -/
  | traceFrameCloseTimer (who : LeafId) (port : BitVec 3)
  /-- TRC_CTL_WRITE (R114): A write to LF_TRC_CTL enables or disables ports, and a change of core_en flushes and redivides the trace buffer. -/
  | trcCtlWrite (who : LeafId) (by' : Requester) (v : Word)
  /-- DUMP_CMD_WRITE (R124): A write to LF_DUMP_CMD, or by REG_WR from the holder, queues a manual dump of a segment. -/
  | dumpCmdWrite (who : LeafId) (by' : Requester) (v : Word)
  /-- DUMP_WALK_START (R122): When no walk is running, the leaf starts walking the segment of the next queued dump request. -/
  | dumpWalkStart (who : LeafId)
  /-- DUMP_WALK_RESUME (R126): A paused walk resumes, or restarts from the first entry, once buffer room or a path to a holder returns. -/
  | dumpWalkResume (who : LeafId)
  /-- DUMP_READ_TIMEOUT (R123): An initiator read unanswered within rd_tmo is sent as zeros with status read timeout, and the walk goes on. -/
  | dumpReadTimeout (who : LeafId) (tag : BitVec 5)
  /-- SCAN_DONE (R122): lf_scan_done rises while a scan-dump trigger waits, and the walk continues. -/
  | scanDone (who : LeafId)
  /-- SCAN_DONE_TIMEOUT (R123): A scan-dump trigger whose done signal has not risen by scan_tmo counts as a failed entry. -/
  | scanDoneTimeout (who : LeafId)
  /-- LHP_INITIATOR_RESPONSE (R449): A response arrives on the host port initiator side and delivers dump, capture or fetch data, or an error. -/
  | lhpInitiatorResponse (who : LeafId) (tag : BitVec 5) (err : Bool) (last : Bool) (data : List Byte)
  /-- SPARE_LANE_ALIGNED (R129): The receiver finishes training and aligning the spare lane and sends LANE_READY. -/
  | spareLaneAligned (port : PortId)
  /-- LANE_READY (R129): The transmitter receives LANE_READY and sends LANE_SWAP on both lanes. -/
  | laneReady (port : PortId) (lane : Nat)
  /-- LANE_SWAP (R129): The receiver takes codewords from the new lane from the next codeword boundary. -/
  | laneSwap (port : PortId) (lane : Nat)
  /-- DAMAGED_FRAME (R133): A frame in an uncorrectable codeword, or with a bad CRC-32C, is discarded with every later frame, and one NAK is sent. -/
  | damagedFrame (port : PortId) (crcBad : Bool)
  /-- ACK (R132): An ACK control block releases the acknowledged frames from the replay buffer. -/
  | ack (port : PortId) (seq : BitVec 12)
  /-- NAK (R133): A NAK makes the transmitter replay every unacknowledged frame from the oldest, in order. -/
  | nak (port : PortId) (seq : BitVec 12)
  /-- ACK_TIMER (R132): The receiver sends an ACK at least every 1 µs. -/
  | ackTimer (port : PortId)
  /-- REPLAY_TIMEOUT (R133): After 4 µs without ACK progress, the transmitter replays, or retrains after 4 fruitless replays. -/
  | replayTimeout (port : PortId)
  /-- CREDIT (R135): A CREDIT block updates the cumulative credits of a class and the lane error counts. -/
  | credit (port : PortId) (cls : BitVec 2) (count : Half) (uncorrectable : Nat) (corrected : Nat)
  /-- CREDIT_ADVERTISE (R135): At least every 1 µs while its count changes, a receiving port advertises its cumulative credits. -/
  | creditAdvertise (port : PortId) (cls : BitVec 2)
  /-- CODEWORD_LOSS (R134): 20 µs without a correctly decoded codeword starts a retrain. -/
  | codewordLoss (port : PortId)
  /-- RETRAIN_COMPLETE (R134): Retraining trains a lane, and each side sends RESUME. -/
  | retrainComplete (port : PortId) (lane : Nat)
  /-- RESUME (R134): A RESUME makes the transmitter replay from the named sequence and reset its credits to the free space named. -/
  | resume (port : PortId) (seq : BitVec 12) (free : List Byte)
  /-- PORT_DOWN_TIMEOUT (R134): When retraining has not succeeded within 10 ms, the port is down: its buffers are discarded and a LOSS record is raised. -/
  | portDownTimeout (port : PortId)
  /-- TRAINING_RETRY (R134): A down port retries training every 100 ms. -/
  | trainingRetry (port : PortId) (ok : Bool) (lane : Nat)
  /-- LINK_TRAINED (R430): A port's link comes up, and discovery runs on its ring. -/
  | linkTrained (port : PortId)
  /-- PROBE (R430): A PROBE is echoed; a discovery PROBE also sets the leaf's position and length and is passed on along the ring. -/
  | probe (port : PortId) (id : Half) (len : Byte)
  /-- PROBE_ECHO (R43): A PROBE_ECHO completes a hop round-trip measurement, or a discovery outcome at a ring end. -/
  | probeEcho (port : PortId) (id : Half) (roundTrip : Nat)
  /-- FRAME_TRANSIT (R141): A leaf forwards a frame addressed beyond it, consumes a frame addressed to it, or discards it as misrouted. -/
  | frameTransit (port : PortId) (f : Frame)
  /-- FRAME_BOUNDARY_SCHEDULE (R166): At each frame boundary, the port picks and sends the next eligible frame by strict priority and deficit round robin. -/
  | frameBoundarySchedule (port : PortId)
  /-- SHAPER_REFILL (R166): At each refill period, tokens are added per class up to the depth, and pending budget writes take effect. -/
  | shaperRefill (port : PortId)
  /-- NOP_FRAME (R144): A NOP frame is received and ignored. -/
  | nopFrame (who : Part) (rx : Rx)
  /-- LEASE_ACQUIRE (R147): LEASE_REQ acquire is granted with a new epoch or refused, and LEASE_GRANT goes to both ends. -/
  | leaseAcquire (who : LeafId) (rx : Rx) (p : LeaseReqP)
  /-- LEASE_RENEW (R147): LEASE_REQ renew extends the expiry when the requester and epoch match, and is otherwise refused. -/
  | leaseRenew (who : LeafId) (rx : Rx) (p : LeaseReqP)
  /-- LEASE_RELEASE (R147): LEASE_REQ release from the holder with a matching epoch leaves the leaf with no holder. -/
  | leaseRelease (who : LeafId) (rx : Rx) (p : LeaseReqP)
  /-- LEASE_FENCE (R147): LEASE_REQ fence removes the holder at once and answers FENCED. -/
  | leaseFence (who : LeafId) (rx : Rx) (p : LeaseReqP)
  /-- LEASE_EXPIRY (R147): A lease passes its expiry on the leaf's time, and EXPIRED goes to both ends. -/
  | leaseExpiry (who : LeafId)
  /-- LEASE_GRANT (R361): A Tervon receives LEASE_GRANT; on GRANTED it starts the identity checks, and on a free result it schedules an acquire. -/
  | leaseGrant (rx : Rx) (p : LeaseGrantP)
  /-- ATTESTATION_CHECK (R361): When the signature is read or 10 ms pass, the new holder verifies it and compares the identity and counts, then assigns budgets or makes the position SUSPECT. -/
  | attestationCheck (ring : Nat) (pos : Nat) (answer : Option AttestAnswer)
  /-- TAKEOVER_DELAY_EXPIRY (R347): The non-preferred end sends acquire after takeover ms, unless a GRANTED has reached it meanwhile. -/
  | takeoverDelayExpiry (ring : Nat) (pos : Nat)
  /-- LEASE_RENEW_DUE (R348): At half the duration, the holder sends renew, and resends it every tmo until it is answered. -/
  | leaseRenewDue (ring : Nat) (pos : Nat)
  /-- LEASE_LOST_LOCAL (R348): At the grant's expiry without RENEWED, the Tervon treats the lease as lost. -/
  | leaseLostLocal (ring : Nat) (pos : Nat)
  /-- FENCE_HOLD_EXPIRY (R350): The fence hold-off ends, and the Tervon may acquire the leaf again. -/
  | fenceHoldExpiry (ring : Nat) (pos : Nat)
  /-- REG_RD (R156): A leaf performs a REG_RD and answers with REG_RSP. -/
  | regRd (who : LeafId) (rx : Rx) (did : Did) (off : Half) (count : Half)
  /-- REG_WR (R156): A leaf performs a plain REG_WR once under its write tags, or refuses it, and answers with REG_RSP. -/
  | regWr (who : LeafId) (rx : Rx) (did : Did) (off : Half) (count : Half) (data : List Byte)
  /-- LOCK_ACQUIRE (R394): A lock acquire, by REG_WR or LF_LOCK, makes the requester owner with an empty shadow bank, or answers LOCKED. -/
  | lockAcquire (who : LeafId) (by' : Requester) (did : Did)
  /-- LOCKED_WRITE (R394): The owner's write goes to the shadow bank. -/
  | lockedWrite (who : LeafId) (by' : Requester) (did : Did) (off : Half) (data : List Byte)
  /-- LOCK_COMMIT (R394): A commit checks the registers as they would stand and applies every shadow word in one cycle, or discards them, and frees the lock. -/
  | lockCommit (who : LeafId) (by' : Requester) (did : Did)
  /-- LOCK_ABANDON (R394): An abandon discards the shadow bank and frees the lock. -/
  | lockAbandon (who : LeafId) (by' : Requester) (did : Did)
  /-- LOCK_TIMEOUT (R395): 10 ms without an OK answer to an owning end's lock ops loses the lock, and LOCK_LOST is raised. -/
  | lockTimeout (who : LeafId)
  /-- REG_RSP (R159): A Tervon receives a REG_RSP and completes the request that issued it, or discards a late response. -/
  | regRsp (rx : Rx) (p : RegRspP)
  /-- RING_REQUEST_TIMEOUT (R159): A request unanswered within tmo is retried through the buddy, and fails when the retry also times out. -/
  | ringRequestTimeout (tag : Half) (leaf : Did)
  /-- SLEEPING (R163): A Tervon receives SLEEPING: state 0 keeps the refused frame queued, and state 1 resends the queued frames in order. -/
  | sleeping (rx : Rx) (p : SleepingP)
  /-- TALLY_FRAME (R149): A holder receives a TALLY frame of a snapshot's stream. -/
  | tallyFrame (rx : Rx) (h : TallyHdr) (bytes : List Byte)
  /-- HIST_FRAME (R151): A holder receives a HIST frame of bin changes. -/
  | histFrame (rx : Rx) (h : HistHdr) (bytes : List Byte)
  /-- TALLY_END_FRAME (R234): TALLY_END completes a Tally; the holder checks it, re-fetches it on failure, and otherwise updates the leaf image and applies or queues its samples. -/
  | tallyEndFrame (rx : Rx) (p : TallyEndP)
  /-- WATERMARK_LAG_EXPIRY (R235): When the Tervon's time reaches T plus lag, M advances to T. -/
  | watermarkLagExpiry (instant : Ns)
  /-- STREAM_AGING_SWEEP (R237): While the mode is off, the sweep visits each defined entry at least every 100 ms and evicts aged streams as STREAM_AGED. -/
  | streamAgingSweep
  /-- HEALTH_FRAME (R153): A holder receives HEALTH records and writes them to the record rings. -/
  | healthFrame (rx : Rx) (recs : List HealthRec)
  /-- TRACE_FRAME (R115): A holder receives a TRACE frame, checks the stream offset and stages it as TRACE_CHUNK, raising LOSS on a gap. -/
  | traceFrame (rx : Rx) (core : BitVec 3) (offset : Word) (bytes : List Byte)
  /-- TRACE_LOSS_FRAME (R117): A holder receives a TRACE_LOSS record and forwards it as TRACE_CHUNK. -/
  | traceLossFrame (rx : Rx) (bytes : List Byte)
  /-- DUMP_FRAME (R125): A holder stores a DUMP frame in the Larder, and raises DUMP_READY after the END frame. -/
  | dumpFrame (rx : Rx) (id : Word) (entry : Half) (kind : Byte) (status : Byte) (address : DWord) (bytes : List Byte)
  /-- CAPTURE_DESC (R310): A holder receives CAPTURE_DESC, chooses a partition and allocates a Larder buffer for the capture. -/
  | captureDesc (rx : Rx) (id : Word) (total : Word) (frames : Word) (hdr : List Byte)
  /-- CAPTURE_DATA (R312): A holder stores CAPTURE_DATA bytes, and marks the capture complete when all the announced bytes have arrived. -/
  | captureData (rx : Rx) (id : Word) (offset : Word) (bytes : List Byte)
  /-- CAPTURE_WINDOW_EXPIRY (R314): At the end of a capture's window, an incomplete capture, or one without a committed verdict, receives TIMEOUT. -/
  | captureWindowExpiry (did : Did) (id : Word)
  /-- BATCH_WAIT_EXPIRY (R312): A batch starts when its oldest capture has waited batch_wait. -/
  | batchWaitExpiry (partition : Nat) (model : Word) (digest : DWord)
  /-- RECOMPUTE_COMPLETE (R313): Recomputation ends, and the verdict for each capture is determined and committed. -/
  | recomputeComplete (did : Did) (id : Word)
  /-- RETAINED_FETCH_COMPLETE (R313): A retained-output fetch completes, and the element comparison fills the MISMATCH verdict. -/
  | retainedFetchComplete (did : Did) (id : Word)
  /-- VERDICT_FRAME (R319): A leaf receives a VERDICT, releases the capture, counts it and raises ASSAY records for the Ledger. -/
  | verdictFrame (who : LeafId) (rx : Rx) (did : Did) (capture : Word) (r : VerdictRec)
  /-- CAP_POST_WRITE (R303): A write to LF_CAP_POST accepts a capture post with the next capture ID, or refuses it. -/
  | capPostWrite (who : LeafId) (id : BitVec 4) (data : WriteData)
  /-- CAPTURE_PROCESS (R304): The leaf takes the next post, reads its header, and sends it skipped or pulls and sends its input. -/
  | captureProcess (who : LeafId)
  /-- CAPTURE_HOLD_EXPIRY (R307): hold ms after its post, a capture without a verdict is released. -/
  | captureHoldExpiry (who : LeafId) (id : Word)
  /-- CAP_FETCH_WRITE (R308): The holder's write to LF_CAP_FETCH makes the leaf pull a retained output and send it. -/
  | capFetchWrite (who : LeafId) (by' : Requester) (did : Did) (data : WriteData)
  /-- STEP_WRITE (R300): A write of LF_STEP applies a pending rate exponent and records the step. -/
  | stepWrite (who : LeafId) (by' : Requester) (data : WriteData)
  /-- ERR_RPT_WRITE (R189): A write to LF_ERR_RPT holds a low word or submits an error report, which becomes a health record. -/
  | errRptWrite (who : LeafId) (by' : Requester) (data : WriteData)
  /-- SPARE_TILE_BIST_COMPLETE (R364): The spare tile passes BIST, and its Kale entries are loaded, ready to map at the next epoch mark. -/
  | spareTileBistComplete (tile : Nat) (pass : Bool)
  /-- HEALTH_STORE_ADMIT (R188): As room appears, the health store takes records held by internal sources, in the order raised. -/
  | healthStoreAdmit (who : LeafId)
  /-- GUARDBAND_REQUEST_START (R195): When the port is free, the leaf drives the group, kind and value, and raises lf_gb_req. -/
  | guardbandRequestStart (who : LeafId)
  /-- GUARDBAND_ACK (R195): pc_gb_ack arrives; the leaf samples the result, lowers the request and raises GUARDBAND_STEP. -/
  | guardbandAck (who : LeafId) (res : BitVec 2)
  /-- GUARDBAND_ACK_LOW (R195): pc_gb_ack falls, and the port is free for the next request. -/
  | guardbandAckLow (who : LeafId)
  /-- GUARDBAND_TIMEOUT (R195): No acknowledge by tmo raises GUARDBAND_STEP with result 3, and the request is kept up. -/
  | guardbandTimeout (who : LeafId)
  /-- GUARDBAND_CONFLICT (R198): A conflict report sets fence requested on the group's stepped units and raises GUARDBAND_CONFLICT and FENCE_REQUEST. -/
  | guardbandConflict (who : LeafId) (group : Byte)
  /-- GUARDBAND_PORT_RESET (R196): The release of lf_gb_rst_n re-requests every group whose held step is above 0, in order. -/
  | guardbandPortReset (who : LeafId)
  /-- GB_ACCEPT_WRITE (R199): A confirmed write to LF_GB_ACCEPT commits ACCEPT_RISK, lowers the unit's step and re-requests its group. -/
  | gbAcceptWrite (who : LeafId) (by' : Requester) (data : WriteData)
  /-- PAGE_WRITE_START (R170): The sequencer starts a page write of pending Ledger changes to the copy without the highest generation. -/
  | pageWriteStart (who : LeafId)
  /-- PAGE_WRITE_COMPLETE (R182): A page write ends, and the read-back verifies it, releasing deferred records, or retires the page. -/
  | pageWriteComplete (who : LeafId) (verified : Bool)
  /-- VNV_SAG (R180): VNV falls below the start threshold, and programming pauses; below 1.60 V a chunk is torn. -/
  | vnvSag (who : LeafId) (below160 : Bool) (chunk : Nat)
  /-- VNV_RESUME (R180): VNV held above the resume threshold for 100 µs lets a paused page write resume. -/
  | vnvResume (who : LeafId)
  /-- OPERATING_TIME_TICK (R176): Each 1/64 hour, operating time rises and a header slot is written. -/
  | operatingTimeTick (who : LeafId)
  /-- LDG_READ_PAGE (R177): LF_LDG_CMD op read copies a physical page and its trailer into LF_LDG_BUF. -/
  | ldgReadPage (who : LeafId) (by' : Requester) (page : BitVec 12)
  /-- LDG_PROGRAM_PAGE (R177): LF_LDG_CMD op program writes LF_LDG_BUF to a page of the inactive image, or is refused. -/
  | ldgProgramPage (who : LeafId) (by' : Requester) (page : BitVec 12)
  /-- ATT_NONCE_WRITE (R202): The final word of LF_ATT_NONCE starts the ECDSA signature of the attestation message. -/
  | attNonceWrite (who : LeafId) (by' : Requester) (word : BitVec 4) (v : Word)
  /-- ATTESTATION_SIGNED (R202): The signature completes, and LF_ATT_STAT.done is set with r and s in LF_ATT_SIG. -/
  | attestationSigned (who : LeafId)
  /-- CV_START (R410): A write to LF_CV_START opens a context and increments alive. -/
  | cvStart (who : LeafId) (by' : Requester) (e : BitVec 2)
  /-- CV_FEED (R409): A write to LF_CV_FEED feeds 1, 2 or 4 bytes to an open context. -/
  | cvFeed (who : LeafId) (by' : Requester) (e : BitVec 2) (data : FeedData)
  /-- CV_RESULT_READ (R410): A read of LF_CV_RES returns the result and alive, and sets reread on later reads. -/
  | cvResultRead (who : LeafId) (by' : Requester) (e : BitVec 2)
  /-- CV_SAVE (R410): A read of LF_CV_VAL returns the running value and alive, to save the context. -/
  | cvSave (who : LeafId) (by' : Requester) (e : BitVec 2)
  /-- CV_RESTORE (R410): A write of LF_CV_VAL opens a context with the running value and alive as written. -/
  | cvRestore (who : LeafId) (by' : Requester) (e : BitVec 2) (v : DWord) (alive : Byte)
  /-- CV_CTL_WRITE (R410): A write to LF_CV_CTL selects the polynomial and closes any open context. -/
  | cvCtlWrite (who : LeafId) (by' : Requester) (e : BitVec 2) (v : Word)
  /-- SEQ_RESTART_CURRENT (R427): LF_SEQ_CTL.restart 0b01 restarts the sequencer on its current image. -/
  | seqRestartCurrent (who : LeafId) (by' : Requester)
  /-- SEQ_RESTART_OTHER (R427): LF_SEQ_CTL.restart 0b10 restarts the sequencer on the other image. -/
  | seqRestartOther (who : LeafId) (by' : Requester)
  /-- SEQUENCER_WATCHDOG (R426): The watchdog expires at 100 ms and restarts the sequencer, on the other image when within 1 s of boot. -/
  | sequencerWatchdog (who : LeafId)
  /-- SEQUENCER_BOOT (R427): The sequencer boots the valid image with the higher version, writes the header and checks the identity copy. -/
  | sequencerBoot (who : LeafId)
  /-- LOW_WORD_READ (R73): A read of a 64-bit value's low word latches its upper word for the requester. -/
  | lowWordRead (target : RegTarget)
  /-- REGISTER_WRITE (R436): A write to a register without a row of its own is checked and takes effect, or is ignored and counted. -/
  | registerWrite (target : RegTarget) (data : WriteData)
  /-- WAKE_PHRASE (R164): The phrase detector accepts 8 WAKE bursts that name its position; the leaf wakes 25 µs later, and in service the phrase is counted. -/
  | wakePhrase (who : LeafId)
  /-- CELLAR_COMMIT (R420): Once any page write has ended, leaf Cellar entry commits: frames are answered SLEEPING, the lock is lost, and lf_cellar rises 3 µs later. -/
  | cellarCommit (who : LeafId)
  /-- LEAF_WAKE_START (R422): The leaf lowers lf_cellar to begin waking. -/
  | leafWakeStart (who : LeafId)
  /-- HD_LC_GOOD (R422): hd_lc_good rises while waking, and the leaf core clocks start and state is restored. -/
  | hdLcGood (who : LeafId)
  /-- LEAF_WAKE_COMPLETE (R422): The leaf completes wake, sends SLEEPING state 1 to both ends, resumes its work, and counts a late wake. -/
  | leafWakeComplete (who : LeafId)
  /-- TERVON_CELLAR_JOB_TIMEOUT (R425): 100 ms after the firing, remaining jobs are aborted, and the Tervon finishes entering Cellar. -/
  | tervonCellarJobTimeout
  /-- PWR_WAKE_WRITE (R418): A write of TV_PWR_CTL.wake makes a Tervon in Cellar leave it. -/
  | pwrWakeWrite (fn : Nat) (v : DWord)
  /-- WAKE_AT_REACHED (R418): The Tervon's time reaches TV_PWR_WAKE_AT while in Cellar, and it leaves Cellar. -/
  | wakeAtReached
  /-- TERVON_WAKE (R425): The Tervon resumes within 1.5 ms, restores credits, refetches its rings, and sends wake phrases to sleeping leaves. -/
  | tervonWake
  /-- VDD_LC_LOSS (R423): VDD_LC falls below its service threshold outside Cellar, and the leaf takes a core reset. -/
  | vddLcLoss (who : LeafId)
  /-- RETENTION_LOSS (R424): VDD_LC falls below its Cellar threshold, so a core reset follows at wake. -/
  | retentionLoss (who : LeafId)
  /-- LEAF_COLD_RESET (R426): A VDD_AO power-on or brown-out, or lf_rst_n, clears the leaf except its fuses and Ledger. -/
  | leafColdReset (who : LeafId) (cause : ColdCause) (failedCounters : List Nat)
  /-- LEAF_CORE_RESET (R426): lf_core_rst_n clears the counters, stores and sequencer, and raises loss records for lost health records and folds. -/
  | leafCoreReset (who : LeafId)
  /-- HOST_PORT_RESET (R449): lhp_rst_n clears the requester latches and held words, drops target requests and fails initiator requests. -/
  | hostPortReset (who : LeafId)
  /-- STATION_RESET (R451): stn_rst_n clears a station's pre-counters and queue. -/
  | stationReset (who : LeafId) (stn : Nat)
  /-- TRACE_PORT_RESET (R451): brt_rst_n resets a trace port, and content while it is low is not traced. -/
  | tracePortReset (who : LeafId) (port : BitVec 3)
  /-- TERVON_COLD_RESET (R428): A power-good fall, a brown-out or a thermal trip clears the Tervon except its fuses and NOR. -/
  | tervonColdReset (cause : TvColdCause)
  /-- TERVON_WARM_RESET (R428): PERST# with power-good held resets time, partitions, leases and set-up, and keeps HBM in self-refresh. -/
  | tervonWarmReset
  /-- MCTP_RESET_REQUEST (R428): An MCTP reset request causes a warm reset. -/
  | mctpResetRequest
  /-- TERVON_BOOT_READY (R431): Boot, HBM training, BIST and the Tinker map complete, and the Tervon accepts set-up writes. -/
  | tervonBootReady (failedTiles : List Nat)
  /-- SETUP_COMMIT (R435): TV_SETUP_CMD.commit checks the Tervon set-up and commits it, or reports the first failing check. -/
  | setupCommit (v : Word)
  /-- STEWARD_RESTART (R428): A steward declared hung restarts after its dump ends or after 100 ms, and its duties resume. -/
  | stewardRestart (n : BitVec 2)
  /-- FUNCTION_LEVEL_RESET (R392): An FLR abandons the function's locks, discards its jobs and disables its rings within 100 ms. -/
  | functionLevelReset (fn : Nat)
  /-- BUS_MASTER_DISABLE (R391): Clearing Bus Master Enable stops the function's rings and memory requests. -/
  | busMasterDisable (fn : Nat)
  /-- COMMAND_DOORBELL (R376): A command ring doorbell moves the producer index, or stops the ring with BAD_DOORBELL. -/
  | commandDoorbell (fn : Nat) (ring : Nat) (w : Word)
  /-- COMPLETION_DOORBELL (R376): A completion ring doorbell moves the consumer index. -/
  | completionDoorbell (fn : Nat) (w : Word)
  /-- RECORD_DOORBELL (R26): A record ring doorbell frees entries, and a LOSS record is written first when records were dropped. -/
  | recordDoorbell (fn : Nat) (w : Word)
  /-- DESCRIPTOR_FETCH (R381): A descriptor read completes; the Tervon checks it, reserves a completion and starts it, or stops the ring on a read error. -/
  | descriptorFetch (fn : Nat) (ring : Nat) (r : FetchResult)
  /-- MSIX_COALESCE_EXPIRY (R373): At the end of a coalescing interval, a pending MSI-X message is sent. -/
  | msixCoalesceExpiry (fn : Nat) (vector : Nat)
  /-- RING_EN_WRITE (R445): Writing en enables a ring with its indexes at 0, or disables it. -/
  | ringEnWrite (fn : Nat) (ring : Nat) (en : Bool)
  /-- RING_ARM (R377): Writing arm resumes a STOPPED ring when Bus Master Enable is set. -/
  | ringArm (fn : Nat) (ring : Nat)
  /-- NOP (R382): The NOP command completes DONE. -/
  | nop (job : JobRef)
  /-- LEAF_CFG_APPLY (R386): The Tervon applies a leaf configuration image by acquire, locked writes and commit, or abandons it. -/
  | leafCfgApply (job : JobRef) (input : HostData)
  /-- LEAF_REG_READ (R382): The Tervon reads leaf registers by REG_RD and returns the data. -/
  | leafRegRead (job : JobRef)
  /-- LEAF_REG_WRITE (R382): The Tervon writes leaf registers by REG_WR with the given lock op. -/
  | leafRegWrite (job : JobRef) (input : HostData)
  /-- STREAM_DEFINE (R225): Op 0 binds a stream index to a key and a parameter set. -/
  | streamDefine (job : JobRef)
  /-- STREAM_REMOVE (R242): Op 1 emits the entry as STREAM_AGED with cause removed and frees it. -/
  | streamRemove (job : JobRef)
  /-- STREAM_RESTORE (R242): Op 2 loads a checkpoint copy into a defined entry and adds 1 to gaps. -/
  | streamRestore (job : JobRef) (input : HostData)
  /-- STREAM_QUERY (R240): The command returns a stream entry and may clear its crossed bits. -/
  | streamQuery (job : JobRef)
  /-- CHECKPOINT (R241): The command copies each owned defined entry in a range as a STREAM_AGED record, pacing on ring room. -/
  | checkpoint (job : JobRef)
  /-- REDUCE_DEFINE (R243): Op 0 defines a pod reduction and returns its digest. -/
  | reduceDefine (job : JobRef)
  /-- REDUCE_REMOVE (R243): Op 1 removes a reduction definition. -/
  | reduceRemove (job : JobRef)
  /-- REDUCE_LOCAL_WAIT_EXPIRY (R246): At T + local_wait, the Tervon forms its local contribution from the Tallies it holds. -/
  | reduceLocalWaitExpiry (instant : Ns)
  /-- REDUCE_PART_DEADLINE (R248): At its deadline, a Tervon sends its partial upward and leaves out missing children. -/
  | reducePartDeadline (instant : Ns)
  /-- REDUCE_PART (R248): A partial from a child is combined, or discarded as late or for a digest mismatch. -/
  | reducePart (rx : Rx) (p : ReduceP)
  /-- REDUCE_RESULT (R248): A reduction result is forwarded to the children, handed to Gleaner and written as TALLY_SUMMARY by the report Tervon. -/
  | reduceResult (rx : Rx) (p : ReduceP)
  /-- REDUCE_RESULT_LOST (R249): With no result by the bound, the result is counted lost, and the report Tervon writes LOSS. -/
  | reduceResultLost (instant : Ns)
  /-- ROUTED (R250): A ROUTED frame is delivered at its destination, or sent on by the port order with its hop limit decremented. -/
  | routed (rx : Rx) (dx : BitVec 3) (dy : BitVec 3) (sx : BitVec 3) (sy : BitVec 3) (hop : Byte) (h : Hdr) (body : List Byte)
  /-- EARLY_WAIT_EXPIRY (R268): At T + early_wait, a die whose Tally is incomplete gets a STRAGGLER_SUSPECT call. -/
  | earlyWaitExpiry (cls : Nat) (instant : Ns)
  /-- CLOSE_EXPIRY (R268): At T + close, an outstanding suspect is confirmed as STRAGGLER, silent. -/
  | closeExpiry (cls : Nat) (instant : Ns)
  /-- KALE_LOAD (R285): The command verifies an ensemble image and places it resident or streamed. -/
  | kaleLoad (job : JobRef) (input : HostData)
  /-- KALE_UNLOAD (R285): Op 1 unloads an ensemble. -/
  | kaleUnload (job : JobRef)
  /-- KALE_SCORE (R291): The command scores samples on the ensemble's tiles in the selected form and returns the score results. -/
  | kaleScore (job : JobRef) (input : HostData)
  /-- KALE_WINDOW_LOADED (R287): A streamed window's load completes, and the tile searches the batch against it while loading the other window. -/
  | kaleWindowLoaded (tile : Nat)
  /-- KALE_PLACEMENT_COMPLETE (R286): A re-placement of an ensemble after a tile loss or removal completes. -/
  | kalePlacementComplete (fn : Nat) (ens : Half)
  /-- KALE_SCRUB_COMPARE (R416): Each 256 tile cycles, a tile compares one associative entry with its golden copy and rewrites it when it differs. -/
  | kaleScrubCompare (tile : Nat)
  /-- ASSAY_MODEL_LOAD (R309): The command loads a model image into a partition's store. -/
  | assayModelLoad (job : JobRef) (input : HostData)
  /-- ASSAY_MODEL_UNLOAD (R309): A load of length 0 unloads the named model key. -/
  | assayModelUnload (job : JobRef)
  /-- ASSAY_POLICY (R311): The command sets a partition's, or the physical function's, assay policy. -/
  | assayPolicy (job : JobRef)
  /-- ASSAY_SUBMIT (R313): The command runs the assay steps on a supplied capture and writes the verdict to the output buffer only. -/
  | assaySubmit (job : JobRef) (input : HostData)
  /-- COOPER_COMPRESS (R404): The command compresses and self-verifies on one Cooper engine. -/
  | cooperCompress (job : JobRef) (input : HostData)
  /-- COOPER_DECOMPRESS (R406): The command decompresses and verifies the end checks, or reports DECODE_ERROR. -/
  | cooperDecompress (job : JobRef) (input : HostData)
  /-- DUMP_FETCH (R401): The command returns dump bytes, then drops the hold or frees the buffer as its bits say. -/
  | dumpFetch (job : JobRef)
  /-- LEDGER_READ (R382): The command reads Ledger pages with their trailers from a leaf. -/
  | ledgerRead (job : JobRef)
  /-- ROSTER_ADMIT_GIVEN (R363): Op 0 admits a position with the identity given, writes its route entry, and has the holder write LF_DID. -/
  | rosterAdmitGiven (job : JobRef) (input : HostData)
  /-- ROSTER_ADMIT_OBSERVED (R363): Op 1 admits a position with the identity from its last attestation. -/
  | rosterAdmitObserved (job : JobRef)
  /-- ROSTER_FENCE (R350): Op 2 fences a leaf directly, or through the buddy, and starts the fence hold-off. -/
  | rosterFence (job : JobRef)
  /-- ROSTER_RETIRE (R363): The command empties a position, invalidates its route entry and clears LF_DID. -/
  | rosterRetire (job : JobRef)
  /-- PARTITION_COMMIT (R216): The command checks and commits a partition's new resources. -/
  | partitionCommit (job : JobRef) (input : HostData)
  /-- PARTITION_DRAIN_TIMEOUT (R217): 100 ms after a commit, jobs on removed tiles are aborted and the tiles are cleared. -/
  | partitionDrainTimeout (partition : Nat)
  /-- TILE_CLEAR_COMPLETE (R207): A moved or freed tile finishes clearing its SRAM and Kale memory. -/
  | tileClearComplete (tile : Nat)
  /-- TIME_ADJUST_SET_SECOND (R34): Op 0 sets the root's TAI second, by step at once or at the next accepted 1PPS edge, or is refused. -/
  | timeAdjustSetSecond (job : JobRef)
  /-- TIME_ADJUST_STEER (R35): Op 1 applies the offset and frequency by slew and declares the class. -/
  | timeAdjustSteer (job : JobRef)
  /-- TIME_ADJUST_SEND_PTP (R60): Op 2 sends a software PTP message unaltered on a peer port. -/
  | timeAdjustSendPtp (job : JobRef) (input : HostData)
  /-- ABORT (R385): The command aborts a named job when it can, and completes after its target. -/
  | abort (job : JobRef)
  /-- MIRROR_PERIOD (R353): Each mirror period, the holder sends every changed lease, leaf-image and stream item in MIRROR frames. -/
  | mirrorPeriod
  /-- MIRROR (R353): The buddy applies the mirrored items and answers MIRROR_ACK. -/
  | mirror (rx : Rx) (seq : Word) (items : List MirrorItem)
  /-- MIRROR_ACK (R354): The sender learns the highest mirror sequence applied. -/
  | mirrorAck (rx : Rx) (seq : Word) (discarded : Word)
  /-- MIRROR_LAG_LIMIT (R355): Mirror lag beyond lag_lim marks the Tervon unmirrored. -/
  | mirrorLagLimit
  /-- BUDDY_STATE_PERIOD (R357): Every 100 µs, the Tervon sends BUDDY_STATE. -/
  | buddyStatePeriod
  /-- BUDDY_STATE (R355): The buddy's state is received, and the unmirrored condition may clear with a full resend. -/
  | buddyState (rx : Rx) (p : BuddyStateP)
  /-- BUDDY_STATE_ABSENT (R355): BUDDY_STATE absent for 1 ms marks the Tervon unmirrored. -/
  | buddyStateAbsent
  /-- BUDDY_SILENT (R358): No frame from the buddy for 1 ms raises ROSTER_EVENT BUDDY_SILENT. -/
  | buddySilent
  /-- STATE_LOAD (R368): A replacement Tervon stores one section chunk of bulk state. -/
  | stateLoad (rx : Rx) (sect : Byte) (offset : Word) (data : List Byte)
  /-- STATE_DONE (R368): The end of a bulk load is checked by CRC-32C, and the load restarts on a mismatch. -/
  | stateDone (rx : Rx) (bitmap : Word) (total : DWord) (crc : Word)
  /-- ROSTER_SILENT_TIMEOUT (R362): An ADMITTED position without a frame for silent ms raises ROSTER_CONFLICT ADMITTED_SILENT. -/
  | rosterSilentTimeout (ring : Nat) (pos : Nat)
  /-- WARM_ROSTER_HBM_UPDATE (R369): Within 1 ms of a roster change, the warm roster area in HBM is updated. -/
  | warmRosterHbmUpdate
  /-- WARM_ROSTER_NOR_UPDATE (R369): Within 1 s of a change, the alternate NOR copy is written with a commit trailer. -/
  | warmRosterNorUpdate
  /-- LARDER_FREE_RING_REFILL (R399): The Larder moves 128 indexes between a pool's free ring and its cache when the cache leaves its bounds. -/
  | larderFreeRingRefill (pool : Nat)
  /-- SRAM_PATROL_SCRUB (R416): Patrol scrub reads each SRAM word every 10 minutes and corrects or reports it. -/
  | sramPatrolScrub (r : ScrubRead)
  /-- HBM_PATROL_SCRUB (R416): Patrol scrub reads each HBM unit every hour and corrects or reports it. -/
  | hbmPatrolScrub (addr : Nat)
  /-- HBM_ROW_REPAIR_COMPLETE (R366): The repair ends, the data is written back, and the row is recorded for hard repair. -/
  | hbmRowRepairComplete (stack : Nat) (channel : Nat) (row : Nat)
  /-- ECC_TEST_READ (R417): TV_ECC_TEST op 0 reads raw data and check bits without correction. -/
  | eccTestRead (fn : Nat) (v : DWord)
  /-- ECC_TEST_WRITE (R417): TV_ECC_TEST op 1 stores data and check byte exactly as given. -/
  | eccTestWrite (fn : Nat) (v : DWord)
  /-- REF10M_DISQUALIFY (R33): The building 10 MHz input leaves its qualification, and the root enters holdover. -/
  | ref10mDisqualify
  /-- STATION_CLOCK_EDGE (R64): At each rising edge of stn_clk, a station samples its event lines and slot states into its pre-counters, adds overflow to LF_STN_OVF, and writes at most one queue entry. -/
  | stationClockEdge (who : LeafId) (stn : Nat) (lines : DWord) (slotVld : Bool) (slots : Half)
  /-- CAPTURE_PULL_TIMEOUT (R304): A capture or retained-output pull read left unanswered past its timeout abandons the capture, and the failure is counted. -/
  | capturePullTimeout (who : LeafId)
  /-- CONFLICT_REQUEST_LOW (R195): The power controller lowers pc_cf_req, and the leaf lowers lf_cf_ack to close the four-phase conflict handshake. -/
  | conflictRequestLow (who : LeafId)
  /-- HOST_PORT_RESET_RELEASE (R449): lhp_rst_n is released, and the leaf waits 16 lhp_clk cycles before raising any valid on the host port. -/
  | hostPortResetRelease (who : LeafId)
  /-- WAKE_BURST (R164): A burst of WAKE control blocks naming another position reaches a leaf between sender and target, which forwards it at the same spacing. -/
  | wakeBurst (port : PortId) (target : BitVec 4) (burst : BitVec 3)
  /-- UNKNOWN_CONTROL_BLOCK (R131): A control block with an unlisted type byte arrives and is discarded and counted per port. -/
  | unknownControlBlock (port : PortId) (type : Byte)
  /-- MALFORMED_FRAME (R140): A frame that passes CRC-32C but is malformed, such as one of a reserved type, is acknowledged, discarded and counted per port. -/
  | malformedFrame (port : PortId) (h : Hdr) (received : Nat)
  deriving DecidableEq, Repr

end Sys2Proof
end

