-- ==== Sys2Proof/Config.lean ====
section
/-! DEFINITION. What an implementation or a published standard fixes and the spec does not state, as constants without a
body: no proof can see their values, so every statement holds for all of them. -/

namespace Sys2Proof

/-- FREE VALUE. R47 to R49 hold an offset to 2^-16 ns and do not state how a mean that falls between two multiples is
rounded: whether update number `n` rounds up (log entry 6). -/
opaque Config.roundUp : Nat → Bool

/-- Deterministic ECDSA on P-384 with SHA-384 (R202, FIPS 186-5): the 96 bytes of r and s for a private key and a message.
The standard is cited, not stated, by the spec (log entry 10). -/
opaque Config.ecdsaSign : List Byte → List Byte → List Byte

/-- Verification of such a signature with a public key (R361; log entry 10). -/
opaque Config.ecdsaVerify : List Byte → List Byte → List Byte → Bool

/-- The compressed stream of a format (R404: 0 DEFLATE, 1 zlib, 2 gzip, 3 Zstandard), a level and a block size. The formats
are published standards that the spec cites and does not state, and an encoder's choices are its own (log entry 10). -/
opaque Config.compress : Nat → Nat → Nat → List Byte → List Byte

/-- Decoding of a stream (R406; format 4 is LZ4): the data, or the offset of the first error (log entry 10). -/
opaque Config.decompress : Nat → List Byte → Except Nat (List Byte)

/-- FREE VALUE. Whether a stream of a format that does not decode failed at its end check value, R322's code 2, and not before (log entry 10). -/
opaque Config.endCheckFails : Nat → List Byte → Bool

/-- FREE VALUE. The byte offset that goes with a stream of a format that decodes to another length than the one declared (R322, log entry 49). -/
opaque Config.lengthError : Nat → List Byte → Nat → Nat

/-- FREE VALUE. The bytes that a decoder had put out when it met the error of a stream (R406; log entry 10). -/
opaque Config.decodedBefore : Nat → List Byte → Nat

/-- FREE VALUE. The Cooper engine that a job runs on (R403 gives a round-robin over functions and not the engine; log entry 53), by the job's
function and descriptor index. -/
opaque Config.cooperEngine : Nat → Nat → Nat

/-- The Cooper format, 0 to 3, in which the Tervon compresses trace chunks (R400 and R126 leave it open; log entry 54). -/
opaque Config.traceFormat : Nat

/-- FREE VALUE. The bytes of a Ledger chunk whose program a falling VNV interrupted (R172: indeterminate), by a running
number and the byte's place (log entry 11). -/
opaque Config.tornByte : Nat → Nat → Byte

/-- FREE VALUE. The bytes of a retained output that a fetch pulls: R301 and R308 give the place of the output and not its length (log
entry 18). -/
opaque Config.retainedLength : Nat → Nat

/-- The frequency of lhp_clk in MHz, which the integrator chooses from 500 to 2,000 (R447; log entry 14). -/
opaque Config.lhpClock : Nat

/-- lhp_clk in MHz, within R447's range whatever the integrator's choice. -/
def Config.lhpMHz : Nat := 500 + Config.lhpClock % 1501

/-- FREE VALUE. The bytes of a nonce that a lease holder writes (R202 asks only that it is fresh), by a running number and the byte's place (log
entry 33). -/
opaque Config.nonceByte : Nat → Nat → Byte

/-- FREE VALUE. The budgets that a Tervon assigns to a leaf: R167 bounds their sum and leaves the division open (log entry 34). -/
opaque Config.budget : Nat → Nat → Nat

/-- FREE VALUE. The coordinate of a Tervon's buddy on the torus, by its own coordinate, which no register of the spec gives (log entry 31). -/
opaque Config.buddyPlace : Nat → Nat → Nat × Nat

/-- FREE VALUE. The bytes of the warm roster image over which R369 takes its digest: its contents are stated, and not their layout (log entry
35). The arguments are the roster entries, the route entries and the path constants. -/
opaque Config.warmImage : List (Nat × List Byte) → List (Nat × DWord) → List (Nat × List (Int × Int)) → List Byte

/-- The rows that the post-package repair resources of a pseudo-channel can replace (R366: the stack's own; log entry 42), by stack and
channel. -/
opaque Config.repairRows : Nat → Nat → Nat

/-- FREE VALUE. The shift of a histogram (R79) as Gleaner knows it: R258 uses it and no frame carries it (log entry 46). -/
opaque Config.histShift : Nat → Nat

/-- FREE VALUE. The path constants by ring that the calibration section of a bulk load spells (R357 and R368 name the section and give it no layout;
log entry 57). -/
opaque Config.bulkConsts : List Byte → List (Nat × List (Int × Int))

/-- FREE VALUE. The items that the leaf image section of a bulk load spells, as DID, section, item, value, instant and sequence (R357 and R368 name
the section and give it no layout; log entry 57). -/
opaque Config.bulkImages : List Byte → List (BitVec 24 × BitVec 8 × BitVec 16 × BitVec 96 × BitVec 64 × BitVec 32)

/-- FREE VALUE. The residence time that a forwarding leaf finds for a time frame (R142: a fixed latency that is not stated), by a running number (log
entry 63). -/
opaque Config.residence : Nat → DWord

/-- FREE VALUE. The reading, in 1/16 °C, of the thermal sensor nearest a Tervon's port (R40; the spec does not say which site that is), by a running
number (log entry 63). -/
opaque Config.portTemp : Nat → Int

end Sys2Proof
end

