-- ==== Sys2Proof/Machine/Cells.lean ====
section
/-! DEFINITION. Sparse tables as plain data in one canonical form (keys strictly rising, no entry equal to what an
unlisted key reads as), a value per traffic class, and the list helpers that the machine shares. -/

namespace Sys2Proof.Machine

/-- A sparse table: pairs of a key and a value. -/
abbrev Cells (α : Type) := List (Nat × α)

/-- What key `k` reads as; an unlisted key reads as `d`. -/
def Cells.get {α : Type} (d : α) : Cells α → Nat → α
  | [], _ => d
  | (k', v) :: r, k => if k' = k then v else Cells.get d r k

/-- List `v` at key `k`, in key order. -/
def Cells.insert {α : Type} : Cells α → Nat → α → Cells α
  | [], k, v => [(k, v)]
  | (k', v') :: r, k, v =>
    if k < k' then (k, v) :: (k', v') :: r
    else if k = k' then (k, v) :: r
    else (k', v') :: Cells.insert r k v

/-- Take key `k` out. -/
def Cells.erase {α : Type} : Cells α → Nat → Cells α
  | [], _ => []
  | (k', v') :: r, k => if k' = k then r else (k', v') :: Cells.erase r k

/-- Make key `k` read as `v`; a key that reads as the default is not listed. -/
def Cells.set {α : Type} [DecidableEq α] (d : α) (m : Cells α) (k : Nat) (v : α) : Cells α :=
  if v = d then Cells.erase m k else Cells.insert m k v

/-- Apply `f` at key `k`. -/
def Cells.modify {α : Type} [DecidableEq α] (d : α) (m : Cells α) (k : Nat) (f : α → α) : Cells α :=
  Cells.set d m k (f (Cells.get d m k))

/-- Every listed key is above `lo`, keys rise strictly, and no listed value is the default. -/
def Cells.wfFrom {α : Type} [DecidableEq α] (d : α) : Option Nat → Cells α → Bool
  | _, [] => true
  | lo, (k, v) :: r =>
    (match lo with
      | none => true
      | some l => decide (l < k)) && decide (v ≠ d) && Cells.wfFrom d (some k) r

/-- The canonical form. -/
def Cells.wf {α : Type} [DecidableEq α] (d : α) (m : Cells α) : Bool := Cells.wfFrom d none m

/-- The keys listed. -/
def Cells.keys {α : Type} (m : Cells α) : List Nat := m.map Prod.fst

/-- Drop every key that satisfies `p`. -/
def Cells.dropKeys {α : Type} (p : Nat → Bool) (m : Cells α) : Cells α := m.filter fun e => !p e.1

/-- One value per class of R165. -/
structure Quad (α : Type) where
  c0 : α
  c1 : α
  c2 : α
  c3 : α
  deriving DecidableEq, Repr

/-- The same value for every class. -/
def Quad.all {α : Type} (v : α) : Quad α := ⟨v, v, v, v⟩

/-- The value of class `c`. -/
def Quad.get {α : Type} (q : Quad α) (c : Nat) : α :=
  match c with
  | 0 => q.c0
  | 1 => q.c1
  | 2 => q.c2
  | _ => q.c3

/-- `q` with class `c` at `v`. -/
def Quad.set {α : Type} (q : Quad α) (c : Nat) (v : α) : Quad α :=
  match c with
  | 0 => { q with c0 := v }
  | 1 => { q with c1 := v }
  | 2 => { q with c2 := v }
  | _ => { q with c3 := v }

/-- Replace the entry at position `i` of a list. -/
def setAt {α : Type} : List α → Nat → α → List α
  | [], _, _ => []
  | _ :: r, 0, v => v :: r
  | x :: r, i + 1, v => x :: setAt r i v

/-- Replace the bytes from position `i` on by `bs`, as far as they fit. -/
def setBytes {α : Type} (m : List α) (i : Nat) : List α → List α
  | [] => m
  | b :: r => setBytes (setAt m i b) (i + 1) r

end Sys2Proof.Machine
end

