-- ==== Sys2Proof/Machine/Bytes.lean ====
section
/-! DEFINITION. Bytes: little-endian fields (R2), slices, LEB128, CRC-32C (R138), saturating counts (R27), and the wire
forms of the Elzor header and of every payload whose layout "The Elzor ring" gives. -/

namespace Sys2Proof.Machine

/-- `n` bytes of `v`, little-endian (R2). -/
def le : Nat → Nat → List Byte
  | 0, _ => []
  | n + 1, v => BitVec.ofNat 8 v :: le n (v / 256)

/-- `n` bytes of `v`, big-endian (R202). -/
def be (n v : Nat) : List Byte := (le n v).reverse

/-- The number that bytes spell, little-endian (R2). -/
def fromLe : List Byte → Nat
  | [] => 0
  | b :: r => b.toNat + 256 * fromLe r

/-- `n` bytes from offset `o`; bytes beyond the end are absent. -/
def slice {α : Type} (bs : List α) (o n : Nat) : List α := (bs.drop o).take n

/-- The little-endian field of `n` bytes at offset `o`. -/
def field (bs : List Byte) (o n : Nat) : Nat := fromLe (slice bs o n)

/-- `n` zero bytes. -/
def zeros (n : Nat) : List Byte := List.replicate n 0

/-- The first `n` bytes, zeros after the end. -/
def padTo (n : Nat) (bs : List Byte) : List Byte := bs.take n ++ zeros (n - bs.length)

/-- Cut a list into pieces of `n` (the fuel bounds the number of pieces). -/
def chunksFuel {α : Type} (n : Nat) : Nat → List α → List (List α)
  | 0, _ => []
  | _, [] => []
  | f + 1, l => l.take n :: chunksFuel n f (l.drop n)

/-- Cut a list into pieces of `n`, the last one shorter. -/
def chunks {α : Type} (n : Nat) (l : List α) : List (List α) := chunksFuel n (l.length + 1) l

/-- The two's complement of an integer in `n` bits. -/
def intBits (n : Nat) (v : Int) : Nat := (BitVec.ofInt n v).toNat

/-- One bit of a reflected CRC. -/
def crcBit {w : Nat} (poly crc : BitVec w) : BitVec w :=
  if crc.getLsbD 0 then (crc >>> 1) ^^^ poly else crc >>> 1

/-- One byte of a reflected CRC. -/
def crcByte {w : Nat} (poly crc : BitVec w) (b : Byte) : BitVec w :=
  crcBit poly (crcBit poly (crcBit poly (crcBit poly (crcBit poly (crcBit poly (crcBit poly (crcBit poly
    (crc ^^^ b.setWidth w))))))))

/-- CRC-32C over bytes (R138): reflected polynomial 0x1EDC_6F41, initial value and final XOR 0xFFFF_FFFF. -/
def crc32c (bs : List Byte) : Word := (bs.foldl (crcByte 0x82F63B78#32) 0xFFFFFFFF#32) ^^^ 0xFFFFFFFF#32

/-- One bit of CRC-16, most significant bit first (R408). -/
def crc16Bit (crc : Half) : Half := if crc.getLsbD 15 then (crc <<< 1) ^^^ 0x1021#16 else crc <<< 1

/-- One byte of CRC-16 (R408). -/
def crc16Byte (crc : Half) (b : Byte) : Half :=
  crc16Bit (crc16Bit (crc16Bit (crc16Bit (crc16Bit (crc16Bit (crc16Bit (crc16Bit (crc ^^^ (b.setWidth 16 <<< 8)))))))))

/-- CRC-16 over bytes (R408): polynomial 0x1021, not reflected, initial value 0xFFFF, no final XOR. -/
def crc16 (bs : List Byte) : Half := bs.foldl crc16Byte 0xFFFF

/-- CRC-64/XZ over bytes (R302, R408). -/
def crc64 (bs : List Byte) : DWord :=
  (bs.foldl (crcByte 0xC96C5795D7870F42#64) 0xFFFFFFFFFFFFFFFF#64) ^^^ 0xFFFFFFFFFFFFFFFF#64

/-- CRC-32 over bytes (R408). -/
def crc32 (bs : List Byte) : Word := (bs.foldl (crcByte 0xEDB88320#32) 0xFFFFFFFF#32) ^^^ 0xFFFFFFFF#32

/-- A 32-bit saturating count (R27) after `n` more. -/
def satAdd32 (c : Word) (n : Nat) : Word := if c.toNat + n ≥ 0xFFFFFFFF then 0xFFFFFFFF else BitVec.ofNat 32 (c.toNat + n)

/-- A count of 16 bits that saturates at 0xFFFF. -/
def satAdd16 (c : Half) (n : Nat) : Half := if c.toNat + n ≥ 0xFFFF then 0xFFFF else BitVec.ofNat 16 (c.toNat + n)

/-- A count of 8 bits that saturates at 255. -/
def satAdd8 (c : Byte) (n : Nat) : Byte := if c.toNat + n ≥ 255 then 255 else BitVec.ofNat 8 (c.toNat + n)

/-- Saturate a number at `m`. -/
def satAt (m v : Nat) : Nat := if v ≥ m then m else v

/-- Serial-number order on 32-bit counts (R460): `a` is before `b`. -/
def serialLt (a b : Word) : Bool := decide (a ≠ b) && decide ((b - a).toNat < 0x80000000)

/-- Serial-number order: before or equal. -/
def serialLe (a b : Word) : Bool := decide (a = b) || serialLt a b

/-- Unsigned LEB128 of a number below 2^(7 n). -/
def leb128 : Nat → Nat → List Byte
  | 0, _ => []
  | n + 1, v => if v < 128 then [BitVec.ofNat 8 v] else BitVec.ofNat 8 (v % 128 + 128) :: leb128 n (v / 128)

/-- Read one unsigned LEB128 value of at most `n` bytes: the value and the bytes left. -/
def unleb128 : Nat → List Byte → Option (Nat × List Byte)
  | 0, _ => none
  | _, [] => none
  | n + 1, b :: r =>
    if b.toNat < 128 then some (b.toNat, r)
    else match unleb128 n r with
      | some (v, r') => some (b.toNat - 128 + 128 * v, r')
      | none => none

/-- Bit `i` of a number. -/
def bit (v i : Nat) : Bool := v.testBit i

/-- Bits [hi:lo] of a number. -/
def bits (v hi lo : Nat) : Nat := v / 2 ^ lo % 2 ^ (hi + 1 - lo)

/-- A Bool as a number. -/
def b2n (b : Bool) : Nat := if b then 1 else 0

/-- 32 bits from a number. -/
def w32 (n : Nat) : Word := BitVec.ofNat 32 n

/-- 64 bits from a number. -/
def w64 (n : Nat) : DWord := BitVec.ofNat 64 n

/-- The header as one 128-bit value (R137). -/
def Hdr.value (h : Hdr) : BitVec 128 :=
  h.type.setWidth 128 ||| (h.cls.setWidth 128 <<< 6) ||| (h.dst.setWidth 128 <<< 8) ||| (h.src.setWidth 128 <<< 12)
    ||| (h.length.setWidth 128 <<< 16) ||| (h.linkSeq.setWidth 128 <<< 28) ||| (h.alive.setWidth 128 <<< 40)
    ||| (h.epoch.setWidth 128 <<< 48) ||| (h.tag.setWidth 128 <<< 64) ||| (h.flags.setWidth 128 <<< 80)
    ||| (h.srcDid.setWidth 128 <<< 88)

/-- The 16 header bytes (R137). -/
def Hdr.bytes (h : Hdr) : List Byte := le 16 (Hdr.value h).toNat

/-- A health record without its check (R185). -/
def HealthRec.body (r : HealthRec) : List Byte :=
  le 8 r.time.toNat ++ le 3 r.did.toNat ++ [r.cls] ++ le 2 r.unit.toNat ++ le 2 r.op.toNat ++ le 2 r.temp.toNat
    ++ le 2 r.volt.toNat ++ le 4 r.step.toNat ++ [r.quality] ++ le 3 r.detail.toNat

/-- The 32 bytes of a health record (R185). -/
def HealthRec.bytes (r : HealthRec) : List Byte := HealthRec.body r ++ le 4 (crc32c (HealthRec.body r)).toNat

/-- The health record that 32 bytes spell; none when the check fails (R185). -/
def HealthRec.parse (bs : List Byte) : Option HealthRec :=
  if bs.length = 32 && decide (field bs 28 4 = (crc32c (bs.take 28)).toNat) then
    some { time := BitVec.ofNat 64 (field bs 0 8), did := BitVec.ofNat 24 (field bs 8 3), cls := BitVec.ofNat 8 (field bs 11 1),
           unit := BitVec.ofNat 16 (field bs 12 2), op := BitVec.ofNat 16 (field bs 14 2), temp := BitVec.ofNat 16 (field bs 16 2),
           volt := BitVec.ofNat 16 (field bs 18 2), step := BitVec.ofNat 32 (field bs 20 4),
           quality := BitVec.ofNat 8 (field bs 24 1), detail := BitVec.ofNat 24 (field bs 25 3) }
  else none

/-- The 60 bytes of a verdict record before its check (R316). -/
def VerdictRec.body (r : VerdictRec) : List Byte :=
  [r.verdict, r.reason, r.flags, r.quality] ++ le 2 r.checkpoint.toNat ++ le 2 r.operation.toNat ++ le 2 r.unit.toNat
    ++ le 2 r.stage.toNat ++ le 4 r.capture.toNat ++ le 8 r.step.toNat ++ le 4 r.firstElem.toNat ++ le 4 r.differing.toNat
    ++ le 4 r.ulp.toNat ++ le 4 r.modelId.toNat ++ le 8 r.modelDig.toNat ++ le 8 r.time.toNat ++ le 3 r.did.toNat ++ [0]

/-- The 24 bytes of the appointment structure (R55). -/
def Appointment.bytes (a : Appointment) : List Byte :=
  le 8 a.instant.toNat ++ [a.action, a.flags, a.slot, 0] ++ le 4 a.period.toNat ++ le 2 a.count.toNat ++ le 6 a.argument.toNat

/-- The appointment that 24 bytes spell (R55); byte 11 is reserved. -/
def Appointment.parse (bs : List Byte) : Appointment :=
  { instant := BitVec.ofNat 64 (field bs 0 8), action := BitVec.ofNat 8 (field bs 8 1), flags := BitVec.ofNat 8 (field bs 9 1),
    slot := BitVec.ofNat 8 (field bs 10 1), period := BitVec.ofNat 32 (field bs 12 4), count := BitVec.ofNat 16 (field bs 16 2),
    argument := BitVec.ofNat 48 (field bs 18 6) }

/-- A reduction payload (R253). -/
def ReduceP.bytes (p : ReduceP) : List Byte :=
  le 8 p.instant.toNat ++ [p.id, p.flags] ++ le 2 0 ++ le 4 p.digest.toNat ++ le 2 p.leavesIn.toNat ++ le 2 p.leavesOut.toNat
    ++ [p.tvIn, p.tvOut] ++ le 2 0 ++ p.elems

/-- A stamp as ns then fraction (R145). -/
def Stamp.bytes (t : Stamp) : List Byte := le 8 t.ns.toNat ++ le 2 t.frac.toNat

/-- A mirror item of 72 bytes (R357). -/
def MirrorItem.bytes : MirrorItem → List Byte
  | .stream idx e => [1] ++ le 3 idx.toNat ++ zeros 4 ++ padTo 64 e
  | .image did sect item v inst seq => [2] ++ le 3 did.toNat ++ [sect] ++ le 2 item.toNat ++ [0] ++ le 12 v.toNat
      ++ le 8 inst.toNat ++ le 4 seq.toNat ++ zeros 40
  | .lease did ep ex => [3] ++ le 3 did.toNat ++ [0] ++ le 2 ep.toNat ++ [0] ++ le 8 ex.toNat ++ zeros 56

/-- The payload bytes of a frame, without the bytes of a nested frame's own header (R145 to R158, R163). -/
def Payload.bytes : Payload → List Byte
  | .timeSync p => le 8 p.origin.toNat ++ le 2 p.seq.toNat ++ [p.tq.setWidth 8, p.hop] ++ zeros 20
  | .timeFollow p => Stamp.bytes p.t1 ++ le 2 p.seq.toNat ++ le 8 p.corr.toNat ++ le 2 p.a0.toNat ++ zeros 10
  | .delayReq p => le 2 p.seq.toNat ++ zeros 6 ++ le 8 p.corr.toNat
  | .delayResp p => Stamp.bytes p.t4 ++ le 2 p.seq.toNat ++ [p.pos, p.tq.setWidth 8] ++ zeros 2 ++ le 8 p.corr.toNat
      ++ le 3 p.did.toNat ++ zeros 5
  | .leaseReq p => [p.op, 0] ++ le 2 p.duration.toNat ++ le 2 p.epoch.toNat ++ zeros 2 ++ le 3 p.did.toNat ++ zeros 5
  | .leaseGrant p => [p.result, p.holder] ++ le 2 p.epoch.toNat ++ le 2 p.duration.toNat ++ [p.position, p.ringLen]
      ++ le 8 p.expiry.toNat ++ le 8 p.serial.toNat ++ le 3 p.did.toNat ++ [p.tq.setWidth 8] ++ zeros 4
  | .tally h bs => le 4 h.seq.toNat ++ [h.kind, h.flags] ++ le 2 h.index.toNat ++ le 4 h.offset.toNat ++ le 4 h.refSeq.toNat
      ++ bs ++ zeros (16 - bs.length)
  | .tallyEnd p => le 4 p.seq.toNat ++ [p.kind, p.flags] ++ le 2 p.tallyFrames.toNat ++ le 8 p.instant.toNat
      ++ [p.tq.setWidth 8, 0] ++ le 2 p.histFrames.toNat ++ le 4 p.streamBytes.toNat ++ le 4 p.streamCrc.toNat
      ++ le 4 p.overrun.toNat ++ le 4 p.tooSoon.toNat ++ le 4 p.refSeq.toNat ++ zeros 8
  | .hist h bs => le 4 h.seq.toNat ++ [h.histogram, BitVec.ofNat 8 (b2n h.absolute)] ++ zeros 2 ++ bs
  | .health rs => rs.flatMap HealthRec.bytes
  | .trace core off bs => [core.setWidth 8, 0] ++ zeros 2 ++ le 4 off.toNat ++ bs
  | .traceLoss bs => bs
  | .dump id entry kind status addr bs => le 4 id.toNat ++ le 2 entry.toNat ++ [kind, status] ++ le 8 addr.toNat ++ bs
  | .captureDesc id total frames h => le 4 id.toNat ++ le 4 total.toNat ++ le 4 frames.toNat ++ zeros 4 ++ h
  | .captureData id off bs => le 4 id.toNat ++ le 4 off.toNat ++ bs
  | .verdict did cap r => le 3 did.toNat ++ [0] ++ le 4 cap.toNat ++ VerdictRec.body r ++ le 4 (crc32c (VerdictRec.body r)).toNat
  | .regRd did off cnt => le 3 did.toNat ++ [0] ++ le 2 off.toNat ++ le 2 cnt.toNat
  | .regWr did op off cnt d => le 3 did.toNat ++ [op] ++ le 2 off.toNat ++ le 2 cnt.toNat ++ d
  | .regRsp p => [p.status, BitVec.ofNat 8 (b2n p.duplicate)] ++ le 2 p.data.length ++ p.data
  | .appoint did a => le 3 did.toNat ++ [0] ++ Appointment.bytes a
  | .sleeping p => [p.state, p.refType] ++ le 2 p.refTag.toNat ++ zeros 4 ++ le 8 p.time.toNat
  | .nop bs => bs
  | .routed dx dy sx sy hop h body => [dx.setWidth 8, dy.setWidth 8, sx.setWidth 8, sy.setWidth 8, hop] ++ zeros 3
      ++ Hdr.bytes h ++ body ++ le 4 (crc32c (Hdr.bytes h ++ body)).toNat
  | .reducePart p => ReduceP.bytes p
  | .reduceResult p => ReduceP.bytes p
  | .mirror seq items => le 4 seq.toNat ++ le 2 items.length ++ zeros 2 ++ items.flatMap MirrorItem.bytes
  | .mirrorAck seq d => le 4 seq.toNat ++ le 4 d.toNat
  | .buddyState p => le 8 p.time.toNat ++ le 3 p.did.toNat ++ [p.flags] ++ le 4 p.lastSent.toNat ++ le 4 p.lastApp.toNat
      ++ le 8 p.leases.toNat ++ zeros 4
  | .calReport p => [p.ring, p.leaves] ++ zeros 2 ++ le 4 p.exchanges.toNat ++ le 8 p.ownOffset.toNat ++ le 8 p.channel.toNat
      ++ padTo 64 (p.thetaB.flatMap (fun v => le 8 v.toNat))
  | .stateLoad sect off d => [sect] ++ zeros 3 ++ le 4 off.toNat ++ d
  | .stateDone bm total crc => le 4 bm.toNat ++ le 8 total.toNat ++ le 4 crc.toNat

/-- Payload bytes of a frame. -/
def Payload.len (p : Payload) : Nat := (Payload.bytes p).length

/-- The trailer of a frame (R138). -/
def Frame.trailer (f : Frame) : Word := crc32c (Hdr.bytes f.hdr ++ Payload.bytes f.pay)

end Sys2Proof.Machine
end

