-- ==== Sys2Proof/Machine/Out.lean ====
section
/-! DEFINITION. What crosses a part's boundary outwards: control blocks, frames, host port and PCIe transfers and pins. The
model keeps them as a log in each part, newest first (log entry 4). -/

namespace Sys2Proof.Machine

/-- A control block that a port sends (table "Elzor control blocks"). -/
inductive CtlBlk where
  | ack (seq : BitVec 12)
  | nak (seq : BitVec 12)
  | credit (cls : BitVec 2) (count : Half) (uncorrectable corrected : Nat)
  | resume (seq : BitVec 12) (free : List Byte)
  | laneSwap (lane : Nat)
  | laneReady (lane : Nat)
  | probe (id : Half) (len : Byte)
  | probeEcho (id : Half)
  | wake (pos : BitVec 4) (burst : BitVec 3)
  deriving DecidableEq, Repr

/-- One thing that a part put out. -/
inductive Out where
  /-- An answer on the leaf host port's target side (R448). -/
  | rsp (err : Bool) (data : DWord)
  /-- A read request on the initiator side (R447). -/
  | initRead (tag : Nat) (addr : DWord) (len : Nat)
  /-- A 32-bit write on the initiator side (R122). -/
  | initWrite (tag : Nat) (addr : DWord) (data : Word)
  /-- A control block on a port's lane. -/
  | ctl (port : PortId) (b : CtlBlk)
  /-- A frame on a port's active lane. -/
  | tx (port : PortId) (replay : Bool) (f : Frame)
  /-- The guardband port drives group, kind and value, and raises lf_gb_req (R195). -/
  | gbRequest (group : Byte) (kind : Bool) (val : BitVec 5)
  /-- A rising edge on 1PPS out at a whole second (R38). -/
  | pps (second : Nat)
  /-- A software PTP message on a peer port (R60). -/
  | ptp (port : Nat) (bytes : List Byte)
  /-- A memory write to host memory; poisoned when a byte carries the mark (R393). -/
  | hostWrite (fn : Nat) (addr : Nat) (bytes : List Byte) (poisoned : Bool)
  /-- The contents of an output buffer are undefined (R379, R385; log entry 12). -/
  | hostUndefined (fn : Nat) (addr : Nat) (len : Nat)
  /-- A memory read of host memory (R381). -/
  | hostRead (fn : Nat) (addr : Nat) (len : Nat)
  /-- An MSI-X message (R373). -/
  | msix (fn : Nat) (vector : Nat)
  /-- The answer to a BAR read (R371). -/
  | barRead (fn : Nat) (off : Nat) (data : DWord)
  /-- The marker record of a MARK appointment (R55): its value, the instant and the class. The spec gives it no layout (log entry 30). -/
  | marker (value : Word) (instant : Ns) (tq : BitVec 4)
  /-- A non-fatal error through AER (R393). -/
  | aer (fn : Nat)
  deriving DecidableEq, Repr

end Sys2Proof.Machine
end

