-- ==== Sys2Proof/Machine/LeafState.lean ====
section
/-! DEFINITION. The state of a leaf, and of the parts that a leaf and a Tervon share, as plain data: one structure per group of registers, with its value at reset. -/

namespace Sys2Proof.Machine

/-- One source of time exchanges: an upstream peer port of a Tervon, or a ring end of a leaf (R48). -/
structure Source where
  /-- Filtered path delay, ns; none: holds no value (02 R48). -/
  filt : Option Rat
  /-- Sequence identifier of the next TIME_DELAY_REQ sent to the source (05 R145). -/
  seq : Half
  /-- Sequence identifier of the next TIME_SYNC sent on the port (05 R145). -/
  txSeq : Half
  /-- The last TIME_SYNC, its receive time t2 and the residence this leaf adds (05 R142). -/
  sync : Option (TimeSyncP × Stamp × Nat)
  /-- The TIME_FOLLOW of that TIME_SYNC (05 R145). -/
  follow : Option TimeFollowP
  /-- Departure time of the outstanding TIME_DELAY_REQ (02 R462). -/
  t3 : Option Stamp
  /-- Its sequence identifier (05 R145). -/
  reqSeq : Half
  /-- The exchange in progress was hit by a replay, a codeword or a retrain (05 R136). -/
  hit : Bool
  /-- Latest corrected offset from the source, ns (02 R47). -/
  offset : Option Rat
  /-- Own time at which that exchange completed, ns (02 R47). -/
  offsetAt : Nat
  /-- Class carried by the last accepted exchange (02 R32). -/
  cls : BitVec 4
  /-- Hop count of the last accepted exchange (02 R39). -/
  hop : Byte
  /-- Exchanges discarded and counted (02 R48). -/
  discarded : Word
  /-- A hop-count rejection was reported and no exchange accepted since (02 R39). -/
  hopRejected : Bool
  /-- Consecutive exchanges accepted within the class bound (02 R39). -/
  goodRun : Nat
  deriving DecidableEq, Repr

/-- `Source` at reset. -/
def Source.reset : Source where
  filt := none
  seq := 0
  txSeq := 0
  sync := none
  follow := none
  t3 := none
  reqSeq := 0
  hit := false
  offset := none
  offsetAt := 0
  cls := 0
  hop := 0
  discarded := 0
  hopRejected := false
  goodRun := 0

/-- The root's inputs and steering (R33 to R37). -/
structure RootTime where
  /-- The 10 MHz input is qualified (02 R33). -/
  ref10M : Bool
  /-- 1PPS is qualified (02 R33). -/
  pps : Bool
  /-- Own time of the last accepted edge, ns (02 R33). -/
  lastPps : Nat
  /-- Edges outside the window (02 R33). -/
  ppsRejected : Word
  /-- TAI second that waits for the next accepted edge (02 R34). -/
  second : Option DWord
  /-- A steer that came before the step: offset ns, frequency ppm, class, interval ms (02 R37). -/
  kept : Option (Rat × Option Rat × BitVec 4 × Nat)
  /-- Class that the last TIME_ADJUST declared (02 R35). -/
  steerCls : Option (BitVec 4)
  /-- Own time at which the declared class ends, ns (02 R35). -/
  steerUntil : Nat
  deriving DecidableEq, Repr

/-- `RootTime` at reset. -/
def RootTime.reset : RootTime where
  ref10M := false
  pps := false
  lastPps := 0
  ppsRejected := 0
  second := none
  kept := none
  steerCls := none
  steerUntil := 0

/-- A part's time domain: Caerpol time and its servo. -/
structure TimeDom where
  /-- Ns count in bits [103:40], 40 fraction bits below (02 R28, R461). -/
  now : BitVec 104
  /-- TIME_CTL in force: mode, kp_shift, ki_shift, limit, src, pps_out_en, primary, secondary, tau_slew (17 TIME_CTL). -/
  ctl : DWord
  /-- A TIME_CTL change that waits for the exchange period boundary (17 R440). -/
  ctlNext : Option DWord
  /-- The exchange period in which the waiting change was written (17 R440). -/
  ctlAt : Nat
  /-- The time has been set since the reset of the domain (02 R32). -/
  everSet : Bool
  /-- Time valid (02 R49). -/
  valid : Bool
  /-- Consecutive offsets below valid_bound (02 R49). -/
  good : Nat
  /-- The rate last set (02 R49, R50). -/
  rate : Rat
  /-- The integral term (02 R49). -/
  integ : Rat
  /-- The frequency term of slew mode (02 R50). -/
  base : Rat
  /-- Offset still to slew, ns (02 R50). -/
  pending : Rat
  /-- Updates whose rate was at the limit (02 R49). -/
  saturations : Word
  /-- Latest filtered offset, 2^-16 ns (17 TV_TIME_OFS). -/
  theta : Int
  /-- Own time at which holdover began, ns (02 R52). -/
  holdover : Option Nat
  /-- Holdover has lasted 1 s (02 R52). -/
  holdLong : Bool
  /-- Own time of the last accepted exchange, ns (02 R52). -/
  lastAccept : Nat
  /-- Class taken from the accepted exchanges (02 R32). -/
  srcCls : BitVec 4
  /-- Holds a current calibration (02 R32, R43). -/
  calibrated : Bool
  /-- Hop whose calibration reruns (02 R45). -/
  rerunHop : Option Nat
  /-- Consecutive pairs whose corrected offsets differ by more than 1.5 ns (02 R47). -/
  disagree : Nat
  /-- Exchange sources: ring ends 14 and 15 on a leaf, peer ports 0 to 3 on a Tervon (02 R48). -/
  sources : Cells Source
  /-- The Tervon steers from its secondary port (02 R39). -/
  steerSecondary : Bool
  /-- The last exchange period boundary acted on, own ns / 125,000 (02 R462). -/
  lastPeriod : Nat
  /-- The last whole microsecond acted on (02 R50). -/
  lastMicro : Nat
  /-- The last whole second driven on 1PPS out (02 R38). -/
  lastPpsOut : Nat
  /-- The root's inputs (02 R33). -/
  root : RootTime
  deriving DecidableEq, Repr

/-- `TimeDom` at reset. -/
def TimeDom.reset : TimeDom where
  now := 0
  ctl := 0x000003E800802906
  ctlNext := none
  ctlAt := 0
  everSet := false
  valid := false
  good := 0
  rate := 0
  integ := 0
  base := 0
  pending := 0
  saturations := 0
  theta := 0
  holdover := none
  holdLong := false
  lastAccept := 0
  srcCls := 0
  calibrated := false
  rerunHop := none
  disagree := 0
  sources := []
  steerSecondary := false
  lastPeriod := 0
  lastMicro := 0
  lastPpsOut := 0
  root := RootTime.reset

/-- An appointment slot (R55, R437 LF_APPT). -/
structure Slot where
  /-- The structure as accepted; none when free (02 R55). -/
  appt : Option Appointment
  /-- Firings of the content, saturating (17 R437). -/
  firings : Word
  /-- Skips under R59, saturating (17 R437). -/
  skips : Word
  /-- Firings and skips since the content was stored: the n of R59 (02 R59). -/
  fired : Nat
  deriving DecidableEq, Repr

/-- `Slot` at reset. -/
def Slot.reset : Slot where
  appt := none
  firings := 0
  skips := 0
  fired := 0

/-- LF_DET_STAT and TV_DET_STAT (R344). -/
structure DetStat where
  /-- Fleet deterministic mode (12 R340). -/
  det : Bool
  /-- MODE_SWITCH firings (12 R344). -/
  switches : Word
  /-- Time of the last firing (12 R344). -/
  since : Ns
  /-- The mode before the last firing that changed it (12 R341). -/
  prev : Bool
  /-- Instant of the last firing that changed the mode (12 R341). -/
  start : Ns
  deriving DecidableEq, Repr

/-- `DetStat` at reset. -/
def DetStat.reset : DetStat where
  det := false
  switches := 0
  since := 0
  prev := false
  start := 0

/-- A lane move in progress at a transmitter (R129). -/
structure LaneMove where
  /-- Lane that traffic leaves (05 R129). -/
  source : Nat
  /-- Lane that traffic moves to (05 R129). -/
  target : Nat
  /-- The move serves a LANE_RECAL (05 R129). -/
  recal : Bool
  deriving DecidableEq, Repr

/-- `LaneMove` at reset. -/
def LaneMove.reset : LaneMove where
  source := 0
  target := 0
  recal := false

/-- One Elzor port of either part. -/
structure LinkPort where
  /-- 0 down, 1 training, 2 up, 3 disabled (17 R437, R441). -/
  link : BitVec 2
  /-- Lanes per direction (05 R128). -/
  lanes : Nat
  /-- Spare transmit lane; the others are active (05 R127). -/
  txSpare : Nat
  /-- Spare receive lane (05 R127). -/
  rxSpare : Nat
  /-- Retired lanes: neither active nor spare (13 R364). -/
  retired : List Nat
  /-- Lane move in progress (05 R129). -/
  move : Option LaneMove
  /-- Lane being recalibrated (05 R130). -/
  recal : Option Nat
  /-- The direction is halted by a recalibration (05 R130). -/
  halted : Bool
  /-- Lanes left by moves of the last second and own times, ns, newest first (13 R364). -/
  moveTimes : List (Nat × Nat)
  /-- Training failures in succession per lane (13 R364). -/
  trainFails : Cells Nat
  /-- Swap_thr (17 LF_LANE_CTL). -/
  laneCtl : Word
  /-- Link sequence of the next new frame (05 R132). -/
  txSeq : BitVec 12
  /-- Replay buffer: unacknowledged frames, oldest first (05 R132). -/
  replay : List Frame
  /-- Consecutive replays without ACK progress (05 R134). -/
  fruitless : Nat
  /-- Own time of the last ACK progress, ns (05 R133). -/
  lastProgress : Nat
  /-- Link sequence expected (05 R132). -/
  rxSeq : BitVec 12
  /-- A NAK is outstanding (05 R133). -/
  nakSent : Bool
  /-- Frames accepted since the last ACK (05 R132). -/
  sinceAck : Nat
  /-- Own time of the last ACK sent, ns (05 R132). -/
  lastAck : Nat
  /-- Own time at which the retrain in progress began (05 R134). -/
  retrain : Option Nat
  /-- RESUME was exchanged and its frames have not yet progressed (05 R134). -/
  resumed : Bool
  /-- Own time of the first failed codeword of the failure in progress, ns (05 R134). -/
  failedAt : Nat
  /-- Own time at which the port last failed or retried, ns (05 R134). -/
  downAt : Nat
  /-- Receive buffer per class, credits (05 R135). -/
  bufs : Quad Nat
  /-- Uncorrectable codewords received since the last CREDIT (05 R129). -/
  uncorr : Nat
  /-- Cumulative credits advertised to this transmitter, per class (05 R135). -/
  credTx : Quad Half
  /-- Cumulative credits used, per class (05 R135). -/
  credUsed : Quad Half
  /-- Cumulative credits this receiver grants, per class (05 R135). -/
  credRx : Quad Half
  /-- Cumulative credits last advertised, per class (05 R135). -/
  credSent : Quad Half
  /-- Class 1 to 3 credits are withheld in Cellar (16 R425). -/
  withheld : Bool
  /-- Class 3 credits are withheld for a dump that has no buffer (15 R400). -/
  withheld3 : Bool
  /-- Credits not granted while withheld (15 R400). -/
  heldCredits : Quad Half
  /-- Frames in transit waiting for this output, per class (05 R141). -/
  transit : Quad (List Frame)
  /-- Transmit buffer: own frames, per class (05 R130). -/
  own : Quad (List Frame)
  /-- Deficits of classes 1 to 3 (05 R166). -/
  deficit : Quad Nat
  /-- Shaper tokens; a full bucket (05 R166). -/
  tokens : Quad Int
  /-- Rate [15:0] and depth [31:16] in force per class (05 LF_RING_SHP). -/
  shp : Quad Word
  /-- The values written, which take effect at the refill (05 R167). -/
  shpNext : Quad Word
  /-- Ovh 20, refill 4 (05 LF_RING_SHP_CTL). -/
  shpCtl : Word
  /-- The value written (05 R167). -/
  shpCtlNext : Word
  /-- Quanta in force (05 LF_RING_DRR). -/
  drr : Word
  /-- Quanta written; from the first round after the refill (05 R167). -/
  drrNext : Word
  /-- A refill has passed since the quanta were written (05 R167). -/
  drrArmed : Bool
  /-- Class of the round in progress (05 R166). -/
  rrClass : Nat
  /-- Its quantum has been added (05 R166). -/
  rrAdded : Bool
  /-- Own time of the last refill, units of 250 ns (05 R166). -/
  lastRefill : Nat
  /-- Alive counter per destination and class (key 4 dst + class) (05 R139). -/
  aliveTx : Cells Byte
  /-- Destinations and classes that have had their first frame after reset (05 R139). -/
  aliveSent : List Nat
  /-- Alive expected per source and class (05 R139). -/
  aliveRx : Cells (Option Byte)
  /-- Gap count per source and class (05 R139). -/
  gapSrc : Cells Word
  /-- Malformed frames (05 R140, 17 TV_PORT_CNT). -/
  malformed : Word
  /-- Frames with a bad CRC-32C (17 TV_PORT_CNT). -/
  badCrc : Word
  /-- Control blocks discarded (05 R131). -/
  ctlDiscarded : Word
  /-- Frames misrouted (05 R141). -/
  misrouted : Word
  /-- Frames of a non-holder discarded (05 R144). -/
  refusedNonHolder : Word
  /-- Stale alive (05 R139). -/
  stale : Word
  /-- Alive gap (05 R139). -/
  aliveGap : Word
  /-- Replays (17 TV_PORT_CNT). -/
  replays : Word
  /-- Frames discarded at port down (05 R134). -/
  downDiscards : Word
  /-- A frame has arrived since reset (05 R139). -/
  seen : Bool
  deriving DecidableEq, Repr

/-- `LinkPort` at reset. -/
def LinkPort.reset : LinkPort where
  link := 0
  lanes := 2
  txSpare := 1
  rxSpare := 1
  retired := []
  move := none
  recal := none
  halted := false
  moveTimes := []
  trainFails := []
  laneCtl := 65536
  txSeq := 0
  replay := []
  fruitless := 0
  lastProgress := 0
  rxSeq := 0
  nakSent := false
  sinceAck := 0
  lastAck := 0
  retrain := none
  resumed := false
  failedAt := 0
  downAt := 0
  bufs := ⟨64, 128, 128, 128⟩
  uncorr := 0
  credTx := Quad.all 0
  credUsed := Quad.all 0
  credRx := Quad.all 0
  credSent := Quad.all 0
  withheld := false
  withheld3 := false
  heldCredits := Quad.all 0
  transit := Quad.all []
  own := Quad.all []
  deficit := Quad.all 0
  tokens := Quad.all 65535
  shp := Quad.all 0xFFFFFFFF
  shpNext := Quad.all 0xFFFFFFFF
  shpCtl := 0x414
  shpCtlNext := 0x414
  drr := 0x204008
  drrNext := 0x204008
  drrArmed := false
  rrClass := 1
  rrAdded := false
  lastRefill := 0
  aliveTx := []
  aliveSent := []
  aliveRx := []
  gapSrc := []
  malformed := 0
  badCrc := 0
  ctlDiscarded := 0
  misrouted := 0
  refusedNonHolder := 0
  stale := 0
  aliveGap := 0
  replays := 0
  downDiscards := 0
  seen := false

/-- The lease that a leaf has granted (R147). -/
structure Lease where
  /-- 14, 15, or 0xFF for none (17 LF_LEASE_STAT). -/
  holder : Byte
  /-- Src_did of the holder (05 R144). -/
  holderDid : Did
  /-- Epoch in force; 0 before the first lease (05 R147, 16 R426). -/
  epoch : Half
  /-- Duration granted, ms (05 R148). -/
  duration : Half
  /-- Expiry on the leaf's own time; 0 for none (17 LF_LEASE_EXP). -/
  expiry : Ns
  deriving DecidableEq, Repr

/-- `Lease` at reset. -/
def Lease.reset : Lease where
  holder := 0xFF
  holderDid := 0
  epoch := 0
  duration := 0
  expiry := 0

/-- The configuration in force at a station (R71). -/
structure StnCfg where
  /-- The station is placed (17 LF_STATION). -/
  present : Bool
  /-- Declared delay, 2^-4 ns (17 LF_STATION). -/
  ackDelay : Half
  /-- Counters bound to it: counter, line, mode (03 R69). -/
  binds : List (Nat × BitVec 6 × BitVec 2)
  /-- Its slot reporter: engine and slot count (03 R76). -/
  reporter : Option (Nat × Nat)
  deriving DecidableEq, Repr

/-- `StnCfg` at reset. -/
def StnCfg.reset : StnCfg where
  present := false
  ackDelay := 0
  binds := []
  reporter := none

/-- An event station (R64 to R67). -/
structure Station where
  /-- Configuration in force (03 R71). -/
  cfg : StnCfg
  /-- Previous sample of each line (03 R64). -/
  prev : DWord
  /-- Pre-counters by source 0 to 67 (03 R65). -/
  pre : Cells Byte
  /-- Drain bank of a freeze still to emit, the freeze marker last (03 R93). -/
  drain : List (Nat × Byte)
  /-- 16-entry queue of sources and deltas (03 R65). -/
  queue : List (Nat × Byte)
  /-- Source at which the next search under rule 2 or 3 starts (03 R65). -/
  rr : Nat
  /-- Freeze strobe level the station has acted on (03 R93). -/
  frzSeen : Bool
  /-- Stn_frz_ack (03 R93). -/
  ack : Bool
  /-- The configuration of the entries before the freeze marker (03 R71). -/
  old : Option StnCfg
  /-- The configuration that takes effect at the next freeze edge the station reaches (03 R71). -/
  next' : Option StnCfg
  deriving DecidableEq, Repr

/-- `Station` at reset. -/
def Station.reset : Station where
  cfg := StnCfg.reset
  prev := 0xFFFFFFFFFFFFFFFF
  pre := []
  drain := []
  queue := []
  rr := 0
  frzSeen := false
  ack := false
  old := none
  next' := none

/-- A histogram (R81). -/
structure Hist where
  /-- 64 bin counts of 40 bits (03 R81). -/
  bins : Cells Nat
  /-- Sticky saturation flag (03 R81). -/
  saturated : Bool
  /-- Sample count (03 R81). -/
  count : DWord
  /-- Exact sum (03 R81). -/
  sum : BitVec 96
  /-- Sticky sum-wrap flag (03 R81). -/
  sumWrap : Bool
  /-- Minimum since the last full freeze (03 R84). -/
  min : DWord
  /-- Time of the minimum (03 R84). -/
  minAt : Ns
  /-- Maximum (03 R84). -/
  max : DWord
  /-- Time of the maximum (03 R84). -/
  maxAt : Ns
  /-- Samples dropped (03 R85). -/
  drops : Word
  deriving DecidableEq, Repr

/-- `Hist` at reset. -/
def Hist.reset : Hist where
  bins := []
  saturated := false
  count := 0
  sum := 0
  sumWrap := false
  min := 0xFFFFFFFFFFFFFFFF
  minAt := 0
  max := 0
  maxAt := 0
  drops := 0

/-- A timing pair (R83). -/
structure Pair where
  /-- Start time of the open interval, 2^-4 ns (03 R83). -/
  opened : Option Nat
  /-- Time of the previous start edge, 2^-4 ns (03 R83). -/
  lastStart : Option Nat
  /-- Time of the previous stop edge, 2^-4 ns (03 R83). -/
  lastStop : Option Nat
  /-- Fault count (03 R83). -/
  faults : Word
  deriving DecidableEq, Repr

/-- `Pair` at reset. -/
def Pair.reset : Pair where
  opened := none
  lastStart := none
  lastStop := none
  faults := 0

/-- A sensor site (R87, LF_SITE). -/
structure Site where
  /-- Thr, hyst and present (17 LF_SITE). -/
  ctl : Word
  /-- Latest thermal reading (03 R87). -/
  thermal : Half
  /-- Latest supply reading (03 R87). -/
  supply : Half
  /-- Latest margin reading (03 R87). -/
  margin : Byte
  /-- Thermal clamped (03 R87). -/
  clamped : Bool
  /-- Droop active (03 R87). -/
  droop : Bool
  /-- Droop count (17 LF_SITE). -/
  count : Word
  /-- Latest droop beginning (17 LF_SITE). -/
  beginAt : Stamp
  /-- Latest droop end (17 LF_SITE). -/
  endAt : Stamp
  deriving DecidableEq, Repr

/-- `Site` at reset. -/
def Site.reset : Site where
  ctl := 0x11C2
  thermal := 0x8000
  supply := 0xFFFF
  margin := 0xFF
  clamped := false
  droop := false
  count := 0
  beginAt := ⟨0, 0⟩
  endAt := ⟨0, 0⟩

/-- An alarm or heartbeat input (R89 to R91, LF_INPUT). -/
structure Input where
  /-- Declared unit (17 LF_INPUT). -/
  unit : Half
  /-- Polarity (17 LF_INPUT). -/
  activeHigh : Bool
  /-- Stuck-active flag (17 LF_INPUT). -/
  stuck : Bool
  /-- Rate limiter engaged (17 LF_INPUT). -/
  limiter : Bool
  /-- The input is active (03 R89). -/
  level : Bool
  /-- Own time at which it became active, ns (03 R90). -/
  since : Nat
  /-- Own times of the latest edges, ns, newest first (03 R91). -/
  edges : List Nat
  /-- Chatter count (03 R91). -/
  chatter : Word
  /-- Edges suppressed since the last CHATTER record (03 R91). -/
  suppressed : Nat
  /-- Own time of the last CHATTER record, ns (03 R91). -/
  lastChatter : Nat
  /-- Own time of the last three edges within 1,000 ns (03 R91). -/
  lastTriple : Nat
  deriving DecidableEq, Repr

/-- `Input` at reset. -/
def Input.reset : Input where
  unit := 0
  activeHigh := true
  stuck := false
  limiter := false
  level := false
  since := 0
  edges := []
  chatter := 0
  suppressed := 0
  lastChatter := 0
  lastTriple := 0

/-- A heartbeat (LF_HB_CTL, R119). -/
structure Beat where
  /-- En, dump_en, tmo, seg_start, seg_cnt (04 LF_HB_CTL). -/
  ctl : DWord
  /-- Armed (04 R119). -/
  armed : Bool
  /-- Own time of the last refresh, ns (04 R119). -/
  last : Nat
  /-- Declared hung (04 R120). -/
  hung : Bool
  deriving DecidableEq, Repr

/-- `Beat` at reset. -/
def Beat.reset : Beat where
  ctl := 0x3D0900
  armed := false
  last := 0
  hung := false

/-- An open outcome run of the trace encoder (R114). -/
structure Run where
  /-- The outcome (04 R114). -/
  o : Bool
  /-- Its length (04 R114). -/
  n : Nat
  deriving DecidableEq, Repr

/-- `Run` at reset. -/
def Run.reset : Run where
  o := false
  n := 0

/-- A trace-port queue entry (R108). -/
structure TEntry where
  /-- Conditional outcomes, oldest first (04 R108). -/
  outcomes : List Bool
  /-- Flow event that closes it (04 R105). -/
  ev : BitVec 2
  /-- Brt_tgt (04 R105). -/
  tgt : DWord
  /-- Brt_epc (04 R105). -/
  epc : DWord
  /-- Brt_ex_code (04 R105). -/
  exc : Byte
  /-- Context after the cycle (04 R105). -/
  ctx : Word
  /-- Brt_npc of the closing cycle (04 R105). -/
  npc : DWord
  /-- It holds everything up to the end of its closing cycle (04 R108). -/
  cycleEnd : Bool
  /-- Branches lost before it (04 R109). -/
  lostBranches : Word
  /-- Flow events lost before it (04 R109). -/
  lostEvents : Word
  /-- An interface error precedes it (04 R107). -/
  ifErr : Bool
  deriving DecidableEq, Repr

/-- `TEntry` at reset. -/
def TEntry.reset : TEntry where
  outcomes := []
  ev := 0
  tgt := 0
  epc := 0
  exc := 0
  ctx := 0
  npc := 0
  cycleEnd := false
  lostBranches := 0
  lostEvents := 0
  ifErr := false

/-- A trace loss state (R116). -/
structure TLoss where
  /-- Cause bits (04 R117). -/
  cause : Byte
  /-- Packets discarded (04 R116). -/
  packets : Word
  /-- Branches lost (04 R116). -/
  branches : Word
  /-- Flow events lost (04 R116). -/
  events : Word
  /-- Time of the last entry kept before the loss (04 R117). -/
  start : Ns
  /-- Class when the loss began (04 R117). -/
  tq : BitVec 4
  deriving DecidableEq, Repr

/-- `TLoss` at reset. -/
def TLoss.reset : TLoss where
  cause := 0
  packets := 0
  branches := 0
  events := 0
  start := 0
  tq := 0

/-- A Scrivener trace port and its encoder (R105 to R116). -/
structure TracePort where
  /-- Outcomes accumulated towards an entry (04 R108). -/
  acc : List Bool
  /-- 16-entry queue (04 R108). -/
  queue : List TEntry
  /-- Branches of discarded entries not yet crossed (04 R109). -/
  lostBranches : Word
  /-- Flow events of discarded entries not yet crossed (04 R109). -/
  lostEvents : Word
  /-- Interface errors (04 R107). -/
  ifErrors : Word
  /-- An interface error not yet crossed (04 R107). -/
  ifErrPending : Bool
  /-- Context in force at the port (04 R105). -/
  ctx : Word
  /-- The encoder asks for an entry at the end of the next valid cycle (04 R108). -/
  syncReq : Bool
  /-- Outcomes not yet written (04 R114). -/
  pending : List Bool
  /-- The open run (04 R114). -/
  run : Option Run
  /-- Last address L (04 R112). -/
  lastAddr : DWord
  /-- Sequence of the next SYNC (04 R111). -/
  seq : Word
  /-- Flags of a SYNC that is due (start 1, context 2, resume 4) (04 R113). -/
  syncFlags : Byte
  /-- The SYNC that carries the start flag has been written (04 R114). -/
  started : Bool
  /-- Packet bytes written since the last SYNC (04 R113). -/
  sinceSync : Nat
  /-- Own time of the last SYNC, ns (04 R113). -/
  lastSync : Nat
  /-- Content has retired since the last SYNC (04 R113). -/
  retired : Bool
  /-- Time at which the last entry kept left the queue (04 R117). -/
  lastKept : Ns
  /-- Own time of the last entry taken, ns (04 R114). -/
  lastActive : Nat
  /-- Stream offset of the next packet byte (04 R115). -/
  offset : Word
  /-- Packet bytes of the frame being filled (04 R115). -/
  frame : List Byte
  /-- Its packets, conditional branches and flow events (04 R116). -/
  frameTotals : Nat × Nat × Nat
  /-- Own time of its first packet, ns (04 R115). -/
  frameAt : Nat
  /-- Closed frames and TRACE_LOSS records waiting, with their totals (04 R115). -/
  frames : List (Payload × (Nat × Nat × Nat))
  /-- The loss state (04 R116). -/
  loss : Option TLoss
  deriving DecidableEq, Repr

/-- `TracePort` at reset. -/
def TracePort.reset : TracePort where
  acc := []
  queue := []
  lostBranches := 0
  lostEvents := 0
  ifErrors := 0
  ifErrPending := false
  ctx := 0
  syncReq := false
  pending := []
  run := none
  lastAddr := 0
  seq := 0
  syncFlags := 0
  started := false
  sinceSync := 0
  lastSync := 0
  retired := false
  lastKept := 0
  lastActive := 0
  offset := 0
  frame := []
  frameTotals := (0, 0, 0)
  frameAt := 0
  frames := []
  loss := none

/-- A queued dump request (R120, R124). -/
structure DumpReq where
  /-- Heartbeat, or 0xFF for a manual dump (04 R120). -/
  hb : Byte
  /-- First entry (04 LF_HB_CTL). -/
  start : Nat
  /-- Entries (04 LF_HB_CTL). -/
  count : Nat
  /-- Time of the declaration (04 R125). -/
  at' : Ns
  /-- Class at the declaration (04 R125). -/
  tq : BitVec 4
  deriving DecidableEq, Repr

/-- `DumpReq` at reset. -/
def DumpReq.reset : DumpReq where
  hb := 0
  start := 0
  count := 0
  at' := 0
  tq := 0

/-- A dump walk in progress (R122). -/
structure Walk where
  /-- Its request (04 R122). -/
  req : DumpReq
  /-- Dump ID (04 R125). -/
  id : Word
  /-- Index of the entry being handled (04 R122). -/
  entry : Nat
  /-- 0 reading the entry, 1 reading its data, 2 waiting for lf_scan_done, 3 writing the trigger (04 R122). -/
  phase : Nat
  /-- Kind of the entry (04 R121). -/
  kind : Byte
  /-- Its stop flag (04 R121). -/
  stop : Bool
  /-- Address of the next read (04 R121). -/
  address : DWord
  /-- Bytes of the entry still to read (04 R122). -/
  remaining : Nat
  /-- The entry has failed (04 R122). -/
  failedNow : Bool
  /-- Entries walked (04 R125). -/
  walked : Word
  /-- Entries failed (04 R125). -/
  failed : Word
  /-- Data bytes sent (04 R125). -/
  bytes : DWord
  /-- Frames sent (04 R125). -/
  frames : Word
  /-- Restarted bit (04 R126). -/
  restarted : Bool
  /-- Paused (04 R125). -/
  paused : Bool
  /-- It restarts when it resumes (04 R126). -/
  needRestart : Bool
  /-- Own time at which the trigger was written, ns (04 R122). -/
  scanAt : Nat
  deriving DecidableEq, Repr

/-- `Walk` at reset. -/
def Walk.reset : Walk where
  req := DumpReq.reset
  id := 0
  entry := 0
  phase := 0
  kind := 0
  stop := false
  address := 0
  remaining := 0
  failedNow := false
  walked := 0
  failed := 0
  bytes := 0
  frames := 0
  restarted := false
  paused := false
  needRestart := false
  scanAt := 0

/-- An outstanding host port initiator request (R447). -/
structure InitReq where
  /-- 0 dump, 1 capture header, 2 capture input, 3 retained output, 4 the trigger write, 5 no longer wanted (18 R447). -/
  purpose : Nat
  /-- Address (18 R447). -/
  address : DWord
  /-- Bytes asked for (18 R447). -/
  len : Nat
  /-- Bytes received so far (18 R447). -/
  data : List Byte
  /-- Own time of issue, ns (04 R123). -/
  at' : Nat
  deriving DecidableEq, Repr

/-- `InitReq` at reset. -/
def InitReq.reset : InitReq where
  purpose := 0
  address := 0
  len := 0
  data := []
  at' := 0

/-- A posted capture (R303). -/
structure Post where
  /-- Capture ID (11 R303). -/
  id : Word
  /-- Address of the record (11 R303). -/
  address : DWord
  /-- Own time of the post, ns (11 R307). -/
  at' : Nat
  /-- Header and checkpoint entries read (11 R301). -/
  hdr : List Byte
  /-- Its input is accepted for sending (11 R304). -/
  accepted : Bool
  /-- Skipped (11 R304). -/
  skipped : Bool
  /-- Input bytes read and not yet in a frame (05 R154). -/
  part : List Byte
  /-- Input bytes (11 R301). -/
  inputLen : Nat
  /-- Input bytes read (11 R304). -/
  sent : Nat
  /-- Wholly sent, skipped or abandoned (11 R304). -/
  done : Bool
  /-- Released (11 R307). -/
  released : Bool
  deriving DecidableEq, Repr

/-- `Post` at reset. -/
def Post.reset : Post where
  id := 0
  address := 0
  at' := 0
  hdr := []
  accepted := false
  skipped := false
  part := []
  inputLen := 0
  sent := 0
  done := false
  released := false

/-- A retained-output fetch (R308). -/
structure Fetch where
  /-- Capture ID (11 R308). -/
  id : Word
  /-- Next address (11 R308). -/
  address : DWord
  /-- Bytes left (11 R308). -/
  remaining : Nat
  /-- Offset of the next CAPTURE_DATA (11 R308). -/
  offset : Word
  /-- Bytes read and not yet in a frame (05 R154). -/
  part : List Byte
  deriving DecidableEq, Repr

/-- `Fetch` at reset. -/
def Fetch.reset : Fetch where
  id := 0
  address := 0
  remaining := 0
  offset := 0
  part := []

/-- A unit history entry (R191). -/
structure UnitEntry where
  /-- Unit; 0 unused (06 R191). -/
  unit : Half
  /-- 0 unused, 1 clear, 2 transient, 3 permanent, 4 fence requested (06 R191). -/
  cls : Byte
  /-- Guardband steps held (06 R191). -/
  step : Byte
  /-- Group (06 R191). -/
  group : Byte
  /-- Accepted risk, count saturated, refused units (06 R191). -/
  flags : Byte
  /-- Errors (06 R191). -/
  total : Word
  /-- Errors in this power cycle (06 R191). -/
  thisCycle : Word
  /-- Operating time of the last applied step (06 R191). -/
  stepTime : Word
  /-- Operating time of the last error (06 R191). -/
  last : Word
  /-- Up to three (power cycle, operating time) pairs, newest first (06 R191). -/
  recent : List (Word × Word)
  /-- Up to four loci and their hits (06 R191). -/
  loci : List (BitVec 24 × Byte)
  deriving DecidableEq, Repr

/-- `UnitEntry` at reset. -/
def UnitEntry.reset : UnitEntry where
  unit := 0
  cls := 0
  step := 0
  group := 0
  flags := 0
  total := 0
  thisCycle := 0
  stepTime := 0
  last := 0
  recent := []
  loci := []

/-- A lifetime slot (R184). -/
structure LifeSlot where
  /-- Source histogram (06 R184). -/
  histogram : Byte
  /-- Shift recorded (06 R184). -/
  shift : Byte
  /-- In use, bin saturated, count or sum saturated, shift mismatch (06 R184). -/
  flags : Byte
  /-- 64 saturating bins (06 R184). -/
  bins : Cells Word
  /-- Sample count (06 R184). -/
  count : DWord
  /-- Sum (06 R184). -/
  sum : BitVec 96
  /-- Minimum (06 R184). -/
  min : DWord
  /-- Its operating time (06 R184). -/
  minOp : Word
  /-- Its power-cycle count (06 R184). -/
  minPc : Word
  /-- Maximum (06 R184). -/
  max : DWord
  /-- Its operating time (06 R184). -/
  maxOp : Word
  /-- Its power-cycle count (06 R184). -/
  maxPc : Word
  /-- Operating time of the first fold (06 R184). -/
  firstOp : Word
  /-- Folds (06 R184). -/
  folds : Word
  /-- Tick of its last page write (06 R184). -/
  lastWrite : Nat
  deriving DecidableEq, Repr

/-- `LifeSlot` at reset. -/
def LifeSlot.reset : LifeSlot where
  histogram := 0
  shift := 0
  flags := 0
  bins := []
  count := 0
  sum := 0
  min := 0
  minOp := 0
  minPc := 0
  max := 0
  maxOp := 0
  maxPc := 0
  firstOp := 0
  folds := 0
  lastWrite := 0

/-- The guardband state of a group in the Ledger (R196). -/
structure GbState where
  /-- Value (06 R196). -/
  value : Byte
  /-- Kind (06 R196). -/
  kind : Byte
  /-- Operating time of the change (06 R196). -/
  op : Word
  /-- Power-cycle count (06 R196). -/
  pc : Word
  deriving DecidableEq, Repr

/-- `GbState` at reset. -/
def GbState.reset : GbState where
  value := 0
  kind := 0
  op := 0
  pc := 0

/-- A physical Ledger page (R170). -/
structure Page where
  /-- 256 bytes (06 R168). -/
  data : List Byte
  /-- 16 trailer bytes; empty: absent (06 R170). -/
  trailer : List Byte
  deriving DecidableEq, Repr

/-- `Page` at reset. -/
def Page.reset : Page where
  data := List.replicate 256 0
  trailer := []

/-- A page write in progress (R170). -/
structure PageWrite where
  /-- Physical page (06 R170). -/
  phys : Nat
  /-- Structure kind; 1 for an image page (06 R173). -/
  kind : Nat
  /-- Logical page within its structure (06 R170). -/
  logical : Nat
  /-- Generation it will carry (06 R170). -/
  generation : Word
  /-- Wear it will carry (06 R170). -/
  wear : BitVec 24
  /-- The 256 bytes (06 R170). -/
  data : List Byte
  /-- Restart at step 1 on resumption (06 R180). -/
  torn : Bool
  /-- A LF_LDG_CMD command (06 R177). -/
  user : Bool
  deriving DecidableEq, Repr

/-- `PageWrite` at reset. -/
def PageWrite.reset : PageWrite where
  phys := 0
  kind := 0
  logical := 0
  generation := 0
  wear := 0
  data := []
  torn := false
  user := false

/-- The header slot content (R175). -/
structure LedgerHdr where
  /-- Power-cycle count (06 R175). -/
  power : Word
  /-- Operating time (06 R175). -/
  op : Word
  /-- Refused-record count (06 R175). -/
  refused : Word
  /-- Deferred-loss count (06 R175). -/
  deferLoss : Word
  /-- Flags (06 R175). -/
  flags : Byte
  /-- Spare map, entry i for spare i (06 R175). -/
  spares : Cells Half
  deriving DecidableEq, Repr

/-- `LedgerHdr` at reset. -/
def LedgerHdr.reset : LedgerHdr where
  power := 0
  op := 0
  refused := 0
  deferLoss := 0
  flags := 0
  spares := []

/-- A guardband request (R195). -/
structure Handshake where
  /-- Group (06 R195). -/
  group : Byte
  /-- 0 voltage floor, 1 frequency ceiling (06 R195). -/
  kind : Bool
  /-- Steps (06 R195). -/
  value : BitVec 5
  /-- Unit whose escalation asks for it; 0 for a re-request (06 R192). -/
  unit : Half
  /-- Own time of t0, ns (06 R195). -/
  t0 : Nat
  /-- Its timeout was reported (06 R195). -/
  timedOut : Bool
  /-- The acknowledge was sampled (06 R195). -/
  acked : Bool
  deriving DecidableEq, Repr

/-- `Handshake` at reset. -/
def Handshake.reset : Handshake where
  group := 0
  kind := false
  value := 0
  unit := 0
  t0 := 0
  timedOut := false
  acked := false

/-- A check-value engine (R410). -/
structure CvEngine where
  /-- Polynomial (15 LF_CV_CTL). -/
  poly : BitVec 2
  /-- Running value (15 LF_CV_VAL). -/
  run : DWord
  /-- Alive (15 LF_CV_ALIVE). -/
  alive : Byte
  /-- The result of the open context was read (15 R410). -/
  readOnce : Bool
  /-- The result was read (15 LF_CV_ALIVE). -/
  reread : Bool
  /-- A context is open (15 LF_CV_ALIVE). -/
  open' : Bool
  deriving DecidableEq, Repr

/-- `CvEngine` at reset. -/
def CvEngine.reset : CvEngine where
  poly := 1
  run := 0
  alive := 0
  readOnce := false
  reread := false
  open' := false

/-- The set-up lock (R394). -/
structure LockState where
  /-- 0 free, 14 or 15, 0x80 plus requester (17 LF_LOCK). -/
  owner : Byte
  /-- Status of host firmware's last op (17 LF_LOCK). -/
  result : Byte
  /-- Shadow words in the order written; keys below 0x6000 are offsets, aperture keys carry the bank (R438) (14 R394). -/
  shadow : List (Nat × Word)
  /-- A write beyond 2,048 words was answered ERROR (14 R394). -/
  overflow : Bool
  /-- Own time of the last OK answer to an owning end, ns (14 R395). -/
  lastOk : Nat
  deriving DecidableEq, Repr

/-- `LockState` at reset. -/
def LockState.reset : LockState where
  owner := 0
  result := 0
  shadow := []
  overflow := false
  lastOk := 0

/-- Write tags kept for one requester (R161). -/
structure WrTags where
  /-- Src_did (05 R161). -/
  did : Did
  /-- Up to 16 tags with status and response data, newest first (05 R161). -/
  tags : List (Half × Byte × List Byte)
  deriving DecidableEq, Repr

/-- `WrTags` at reset. -/
def WrTags.reset : WrTags where
  did := 0
  tags := []

/-- A held snapshot (R97). -/
structure Snapshot where
  /-- Sequence (03 R97). -/
  seq : Word
  /-- 0 full, 1 to 15 subset (03 R92). -/
  kind : Byte
  /-- T (03 R92). -/
  instant : Ns
  /-- Class at freeze (05 R152). -/
  tq : BitVec 4
  /-- DISCONTINUITY (03 R103). -/
  disc : Bool
  /-- Frozen counters (03 R96). -/
  counters : Cells DWord
  /-- Frozen slot counters (03 R96). -/
  slots : Cells DWord
  /-- Station lost-increment counts (03 R66). -/
  ovf : Cells Word
  /-- Frozen histograms (03 R94). -/
  hists : Cells Hist
  /-- Counter marks (05 R150). -/
  marks : List (Nat × Nat)
  /-- Stations listed: number, configuration before the freeze, stalled, edge time (05 R150). -/
  stations : List (Nat × StnCfg × Bool × Stamp)
  /-- Epoch in which it was taken (13 R352). -/
  epoch : Half
  /-- Per engine listed: number, idle flag and four fractions (03 R78). -/
  fracs : List (Nat × Bool × List Nat)
  /-- The histograms that are not off (05 R150). -/
  cfgHist : List Nat
  /-- The counters of a subset, in list order (03 R100). -/
  listed : List Nat
  deriving DecidableEq, Repr

/-- `Snapshot` at reset. -/
def Snapshot.reset : Snapshot where
  seq := 0
  kind := 0
  instant := 0
  tq := 0
  disc := false
  counters := []
  slots := []
  ovf := []
  hists := []
  marks := []
  stations := []
  epoch := 0
  fracs := []
  cfgHist := []
  listed := []

/-- A snapshot being taken (R93). -/
structure Freeze where
  /-- 0 full, 1 to 15 subset (03 R92). -/
  kind : Byte
  /-- T (03 R92). -/
  instant : Ns
  /-- Class at freeze (05 R152). -/
  tq : BitVec 4
  /-- Stations whose marker has not been applied (03 R93). -/
  waiting : List Nat
  /-- Stations listed: number, configuration before the freeze, stalled, edge time (03 R93). -/
  edges : List (Nat × StnCfg × Bool × Stamp)
  /-- Stations whose acknowledge was timestamped (03 R93). -/
  acked : List Nat
  /-- Counters frozen so far (03 R96). -/
  counters : List (Nat × DWord)
  /-- Slot counters frozen so far (03 R96). -/
  slots : List (Nat × DWord)
  /-- Lost-increment counts frozen so far (03 R66). -/
  ovf : List (Nat × Word)
  /-- Histograms frozen (03 R94). -/
  hists : Cells Hist
  /-- The histogram freeze is complete (03 R94). -/
  histDone : Bool
  deriving DecidableEq, Repr

/-- `Freeze` at reset. -/
def Freeze.reset : Freeze where
  kind := 0
  instant := 0
  tq := 0
  waiting := []
  edges := []
  acked := []
  counters := []
  slots := []
  ovf := []
  hists := []
  histDone := false

/-- Fuses of a leaf (R200, R201). -/
structure Fuses where
  /-- Identity block, 16 bytes (06 R200). -/
  identity : List Byte
  /-- Serial number (06 R200). -/
  serial : DWord
  /-- X then Y, big-endian (06 R201). -/
  publicKey : List Byte
  /-- Attestation private key (06 R201). -/
  privateKey : List Byte
  /-- Lhp_share as sampled at cold reset (18 R450). -/
  lhpShare : BitVec 4
  deriving DecidableEq, Repr

/-- `Fuses` at reset. -/
def Fuses.reset : Fuses where
  identity := List.replicate 16 0
  serial := 0
  publicKey := List.replicate 96 0
  privateKey := List.replicate 48 0
  lhpShare := 0

/-- The path constants of a leaf (R43, R46, R47). -/
structure PathConst where
  /-- A_path(p), signed, 2^-16 ns (17 LF_PATH_A). -/
  a : Word
  /-- B_path(p), signed, 2^-16 ns (17 LF_PATH_B). -/
  b : Word
  /-- LF_PATH_A has been written (02 R43). -/
  gotA : Bool
  /-- LF_PATH_B has been written (02 R43). -/
  gotB : Bool
  /-- Port part of A_path at the last measurement, 2^-16 ns (02 R46). -/
  partA : Int
  /-- Port part of B_path at the last measurement, 2^-16 ns (02 R46). -/
  partB : Int
  deriving DecidableEq, Repr

/-- `PathConst` at reset. -/
def PathConst.reset : PathConst where
  a := 0
  b := 0
  gotA := false
  gotB := false
  partA := 0
  partB := 0

/-- The ring end of a leaf: identity, position, ports and lease. -/
structure LeafRing where
  /-- DID; 0 none (17 LF_DID). -/
  did : Did
  /-- West port; on the internal leaf the internal link of R220 (05 R127). -/
  west : LinkPort
  /-- East port; unused on the internal leaf (05 R127). -/
  east : LinkPort
  /-- Ring position (05 R11, 16 R430). -/
  position : Option Nat
  /-- Ring length (16 R430). -/
  length : Nat
  /-- A PROBE of end A's series has been accepted (16 R430). -/
  westChain : Bool
  /-- Lease granted (05 R147). -/
  lease : Lease
  /-- Latest hop round trip measured by PROBE per port, 2^-16 ns (02 R43). -/
  trips : Cells Nat
  deriving DecidableEq, Repr

/-- `LeafRing` at reset. -/
def LeafRing.reset : LeafRing where
  did := 0
  west := LinkPort.reset
  east := LinkPort.reset
  position := none
  length := 0
  westChain := false
  lease := Lease.reset
  trips := []

/-- Set-up of a leaf: RWL words, declared units, lock, held words and tags. -/
structure LeafCfg where
  /-- 32-bit words of the RWL tables by window offset; unlisted words hold their reset value (17 R437). -/
  words : Cells Word
  /-- Bank of the unit aperture (17 LF_UNIT_BANK). -/
  unitBank : BitVec 4
  /-- Unit declarations 0 to 4,095 (06 R190). -/
  units : Cells DWord
  /-- Plain writes to RWL fields, saturating (17 LF_CFG_STAT). -/
  plainRwl : Half
  /-- Commits performed, saturating (17 LF_CFG_STAT). -/
  commits : Half
  /-- The set-up lock (14 R394). -/
  lock : LockState
  /-- Upper word latched per requester: identifiers 0 to 15, ends 16 and 17 (03 R73, 17 R433). -/
  latches : Cells Word
  /-- LF_TIME_STAT latched with LF_TIME_NOW per requester (17 R437). -/
  timeStat : Cells Word
  /-- Held low words per requester and offset (key 65,536 times requester plus offset); an absent key holds 0 (17 R433, 03 R82, 06 R189). -/
  held : Cells Word
  /-- Write tags kept per requester, latest requester first (05 R161). -/
  tags : List WrTags
  deriving DecidableEq, Repr

/-- `LeafCfg` at reset. -/
def LeafCfg.reset : LeafCfg where
  words := []
  unitBank := 0
  units := []
  plainRwl := 0
  commits := 0
  lock := LockState.reset
  latches := []
  timeStat := []
  held := []
  tags := []

/-- Stations, counters, histograms and sensor sites of a leaf. -/
structure Counting where
  /-- Stations 0 to 255 (03 R63). -/
  stations : Cells Station
  /-- Counters 0 to 4,095 (03 R68). -/
  counters : Cells DWord
  /-- Slot counters, key 8 engine + slot (03 R76). -/
  slots : Cells DWord
  /-- LF_STN_OVF per station (03 R66). -/
  ovf : Cells Word
  /-- Counters that failed BIST and have no spare (03 R75). -/
  failed : List Nat
  /-- Counters that a Tinker spare replaces (03 R75). -/
  spared : List Nat
  /-- Counters poisoned by an uncorrectable error, ascending (15 R415). -/
  poisoned : List Nat
  /-- Histograms 0 to 255 (03 R81). -/
  hists : Cells Hist
  /-- The 256-entry sample queue: histogram, value, time (03 R85). -/
  samples : List (Nat × DWord × Ns)
  /-- Timing pairs 0 to 31 (03 R83). -/
  pairs : Cells Pair
  /-- Sensor sites 0 to 47 (03 R87). -/
  sites : Cells Site
  /-- Last whole millisecond at which readings were taken (03 R463). -/
  lastThermal : Option Nat
  /-- Last 10 µs grid instant at which readings were taken (03 R463). -/
  lastSupply : Option Nat
  deriving DecidableEq, Repr

/-- `Counting` at reset. -/
def Counting.reset : Counting where
  stations := []
  counters := []
  slots := []
  ovf := []
  failed := []
  spared := []
  poisoned := []
  hists := []
  samples := []
  pairs := []
  sites := []
  lastThermal := none
  lastSupply := none

/-- Freezes and the snapshot store of a leaf (R92 to R103). -/
structure SnapSt where
  /-- Freeze advance, 2^-4 ns (17 LF_SNAP_ADV). -/
  adv : Half
  /-- Stn_frz (18 R451). -/
  strobe : Bool
  /-- The snapshot being taken (03 R93). -/
  freeze : Option Freeze
  /-- Held snapshots, oldest first, at most 4 (03 R97). -/
  store : List Snapshot
  /-- Last sequence taken (17 LF_SNAP_STAT). -/
  lastSeq : Word
  /-- Overrun count, R97 (17 LF_SNAP_STAT). -/
  overrun : Word
  /-- Too-soon count, R99 (17 LF_SNAP_STAT). -/
  tooSoon : Word
  /-- The reference snapshot (03 R98). -/
  reference : Option Snapshot
  /-- Instant of the last full freeze (03 R99). -/
  lastFull : Option Ns
  /-- Instant of the last freeze (03 R99). -/
  lastAny : Option Ns
  /-- The next Tally is absolute and carries DISCONTINUITY (03 R103). -/
  disc : Bool
  /-- Slot counters at the last snapshot that included their engine (03 R78). -/
  prevSlots : Cells DWord
  /-- Histograms at the previous full freeze, for the lifetime folds (06 R184). -/
  prevHists : Cells Hist
  /-- Counters whose change of assignment no Tally has marked yet (03 R71). -/
  reassigned : List Nat
  /-- TALLY, HIST and TALLY_END payloads still to send (03 R97, R98). -/
  txq : List Payload
  deriving DecidableEq, Repr

/-- `SnapSt` at reset. -/
def SnapSt.reset : SnapSt where
  adv := 0
  strobe := false
  freeze := none
  store := []
  lastSeq := 0
  overrun := 0
  tooSoon := 0
  reference := none
  lastFull := none
  lastAny := none
  disc := true
  prevSlots := []
  prevHists := []
  reassigned := []
  txq := []

/-- Scrivener of a leaf. -/
structure TraceSt where
  /-- Core_en and sync_bytes (04 LF_TRC_CTL). -/
  ctl : Word
  /-- Trace ports 0 to 7 (04 R105). -/
  ports : Cells TracePort
  deriving DecidableEq, Repr

/-- `TraceSt` at reset. -/
def TraceSt.reset : TraceSt where
  ctl := 0x200
  ports := []

/-- Hang detection and dumps of a leaf. -/
structure DumpSt where
  /-- Heartbeats 0 to 7 (04 R119). -/
  beats : Cells Beat
  /-- Read timeout, µs (17 LF_DUMP_CTL). -/
  rdTmo : Nat
  /-- Scan timeout, ms (17 LF_DUMP_CTL). -/
  scanTmo : Nat
  /-- Address of the dump table (17 LF_DUMP_BASE). -/
  base : DWord
  /-- Requests waiting (04 R120). -/
  queue : List DumpReq
  /-- The walk in progress (04 R122). -/
  walk : Option Walk
  /-- The 8 KiB frame buffer: DUMP payloads still to send (04 R125). -/
  frames : List Payload
  /-- Last dump ID (04 R125). -/
  lastId : Word
  /-- The walk whose END frame is still to be sent (04 R126). -/
  endDue : Option Walk
  deriving DecidableEq, Repr

/-- `DumpSt` at reset. -/
def DumpSt.reset : DumpSt where
  beats := []
  rdTmo := 10
  scanTmo := 100
  base := 0
  queue := []
  walk := none
  frames := []
  lastId := 0
  endDue := none

/-- The initiator side of the leaf host port. -/
structure HostPort where
  /-- Outstanding initiator requests by tag 0 to 31 (18 R447). -/
  outstanding : Cells (Option InitReq)
  /-- Pacing bucket, beats (18 R450). -/
  bucket : Rat
  /-- Own time to which the bucket has been filled, ns (18 R450). -/
  bucketAt : Nat
  /-- Lhp_rst_n is 0 (18 R449). -/
  inReset : Bool
  /-- Own time of its release while the 16-cycle wait runs (18 R449). -/
  releasedAt : Option Nat
  deriving DecidableEq, Repr

/-- `HostPort` at reset. -/
def HostPort.reset : HostPort where
  outstanding := []
  bucket := 64
  bucketAt := 0
  inReset := false
  releasedAt := none

/-- Captures of a leaf (R300 to R308). -/
structure LeafAssay where
  /-- Rate exponent in force (11 LF_ASSAY_RATE). -/
  k : BitVec 5
  /-- A new exponent waits (11 LF_ASSAY_RATE). -/
  pending : Bool
  /-- The exponent that waits (11 LF_ASSAY_RATE). -/
  kNext : BitVec 5
  /-- Changes of k since reset (11 LF_ASSAY_RATE). -/
  changes : Word
  /-- First step under the k in force (11 LF_ASSAY_STEP_AT). -/
  stepAt : DWord
  /-- Step counter (17 LF_STEP). -/
  step : DWord
  /-- En, hold and backlog (11 LF_CAP_CTL). -/
  capCtl : Word
  /-- Captures posted, oldest first (11 R303). -/
  posts : List Post
  /-- Next capture ID (11 R303). -/
  nextId : Word
  /-- LF_CAP_CNT 0 to 7 (11 R306). -/
  counts : Cells Word
  /-- Retained-output fetches, oldest first (11 R308). -/
  fetches : List Fetch
  /-- CAPTURE_DESC and CAPTURE_DATA payloads still to send (11 R304). -/
  txq : List Payload
  deriving DecidableEq, Repr

/-- `LeafAssay` at reset. -/
def LeafAssay.reset : LeafAssay where
  k := 10
  pending := false
  kNext := 10
  changes := 0
  stepAt := 0
  step := 0
  capCtl := 0x4190
  posts := []
  nextId := 1
  counts := []
  fetches := []
  txq := []

/-- Health records of a leaf (R185 to R189). -/
structure HealthSt where
  /-- Health store, oldest first, at most 512 (06 R188). -/
  store : List HealthRec
  /-- Records held by internal sources, in the order raised (06 R188). -/
  held : List HealthRec
  /-- Deferral queue, oldest first, at most 128 (06 R181). -/
  deferral : List HealthRec
  deriving DecidableEq, Repr

/-- `HealthSt` at reset. -/
def HealthSt.reset : HealthSt where
  store := []
  held := []
  deferral := []

/-- The Ledger of a leaf (R168 to R184). -/
structure LedgerSt where
  /-- Physical pages 0 to 4,095 (06 R168). -/
  pages : Cells Page
  /-- Header slot in force (06 R175). -/
  header : LedgerHdr
  /-- Unit history, entry 0 for unit 0xFFFF, at most 1,024 entries (06 R191). -/
  units : List UnitEntry
  /-- Decision log (06 R186). -/
  decisions : List HealthRec
  /-- Guardband state by group (06 R196). -/
  gbState : Cells GbState
  /-- Lifetime slots 0 to 127 (06 R184). -/
  life : Cells LifeSlot
  /-- Pages of pending changes, oldest first: kind, logical page, and whether it is written at once (06 R179, R184, R194). -/
  dirty : List (Nat × Nat × Bool)
  /-- Operating time, plus 1, of the last write of a page of kind 5 or 6 (key 4,096 kind + logical page) (06 R184, R194). -/
  pageTick : Cells Nat
  /-- A bank without a free spare has been reported (06 R182). -/
  spareOut : Bool
  /-- Logical pages that refuse updates: kind, logical page (06 R182). -/
  refusing : List (Nat × Nat)
  /-- The last page write was a LF_LDG_CMD command (06 R179). -/
  userLast : Bool
  /-- Page write in progress (06 R170). -/
  write : Option PageWrite
  /-- A waiting LF_LDG_CMD program command: its page (06 R177). -/
  user : Option Nat
  /-- VNV is below its start threshold (06 R180). -/
  vnvLow : Bool
  /-- Own time since which VNV is above the resume threshold (06 R180). -/
  vnvAt : Option Nat
  /-- LF_LDG_BUF (17 LF_LDG_BUF). -/
  buf : List Byte
  /-- LF_LDG_STAT (06 LF_LDG_STAT). -/
  status : Word
  /-- The last 1/64 hour acted on (06 R176). -/
  lastTick : Nat
  /-- No page write starts: Cellar entry (16 R420). -/
  cellarPaused : Bool
  deriving DecidableEq, Repr

/-- `LedgerSt` at reset. -/
def LedgerSt.reset : LedgerSt where
  pages := []
  header := LedgerHdr.reset
  units := []
  decisions := []
  gbState := []
  life := []
  dirty := []
  pageTick := []
  spareOut := false
  refusing := []
  userLast := false
  write := none
  user := none
  vnvLow := false
  vnvAt := none
  buf := List.replicate 272 0
  status := 0
  lastTick := 0
  cellarPaused := false

/-- The guardband port of a leaf (R193 to R199). -/
structure GbPort where
  /-- Tmo and settle (06 LF_GB_CTL). -/
  ctl : Word
  /-- Request in progress (06 R195). -/
  cur : Option Handshake
  /-- Requests waiting (06 R195). -/
  queue : List Handshake
  /-- Lf_gb_req (18 R452). -/
  req : Bool
  /-- Lf_cf_ack (06 R198). -/
  cfAck : Bool
  /-- The port waits for pc_gb_ack to fall (06 R195). -/
  ackLow : Bool
  /-- Results 0b11 (06 R195). -/
  badRes : Word
  /-- Accepted risks whose record has not committed: unit, new step, record (06 R199). -/
  accepts : List (Half × Byte × HealthRec)
  deriving DecidableEq, Repr

/-- `GbPort` at reset. -/
def GbPort.reset : GbPort where
  ctl := 0x200A
  cur := none
  queue := []
  req := false
  cfAck := false
  ackLow := false
  badRes := 0
  accepts := []

/-- Attestation of a leaf (R201, R202). -/
structure AttSt where
  /-- LF_ATT_NONCE (17 LF_ATT_NONCE). -/
  nonce : List Byte
  /-- Busy (17 LF_ATT_STAT). -/
  busy : Bool
  /-- Done (17 LF_ATT_STAT). -/
  done : Bool
  /-- R then s (17 LF_ATT_SIG). -/
  sig : List Byte
  deriving DecidableEq, Repr

/-- `AttSt` at reset. -/
def AttSt.reset : AttSt where
  nonce := List.replicate 48 0
  busy := false
  done := false
  sig := List.replicate 96 0

/-- Power, Cellar and resets of a leaf. -/
structure LeafPower where
  /-- 0 in service, 1 preparing, 2 committed, 4 waking; lf_cellar is 1 from 3 µs after the commit until waking begins (16 R420, R422). -/
  cellar : Nat
  /-- Own time of the firing t_f, ns (16 R420). -/
  firedAt : Nat
  /-- Own time of the commit, ns (16 R420). -/
  committedAt : Nat
  /-- Own time at which waking began, ns (16 R422). -/
  wakeAt : Nat
  /-- Own time at which hd_lc_good rose (16 R422). -/
  lcGoodAt : Option Nat
  /-- A wake phrase is latched (05 R164). -/
  phrase : Bool
  /-- Own time of the end of the latched phrase, ns (05 R164). -/
  phraseAt : Nat
  /-- Phrases counted (05 R164). -/
  phrases : Word
  /-- Late_wake (17 LF_PWR_STAT). -/
  lateWake : Half
  /-- Firings skipped since Cellar began (02 R59). -/
  skipped : Word
  /-- Retention was lost in Cellar (16 R424). -/
  retentionLost : Bool
  /-- Cause of the last reset (16 LF_RST_STAT). -/
  cause : BitVec 3
  /-- Resets since cold reset (16 LF_RST_STAT). -/
  count : Half
  deriving DecidableEq, Repr

/-- `LeafPower` at reset. -/
def LeafPower.reset : LeafPower where
  cellar := 0
  firedAt := 0
  committedAt := 0
  wakeAt := 0
  lcGoodAt := none
  phrase := false
  phraseAt := 0
  phrases := 0
  lateWake := 0
  skipped := 0
  retentionLost := false
  cause := 0
  count := 0

/-- The sequencer of a leaf (R426, R427). -/
structure SeqSt where
  /-- The sequencer has booted (16 R427). -/
  running : Bool
  /-- Image executing: 0 A, 1 B (16 LF_RST_STAT). -/
  image : Bool
  /-- No valid image (16 LF_RST_STAT). -/
  noFw : Bool
  /-- Own time of the last boot, ns (16 R427). -/
  bootAt : Nat
  /-- The next boot takes the other image (16 R427). -/
  other : Bool
  /-- The header of the last power-up has not been written (06 R176). -/
  headerDue : Bool
  /-- The next boot writes the header with the power-cycle count (06 R176). -/
  powerOn : Bool
  deriving DecidableEq, Repr

/-- `SeqSt` at reset. -/
def SeqSt.reset : SeqSt where
  running := false
  image := false
  noFw := false
  bootAt := 0
  other := false
  headerDue := false
  powerOn := true

/-- A leaf: the ring leaf, or the Tervon's internal leaf. -/
structure Leaf where
  /-- Which leaf it is (07 R220). -/
  kind : LeafId
  /-- Fuses (06 R200). -/
  fuses : Fuses
  /-- Time domain (02 R28). -/
  time : TimeDom
  /-- Path constants (02 R43). -/
  path : PathConst
  /-- Appointment slots 0 to 15 (02 R55). -/
  appts : Cells Slot
  /-- Fleet deterministic mode (12 R340). -/
  det : DetStat
  /-- Ring end (05 R127). -/
  ring : LeafRing
  /-- Set-up (17 R437). -/
  cfg : LeafCfg
  /-- Counting (03 R63). -/
  cnt : Counting
  /-- Snapshots (03 R92). -/
  snap : SnapSt
  /-- Alarm inputs 0 to 15 and heartbeats 16 to 23 (03 R89). -/
  inputs : Cells Input
  /-- Scrivener (04 R105). -/
  trace : TraceSt
  /-- Hang detection and dumps (04 R119). -/
  dump : DumpSt
  /-- Host port initiator side (18 R447). -/
  hp : HostPort
  /-- Captures (11 R300). -/
  assay : LeafAssay
  /-- Health records (06 R185). -/
  health : HealthSt
  /-- Ledger (06 R168). -/
  led : LedgerSt
  /-- Guardband port (06 R195). -/
  gb : GbPort
  /-- Attestation (06 R202). -/
  att : AttSt
  /-- Check-value engines 0 to 3 (15 R408). -/
  cv : Cells CvEngine
  /-- Power and resets (16 R420). -/
  pwr : LeafPower
  /-- Sequencer (16 R427). -/
  seq : SeqSt
  /-- The model's own field: what the leaf put out at its boundary, newest first (-). -/
  out : List Out
  /-- The model's own field: number of the next free value (-). -/
  free : Nat
  deriving DecidableEq, Repr

/-- `Leaf` at reset. -/
def Leaf.reset : Leaf where
  kind := .ring
  fuses := Fuses.reset
  time := TimeDom.reset
  path := PathConst.reset
  appts := []
  det := DetStat.reset
  ring := LeafRing.reset
  cfg := LeafCfg.reset
  cnt := Counting.reset
  snap := SnapSt.reset
  inputs := []
  trace := TraceSt.reset
  dump := DumpSt.reset
  hp := HostPort.reset
  assay := LeafAssay.reset
  health := HealthSt.reset
  led := LedgerSt.reset
  gb := GbPort.reset
  att := AttSt.reset
  cv := []
  pwr := LeafPower.reset
  seq := SeqSt.reset
  out := []
  free := 0

end Sys2Proof.Machine
end

