-- ==== Sys2Proof/Machine/Time.lean ====
section
/-! DEFINITION. The time domain that both parts share (Caerpol time): the counter, the quality class, the path-delay filter,
the servo in its two modes and holdover. Quantities that a rule forms exactly are rationals, in ns. -/

namespace Sys2Proof.Machine

/-- The nearest integer, ties to even (R461). -/
def roundEven (q : Rat) : Int :=
  let f := q.floor
  let d := q - f
  if d < 1 / 2 then f
  else if 1 / 2 < d then f + 1
  else if f % 2 = 0 then f else f + 1

/-- 2^n. -/
def pow2 (n : Int) : Rat := if 0 ≤ n then (2 ^ n.toNat : Nat) else 1 / ((2 ^ (-n).toNat : Nat) : Rat)

/-- Whole ns (R28). -/
def TimeDom.ns (t : TimeDom) : Nat := t.now.toNat / 2 ^ 40

/-- The ns count as a record carries it (R29). -/
def TimeDom.ns64 (t : TimeDom) : Ns := BitVec.ofNat 64 (TimeDom.ns t)

/-- The 16-bit fraction (R28, R461). -/
def TimeDom.frac16 (t : TimeDom) : Half := BitVec.ofNat 16 (t.now.toNat / 2 ^ 24)

/-- The time as a stamp. -/
def TimeDom.stamp (t : TimeDom) : Stamp := ⟨TimeDom.ns64 t, TimeDom.frac16 t⟩

/-- A stamp in ns. -/
def Stamp.rat (s : Stamp) : Rat := (s.ns.toNat : Rat) + (s.frac.toNat : Rat) / 65536

/-- A signed 64-bit count of 2^-16 ns, in ns (R145). -/
def corrRat (c : DWord) : Rat := (c.toInt : Rat) / 65536

/-- `TIME_CTL.mode` is slew. -/
def TimeDom.slewMode (t : TimeDom) : Bool := t.ctl.getLsbD 0
/-- `TIME_CTL.kp_shift`. -/
def TimeDom.kp (t : TimeDom) : Nat := bits t.ctl.toNat 4 1
/-- `TIME_CTL.ki_shift`. -/
def TimeDom.ki (t : TimeDom) : Nat := bits t.ctl.toNat 9 5
/-- `TIME_CTL.limit` as a rate. -/
def TimeDom.limit (t : TimeDom) : Rat := (bits t.ctl.toNat 17 10 : Rat) / 1000000
/-- `TIME_CTL.src`. -/
def TimeDom.src (t : TimeDom) : Nat := bits t.ctl.toNat 19 18
/-- `TIME_CTL.pps_out_en`. -/
def TimeDom.ppsOutEn (t : TimeDom) : Bool := t.ctl.getLsbD 20
/-- `TIME_CTL.primary`. -/
def TimeDom.primary (t : TimeDom) : Nat := bits t.ctl.toNat 22 21
/-- `TIME_CTL.secondary`. -/
def TimeDom.secondary (t : TimeDom) : Nat := bits t.ctl.toNat 24 23
/-- `TIME_CTL.tau_slew`, in ns. -/
def TimeDom.tauSlew (t : TimeDom) : Rat := (bits t.ctl.toNat 47 32 : Rat) * 1000000
/-- The Tervon is the pod time root (TV_TIME_CTL.src). -/
def TimeDom.isRoot (t : TimeDom) : Bool := TimeDom.src t ≠ 0
/-- The upstream port that a Tervon steers from (R39). -/
def TimeDom.steerPort (t : TimeDom) : Nat := if t.steerSecondary then TimeDom.secondary t else TimeDom.primary t

/-- The class bound in ns (R32). -/
def classBound (c : BitVec 4) : Option Rat :=
  if c = 1 then some 1 else if c = 2 then some 4 else if c = 3 then some 100 else if c = 4 then some 20000 else none

/-- The offset lies within the class bound of the class it carries; a class without a bound admits any (R52). -/
def withinBound (c : BitVec 4) (off : Rat) : Bool :=
  match classBound c with
  | some b => decide (|off| ≤ b)
  | none => true

/-- The class, in the order of R32, for a part whose class would otherwise be `own` and whose calibration is `cal`; in
holdover the higher of its own timer's class and a holdover class taken from its source prevails (R53). -/
def TimeDom.classOf (t : TimeDom) (own : BitVec 4) (cal : Bool) : BitVec 4 :=
  if !t.everSet then 0
  else if t.holdover.isSome then
    let h : BitVec 4 := if t.holdLong then 6 else 5
    if t.srcCls = 6 then 6 else h
  else
    let beyond := match classBound own with
      | some b => decide (b < |(t.theta : Rat) / 65536|) || decide (b < |t.pending|)
      | none => false
    if beyond then 7 else if !cal then 7 else own

/-- The class that a root would otherwise report (R33, R35, R36, R37). -/
def TimeDom.rootClass (t : TimeDom) : BitVec 4 :=
  match TimeDom.src t with
  | 1 => if t.root.ref10M && t.root.pps && t.valid then 2 else 5
  | 2 => match t.root.steerCls with
    | some c => c
    | none => 1
  | _ => 1

/-- A Tervon's class (R32). -/
def TimeDom.tervonClass (t : TimeDom) : BitVec 4 :=
  TimeDom.classOf t (if TimeDom.isRoot t then TimeDom.rootClass t else t.srcCls) true

/-- One cycle of the 1 GHz time domain clock (R461). -/
def TimeDom.tick (t : TimeDom) : TimeDom :=
  { t with now := t.now + BitVec.ofInt 104 (roundEven ((1 - t.rate) * (2 : Rat) ^ 40)) }

/-- Move the time exactly by an offset in ns (R461). -/
def TimeDom.stepBy (t : TimeDom) (d : Rat) : TimeDom :=
  { t with now := t.now + BitVec.ofInt 104 (roundEven (d * (2 : Rat) ^ 40)), everSet := true }

/-- Enter holdover now; the last frequency correction stays (R52). -/
def TimeDom.enterHoldover (t : TimeDom) : TimeDom :=
  if t.holdover.isSome then t
  else { t with holdover := some (TimeDom.ns t), holdLong := false, rate := if TimeDom.slewMode t then t.base else t.integ }

/-- Leave holdover. -/
def TimeDom.leaveHoldover (t : TimeDom) : TimeDom := { t with holdover := none, holdLong := false }

/-- Clamp to plus or minus `l`. -/
def clampRat (l q : Rat) : Rat := if q < -l then -l else if l < q then l else q

/-- Count a good offset, or start the run again; 64 in a row make the time valid (R49, R50). -/
def TimeDom.countGood (t : TimeDom) (bound th : Rat) : TimeDom :=
  let g := if |th| < bound then t.good + 1 else 0
  if 64 ≤ g then { t with good := g, valid := true, everSet := true } else { t with good := g }

/-- An accepted offset in PI mode (R49). `bound` is the part's valid_bound. -/
def TimeDom.servoPI (t : TimeDom) (bound th : Rat) : TimeDom :=
  if !t.valid && decide (1000 < |th|) then { TimeDom.stepBy t (-th) with integ := 0, good := 0 }
  else
    let l := TimeDom.limit t
    let p := th / (2 : Rat) ^ TimeDom.kp t / 125000
    let i := clampRat l (t.integ + th / (2 : Rat) ^ TimeDom.ki t / 125000)
    let r := clampRat l (p + i)
    let sat := if r = l ∨ r = -l then satAdd32 t.saturations 1 else t.saturations
    TimeDom.countGood { t with integ := i, rate := r, saturations := sat } bound th

/-- `adjust(offset, freq)` of R50; the frequency is in parts of one. -/
def TimeDom.adjust (t : TimeDom) (off : Rat) (freq : Option Rat) : TimeDom :=
  { t with pending := t.pending + off
           base := match freq with
             | some f => clampRat (TimeDom.limit t) f
             | none => t.base }

/-- An accepted offset in slew mode (R50). -/
def TimeDom.servoSlew (t : TimeDom) (bound th : Rat) : TimeDom :=
  if !t.valid && decide (1000 < |th|) then { TimeDom.stepBy t (-th) with pending := 0, good := 0 }
  else TimeDom.adjust (TimeDom.countGood t bound th) th none

/-- Hold an offset to 2^-16 ns; which way a value between two multiples goes is not stated (`up`). -/
def quantise (up : Bool) (q : Rat) : Int :=
  let f := (q * 65536).floor
  if (f : Rat) = q * 65536 then f else if up then f + 1 else f

/-- Run the servo that TIME_CTL.mode selects on an accepted offset, and keep it as the filtered offset. -/
def TimeDom.servo (t : TimeDom) (bound : Rat) (up : Bool) (raw : Rat) : TimeDom :=
  let q := quantise up raw
  let th := (q : Rat) / 65536
  let t := { t with theta := q }
  if TimeDom.slewMode t then TimeDom.servoSlew t bound th else TimeDom.servoPI t bound th

/-- SLEW_TICK's recomputation at a whole microsecond (R50). -/
def TimeDom.slew (t : TimeDom) : TimeDom :=
  if t.holdover.isSome then { t with rate := t.base }
  else
    let r := clampRat (TimeDom.limit t) (t.base + t.pending / TimeDom.tauSlew t)
    { t with rate := r, pending := t.pending - (r - t.base) * 1000 }

/-- A source of exchanges. -/
def TimeDom.source (t : TimeDom) (k : Nat) : Source := Cells.get Source.reset t.sources k

/-- Write a source. -/
def TimeDom.setSource (t : TimeDom) (k : Nat) (s : Source) : TimeDom :=
  { t with sources := Cells.set Source.reset t.sources k s }

/-- A corrected offset is fresh for 250 µs (R47). -/
def TimeDom.fresh (t : TimeDom) (k : Nat) : Bool :=
  (TimeDom.source t k).offset.isSome && decide (TimeDom.ns t - (TimeDom.source t k).offsetAt ≤ 250000)

/-- Mean path delay and measured offset of an exchange whose four times and corrections are held (the worked offset of
"Caerpol time"): forward t2 - t1 - corr, back t4 - t3 - corr. -/
def exchangeValues (t1 t2 t3 t4 corrF corrB : Rat) : Rat × Rat :=
  let f := t2 - t1 - corrF
  let b := t4 - t3 - corrB
  ((f + b) / 2, (f - b) / 2)

/-- Discard an exchange of source `k` and count it (R48); a link error also starts holdover (R52). -/
def TimeDom.discard (t : TimeDom) (k : Nat) (linkError : Bool) : TimeDom :=
  let s := TimeDom.source t k
  let t := TimeDom.setSource t k { s with discarded := satAdd32 s.discarded 1, goodRun := 0, sync := none, follow := none, t3 := none, hit := false }
  if linkError then TimeDom.enterHoldover t else t

/-- The path-delay test of R48. -/
def Source.delayOk (s : Source) (delay : Rat) : Bool :=
  match s.filt with
  | none => true
  | some f => decide (|delay - f| ≤ 1)

/-- The filtered delay after an accepted exchange (R48). -/
def Source.filtered (s : Source) (delay : Rat) : Rat :=
  match s.filt with
  | none => delay
  | some f => f + (delay - f) / 16

/-- In the first second of holdover an exchange whose offset lies outside its class bound is not applied (R52). -/
def TimeDom.holdoverRejects (t : TimeDom) (cls : BitVec 4) (off : Rat) : Bool :=
  t.holdover.isSome && !t.holdLong && !withinBound cls off

/-- Accept an exchange of source `k` with corrected offset `off` (R48, R52): its filter, its stored offset, its class and hop
count, the end of holdover. -/
def TimeDom.accept (t : TimeDom) (k : Nat) (off delay : Rat) (cls : BitVec 4) (hop : Byte) : TimeDom :=
  let s := TimeDom.source t k
  let t := TimeDom.setSource t k { s with filt := some (Source.filtered s delay), offset := some off, offsetAt := TimeDom.ns t, cls := cls, hop := hop, hopRejected := false, goodRun := if withinBound cls off then s.goodRun + 1 else 0, sync := none, follow := none, t3 := none, hit := false }
  TimeDom.leaveHoldover { t with lastAccept := TimeDom.ns t }

/-- Apply a pending TIME_CTL change; a change of mode carries the frequency estimate across, and a root whose src changes
enters holdover until the new source qualifies (R440). -/
def TimeDom.applyCtl (t : TimeDom) : TimeDom :=
  match t.ctlNext with
  | none => t
  | some c =>
    let t' := { t with ctl := c, ctlNext := none }
    let t' := if !TimeDom.slewMode t && TimeDom.slewMode t' then { t' with base := t.integ, pending := 0 }
      else if TimeDom.slewMode t && !TimeDom.slewMode t' then { t' with integ := t.rate, pending := 0 }
      else t'
    if TimeDom.src t ≠ TimeDom.src t' then
      let t' := { t' with root := { t'.root with ref10M := false, pps := false, steerCls := none, steerUntil := 0 } }
      if TimeDom.isRoot t' then TimeDom.enterHoldover t' else t'
    else t'

/-- The ranges of TIME_CTL (R440): ki_shift, limit and tau_slew, and on a Tervon primary and secondary that differ. -/
def timeCtlOk (leaf : Bool) (v : DWord) : Bool :=
  let n := v.toNat
  decide (bits n 9 5 ≤ 20) && decide (1 ≤ bits n 17 10) && decide (bits n 17 10 ≤ 200)
    && decide (1 ≤ bits n 47 32) && decide (bits n 47 32 ≤ 64000)
    && (leaf || decide (bits n 22 21 ≠ bits n 24 23))

/-- The writable bits of TIME_CTL; the others are reserved. -/
def timeCtlMask (leaf : Bool) : DWord := if leaf then 0x0000FFFF0003FFFF else 0x0000FFFF01FFFFFF

end Sys2Proof.Machine
end

