-- ==== Sys2Proof/Machine/AssayNum.lean ====
section
/-! DEFINITION. The numbers of assay: formats and rounding (R324 to R326), exact arithmetic on their values, canonical order (R332) and the
constructions of EXP, GELU and the reciprocal square root (R336 to R338). -/

namespace Sys2Proof.Machine

/-- A value of a format: zeros carry their sign. -/
inductive FVal where
  | nan
  | inf (neg : Bool)
  | fin (neg : Bool) (mag : Rat)
  deriving DecidableEq, Repr

/-- A floating-point format (R324). `spec` is 0 with infinities and NaNs, 1 with the one NaN code S.1111.111, 2 without special values. -/
structure FFmt where
  exp  : Nat
  man  : Nat
  bias : Nat
  spec : Nat
  nan  : Nat
  deriving DecidableEq, Repr

/-- How an element is coded: floating, or two's complement with binary places (R324). -/
inductive EFmt where
  | flt (f : FFmt)
  | int (width places : Nat)
  deriving DecidableEq, Repr

def b64 : FFmt := ⟨11, 52, 1023, 0, 0x7FF8000000000000⟩
def b32 : FFmt := ⟨8, 23, 127, 0, 0x7FC00000⟩
def b16 : FFmt := ⟨5, 10, 15, 0, 0x7E00⟩
def bf16 : FFmt := ⟨8, 7, 127, 0, 0x7FC0⟩
def e4m3 : FFmt := ⟨4, 3, 7, 1, 0x7F⟩
def e5m2 : FFmt := ⟨5, 2, 15, 0, 0x7F⟩
def e3m2 : FFmt := ⟨3, 2, 3, 2, 0⟩
def e2m3 : FFmt := ⟨2, 3, 1, 2, 0⟩
def e2m1 : FFmt := ⟨2, 1, 1, 2, 0⟩

/-- The table "Assay formats": the coding of an element. Format 16 is the index of R298. -/
def elemFmt (code : Nat) : EFmt :=
  match code with
  | 1 => .flt b64
  | 2 => .flt b32
  | 3 => .flt b16
  | 4 => .flt bf16
  | 5 | 7 => .flt e4m3
  | 6 | 8 => .flt e5m2
  | 9 => .flt e3m2
  | 10 => .flt e2m3
  | 11 => .flt e2m1
  | 12 => .int 8 6
  | 13 => .int 8 0
  | 14 => .int 4 0
  | 15 => .int 16 0
  | _ => .int 32 0

/-- Bits of an element. -/
def EFmt.width : EFmt → Nat
  | .flt f => 1 + f.exp + f.man
  | .int w _ => w

/-! ### Values -/

/-- The signed value of a finite one. -/
def signed (neg : Bool) (mag : Rat) : Rat := if neg then -mag else mag
/-- A finite value with the sign of zero given. -/
def ofRat (zeroNeg : Bool) (q : Rat) : FVal := if q = 0 then .fin zeroNeg 0 else if q < 0 then .fin true (-q) else .fin false q
def FVal.zero : FVal := .fin false 0
def FVal.ofInt (i : Int) : FVal := ofRat false i
def FVal.isNan : FVal → Bool
  | .nan => true
  | _ => false
def FVal.neg? : FVal → Bool
  | .nan => false
  | .inf n => n
  | .fin n _ => n
def FVal.negate : FVal → FVal
  | .nan => .nan
  | .inf n => .inf !n
  | .fin n m => .fin (!n) m

/-- Exact sum (R329, R330): opposite infinities give NaN, and a zero sum is -0 only of two -0. -/
def FVal.add (x y : FVal) : FVal :=
  match x, y with
  | .nan, _ | _, .nan => .nan
  | .inf a, .inf b => if a = b then .inf a else .nan
  | .inf a, .fin _ _ => .inf a
  | .fin _ _, .inf b => .inf b
  | .fin a m, .fin b n => ofRat (a && b) (signed a m + signed b n)

/-- Exact product. -/
def FVal.mul (x y : FVal) : FVal :=
  match x, y with
  | .nan, _ | _, .nan => .nan
  | .inf a, .inf b => .inf (a != b)
  | .inf a, .fin b n => if n = 0 then .nan else .inf (a != b)
  | .fin a m, .inf b => if m = 0 then .nan else .inf (a != b)
  | .fin a m, .fin b n => .fin (a != b) (m * n)

/-- Exact quotient. -/
def FVal.div (x y : FVal) : FVal :=
  match x, y with
  | .nan, _ | _, .nan => .nan
  | .inf _, .inf _ => .nan
  | .inf a, .fin b _ => .inf (a != b)
  | .fin a _, .inf b => .fin (a != b) 0
  | .fin a m, .fin b n => if n = 0 then (if m = 0 then .nan else .inf (a != b)) else .fin (a != b) (m / n)

/-- The order of MAX (R321): by value, +0 above -0; NaN apart. -/
def FVal.lt (x y : FVal) : Bool :=
  match x, y with
  | .nan, _ | _, .nan => false
  | .inf a, .inf b => a && !b
  | .inf a, .fin _ _ => a
  | .fin _ _, .inf b => !b
  | .fin a m, .fin b n => decide (signed a m < signed b n) || (decide (m = 0) && decide (n = 0) && a && !b)

/-! ### Rounding -/

/-- floor(log2 q) of a positive q. -/
def floorLog2 (q : Rat) : Int :=
  let e : Int := (Nat.log2 q.num.toNat : Int) - (Nat.log2 q.den : Int)
  if pow2 e ≤ q then e else e - 1

/-- Round a magnitude to an integer: 0 nearest even, 1 toward zero, 2 toward minus infinity (R321 CONVERT). -/
def roundInt (mode : Nat) (neg : Bool) (q : Rat) : Int :=
  match mode with
  | 0 => roundEven q
  | 1 => q.floor
  | _ => if neg then -((-q).floor) else q.floor

/-- The greatest exponent of a finite value. -/
def FFmt.emax (f : FFmt) : Int := (2 ^ f.exp : Nat) - (if f.spec = 0 then 2 else 1) - (f.bias : Int)
/-- The largest finite value (table "Assay formats"). -/
def FFmt.largest (f : FFmt) : Rat := pow2 f.emax * (2 - pow2 ((if f.spec = 1 then 1 else 0) - (f.man : Int)))

/-- The ULP in force at a magnitude: subnormals share that of the least normal (R324). -/
def FFmt.ulp (f : FFmt) (q : Rat) : Rat := pow2 (max (floorLog2 q) (1 - (f.bias : Int)) - (f.man : Int))

/-- What a result beyond the largest finite value becomes (R326). -/
def FFmt.beyond (f : FFmt) (sat neg : Bool) : FVal :=
  if sat || decide (f.spec = 2) then .fin neg f.largest else if f.spec = 1 then .nan else .inf neg

/-- Round a value to a floating-point format (R326). -/
def FFmt.round (f : FFmt) (v : FVal) (mode : Nat := 0) (sat : Bool := false) : FVal :=
  match v with
  | .nan => .nan
  | .inf n => if f.spec = 0 then .inf n else FFmt.beyond f sat n
  | .fin n m =>
    if m = 0 then .fin n 0
    else
      let top := f.largest
      let u := f.ulp m
      let r : Rat := (roundInt mode n (m / u) : Rat) * u
      let over' := if mode = 0 then decide (top + f.ulp top / 2 ≤ m) else decide (mode = 2) && n && decide (top < m)
      if over' then FFmt.beyond f sat n else .fin n (min r top)

/-- Round a value to an integer format, ties to even, and saturate (R326). -/
def intRound (width places : Nat) (v : FVal) (mode : Nat := 0) : Int :=
  let hi : Int := 2 ^ (width - 1) - 1
  match v with
  | .nan => 0
  | .inf n => if n then -hi - 1 else hi
  | .fin n m =>
    let k := roundInt mode n (m * pow2 places)
    max (-hi - 1) (min hi (if n then -k else k))

/-- The value of an element code. -/
def EFmt.value (e : EFmt) (c : Nat) : FVal :=
  match e with
  | .int w p => ofRat false (((BitVec.ofNat w c).toInt : Rat) * pow2 (-(p : Int)))
  | .flt f =>
    let n := bit c (f.exp + f.man)
    let x := c / 2 ^ f.man % 2 ^ f.exp
    let m := c % 2 ^ f.man
    let ones := decide (x = 2 ^ f.exp - 1)
    if f.spec = 0 ∧ ones = true then (if m = 0 then .inf n else .nan)
    else if f.spec = 1 ∧ ones = true ∧ m = 2 ^ f.man - 1 then .nan
    else if x = 0 then .fin n ((m : Rat) * pow2 (1 - (f.bias : Int) - (f.man : Int)))
    else .fin n (((2 ^ f.man + m : Nat) : Rat) * pow2 ((x : Int) - (f.bias : Int) - (f.man : Int)))

/-- The code of a value that the format holds. -/
def FFmt.code (f : FFmt) (v : FVal) : Nat :=
  let s (n : Bool) : Nat := if n then 2 ^ (f.exp + f.man) else 0
  match v with
  | .nan => f.nan
  | .inf n => s n + (2 ^ f.exp - 1) * 2 ^ f.man
  | .fin n m =>
    if m = 0 then s n
    else
      let e := max (floorLog2 m) (1 - (f.bias : Int))
      let k := (m * pow2 ((f.man : Int) - e)).floor.toNat
      s n + (if k < 2 ^ f.man then k else (e + (f.bias : Int)).toNat * 2 ^ f.man + (k - 2 ^ f.man))

/-- Round a value to an element format and code it (R326). -/
def EFmt.encode (e : EFmt) (v : FVal) (mode : Nat := 0) (sat : Bool := false) : Nat :=
  match e with
  | .flt f => f.code (f.round v mode sat)
  | .int w p => intBits w (intRound w p v mode)

/-! ### Binary32 steps -/

def add32 (x y : FVal) : FVal := b32.round (x.add y)
def sub32 (x y : FVal) : FVal := b32.round (x.add y.negate)
def mul32 (x y : FVal) : FVal := b32.round (x.mul y)
def div32 (x y : FVal) : FVal := b32.round (x.div y)
/-- rne32 of a real given by a rational. -/
def rne32 (q : Rat) : FVal := b32.round (ofRat false q)

/-! ### Canonical order (R332) -/

/-- One level of the tree: neighbours are added, lower first, and a lone last term stays. -/
def pairLevel (add : FVal → FVal → FVal) : List FVal → List FVal
  | x :: y :: r => add x y :: pairLevel add r
  | l => l

/-- The root of the tree; absent terms take no part. -/
def pairFuel (add : FVal → FVal → FVal) : Nat → List FVal → FVal
  | _, [] => FVal.zero
  | _, [x] => x
  | 0, x :: _ => x
  | f + 1, l => pairFuel add f (pairLevel add l)

/-- pair(v) with every addition rounded to a format (R332). -/
def pairSum (f : FFmt) (l : List FVal) : FVal := pairFuel (fun x y => f.round (x.add y)) l.length l

/-- The exact sum of R328 and R329. -/
def exactSum : List FVal → FVal
  | [] => FVal.zero
  | x :: r => r.foldl FVal.add x

/-! ### Constructions -/

/-- ln 2 with 256 fraction bits. -/
def ln2 : Rat := ((((List.range 260).map fun k => 2 ^ 256 / ((k + 1) * 2 ^ (k + 1))).sum : Nat) : Rat) / ((2 ^ 256 : Nat) : Rat)

/-- The greatest n with n^k ≤ v, below 2^bits. -/
def rootFloor (k v : Nat) : Nat → Nat
  | 0 => 0
  | b + 1 =>
    let hi := 2 * rootFloor k (v / 2 ^ k) b
    if (hi + 1) ^ k ≤ v then hi + 1 else hi

/-- The middle of the interval of width 2^-62 that holds an irrational value between n and n + 1 units of 2^-62: no rounding boundary of
binary32 for values from 2^-30 up lies inside it. -/
def midpoint (n : Nat) : Rat := ((2 * n + 1 : Nat) : Rat) / ((2 ^ 63 : Nat) : Rat)

/-- T[j] of R336. -/
def expTable (j : Nat) : FVal :=
  if j = 0 then .fin false 1 else rne32 (midpoint (rootFloor 64 (2 ^ (62 * 64 + j)) 64))

/-- C1 of R336: ln 2 / 64 at 12 significant bits. -/
def expC1 : FVal := FFmt.round ⟨8, 11, 127, 0, 0⟩ (ofRat false (ln2 / 64))
def FVal.rat : FVal → Rat
  | .fin n m => signed n m
  | _ => 0
def expC2 : FVal := rne32 (ln2 / 64 - expC1.rat)
def expL : FVal := rne32 (64 / ln2)
def expC3 : FVal := rne32 (1 / 6)

/-- exp(x) of R336. -/
def exp32 (x : FVal) : FVal :=
  match x with
  | .nan => .nan
  | .inf n => if n then FVal.zero else .inf false
  | .fin _ _ =>
    if 89 < x.rat then .inf false
    else if x.rat < -104 then FVal.zero
    else
      let k := roundEven (mul32 x expL).rat
      let kf := FVal.ofInt k
      let r := sub32 (sub32 x (mul32 kf expC1)) (mul32 kf expC2)
      let half := ofRat false (1 / 2)
      let one := ofRat false 1
      let p := mul32 r (add32 one (mul32 r (add32 half (mul32 r expC3))))
      let j := (k % 64).toNat
      let v := expTable j
      let v := add32 v (mul32 v p)
      b32.round (v.mul (.fin false (pow2 ((k - j) / 64))))

/-- pi with 400 fraction bits, by Machin's formula. -/
def atanInv (n : Nat) : Int :=
  ((List.range 200).foldl (fun (a : Int × Nat) k => (a.1 + (if k % 2 = 0 then 1 else -1) * ((a.2 / (2 * k + 1) : Nat) : Int), a.2 / (n * n))) ((0 : Int), 2 ^ 440 / n)).1

/-- The square root of 2 pi with 400 fraction bits. -/
def sqrt2pi : Nat := Nat.sqrt ((2 * (16 * atanInv 5 - 4 * atanInv 239)).toNat * 2 ^ 360)

/-- φ at the distance a/64 from 0, with 400 fraction bits. -/
def phiFix (a : Nat) : Nat :=
  let e := ((List.range 320).foldl (fun (s : Nat × Nat) k => (s.1 + s.2, s.2 * (a * a) / (8192 * (k + 1)))) (0, 2 ^ 400)).1
  2 ^ 1200 / (e * sqrt2pi)

/-- Φ(a/64) - 1/2, with 400 fraction bits. -/
def halfPhi (a : Nat) : Nat :=
  let s := ((List.range 400).foldl (fun (s : Nat × Nat) k => (s.1 + s.2, s.2 * (a * a) / (4096 * (2 * k + 3)))) (0, 2 ^ 400 * a / 64)).1
  phiFix a * s / 2 ^ 400

def fix400 (n : Nat) : Rat := (n : Rat) / ((2 ^ 400 : Nat) : Rat)
def dist512 (i : Nat) : Nat := if i < 512 then 512 - i else i - 512

/-- P[i] of R337. -/
def geluP (i : Nat) : FVal :=
  let h := fix400 (halfPhi (dist512 i))
  rne32 (if i < 512 then 1 / 2 - h else 1 / 2 + h)

/-- D[i] of R337. -/
def geluD (i : Nat) : FVal := rne32 (fix400 (phiFix (dist512 i)) / 64)

/-- gelu(x) of R337. -/
def gelu32 (x : FVal) : FVal :=
  match x with
  | .nan => .nan
  | .inf n => if n then .fin true 0 else .inf false
  | .fin _ _ =>
    if 8 ≤ x.rat then x
    else if x.rat < -8 then .fin true 0
    else
      let c (n : Int) : FVal := FVal.ofInt n
      let u := mul32 (add32 x (c 8)) (c 64)
      let i := min u.rat.floor.toNat 1023
      let t := sub32 u (c i)
      let (p0, p1, d0, d1) := (geluP i, geluP (i + 1), geluD i, geluD (i + 1))
      let dp := sub32 p1 p0
      let a := sub32 (sub32 (mul32 (c 3) dp) (mul32 (c 2) d0)) d1
      let b := sub32 (add32 d0 d1) (mul32 (c 2) dp)
      mul32 x (add32 p0 (mul32 t (add32 d0 (mul32 t (add32 a (mul32 t b))))))

/-- R[j] of R338. -/
def rsqrtTable (j : Nat) : FVal := rne32 (midpoint (Nat.sqrt (128 * 2 ^ 124 / (129 + 2 * j))))

/-- rsqrt(w) of R338. -/
def rsqrt32 (w : FVal) : FVal :=
  match w with
  | .nan => .nan
  | .inf n => if n then .nan else FVal.zero
  | .fin n m =>
    if m = 0 then .inf false
    else if n then .nan
    else
      let e := floorLog2 m / 2
      let f := m * pow2 (-2 * e)
      let y := rsqrtTable ((f - 1) * 64).floor.toNat
      let h := mul32 (ofRat false (1 / 2)) (.fin false f)
      let step (y : FVal) : FVal := mul32 y (sub32 (ofRat false (3 / 2)) (mul32 (mul32 h y) y))
      b32.round ((step (step y)).mul (.fin false (pow2 (-e))))

end Sys2Proof.Machine
end

