-- ==== Sys2Proof/Machine/TervonState.lean ====
section
/-! DEFINITION. The state of a Tervon as plain data: one structure per group of registers, with its value at reset. -/

namespace Sys2Proof.Machine

/-- A stored word as it stands: 8 data bytes and the check byte (R411). -/
structure EccWord where
  /-- Data (15 R411). -/
  data : DWord
  /-- Check byte (15 R411). -/
  chk : Byte
  deriving DecidableEq, Repr

/-- `EccWord` at reset. -/
def EccWord.reset : EccWord where
  data := 0
  chk := 0

/-- Identity, start-up, reset and set-up state of a Tervon (R428, R431, R435, R441). -/
structure TvBoot where
  /-- Fused revision (17 TV_ID). -/
  revision : Byte
  /-- Fused serial (17 TV_ID). -/
  serial : DWord
  /-- Set-up writes are accepted (17 TV_BOOT_STAT). -/
  ready : Bool
  /-- 0 boot, 1 HBM, 2 BIST, 3 internal leaf, 4 ready (17 TV_BOOT_STAT). -/
  stage : Nat
  /-- Tiles failing BIST (17 TV_BOOT_STAT). -/
  tilesFailing : Nat
  /-- A cold reset after a thermal trip is held (16 R429). -/
  held : Bool
  /-- Cause of the last reset (16 TV_RST_STAT). -/
  cause : BitVec 3
  /-- The last start restored the warm roster (16 TV_RST_STAT). -/
  warm : Bool
  /-- Bad_write (16 TV_RST_STAT). -/
  rstBad : Half
  /-- Resets other than function-level, kept in the repair area of the NOR device (16 TV_RST_STAT). -/
  starts : Word
  /-- 0 open, 1 committed, 2 failed (17 TV_SETUP_STAT). -/
  setup : Nat
  /-- Check that failed (17 TV_SETUP_STAT). -/
  code : Nat
  /-- RWL writes after commit (17 TV_SETUP_STAT). -/
  late : Half
  /-- Writes ignored (17 TV_SETUP_STAT). -/
  badWrite : Word
  /-- Pod, shape, x, y and desig (17 TV_POD). -/
  pod : Word
  /-- DID of the Tervon (17 TV_DID). -/
  did : Did
  /-- DID of the internal leaf (17 TV_ILEAF_DID). -/
  ileafDid : Did
  /-- Vacancy map (17 TV_POD_VACANT). -/
  vacant : DWord
  /-- Failed map as written (17 TV_POD_FAILED). -/
  failed : DWord
  /-- Own time of the last write of the failed map, ns (13 R359, R367). -/
  failedAt : Nat
  /-- Failed map in force since an epoch mark (13 R359). -/
  failedNow : DWord
  /-- Digest that pod software wrote (17 TV_ROSTER_DIGEST). -/
  digestWr : DWord
  /-- En and len per leaf port (17 TV_RING_CTL). -/
  ringCtl : Cells Word
  /-- Size 4, shares 2, 6, 8, 8, 8 (15 TV_LARDER_CTL). -/
  larderCtl : DWord
  /-- A designation disagreement was found (01 R13). -/
  designation : Bool
  deriving DecidableEq, Repr

/-- `TvBoot` at reset. -/
def TvBoot.reset : TvBoot where
  revision := 0
  serial := 0
  ready := false
  stage := 0
  tilesFailing := 0
  held := false
  cause := 0
  warm := false
  rstBad := 0
  starts := 0
  setup := 0
  code := 0
  late := 0
  badWrite := 0
  pod := 0
  did := 0
  ileafDid := 0
  vacant := 0
  failed := 0
  failedAt := 0
  failedNow := 0
  digestWr := 0
  ringCtl := []
  larderCtl := 0x208206204
  designation := false

/-- Tile map, spares and repair of tiles (R203 to R207, R364). -/
structure TvTiles where
  /-- Physical tile of each logical tile; none absent (07 R203). -/
  map : List (Option Nat)
  /-- Physical tiles that failed BIST or were retired; kept in the repair area (07 R204). -/
  dead : List Nat
  /-- Logical tiles whose SRAM and Kale memory are clearing (07 R207). -/
  clearing : List Nat
  /-- Logical tiles and the spare physical tiles under BIST for them (13 R364). -/
  testing : List (Nat × Nat)
  /-- Logical tile, spare tile and own time its load completed, ns, waiting for an epoch mark (13 R364, R367). -/
  joining : List (Nat × Nat × Nat)
  deriving DecidableEq, Repr

/-- `TvTiles` at reset. -/
def TvTiles.reset : TvTiles where
  map := (List.range 32).map (fun l => some (9 * (l / 8) + l % 8))
  dead := []
  clearing := []
  testing := []
  joining := []

/-- One ring of a function (R374, R377, R444). -/
structure HostRing where
  /-- Ring address (17 R444). -/
  base : DWord
  /-- Log2 of the entries (17 R444). -/
  size : Nat
  /-- 0 DISABLED, 1 RUNNING, 2 STOPPED (14 R377). -/
  state : Nat
  /-- 0 none, 1 MASTER_DISABLED, 2 BAD_DOORBELL, 3 READ_ERROR (17 R444). -/
  cause : Nat
  /-- The index the Tervon keeps (17 R444). -/
  head : Word
  /-- The index that the last valid doorbell gave (17 R444). -/
  tail : Word
  /-- The last value written to the doorbell (14 R371). -/
  bell : Word
  /-- A command ring was disabled while jobs run (17 R445). -/
  draining : Bool
  deriving DecidableEq, Repr

/-- `HostRing` at reset. -/
def HostRing.reset : HostRing where
  base := 0
  size := 6
  state := 0
  cause := 0
  head := 0
  tail := 0
  bell := 0
  draining := false

/-- An MSI-X vector (R373). -/
structure MsixVec where
  /-- Message address (14 R373). -/
  addr : DWord
  /-- Message data (14 R373). -/
  data : Word
  /-- Mask bit (14 R373). -/
  masked : Bool
  /-- Pending bit (14 R373). -/
  pend : Bool
  /-- A message waits for the end of a coalescing interval (14 R373). -/
  wanted : Bool
  /-- Own time at which the coalescing interval ends, ns (14 R373). -/
  endsAt : Option Nat
  deriving DecidableEq, Repr

/-- `MsixVec` at reset. -/
def MsixVec.reset : MsixVec where
  addr := 0
  data := 0
  masked := true
  pend := false
  wanted := false
  endsAt := none

/-- A PCIe function: its rings, vectors and counts (R371 to R377, R444). -/
structure HostFn where
  /-- Command rings 0 to 3, completion ring 4, record ring 5 (17 R444). -/
  rings : Cells HostRing
  /-- Bus Master Enable (14 R391). -/
  bme : Bool
  /-- MSI-X vectors 0 to 15 (14 R373). -/
  vecs : Cells MsixVec
  /-- Coalescing intervals (17 TV_MSIX_COAL). -/
  coal : Word
  /-- Record drops (17 R444). -/
  drops : Word
  /-- BAR2 discards (17 R444). -/
  bar2 : Word
  /-- Bad_write (17 R444). -/
  badWrite : Word
  /-- Poisoned BAR writes discarded (14 R393). -/
  poisonedWr : Word
  /-- Records dropped since the last LOSS record (14 R26). -/
  lost : Nat
  /-- Record time of the first of them, ns (14 R26). -/
  lostFirst : Nat
  /-- Record time of the last of them, ns (14 R26). -/
  lostLast : Nat
  /-- Class when the loss began (01 R27). -/
  lostCls : BitVec 4
  /-- Next record sequence (14 R389). -/
  recSeq : Word
  /-- Completions that wait in reserved slots for Bus Master Enable (14 R391). -/
  heldComp : List (List Byte)
  /-- After a function-level reset the partition's tiles take no new job (14 R392). -/
  noTiles : Bool
  /-- Low words held per BAR0 offset (17 R433). -/
  heldWr : Cells Word
  /-- Upper words latched by the last read of a lowest word, by their place in the register (17 R433). -/
  latch : Cells Word
  deriving DecidableEq, Repr

/-- `HostFn` at reset. -/
def HostFn.reset : HostFn where
  rings := []
  bme := false
  vecs := []
  coal := 0
  drops := 0
  bar2 := 0
  badWrite := 0
  poisonedWr := 0
  lost := 0
  lostFirst := 0
  lostLast := 0
  lostCls := 0
  recSeq := 0
  heldComp := []
  noTiles := false
  heldWr := []
  latch := []

/-- A descriptor that was read, from its fetch to its completion (R381). -/
structure Job where
  /-- Function, command ring and index (14 R381). -/
  ref : JobRef
  /-- The 64 descriptor bytes (14 R378). -/
  desc : List Byte
  /-- The job has started (14 R381). -/
  started : Bool
  /-- Step of a job that has several (14 R386). -/
  phase : Nat
  /-- Input bytes kept between steps (14 R378). -/
  input : List Byte
  /-- Output bytes so far (14 R378). -/
  result : List Byte
  /-- Detail so far (14 R383). -/
  d0 : Nat
  /-- Detail so far (14 R383). -/
  d1 : Nat
  /-- Answers outstanding (14 R382). -/
  waiting : Nat
  /-- Own time of the start, ns (16 R425). -/
  startedAt : Nat
  /-- Its descriptor arrived poisoned (14 R393). -/
  poison : Bool
  deriving DecidableEq, Repr

/-- `Job` at reset. -/
def Job.reset : Job where
  ref := ⟨0, 0, 0⟩
  desc := []
  started := false
  phase := 0
  input := []
  result := []
  d0 := 0
  d1 := 0
  waiting := 0
  startedAt := 0
  poison := false

/-- A request of the Tervon to a leaf, from its first sending to its answer or failure (R159). -/
structure TvReq where
  /-- Tag (05 R159). -/
  tag : Half
  /-- Target leaf (05 R159). -/
  did : Did
  /-- Leaf port 0 to 7; 13 the internal link; 14 the torus (05 R159). -/
  port : Nat
  /-- Ring position (05 R159). -/
  pos : BitVec 4
  /-- The request (05 R159). -/
  pay : Payload
  /-- The job it serves; none for the Tervon's own requests (05 R159). -/
  job : Option JobRef
  /-- Own time of the last sending, ns (05 R159). -/
  at' : Nat
  /-- The retry through the buddy was sent (05 R159). -/
  retried : Bool
  /-- Answered SLEEPING and kept queued (05 R163). -/
  asleep : Bool
  /-- Waits because 16 writes to the leaf are outstanding (05 R161). -/
  held : Bool
  deriving DecidableEq, Repr

/-- `TvReq` at reset. -/
def TvReq.reset : TvReq where
  tag := 0
  did := 0
  port := 0
  pos := 0
  pay := .nop []
  job := none
  at' := 0
  retried := false
  asleep := false
  held := false

/-- A roster entry (R360), keyed 8 x ring + position. -/
structure RosterEnt where
  /-- 0 EMPTY, 1 ADMITTED, 2 SUSPECT (13 R360). -/
  state : Nat
  /-- Attested in the current epoch (13 R360). -/
  attested : Bool
  /-- DID (13 R360). -/
  did : Did
  /-- Roster bytes 8 to 23: lot, wafer, die x, die y and serial; empty reads as zeros (13 R360). -/
  ident : List Byte
  /-- Last attested power-cycle count (13 R360). -/
  power : Word
  /-- Last attested operating time (13 R360). -/
  opTime : Word
  /-- Public key; empty reads as zeros (13 R360). -/
  key : List Byte
  /-- Time of the last state change, ns (13 R360). -/
  changed : Nat
  /-- Own time of the last frame of its leaf at either end, ns (13 R360). -/
  seenAt : Option Nat
  /-- Last attestation (13 R361). -/
  observed : Option AttestAnswer
  /-- Conflict causes raised and not cleared (13 R362). -/
  raised : List Nat
  /-- Quarantined frames discarded (13 R360). -/
  quarantined : Word
  deriving DecidableEq, Repr

/-- `RosterEnt` at reset. -/
def RosterEnt.reset : RosterEnt where
  state := 0
  attested := false
  did := 0
  ident := []
  power := 0
  opTime := 0
  key := []
  changed := 0
  seenAt := none
  observed := none
  raised := []
  quarantined := 0

/-- The lease of a position as the Tervon sees it, keyed 8 x ring + position; 64 the internal leaf's (R347, R348). -/
structure TvLease where
  /-- The leaf has been discovered (13 R347). -/
  known : Bool
  /-- This Tervon holds the lease (13 R348). -/
  held : Bool
  /-- Epoch of the lease (05 R147). -/
  epoch : Half
  /-- Expiry of the last grant, ns (13 R348). -/
  expiry : Nat
  /-- Own time of the last GRANTED or RENEWED, ns (13 R348). -/
  granted : Nat
  /-- Own time at which the epoch began, ns (08 R245). -/
  epochAt : Nat
  /-- Own time at which the lease was last lost, ns (08 R245). -/
  lostAt : Nat
  /-- Duration of the last grant, ms (13 R348). -/
  dur : Nat
  /-- The last renew was answered REFUSED_EPOCH (13 R348). -/
  refused : Bool
  /-- Own time of the last renew still unanswered, ns (13 R348). -/
  renewAt : Option Nat
  /-- Own time at which the takeover delay ends, ns (13 R347). -/
  takeoverAt : Option Nat
  /-- Own time at which the fence hold-off ends, ns (13 R350). -/
  fenceUntil : Option Nat
  /-- Serial in the last LEASE_GRANT (13 R361). -/
  serial : DWord
  /-- DID in the last LEASE_GRANT (05 R148). -/
  grantDid : Did
  /-- Own time by which the signature must arrive, ns (13 R361). -/
  attestBy : Option Nat
  /-- Check 1 failed in this epoch, so that the attestation is kept for admission and decides nothing more (13 R361). -/
  decided : Bool
  /-- Nonce of the attestation in progress (13 R361). -/
  nonce : List Byte
  /-- Budgets of classes 1 to 3 were assigned in this epoch (13 R360). -/
  budgets : Bool
  /-- The last SLEEPING carried state 0 (05 R163). -/
  asleep : Bool
  /-- Next write tag towards this leaf (05 R161). -/
  writeSeq : Half
  /-- Function and command ring whose descriptor acquired the lock (14 R395). -/
  lockBy : Option (Nat × Nat)
  deriving DecidableEq, Repr

/-- `TvLease` at reset. -/
def TvLease.reset : TvLease where
  known := false
  held := false
  epoch := 0
  expiry := 0
  granted := 0
  epochAt := 0
  lostAt := 0
  dur := 0
  refused := false
  renewAt := none
  takeoverAt := none
  fenceUntil := none
  serial := 0
  grantDid := 0
  attestBy := none
  decided := false
  nonce := []
  budgets := false
  asleep := false
  writeSeq := 0
  lockBy := none

/-- An item of a leaf image: the absolute value at the last snapshot that included it, and that instant (R228). -/
structure ImgItem where
  /-- Absolute value (08 R228). -/
  val : Nat
  /-- Instant, ns (08 R228). -/
  at' : Nat
  /-- Tally sequence (13 R357). -/
  seq : Word
  deriving DecidableEq, Repr

/-- `ImgItem` at reset. -/
def ImgItem.reset : ImgItem where
  val := 0
  at' := 0
  seq := 0

/-- A Tally being received (R149 to R152). -/
structure Asm where
  /-- Snapshot sequence (05 R149). -/
  seq : Word
  /-- Snapshot kind (05 R149). -/
  kind : Byte
  /-- Frame flags (05 R149). -/
  flags : Byte
  /-- Reference sequence (05 R149). -/
  refSeq : Word
  /-- Stream parts by offset (05 R149). -/
  parts : List (Nat × List Byte)
  /-- TALLY frames received (05 R149). -/
  count : Nat
  /-- HIST frames received: histogram, absolute bit and bytes (05 R151). -/
  hists : List (Nat × Bool × List Byte)
  /-- Leaf port; 13 the internal link (05 R149). -/
  port : Nat
  /-- Epoch of its frames (08 R245). -/
  epoch : Half
  deriving DecidableEq, Repr

/-- `Asm` at reset. -/
def Asm.reset : Asm where
  seq := 0
  kind := 0
  flags := 0
  refSeq := 0
  parts := []
  count := 0
  hists := []
  port := 0
  epoch := 0

/-- Rebuilt absolute values of one snapshot (R101, R228). -/
structure RefVals where
  /-- Its sequence (08 R228). -/
  seq : Word
  /-- Absolute values by section (08 R228). -/
  sects : List (Cells Nat)
  /-- Absolute histogram bins (08 R243). -/
  bins : Cells (List Nat)
  deriving DecidableEq, Repr

/-- `RefVals` at reset. -/
def RefVals.reset : RefVals where
  seq := 0
  sects := [[], [], [], [], []]
  bins := []

/-- What the Tervon keeps for a leaf, keyed by DID (R228, R235). -/
structure LeafRec where
  /-- Leaf image by section: counter, slot counter, station, sample count, sum (08 R228). -/
  image : List (Cells ImgItem)
  /-- Serial of the leaf whose image is held (08 R228). -/
  primed : Option DWord
  /-- Absolute bins of each histogram at the last full snapshot (08 R243). -/
  bins : Cells (List Nat)
  /-- Rebuilt absolute values of the last snapshots: what a reference may name (08 R228). -/
  refs : List RefVals
  /-- Sequence of the previous Tally accepted (08 R229). -/
  last : Option Word
  /-- Tallies being received (05 R149). -/
  asm : List Asm
  /-- Tallies being fetched again and the attempts made (08 R234). -/
  refetch : List (Word × Nat)
  /-- Instants whose Tally is complete or marked missing, newest first (08 R235). -/
  done : List Nat
  /-- Stream indexes that take a gap at their next sample, and how many (08 R236). -/
  gapped : List (Nat × Nat)
  /-- Trace stream offset expected per core (04 R115). -/
  traceOff : Cells Word
  /-- VERDICT frames sent last, by tag, newest first (05 R163). -/
  sent : List (Half × Payload)
  /-- VERDICT frames that SLEEPING refused, oldest first (05 R163). -/
  queued : List (Half × Payload)
  deriving DecidableEq, Repr

/-- `LeafRec` at reset. -/
def LeafRec.reset : LeafRec where
  image := [[], [], [], [], []]
  primed := none
  bins := []
  refs := []
  last := none
  asm := []
  refetch := []
  done := []
  gapped := []
  traceOff := []
  sent := []
  queued := []

/-- A stream entry (R230). -/
structure StreamEnt where
  /-- Key DID (08 R230). -/
  did : Did
  /-- Kind (08 R230). -/
  kind : BitVec 4
  /-- Key item index (08 R230). -/
  item : Half
  /-- Defined, primed, REBORN, ND, crossed up, crossed down, saturated (08 R230). -/
  flags : Byte
  /-- Parameter set (08 R230). -/
  pset : BitVec 4
  /-- Time of the latest sample, ns (08 R230). -/
  last : DWord
  /-- Sequence of that sample (08 R230). -/
  seq : Word
  /-- Losses and rebirths (08 R230). -/
  gaps : Half
  /-- Samples since priming (08 R230). -/
  samples : Half
  /-- EWMA mean, signed (08 R230). -/
  mean : DWord
  /-- EWMA variance (08 R230). -/
  var' : DWord
  /-- Upward CUSUM (08 R230). -/
  up : Word
  /-- Downward CUSUM (08 R230). -/
  down : Word
  /-- Least sample, signed (08 R230). -/
  min' : DWord
  /-- Greatest sample, signed (08 R230). -/
  max' : DWord
  deriving DecidableEq, Repr

/-- `StreamEnt` at reset. -/
def StreamEnt.reset : StreamEnt where
  did := 0
  kind := 0
  item := 0
  flags := 0
  pset := 0
  last := 0
  seq := 0
  gaps := 0
  samples := 0
  mean := 0
  var' := 0
  up := 0
  down := 0
  min' := 0
  max' := 0

/-- A line of the stream cache (R212). -/
structure CacheLine where
  /-- Stream index (07 R212). -/
  idx : Nat
  /-- The entry (07 R212). -/
  ent : StreamEnt
  /-- Differs from HBM (07 R212). -/
  dirty : Bool
  deriving DecidableEq, Repr

/-- `CacheLine` at reset. -/
def CacheLine.reset : CacheLine where
  idx := 0
  ent := StreamEnt.reset
  dirty := false

/-- A sample of a Tally for one stream (R228). -/
structure StreamSample where
  /-- Stream index (08 R228). -/
  idx : Nat
  /-- Kind (08 R228). -/
  kind : Nat
  /-- Item (08 R228). -/
  item : Nat
  /-- Sample (08 R228). -/
  x : Int
  /-- It was clamped (08 R228). -/
  clamped : Bool
  deriving DecidableEq, Repr

/-- `StreamSample` at reset. -/
def StreamSample.reset : StreamSample where
  idx := 0
  kind := 0
  item := 0
  x := 0
  clamped := false

/-- A complete Tally whose samples wait for the watermark (R236). -/
structure HeldTally where
  /-- Leaf (08 R236). -/
  did : Did
  /-- Instant, ns (08 R236). -/
  instant : Nat
  /-- Sequence (08 R236). -/
  seq : Word
  /-- Follows a loss (08 R229). -/
  lost : Bool
  /-- Samples by stream (08 R228). -/
  samples : List StreamSample
  /-- Counters reassigned (08 R228). -/
  reassigned : List Nat
  deriving DecidableEq, Repr

/-- `HeldTally` at reset. -/
def HeldTally.reset : HeldTally where
  did := 0
  instant := 0
  seq := 0
  lost := false
  samples := []
  reassigned := []

/-- Streams and the watermark (R225 to R242). -/
structure StreamSt where
  /-- Stream table in HBM (08 R230). -/
  table : Cells StreamEnt
  /-- Stream cache, most recently used line first in each set (07 R212). -/
  cache : Cells (List CacheLine)
  /-- Parameter sets 0 to 255 (08 R231). -/
  psets : Cells (BitVec 128)
  /-- Watermark M, ns (08 R235). -/
  wm : Nat
  /-- Lag, us (08 TV_STREAM_WM). -/
  lag : Nat
  /-- Tallies whose samples wait for M (08 R236). -/
  waiting : List HeldTally
  /-- Own time of the last aging sweep, ns (08 R237). -/
  sweepAt : Nat
  /-- Bad_write (17 TV_STREAM_STAT). -/
  badWrite : Word
  /-- Streams evicted by aging and not primed since (08 R239). -/
  evicted : List Nat
  /-- Late Tallies (17 TV_STREAM_STAT). -/
  late : Word
  /-- Late partials (17 TV_STREAM_STAT). -/
  redLate : Word
  /-- Samples to undefined streams (17 TV_STREAM_STAT). -/
  undef : Word
  /-- Stale samples (17 TV_STREAM_STAT). -/
  stale : Word
  deriving DecidableEq, Repr

/-- `StreamSt` at reset. -/
def StreamSt.reset : StreamSt where
  table := []
  cache := []
  psets := []
  wm := 0
  lag := 200
  waiting := []
  sweepAt := 0
  badWrite := 0
  evicted := []
  late := 0
  redLate := 0
  undef := 0
  stale := 0

/-- What one leaf's Tally of an instant gives to reductions and Gleaner (R245, R255). -/
structure DieTally where
  /-- Leaf (08 R245). -/
  did : Did
  /-- Instant, ns (08 R245). -/
  instant : Nat
  /-- Snapshot kind (08 R243). -/
  kind : Nat
  /-- Arrived under the epoch held at the instant (08 R245). -/
  epochOk : Bool
  /-- Was not late (09 R271). -/
  applied : Bool
  /-- Own time of its completion, ns (09 R269). -/
  at' : Nat
  /-- Counter changes (08 R244). -/
  counters : Cells Nat
  /-- Slot counter changes, key 4 engine + state (08 R244). -/
  slots : Cells Nat
  /-- Station lost-increment changes (08 R244). -/
  stations : Cells Nat
  /-- Per histogram: 64 bin changes, sample count change, sum change, minimum and its time, maximum and its time (08 R244). -/
  hists : Cells (List Nat)
  deriving DecidableEq, Repr

/-- `DieTally` at reset. -/
def DieTally.reset : DieTally where
  did := 0
  instant := 0
  kind := 0
  epochOk := false
  applied := false
  at' := 0
  counters := []
  slots := []
  stations := []
  hists := []

/-- A reduction definition (R243), keyed by reduction ID. -/
structure RedDef where
  /-- Defining function (08 R243). -/
  fn : Nat
  /-- The ten descriptor bytes of the digest (08 R243). -/
  bytes : List Byte
  deriving DecidableEq, Repr

/-- `RedDef` at reset. -/
def RedDef.reset : RedDef where
  fn := 0
  bytes := []

/-- One reduction of one instant in flight (R246 to R249). -/
structure RedRun where
  /-- Instant, ns (08 R246). -/
  instant : Nat
  /-- Reduction ID (08 R246). -/
  id : Nat
  /-- Own contribution (08 R246). -/
  own : Option ReduceP
  /-- Partials received, by the child's x and y (08 R248). -/
  parts : List (Nat × Nat × ReduceP)
  /-- The partial was sent upward (08 R248). -/
  sent : Bool
  /-- Result held (08 R248). -/
  result : Option ReduceP
  /-- The result was counted lost (08 R249). -/
  lost : Bool
  /-- Root in force when the instant started (08 TV_RED_CTL). -/
  root : Nat
  /-- Fleet deterministic mode in force at the instant (12 R341). -/
  mode : Bool
  /-- Its instant was abandoned for a 17th (08 R249). -/
  dropped : Bool
  /-- Its result, or its loss, was handed to Gleaner (08 R249). -/
  told : Bool
  deriving DecidableEq, Repr

/-- `RedRun` at reset. -/
def RedRun.reset : RedRun where
  instant := 0
  id := 0
  own := none
  parts := []
  sent := false
  result := none
  lost := false
  root := 0
  mode := false
  dropped := false
  told := false

/-- Pod reductions (R243 to R254). -/
structure RedSt where
  /-- Root 0, local_wait 50, hop_wait 4 (08 TV_RED_CTL). -/
  ctl : Word
  /-- Definitions (08 R243). -/
  defs : Cells RedDef
  /-- Reductions in flight, oldest instant first (08 R249). -/
  runs : List RedRun
  /-- Complete Tallies of the instants in flight, newest first (08 R246). -/
  tallies : List DieTally
  /-- Results lost (08 R249). -/
  lostCount : Word
  deriving DecidableEq, Repr

/-- `RedSt` at reset. -/
def RedSt.reset : RedSt where
  ctl := 0x040C80
  defs := []
  runs := []
  tallies := []
  lostCount := 0

/-- A straggler suspect (R268). -/
structure Suspect where
  /-- Die (09 R268). -/
  did : Did
  /-- Metric class (09 R268). -/
  cls : Nat
  /-- Instant, ns (09 R268). -/
  instant : Nat
  /-- Call ID (09 R268). -/
  call : Word
  /-- Reduction ID of its class (09 R265). -/
  red : Nat
  /-- Outstanding; false once confirmed (09 R268). -/
  open' : Bool
  deriving DecidableEq, Repr

/-- `Suspect` at reset. -/
def Suspect.reset : Suspect where
  did := 0
  cls := 0
  instant := 0
  call := 0
  red := 0
  open' := true

/-- A metric class of one instant, evaluated or skipped (R257, R259). -/
structure GlnStat where
  /-- Metric class (09 R257). -/
  cls : Nat
  /-- Instant, ns (09 R257). -/
  instant : Nat
  /-- TV_GLN_CLASS as it stood when the result arrived (09 R256). -/
  cfg : BitVec 128
  /-- Skipped (09 R257). -/
  skipped : Bool
  /-- Median, Q48.16 (09 R259). -/
  med : Nat
  /-- MAD, Q48.16 (09 R259). -/
  mad : Nat
  /-- ND of the result (09 R271). -/
  nd : Bool
  /-- PARTIAL of the result (09 R257). -/
  partial' : Bool
  /-- Leaves contributing (09 R265). -/
  leavesIn : Nat
  /-- Leaves missing (09 R265). -/
  leavesOut : Nat
  deriving DecidableEq, Repr

/-- `GlnStat` at reset. -/
def GlnStat.reset : GlnStat where
  cls := 0
  instant := 0
  cfg := 0
  skipped := true
  med := 0
  mad := 0
  nd := false
  partial' := false
  leavesIn := 0
  leavesOut := 0

/-- A feature of a die's outlier vector (R263). -/
structure GlnFeat where
  /-- Instant, ns (09 R263). -/
  instant : Nat
  /-- Metric class (09 R263). -/
  cls : Nat
  /-- Die (09 R263). -/
  did : Did
  /-- Deviation; none when missing (09 R260). -/
  dev : Option Int
  /-- Taken from a result that carries ND (09 R271). -/
  nd : Bool
  deriving DecidableEq, Repr

/-- `GlnFeat` at reset. -/
def GlnFeat.reset : GlnFeat where
  instant := 0
  cls := 0
  did := 0
  dev := none
  nd := false

/-- Gleaner (R255 to R272). -/
structure GlnSt where
  /-- Early_en 1, thr 0x7FFF_FFFF (09 TV_GLN_CTL). -/
  ctl : DWord
  /-- Classes of the outlier feature vector (09 TV_GLN_FEAT). -/
  feat : DWord
  /-- Subscribers 0 to 7 (09 TV_GLN_SUB). -/
  subs : Cells DWord
  /-- Metric classes 0 to 63 (09 TV_GLN_CLASS). -/
  classes : Cells (BitVec 128)
  /-- Next call count (09 R264). -/
  calls : Nat
  /-- Suspects, outstanding and confirmed (09 R268). -/
  suspects : List Suspect
  /-- Classes and instants whose early calls were made (09 R268). -/
  earlyDone : List (Nat × Nat)
  /-- Classes, instants and DIDs evaluated (09 R261). -/
  evaluated : List (Nat × Nat × Nat)
  /-- Classes evaluated or skipped, by instant (09 R257). -/
  stats : List GlnStat
  /-- Features of the dies evaluated (09 R263). -/
  feats : List GlnFeat
  /-- Instants and DIDs whose vector was built (09 R263). -/
  scored : List (Nat × Nat)
  /-- Bad_write (17 TV_GLN_STAT). -/
  badWrite : Word
  /-- Skipped (17 TV_GLN_STAT). -/
  skipped : Word
  /-- Late (17 TV_GLN_STAT). -/
  late : Word
  /-- Retracts (17 TV_GLN_STAT). -/
  retracts : Word
  /-- Confirms (17 TV_GLN_STAT). -/
  confirms : Word
  /-- Subscriber writes not issued (17 TV_GLN_STAT). -/
  postDrop : Word
  deriving DecidableEq, Repr

/-- `GlnSt` at reset. -/
def GlnSt.reset : GlnSt where
  ctl := 0x7FFFFFFF00000002
  feat := 0
  subs := []
  classes := []
  calls := 1
  suspects := []
  earlyDone := []
  evaluated := []
  stats := []
  feats := []
  scored := []
  badWrite := 0
  skipped := 0
  late := 0
  retracts := 0
  confirms := 0
  postDrop := 0

/-- An entry of a tile's associative memory in stored form (R279, R280). -/
structure KEntry where
  /-- Ensemble ID (10 R281). -/
  ens : Nat
  /-- Descriptors of slots 0 to 15 (10 R280). -/
  slots : List Word
  /-- Tree ID (10 R279). -/
  tree : Nat
  /-- Leaf value (10 R279). -/
  val : Word
  /-- Its parity is wrong (10 R293). -/
  bad : Bool
  deriving DecidableEq, Repr

/-- `KEntry` at reset. -/
def KEntry.reset : KEntry where
  ens := 0
  slots := []
  tree := 0
  val := 0
  bad := false

/-- The Kale memory of a physical tile (R284, R287, R290, R365). -/
structure KTile where
  /-- Associative memory (10 R279). -/
  assoc : Cells KEntry
  /-- Golden copy in HBM (10 R285). -/
  golden : Cells KEntry
  /-- Entry that the scrub compares next (15 R416). -/
  scrub : Nat
  /-- Spare rows used per bank; kept in the repair area (13 R365). -/
  spares : Cells Nat
  /-- Retired banks; kept in the repair area (13 R365). -/
  retired : List Nat
  /-- Entries with parity errors and the ticks of operating time they showed (13 R365). -/
  errors : List (Nat × Nat)
  deriving DecidableEq, Repr

/-- `KTile` at reset. -/
def KTile.reset : KTile where
  assoc := []
  golden := []
  scrub := 0
  spares := []
  retired := []
  errors := []

/-- A loaded ensemble (R285), keyed by its ID. -/
structure Ensemble where
  /-- Function that holds it (10 R285). -/
  fn : Nat
  /-- Partition (10 R285). -/
  part : Nat
  /-- Image in the partition's HBM (10 R294). -/
  image : List Byte
  /-- Resident rather than streamed (10 R285). -/
  resident : Bool
  /-- Resident trees: tree ID, logical tile and first entry (10 R285). -/
  place : List (Nat × Nat × Nat)
  /-- A placement is in progress (10 R286). -/
  placing : Bool
  /-- The image holds poisoned data (15 R415). -/
  poisoned : Bool
  deriving DecidableEq, Repr

/-- `Ensemble` at reset. -/
def Ensemble.reset : Ensemble where
  fn := 0
  part := 0
  image := []
  resident := false
  place := []
  placing := false
  poisoned := false

/-- A streamed scoring on one tile (R287). -/
structure KaleWin where
  /-- Logical tile (10 R287). -/
  tile : Nat
  /-- Trees of the range not yet loaded (10 R287). -/
  todo : List Nat
  /-- Trees that the window in loading takes (10 R287). -/
  load : List Nat
  /-- Window in loading (10 R287). -/
  win : Nat
  deriving DecidableEq, Repr

/-- `KaleWin` at reset. -/
def KaleWin.reset : KaleWin where
  tile := 0
  todo := []
  load := []
  win := 0

/-- A KALE_SCORE on a streamed ensemble (R287, R291). -/
structure KaleRun where
  /-- The job (10 R287). -/
  job : JobRef
  /-- Ensemble ID (10 R287). -/
  ens : Nat
  /-- The image as it stood when the job started (10 R295). -/
  image : List Byte
  /-- Form (10 R290). -/
  form : Nat
  /-- Samples not yet scored, the batch first (10 R273). -/
  samples : List (List Byte)
  /-- The input arrived poisoned (10 R274). -/
  bad : Bool
  /-- Partial sum, status and node-form flag of each sample of the batch (10 R291). -/
  sums : List (Int × Nat × Bool)
  /-- Tiles at work (10 R287). -/
  wins : List KaleWin
  /-- Results of earlier batches (10 R274). -/
  result : List Byte
  /-- The streamed image holds poisoned data (15 R415). -/
  poison : Bool
  deriving DecidableEq, Repr

/-- `KaleRun` at reset. -/
def KaleRun.reset : KaleRun where
  job := ⟨0, 0, 0⟩
  ens := 0
  image := []
  form := 0
  samples := []
  bad := false
  sums := []
  wins := []
  result := []
  poison := false

/-- An entry of a model store (R309). -/
structure ModelEnt where
  /-- Function that holds it (11 R309). -/
  fn : Nat
  /-- Partition (11 R309). -/
  part : Nat
  /-- Model ID (11 R309). -/
  id : Word
  /-- Model digest (11 R309). -/
  digest : DWord
  /-- Model image (11 R297). -/
  image : List Byte
  /-- The image holds poisoned data (15 R415). -/
  poisoned : Bool
  deriving DecidableEq, Repr

/-- `ModelEnt` at reset. -/
def ModelEnt.reset : ModelEnt where
  fn := 0
  part := 0
  id := 0
  digest := 0
  image := []
  poisoned := false

/-- An assay policy (R311). -/
structure Policy where
  /-- Assay window, ms (11 R311). -/
  window : Nat
  /-- Captures per batch (11 R311). -/
  batch : Nat
  /-- Longest wait, 0.1 ms (11 R311). -/
  batchWait : Nat
  /-- Fetch retained outputs (11 R311). -/
  fetch : Bool
  /-- Write MATCH verdicts (11 R311). -/
  reportMatch : Bool
  deriving DecidableEq, Repr

/-- `Policy` at reset. -/
def Policy.reset : Policy where
  window := 50
  batch := 256
  batchWait := 125
  fetch := true
  reportMatch := false

/-- A capture on the Tervon (R310 to R314). -/
structure TvCap where
  /-- Leaf (11 R310). -/
  did : Did
  /-- Capture ID (11 R310). -/
  id : Word
  /-- Leaf port; 13 the internal link (11 R310). -/
  port : Nat
  /-- Ring position (11 R310). -/
  pos : BitVec 4
  /-- Header and checkpoint entries (11 R301). -/
  hdr : List Byte
  /-- Input bytes announced (05 R154). -/
  total : Nat
  /-- Bytes received by offset (11 R312). -/
  got : List (Nat × List Byte)
  /-- Own time of CAPTURE_DESC, ns (11 R312). -/
  descAt : Nat
  /-- Own time of completion, ns (11 R312). -/
  fullAt : Option Nat
  /-- Partition chosen (11 R310). -/
  part : Option Nat
  /-- Larder buffer (11 R310). -/
  handle : Option Nat
  /-- Its data is discarded (15 R400). -/
  dropped : Bool
  /-- Its batch has started (11 R312). -/
  running : Bool
  /-- Mode in force when its batch started (12 R341). -/
  mode : Bool
  /-- The store entry as it stood when the batch started (11 R309). -/
  model : Option ModelEnt
  /-- Retained-output fetch: checkpoint, offset beyond the input and the Assayer's output (11 R313). -/
  fetching : Option (Nat × Nat × List Byte)
  /-- Larder buffer of the retained-output fetch (15 R400). -/
  fetchBuf : Option Nat
  /-- The MISMATCH verdict that waits for the fetch (11 R313). -/
  pending : Option VerdictRec
  /-- A verdict is committed (11 R314). -/
  done : Bool
  deriving DecidableEq, Repr

/-- `TvCap` at reset. -/
def TvCap.reset : TvCap where
  did := 0
  id := 0
  port := 0
  pos := 0
  hdr := []
  total := 0
  got := []
  descAt := 0
  fullAt := none
  part := none
  handle := none
  dropped := false
  running := false
  mode := false
  model := none
  fetching := none
  fetchBuf := none
  pending := none
  done := false

/-- The Assayer (R309 to R320). -/
structure AssaySt where
  /-- Model stores (11 R309). -/
  models : List ModelEnt
  /-- Policies of partitions 0 to 15; 16 the physical function's (11 R311). -/
  policies : Cells Policy
  /-- Captures (11 R310). -/
  caps : List TvCap
  /-- Counts, key 8 x owner + word (17 TV_ASSAY_STAT). -/
  stat : Cells Word
  /-- Incomplete captures discarded (11 R305). -/
  discarded : Word
  deriving DecidableEq, Repr

/-- `AssaySt` at reset. -/
def AssaySt.reset : AssaySt where
  models := []
  policies := []
  caps := []
  stat := []
  discarded := 0

/-- A Larder buffer in use (R397, R401), keyed by handle. -/
structure Buf where
  /-- Charged owner: a partition, or 16 the physical function (15 R397). -/
  owner : Nat
  /-- Final owner, a function, once shared (15 R401). -/
  final : Option Nat
  /-- Functions that hold it (15 R401). -/
  holders : List Nat
  /-- Free deferred (15 R401). -/
  freed : Bool
  deriving DecidableEq, Repr

/-- `Buf` at reset. -/
def Buf.reset : Buf where
  owner := 0
  final := none
  holders := []
  freed := false

/-- A stored dump (R384, R400). -/
structure TvDump where
  /-- Leaf (15 R400). -/
  did : Did
  /-- Dump ID (04 R125). -/
  id : Word
  /-- Larder buffer (15 R397). -/
  handle : Nat
  /-- Stored payloads (14 R384). -/
  bytes : List Byte
  /-- Leaf port of its first frame (04 R125). -/
  port : Nat
  /-- Alive gaps and down discards of that port at its first frame (04 R125). -/
  lossMark : Nat
  /-- A frame was discarded for want of room (15 R400). -/
  full : Bool
  /-- Its END frame was stored (04 R125). -/
  complete : Bool
  /-- Its buffer has returned (15 R401). -/
  gone : Bool
  deriving DecidableEq, Repr

/-- `TvDump` at reset. -/
def TvDump.reset : TvDump where
  did := 0
  id := 0
  handle := 0
  bytes := []
  port := 0
  lossMark := 0
  full := false
  complete := false
  gone := false

/-- The Larder (R396 to R402). -/
structure LarderSt where
  /-- Buffers in use, by handle (15 R397). -/
  bufs : Cells Buf
  /-- Indexes in the on-chip cache per pool (15 R399). -/
  cached : Cells Nat
  /-- Handles withdrawn until the next cold start (15 R415). -/
  withdrawn : List Nat
  /-- Refusals per pool (17 TV_LARDER_STAT). -/
  refused : Cells Word
  /-- Dump frames discarded (17 TV_LARDER_STAT). -/
  dumpTrunc : Word
  /-- Buffers withdrawn (17 TV_LARDER_STAT). -/
  withdrawnCnt : Word
  /-- Drops by functions that hold no hold (15 R401). -/
  strayDrops : Word
  /-- Stored dumps (15 R400). -/
  dumps : List TvDump
  /-- DUMP frames that wait for a dump buffer: leaf port, leaf and payload, oldest first (15 R400). -/
  waiting : List (Nat × Did × Payload)
  deriving DecidableEq, Repr

/-- `LarderSt` at reset. -/
def LarderSt.reset : LarderSt where
  bufs := []
  cached := []
  withdrawn := []
  refused := []
  dumpTrunc := 0
  withdrawnCnt := 0
  strayDrops := 0
  dumps := []
  waiting := []

/-- A partition (R215). -/
structure PartSt where
  /-- Tiles (14 R387). -/
  tiles : Word
  /-- Stream quota (14 R387). -/
  quota : Nat
  /-- HBM capacity, GiB (14 R387). -/
  hbm : Nat
  /-- HBM bandwidth minimum, 10 GB/s (14 R387). -/
  bw : Nat
  /-- Larder minima (14 R387). -/
  minima : List Nat
  /-- DID set (14 R387). -/
  ranges : List (Did × Did)
  /-- Stream blocks owned, ascending (08 R226). -/
  blocks : List Nat
  /-- Tiles removed by the last commit that are not yet free (07 R217). -/
  draining : List Nat
  /-- Own time at which jobs on them are aborted, ns (07 R217). -/
  drainBy : Option Nat
  /-- Commits whose completions wait for them, oldest first (07 R217). -/
  commitJobs : List JobRef
  deriving DecidableEq, Repr

/-- `PartSt` at reset. -/
def PartSt.reset : PartSt where
  tiles := 0
  quota := 0
  hbm := 0
  bw := 0
  minima := [0, 0, 0, 0, 0]
  ranges := []
  blocks := []
  draining := []
  drainBy := none
  commitJobs := []

/-- ECC of SRAM and HBM, test registers and HBM repair (R411 to R417, R366). -/
structure EccSt where
  /-- En, target, tile and chk (15 TV_ECC_TEST). -/
  test : DWord
  /-- Address (15 TV_ECC_ADDR). -/
  addr : DWord
  /-- Data (15 TV_ECC_DATA). -/
  data : DWord
  /-- HBM words whose raw state was set by a test write, a scrub or poison, by word address (15 R412). -/
  hbm : Cells (Option EccWord)
  /-- Global SRAM words (15 R411). -/
  gsram : Cells EccWord
  /-- Tile SRAM words, key 2^20 x tile + word address (15 R411). -/
  tsram : Cells EccWord
  /-- Reports beyond the rate (17 TV_ECC_STAT). -/
  excess : Word
  /-- Test writes refused (17 TV_ECC_STAT). -/
  testRefused : Word
  /-- Test accesses ignored (17 TV_ECC_STAT). -/
  testIgnored : Word
  /-- Corrected (17 TV_ECC_STAT). -/
  corrected : Word
  /-- Uncorrectable (17 TV_ECC_STAT). -/
  uncorrectable : Word
  /-- Second of the reports counted (15 R413). -/
  rateSec : Nat
  /-- Reports of that second per unit (15 R413). -/
  rates : Cells Nat
  /-- Stack, channel, row and address of corrected errors in this power cycle (13 R366). -/
  rowErrs : List (Nat × Nat × Nat × Nat)
  /-- Rows under soft repair: stack, channel and row (13 R366). -/
  repairing : List (Nat × Nat × Nat)
  /-- Rows recorded for hard repair; kept in the repair area (13 R366). -/
  hard : List (Nat × Nat × Nat)
  /-- 4 KiB units remapped (13 R366). -/
  remapped : Nat
  deriving DecidableEq, Repr

/-- `EccSt` at reset. -/
def EccSt.reset : EccSt where
  test := 0
  addr := 0
  data := 0
  hbm := []
  gsram := []
  tsram := []
  excess := 0
  testRefused := 0
  testIgnored := 0
  corrected := 0
  uncorrectable := 0
  rateSec := 0
  rates := []
  rowErrs := []
  repairing := []
  hard := []
  remapped := 0

/-- Mirroring, the buddy and bulk load (R353 to R358, R368). -/
structure MirrorSt where
  /-- Items changed since the last period, oldest first (13 R353). -/
  dirty : List MirrorItem
  /-- Own time of the oldest change not yet sent, ns (13 R354). -/
  dirtySince : Nat
  /-- Next mirror sequence (13 R357). -/
  seq : Word
  /-- MIRROR frames sent and not acknowledged, with the time of their oldest change (13 R354). -/
  unacked : List (Word × Nat)
  /-- Highest mirror sequence applied from the buddy (13 R357). -/
  applied : Option Word
  /-- Items discarded (13 R353). -/
  discarded : Word
  /-- Unmirrored (13 R355). -/
  unmirrored : Bool
  /-- Last MIRROR of the full resend (13 R355). -/
  resend : Option Word
  /-- Own time of the last BUDDY_STATE received, ns (13 R355). -/
  lastState : Option Nat
  /-- Own time of the last frame of the buddy, ns (13 R358). -/
  lastFrame : Option Nat
  /-- Last BUDDY_STATE (13 R357). -/
  buddy : Option BuddyStateP
  /-- BUDDY_SILENT was raised and the buddy is still silent (13 R358). -/
  silent : Bool
  /-- Own time of the last mirror period, ns (13 R353). -/
  lastPeriod : Nat
  /-- Own time of the last BUDDY_STATE sent, ns (13 R357). -/
  lastSent : Nat
  /-- Mirrored leases: epoch and expiry by DID (13 R353). -/
  leases : Cells (Nat × Nat)
  /-- Bulk state received: section, offset and data (13 R368). -/
  load : List (Nat × Nat × List Byte)
  /-- Own time at which a bulk load completed, ns (13 R367). -/
  loadedAt : Option Nat
  deriving DecidableEq, Repr

/-- `MirrorSt` at reset. -/
def MirrorSt.reset : MirrorSt where
  dirty := []
  dirtySince := 0
  seq := 0
  unacked := []
  applied := none
  discarded := 0
  unmirrored := false
  resend := none
  lastState := none
  lastFrame := none
  buddy := none
  silent := false
  lastPeriod := 0
  lastSent := 0
  leases := []
  load := []
  loadedAt := none

/-- A committed copy of the warm roster (R369): the roster, the route table and the calibration constants. -/
structure WarmCopy where
  /-- Roster entries (13 R369). -/
  ents : Cells RosterEnt
  /-- Route table (13 R369). -/
  route : Cells DWord
  /-- Path constants by ring (13 R369). -/
  consts : Cells (List (Int × Int))
  deriving DecidableEq, Repr

/-- `WarmCopy` at reset. -/
def WarmCopy.reset : WarmCopy where
  ents := []
  route := []
  consts := []

/-- The roster digest and the warm roster copies (R369, R370). -/
structure WarmSt where
  /-- Committed copy in HBM (13 R369). -/
  hbmCopy : Option WarmCopy
  /-- Committed copies in the NOR device, with their generations, newest first (13 R369). -/
  nor : List (Nat × WarmCopy)
  /-- Own time of the first change not in the HBM copy, ns (13 R369). -/
  hbmDirty : Option Nat
  /-- Own time of the first change not in the NOR copy, ns (13 R369). -/
  norDirty : Option Nat
  /-- Roster digest of the warm roster in force (13 R369). -/
  digest : DWord
  deriving DecidableEq, Repr

/-- `WarmSt` at reset. -/
def WarmSt.reset : WarmSt where
  hbmCopy := none
  nor := []
  hbmDirty := none
  norDirty := none
  digest := 0

/-- A request relayed into a ring for another Tervon (R159). -/
structure Relayed where
  /-- Tag (05 R159). -/
  tag : Half
  /-- Position, 8 x ring + position (05 R159). -/
  key : Nat
  /-- Originator's DID (05 R159). -/
  did : Did
  /-- It is a LEASE_REQ fence (13 R350). -/
  fence : Bool
  /-- Coordinate that the answer returns to; none the buddy port (05 R159). -/
  back : Option (Nat × Nat)
  deriving DecidableEq, Repr

/-- `Relayed` at reset. -/
def Relayed.reset : Relayed where
  tag := 0
  key := 0
  did := 0
  fence := false
  back := none

/-- Leases, roster, routes and requests (R20, R159, R345 to R363). -/
structure RosterSt where
  /-- TV_LEASE_CTL: pref 0, dur 50, takeover 2, fence_hold 100 (13 TV_LEASE_CTL). -/
  lease : Word
  /-- TV_ROSTER_CTL: silent 100, mirror 500, lag_lim 10 (13 TV_ROSTER_CTL). -/
  ctl : DWord
  /-- Tmo, us (17 TV_RING_REQ). -/
  req : Nat
  /-- Roster entries (13 R360). -/
  ents : Cells RosterEnt
  /-- Leases by position; 64 the internal leaf's (13 R347). -/
  leases : Cells TvLease
  /-- Route table (01 R19). -/
  route : Cells DWord
  /-- Requests outstanding (05 R159). -/
  reqs : List TvReq
  /-- Next tag of a read request (05 R159). -/
  nextTag : Half
  /-- Late responses discarded (05 R159). -/
  lateRsp : Word
  /-- Requests relayed for another Tervon (05 R159). -/
  relayed : List Relayed
  /-- Conflict causes of the Tervon itself raised and not cleared (13 R362). -/
  conflicts : List Nat
  /-- Bad_write (17 TV_ROSTER_STAT). -/
  badWrite : Word
  /-- Quarantined frames (17 TV_ROSTER_STAT). -/
  quarantined : Word
  /-- Stale epoch (17 TV_ROSTER_STAT). -/
  staleEpoch : Word
  deriving DecidableEq, Repr

/-- `RosterSt` at reset. -/
def RosterSt.reset : RosterSt where
  lease := 0x32043200
  ctl := 0xA01F40064
  req := 200
  ents := []
  leases := []
  route := []
  reqs := []
  nextTag := 0
  lateRsp := 0
  relayed := []
  conflicts := []
  badWrite := 0
  quarantined := 0
  staleEpoch := 0

/-- Discovery and calibration of a leaf port (R43, R430). -/
structure RingEnd where
  /-- 0 pending, 1 complete, 2 length mismatch, 3 wired to buddy, 4 designation disagreement (17 TV_RING_STAT). -/
  disc : Nat
  /-- Leaves discovered (17 TV_RING_STAT). -/
  found : Nat
  /-- Calibration current (17 TV_RING_STAT). -/
  cal : Bool
  /-- Own time at which a calibration began, ns (02 R43). -/
  calRun : Option Nat
  /-- Hop whose calibration reruns (02 R45). -/
  rerun : Option Nat
  /-- End B's measurements (02 R43). -/
  report : Option CalReportP
  /-- Round trips measured, by PROBE identifier, 2^-16 ns (02 R43). -/
  hopTrip : Cells Nat
  /-- A_path and B_path per position (02 R43). -/
  consts : List (Int × Int)
  /-- Residual of the last calibration, 2^-16 ns (02 R43). -/
  rho : Int
  /-- Asymmetry of each hop, 2^-16 ns (02 R43). -/
  hops : List Int
  deriving DecidableEq, Repr

/-- `RingEnd` at reset. -/
def RingEnd.reset : RingEnd where
  disc := 0
  found := 0
  cal := false
  calRun := none
  rerun := none
  report := none
  hopTrip := []
  consts := []
  rho := 0
  hops := []

/-- Time registers of a Tervon beside its time domain (R39 to R43, R60, R61). -/
structure TvTimeSt where
  /-- C per peer port (17 TV_PEER_ASYM). -/
  asym : Cells Half
  /-- A0 and a1 per lane (17 TV_LANE_CONST). -/
  laneConst : Cells Word
  /-- Hop count of the last exchange accepted from the port it steers from (02 R39, R462). -/
  hop : Option Byte
  /-- Peer ports whose hop count rejection was raised (02 R39). -/
  hopRejected : List Nat
  /-- Consecutive good exchanges of the primary port after a switch (02 R39). -/
  backCount : Nat
  /-- Transmit timestamps, oldest first (02 R60). -/
  txq : List (Half × BitVec 2 × BitVec 4 × Stamp)
  /-- The latched copy of the oldest entry (17 R442). -/
  txqLatch : Option (Half × BitVec 2 × BitVec 4 × Stamp)
  /-- Timestamps dropped (02 R60). -/
  txqDropped : Word
  /-- TV_TIME_STAT latched per function with TV_TIME_NOW (17 TV_TIME_STAT). -/
  statLatch : Cells Word
  /-- Class of the last TIME_EVENT of kind 5 (14 R390). -/
  lastClass : BitVec 4
  /-- Exchange sequence of the next period (05 R145). -/
  peerSeq : Half
  /-- Class in force when the failure in progress of a port began (01 R27). -/
  failCls : Cells (BitVec 4)
  /-- Sequence of the exchange in progress per peer port (02 R462). -/
  reqSent : Cells Half
  deriving DecidableEq, Repr

/-- `TvTimeSt` at reset. -/
def TvTimeSt.reset : TvTimeSt where
  asym := []
  laneConst := []
  hop := none
  hopRejected := []
  backCount := 0
  txq := []
  txqLatch := none
  txqDropped := 0
  statLatch := []
  lastClass := 0
  peerSeq := 0
  failCls := []
  reqSent := []

/-- Power, Cellar and stewards (R209, R418, R425, R429). -/
structure TvPower where
  /-- Cap 600, leaf_wake 1 (16 TV_PWR_CTL). -/
  ctl : DWord
  /-- Wake time (16 TV_PWR_WAKE_AT). -/
  wakeAt : DWord
  /-- Own time of the CELLAR_ENTER firing in progress, ns (16 R425). -/
  entering : Option Nat
  /-- In Cellar (16 R425). -/
  cellar : Bool
  /-- Leaving Cellar (16 R425). -/
  waking : Bool
  /-- Cap lowered to 200 W by a site above 100 C (16 R429). -/
  hot : Bool
  /-- Stewards declared hung, with the own time, ns, and whether a dump was requested (07 R209). -/
  hung : List (Nat × Nat × Bool)
  deriving DecidableEq, Repr

/-- `TvPower` at reset. -/
def TvPower.reset : TvPower where
  ctl := 0xA58
  wakeAt := 0
  entering := none
  cellar := false
  waking := false
  hot := false
  hung := []

/-- A Tervon. -/
structure Tervon where
  /-- Identity, start-up and set-up (17 R441). -/
  boot : TvBoot
  /-- Tiles (07 R203). -/
  tiles : TvTiles
  /-- Time domain (02 R28). -/
  time : TimeDom
  /-- Time registers (02 R39). -/
  tt : TvTimeSt
  /-- Fleet deterministic mode (12 R340). -/
  det : DetStat
  /-- Appointment slots 0 to 63 (02 R55). -/
  appts : Cells Slot
  /-- Ports 0 to 12 (05 R128). -/
  ports : List LinkPort
  /-- Internal link (07 R220). -/
  ilink : LinkPort
  /-- Leaf ports' rings (16 R430). -/
  rings : Cells RingEnd
  /-- Leases and roster (13 R360). -/
  ros : RosterSt
  /-- Leaf records by DID (08 R228). -/
  recs : Cells LeafRec
  /-- Streams (08 R230). -/
  str : StreamSt
  /-- Reductions (08 R243). -/
  red : RedSt
  /-- Gleaner (09 R255). -/
  gln : GlnSt
  /-- Kale memories by physical tile (10 R284). -/
  ktiles : Cells KTile
  /-- Ensembles by ID (10 R285). -/
  enss : Cells Ensemble
  /-- Streamed scorings (10 R287). -/
  kruns : List KaleRun
  /-- Assayer (11 R309). -/
  assay : AssaySt
  /-- Larder (15 R396). -/
  lard : LarderSt
  /-- Partitions 0 to 15 (07 R215). -/
  parts : Cells PartSt
  /-- Functions 0 to 16 (14 R371). -/
  fns : Cells HostFn
  /-- Descriptors read and not completed, oldest first (14 R381). -/
  jobs : List Job
  /-- Stored-data protection (15 R411). -/
  ecc : EccSt
  /-- Mirroring (13 R353). -/
  mir : MirrorSt
  /-- Warm roster (13 R369). -/
  warm : WarmSt
  /-- Power (16 R418). -/
  pwr : TvPower
  /-- Internal leaf (07 R220). -/
  ileaf : Leaf
  /-- Alive counters of frames sent as ROUTED, per destination and class (08 R252, 05 R139). -/
  routeTx : Cells Byte
  /-- Alive expected of frames carried as ROUTED, per source and class (08 R252, 05 R139). -/
  routeRx : Cells (Option Byte)
  /-- Carried frames discarded as stale (05 R139). -/
  routeStale : Word
  /-- The model's own field: what the Tervon put out at its boundary, newest first (-). -/
  out : List Out
  /-- The model's own field: number of the next free value (-). -/
  free : Nat
  deriving DecidableEq, Repr

/-- `Tervon` at reset. -/
def Tervon.reset : Tervon where
  boot := TvBoot.reset
  tiles := TvTiles.reset
  time := TimeDom.reset
  tt := TvTimeSt.reset
  det := DetStat.reset
  appts := []
  ports := List.replicate 8 LinkPort.reset ++ [{ LinkPort.reset with lanes := 5, txSpare := 4, rxSpare := 4 }] ++ List.replicate 4 { LinkPort.reset with lanes := 3, txSpare := 2, rxSpare := 2 }
  ilink := LinkPort.reset
  rings := []
  ros := RosterSt.reset
  recs := []
  str := StreamSt.reset
  red := RedSt.reset
  gln := GlnSt.reset
  ktiles := []
  enss := []
  kruns := []
  assay := AssaySt.reset
  lard := LarderSt.reset
  parts := []
  fns := []
  jobs := []
  ecc := EccSt.reset
  mir := MirrorSt.reset
  warm := WarmSt.reset
  pwr := TvPower.reset
  ileaf := { Leaf.reset with kind := .internal }
  routeTx := []
  routeRx := []
  routeStale := 0
  out := []
  free := 0

end Sys2Proof.Machine
end

