-- ==== Sys2Proof/Machine/Kale.lean ====
section
/-! DEFINITION. Kale as mathematics: the ensemble image and its checks (R282, R283, R288, R294), the front stage (R275 to R278), a tree in node
form (R289) and in entry form (R280, R281), and scores (R291, R292). -/

namespace Sys2Proof.Machine

/-- Signed reading of `n` little-endian bytes. -/
def sfield (bs : List Byte) (o n : Nat) : Int := (BitVec.ofNat (8 * n) (field bs o n)).toInt

/-- Clamp to an interval. -/
def clampInt (lo hi x : Int) : Int := if x < lo then lo else if hi < x then hi else x

/-- sat16 (R276). -/
def sat16 (x : Int) : Int := clampInt (-32768) 32767 x

/-! ### The image -/

/-- A feature entry (R294). -/
structure KFeat where
  kind  : Nat
  srcA  : Nat
  srcB  : Nat
  shift : Nat
  scale : Int
  off   : Int
  mbin  : Nat
  count : Nat
  thr   : List Int
  deriving DecidableEq, Repr

/-- A tree table entry (R294). -/
structure KTree where
  leaves   : Nat
  nodes    : Nat
  depth    : Nat
  nodeOnly : Bool
  entry    : Nat
  node     : Nat
  slots    : List Nat
  deriving DecidableEq, Repr

/-- A node (R288). -/
structure KNode where
  test      : Nat
  feature   : Nat
  leaf      : Bool
  missRight : Bool
  left      : Nat
  right     : Nat
  value     : Int
  deriving DecidableEq, Repr

def kTrees (bs : List Byte) : Nat := field bs 8 4
def kInputs (bs : List Byte) : Nat := field bs 12 1
def kBase (bs : List Byte) : Nat := field bs 13 1
def kCrossed (bs : List Byte) : Nat := field bs 14 1

/-- A feature number that the header defines (R275). -/
def kDefined (bs : List Byte) (f : Nat) : Bool := decide (f < kBase bs) || (decide (128 ≤ f) && decide (f < 128 + kCrossed bs))

/-- Where a feature's entry lies: base features, then crossed. -/
def kFeatAt (bs : List Byte) (f : Nat) : Nat := 64 + 80 * (if f < 128 then f else kBase bs + (f - 128))

def kFeat (bs : List Byte) (f : Nat) : KFeat :=
  let o := kFeatAt bs f
  { kind := field bs o 1, srcA := field bs (o + 1) 1, srcB := field bs (o + 2) 1, shift := field bs (o + 3) 1, scale := sfield bs (o + 4) 4,
    off := sfield bs (o + 8) 2, mbin := field bs (o + 10) 1, count := field bs (o + 11) 1,
    thr := (List.range 31).map fun i => sfield bs (o + 12 + 2 * i) 2 }

/-- Numeric or product. -/
def KFeat.numeric (f : KFeat) : Bool := decide (f.kind = 0) || decide (f.kind = 2)

def kTree (bs : List Byte) (g : Nat) : KTree :=
  let o := field bs 20 4 + 32 * g
  { leaves := field bs o 2, nodes := field bs (o + 2) 2, depth := field bs (o + 4) 1, nodeOnly := bit (field bs (o + 5) 1) 0,
    entry := field bs (o + 8) 4, node := field bs (o + 12) 4, slots := (List.range 16).map fun j => field bs (o + 16 + j) 1 }

def kNode (bs : List Byte) (t : KTree) (n : Nat) : KNode :=
  let o := field bs 28 4 + 16 * (t.node + n)
  { test := field bs o 4, feature := field bs (o + 4) 1, leaf := bit (field bs (o + 5) 1) 0, missRight := bit (field bs (o + 5) 1) 1,
    left := field bs (o + 6) 2, right := field bs (o + 8) 2, value := sfield bs (o + 12) 4 }

/-- A stored entry of the image: its slot descriptors, tree ID and value (R294). -/
def kEntry (bs : List Byte) (k : Nat) : List Word × Nat × Word :=
  let o := field bs 24 4 + 72 * k
  ((List.range 16).map fun j => w32 (field bs (o + 4 * j) 4), field bs (o + 64) 2, w32 (field bs (o + 68) 4))

/-! ### Checks of an image -/

/-- The first n thresholds strictly ascending, the rest 0. -/
def thrOk (n : Nat) (thr : List Int) : Bool :=
  ((List.range (n - 1)).all fun i => decide (thr.getD i 0 < thr.getD (i + 1) 0)) && (thr.drop n).all fun v => decide (v = 0)

/-- A feature entry keeps its ranges (R275, R276, R294). -/
def kFeatOk (bs : List Byte) (f : Nat) : Bool :=
  let x := kFeat bs f
  let base := decide (f < 128)
  let src (k : Nat) (want : Nat) : Bool := decide (k < kBase bs) && decide ((kFeat bs k).kind = want)
  let o := kFeatAt bs f
  (if base then decide (x.kind ≤ 1) else decide (x.kind = 2 ∨ x.kind = 3))
    && (match x.kind with
        | 0 => decide (x.srcA < kInputs bs) && decide (x.srcB = 0) && decide (x.shift ≤ 47)
        | 1 => decide (x.srcA < kInputs bs) && decide (x.srcB = 0) && decide (x.shift = 0)
        | 2 => src x.srcA 0 && src x.srcB 0 && decide (x.shift ≤ 31)
        | _ => src x.srcA 1 && src x.srcB 1 && decide (x.shift = 0))
    && (decide (x.kind = 0) || (decide (x.scale = 0) && decide (x.off = 0)))
    && (if KFeat.numeric x then decide (x.mbin ≤ 31) && decide (x.count ≤ 31) && thrOk x.count x.thr
        else decide (x.mbin = 0) && decide (1 ≤ x.count) && decide (x.count ≤ 32) && thrOk 0 x.thr)
    && (slice bs (o + 74) 6).all fun b => decide (b = 0)

/-- One branch on the way to a leaf: the node and whether the way goes right. -/
abbrev KStep := KNode × Bool

/-- The leaves below a node in the order of R282, with their ways, and the nodes visited; none when the nodes do not form a tree within the
tree's node count and 20 levels. The fuel is the levels left. -/
def kLeaves (bs : List Byte) (t : KTree) : Nat → Nat → List KStep → Option (List (KNode × List KStep) × List Nat)
  | 0, _, _ => none
  | f + 1, n, way =>
    if t.nodes ≤ n then none
    else
      let x := kNode bs t n
      if x.leaf then some ([(x, way)], [n])
      else
        let go (right : Bool) := kLeaves bs t f (if right then x.right else x.left) (way ++ [(x, right)])
        match go x.missRight, go (!x.missRight) with
        | some a, some b => some (a.1 ++ b.1, n :: a.2 ++ b.2)
        | _, _ => none

/-- A node names a defined feature with a test that suits it, and its unused fields hold 0 (R288). -/
def kNodeOk (bs : List Byte) (t : KTree) (n : Nat) : Bool :=
  let x := kNode bs t n
  let o := field bs 28 4 + 16 * (t.node + n)
  decide (field bs (o + 5) 1 < 4) && decide (field bs (o + 10) 2 = 0)
    && (if x.leaf then decide (x.test = 0) && decide (x.feature = 0) && decide (x.left = 0) && decide (x.right = 0)
        else decide (x.value = 0) && kDefined bs x.feature
          && (!KFeat.numeric (kFeat bs x.feature) || (decide (1 ≤ x.test) && decide (x.test ≤ 31))))

/-- The descriptor of a slot for a leaf's way (R280, R282). -/
def kDescriptor (bs : List Byte) (f : Nat) (way : List KStep) : Word :=
  let mine := way.filter fun s => decide (s.1.feature = f)
  if f = 0xFF then 0
  else if KFeat.numeric (kFeat bs f) then
    let lo := mine.foldl (fun a s => if s.2 then max a s.1.test else a) 0
    let hi := mine.foldl (fun a s => if s.2 then a else min a (s.1.test - 1)) 31
    let either := mine.all fun s => decide (s.1.missRight = s.2)
    w32 (lo + 32 * hi + (if either then 2048 else 0))
  else mine.foldl (fun a s => a &&& (if s.2 then ~~~(w32 s.1.test) else w32 s.1.test)) 0xFFFFFFFF

/-- R283's conditions on a tree that is not flagged node-only, and its entries are the derived ones (R282, R294). -/
def kEntriesOk (bs : List Byte) (g : Nat) (t : KTree) (ls : List (KNode × List KStep)) : Bool :=
  let feats := (ls.flatMap fun l => l.2.map fun s => s.1.feature).dedup
  let steps := ls.flatMap fun l => l.2
  let used := t.slots.filter fun f => decide (f ≠ 0xFF)
  decide (ls.length = t.leaves) && decide (1 ≤ t.leaves) && decide (t.leaves ≤ 512) && decide (feats.length ≤ 16)
    && feats.all (fun f => t.slots.contains f) && used.all (fun f => kDefined bs f) && decide (used.dedup.length = used.length)
    && (steps.all fun s =>
      let f := kFeat bs s.1.feature
      !KFeat.numeric f || (if s.1.missRight then decide (s.1.test ≤ f.mbin) else decide (f.mbin < s.1.test)))
    && (ls.zipIdx.all fun e =>
      let (ds, id, v) := kEntry bs (t.entry + e.2)
      decide (ds = t.slots.map fun f => kDescriptor bs f e.1.2) && decide (id = g) && decide (v.toInt = e.1.1.value)
        && decide (field bs (field bs 24 4 + 72 * (t.entry + e.2) + 66) 2 = 0))

/-- A tree keeps its ranges and its form (R283, R288, R294). -/
def kTreeOk (bs : List Byte) (g : Nat) : Bool :=
  let t := kTree bs g
  let o := field bs 20 4 + 32 * g
  let len := bs.length
  decide (field bs (o + 5) 1 < 2) && decide (field bs (o + 6) 2 = 0) && decide (1 ≤ t.nodes) && decide (t.nodes ≤ 4095) && decide (t.depth ≤ 20)
    && decide (field bs 28 4 + 16 * (t.node + t.nodes) ≤ len) && decide (field bs 24 4 + 72 * (t.entry + t.leaves) ≤ len)
    && (List.range t.nodes).all (kNodeOk bs t)
    && (match kLeaves bs t 21 0 [] with
        | none => false
        | some (ls, seen) =>
          decide (seen.dedup.length = seen.length) && decide (seen.length = t.nodes)
            && (if t.nodeOnly then decide (t.leaves = 0) && t.slots.all (fun f => decide (f = 0xFF)) else kEntriesOk bs g t ls))

/-- An ensemble image that KALE_LOAD accepts (R294). -/
def kaleImageOk (bs : List Byte) : Bool :=
  let len := bs.length
  decide (64 ≤ len) && decide (field bs 0 4 = 0x454C414B) && decide (field bs 4 1 = 1) && decide (field bs 5 1 < 2)
    && decide (1 ≤ kTrees bs) && decide (kTrees bs ≤ 65536) && decide (1 ≤ kInputs bs) && decide (kInputs bs ≤ 64)
    && decide (kBase bs ≤ 128) && decide (kCrossed bs ≤ 64) && decide (field bs 15 1 = 0)
    && decide (field bs 20 4 % 16 = 0) && decide (field bs 24 4 % 8 = 0) && decide (field bs 28 4 % 16 = 0)
    && decide (field bs 32 4 = len) && (slice bs 36 24).all (fun b => decide (b = 0))
    && decide (field bs 60 4 = (crc32c (bs.take 60 ++ bs.drop 64)).toNat)
    && decide (64 + 80 * (kBase bs + kCrossed bs) ≤ len) && decide (field bs 20 4 + 32 * kTrees bs ≤ len)
    && decide (field bs 24 4 ≤ len) && decide (field bs 28 4 ≤ len)
    && (List.range (kBase bs)).all (kFeatOk bs) && (List.range (kCrossed bs)).all (fun i => kFeatOk bs (128 + i))
    && (List.range (kTrees bs)).all (kTreeOk bs)

/-! ### The front stage -/

/-- A feature of a sample: missing, scaled value and bin of a numeric one, category of a categorical one. -/
structure KVal where
  missing : Bool
  y       : Int
  bin     : Nat
  cat     : Nat
  deriving DecidableEq, Repr

/-- The bin of a scaled value (R276). -/
def kBin (f : KFeat) (y : Int) : Nat := ((f.thr.take f.count).filter fun t => decide (t ≤ y)).length

/-- An input of a sample. -/
def kInput (s : List Byte) (i : Nat) : Int := sfield s (16 + 4 * i) 4

/-- A base feature of a sample, and whether its input is out of range (R276, R277). -/
def kBaseVal (s : List Byte) (f : KFeat) : KVal × Bool :=
  let x := kInput s f.srcA
  let miss := bit (field s 0 8) f.srcA
  if f.kind = 0 then
    let y := sat16 (x * f.scale / 2 ^ f.shift + f.off)
    (⟨miss, y, kBin f y, 0⟩, false)
  else
    let c := x / 65536
    let bad := decide (x % 65536 ≠ 0) || decide (c < 0) || decide ((f.count : Int) ≤ c)
    (⟨miss || bad, 0, 0, c.toNat⟩, bad && !miss)

/-- A feature of a sample (R276, R277). -/
def kVal (bs s : List Byte) (f : Nat) : KVal :=
  let x := kFeat bs f
  match x.kind with
  | 2 =>
    let a := (kBaseVal s (kFeat bs x.srcA)).1
    let b := (kBaseVal s (kFeat bs x.srcB)).1
    let y := sat16 (a.y * b.y / 2 ^ x.shift)
    ⟨a.missing || b.missing, y, kBin x y, 0⟩
  | 3 =>
    let a := (kBaseVal s (kFeat bs x.srcA)).1
    let b := (kBaseVal s (kFeat bs x.srcB)).1
    ⟨a.missing || b.missing, 0, 0, (crc32c [BitVec.ofNat 8 a.cat, BitVec.ofNat 8 b.cat]).toNat % x.count⟩
  | _ => (kBaseVal s x).1

/-- The out-of-range inputs that a sample counts (R277; log entry 44). -/
def kOutOfRange (bs s : List Byte) : Nat := ((List.range (kBase bs)).filter fun f => (kBaseVal s (kFeat bs f)).2).length

/-- The key field of a feature (R278). -/
def kKey (f : KFeat) (v : KVal) : Nat :=
  if KFeat.numeric f then (if v.missing then 2 ^ f.mbin - 1 + 2 ^ 31 else 2 ^ v.bin - 1)
  else if v.missing then 0 else 2 ^ v.cat

/-- The ternary positions of a slot's descriptor (R280): position i compares, and with which bit. -/
def kPosition (f : KFeat) (d : Word) (i : Nat) : Option Bool :=
  if KFeat.numeric f then
    let lo := bits d.toNat 4 0
    let hi := bits d.toNat 9 5
    if i = 31 then (if bits d.toNat 11 10 = 0 then some false else none)
    else if i < lo then some true
    else if i < hi then none
    else some false
  else if d.getLsbD i then none else some false

/-- A slot matches a key field (R279). -/
def kSlotMatch (f : KFeat) (d : Word) (key : Nat) : Bool :=
  (List.range 32).all fun i => match kPosition f d i with
    | some b => decide (bit key i = b)
    | none => true

/-- An entry matches a sample in every slot of its tree (R279 to R281). -/
def kMatches (bs s : List Byte) (slots : List Nat) (ds : List Word) : Bool :=
  (slots.zip ds).all fun e => if e.1 = 0xFF then true else
    let f := kFeat bs e.1
    kSlotMatch f e.2 (kKey f (kVal bs s e.1))

/-! ### Evaluation of a tree -/

/-- What a tree gives a sample: its leaf value, or a status of R274. -/
abbrev KOutcome := Int ⊕ Nat

/-- A node goes right (R289). -/
def kRight (bs s : List Byte) (x : KNode) : Bool :=
  let f := kFeat bs x.feature
  let v := kVal bs s x.feature
  if v.missing then x.missRight
  else if KFeat.numeric f then decide (x.test ≤ v.bin)
  else !bit x.test v.cat

/-- walk(tree, sample) of R289; the fuel is 21 less the level. -/
def kWalk (bs s : List Byte) (t : KTree) : Nat → Nat → KOutcome
  | 0, _ => .inr 3
  | f + 1, n =>
    let x := kNode bs t n
    if x.leaf then .inl x.value
    else kWalk bs s t f (if kRight bs s x then x.right else x.left)

/-- A tree in node form (R289). -/
def kNodeForm (bs s : List Byte) (g : Nat) : KOutcome := kWalk bs s (kTree bs g) 21 0

/-- The lowest of the entries given that matches (R281). -/
def kSearch (bs s : List Byte) (g : Nat) (es : List (List Word × Word)) : KOutcome :=
  match es.find? fun e => kMatches bs s (kTree bs g).slots e.1 with
  | some e => .inl e.2.toInt
  | none => .inr 2

/-- A tree's entries in the image. -/
def kImageEntries (bs : List Byte) (g : Nat) : List (List Word × Word) :=
  let t := kTree bs g
  (List.range t.leaves).map fun k =>
    let e := kEntry bs (t.entry + k)
    (e.1, e.2.2)

/-! ### Scores -/

/-- A sample's sum so far, its status and whether a tree used node form. -/
abbrev KSum := Int × Nat × Bool

/-- The least status other than VALID prevails (log entry 44). -/
def worse (a b : Nat) : Nat := if a = 0 then b else if b = 0 then a else min a b

/-- Add what a tree gave. -/
def KSum.add (x : KSum) (o : KOutcome) (node : Bool) : KSum :=
  match o with
  | .inl v => (x.1 + v, x.2.1, x.2.2 || node)
  | .inr st => (x.1, worse x.2.1 st, x.2.2 || node)

/-- e^(a/64) with 100 fraction bits. -/
def expFix (a : Nat) : Nat :=
  ((List.range 80).foldl (fun (acc : Nat × Nat) k => (acc.1 + acc.2, acc.2 * a / (64 * (k + 1)))) (0, 2 ^ 100)).1

/-- T of R292: 2^24 / (1 + e^-x) at x = -8 + i/64, to the nearest integer. -/
def logisticTable (i : Nat) : Int :=
  let one := 2 ^ 100
  let (num, den) :=
    if 512 ≤ i then
      let e := expFix (i - 512)
      (e, e + one)
    else
      let e := expFix (512 - i)
      (one, e + one)
  ((2 ^ 25 * num + den) / (2 * den) : Nat)

/-- The score of a raw score under the logistic flag (R292). -/
def logisticScore (raw : Int) : Int :=
  let r := clampInt (-134217728) 134217728 raw
  let z := (r + 134217728).toNat
  if z = 268435456 then logisticTable 1024
  else
    let i := z / 262144
    let f := z % 262144
    logisticTable i + (logisticTable (i + 1) - logisticTable i) * f / 262144

/-- The score and the saturation flag of a sum (R291, R292). -/
def kScore (bs : List Byte) (sum : Int) : Int × Bool :=
  let raw0 := sum + sfield bs 16 4
  let raw := clampInt (-2147483648) 2147483647 raw0
  (if bit (field bs 5 1) 0 then logisticScore raw else raw, decide (raw ≠ raw0))

/-- The 16 bytes of a score result (R274). -/
def kResult (bs s : List Byte) (x : KSum) : List Byte :=
  let (v, sat) := kScore bs x.1
  let ok := decide (x.2.1 = 0)
  slice s 8 8 ++ le 4 (if ok then intBits 32 v else 0) ++ [BitVec.ofNat 8 x.2.1, BitVec.ofNat 8 (b2n (sat && ok) + 2 * b2n x.2.2)] ++ zeros 2

end Sys2Proof.Machine
end

