-- ==== Sys2Proof/Machine/AssayOps.lean ====
section
/-! DEFINITION. Tensors, the operation set of assay (R297, R298, R321, R322, R325, R328 to R339) and model images. -/

namespace Sys2Proof.Machine

/-! ### Tensors (R298, R325) -/

/-- A tensor in its storage layout. -/
structure Tensor where
  fmt   : Nat
  dims  : List Nat
  bytes : List Byte
  deriving DecidableEq, Repr

def isMx (f : Nat) : Bool := decide (7 ≤ f) && decide (f ≤ 12)
def widthOf (f : Nat) : Nat := EFmt.width (elemFmt f)
def lastDim (dims : List Nat) : Nat := dims.getLast?.getD 1
/-- Bytes of a row: MX blocks of 32 elements with their scale byte, and otherwise packed elements (R325). -/
def rowBytes (f n : Nat) : Nat := if isMx f then n / 32 * (1 + 4 * widthOf f) else (n * widthOf f + 7) / 8
def tensorBytes (f : Nat) (dims : List Nat) : Nat := dims.dropLast.prod * rowBytes f (lastDim dims)
/-- The last dim of an MX tensor is a multiple of 32 (R325). -/
def mxOk (f : Nat) (dims : List Nat) : Bool := !isMx f || decide (lastDim dims % 32 = 0)

/-- Elements of `w` bits from packed bytes. -/
def unpack (w n : Nat) (bs : List Byte) : List Nat :=
  let v := fromLe bs
  (List.range n).map fun i => v / 2 ^ (w * i) % 2 ^ w

/-- Packed bytes of elements of `w` bits. -/
def pack (w : Nat) (cs : List Nat) : List Byte := le ((cs.length * w + 7) / 8) (cs.zipIdx.map fun e => e.1 * 2 ^ (w * e.2)).sum

/-- The element codes of a tensor without block scales. -/
def Tensor.codes (t : Tensor) : List Nat := (chunks (rowBytes t.fmt (lastDim t.dims)) t.bytes).flatMap (unpack (widthOf t.fmt) (lastDim t.dims))

/-- The blocks of an MX tensor: scale and element codes. -/
def Tensor.blocks (t : Tensor) : List (Nat × List Nat) :=
  let w := widthOf t.fmt
  (chunks (1 + 4 * w) t.bytes).map fun b => (field b 0 1, unpack w 32 (b.drop 1))

/-- The value of an element under a block scale (R324). -/
def scaled (s : Nat) (v : FVal) : FVal := if s = 255 then .nan else v.mul (.fin false (pow2 ((s : Int) - 127)))

/-- The values of a tensor, in storage order. -/
def Tensor.vals (t : Tensor) : List FVal :=
  if isMx t.fmt then t.blocks.flatMap fun b => b.2.map fun c => scaled b.1 (EFmt.value (elemFmt t.fmt) c)
  else t.codes.map (EFmt.value (elemFmt t.fmt))

def Tensor.ofCodes (f : Nat) (dims cs : List Nat) : Tensor := ⟨f, dims, (chunks (lastDim dims) cs).flatMap (pack (widthOf f))⟩
def Tensor.ofVals (f : Nat) (dims : List Nat) (vs : List FVal) (mode : Nat := 0) (sat : Bool := false) : Tensor :=
  Tensor.ofCodes f dims (vs.map fun v => EFmt.encode (elemFmt f) v mode sat)

/-- Elements along an axis, for every place of the other axes in storage order. -/
def lanes {α : Type} (dims : List Nat) (ax : Nat) (d : α) (vs : List α) : List (List α) :=
  let n := dims.getD ax 1
  let inner := (dims.drop (ax + 1)).prod
  (List.range (dims.take ax).prod).flatMap fun o => (List.range inner).map fun i => (List.range n).map fun k => vs.getD ((o * n + k) * inner + i) d

/-! ### Formats by operation (R335) -/

def fmtIn (lo hi f : Nat) : Bool := decide (lo ≤ f) && decide (f ≤ hi)
/-- Formats 1 to 6 and 13 to 15. -/
def plainFmt (f : Nat) : Bool := fmtIn 1 6 f || fmtIn 13 15 f
/-- Both of 1 to 4, or both of 13 to 15. -/
def sameKind (f g : Nat) : Bool := (fmtIn 1 4 f && fmtIn 1 4 g) || (fmtIn 13 15 f && fmtIn 13 15 g)

/-! ### Accumulation (R328 to R331) -/

/-- Formats that accumulate exactly (R328). -/
def exactFmt (f : Nat) : Bool := [5, 6, 13, 14, 15].contains f
/-- The accumulator of formats 1 to 4 (R330). -/
def accOf (f : Nat) : FFmt := if f = 1 then b64 else b32
/-- The sum of terms in the accumulator of a format. -/
def sumTerms (f : Nat) (ts : List FVal) : FVal := if exactFmt f then exactSum ts else pairSum (accOf f) (ts.map fun x => (accOf f).round x)
def dot (f : Nat) (xs ys : List FVal) : FVal := sumTerms f (List.zipWith FVal.mul xs ys)

/-- The partial of a block pair (R331). -/
def mxPartial (f : Nat) (x y : Nat × List Nat) : FVal :=
  if x.1 = 255 ∨ y.1 = 255 then .nan
  else
    let v (c : Nat) : FVal := EFmt.value (elemFmt f) c
    b32.round ((exactSum (List.zipWith (fun a b => (v a).mul (v b)) x.2 y.2)).mul (.fin false (pow2 ((x.1 + y.1 : Nat) - 254 : Int))))
def mxDot (f : Nat) (xs ys : List (Nat × List Nat)) : FVal := pairSum b32 (List.zipWith (mxPartial f) xs ys)

/-! ### Operations (R321) -/

/-- An op record with its dims filled in. -/
structure AOp where
  code : Nat
  fmt  : Nat
  dims : List Nat
  a    : Nat
  b    : Nat
  c    : Nat
  attr : Nat
  deriving DecidableEq, Repr

/-- An operation's result, or none: outside the table "Operation set" (reason 2). -/
abbrev OpRes := Option Tensor

/-- A condition of the table "Operation set". -/
def need (b : Bool) (t : Tensor) : OpRes := if b then some t else none

/-- The longest reduction axis (R334). -/
def axisMax : Nat := 16777216

def opGemm (o : AOp) (a b : Tensor) : OpRes :=
  let tr := bit o.attr 0
  match a.dims, b.dims with
  | [m, k], [p, q] =>
    let (bk, n) := if tr then (q, p) else (p, q)
    let ok := decide (a.fmt = b.fmt) && fmtIn 1 15 a.fmt && plainFmt o.fmt && decide (bk = k) && decide (o.dims = [m, n]) && decide (k ≤ axisMax)
    if isMx a.fmt then
      need (ok && tr) (Tensor.ofVals o.fmt o.dims ((chunks (k / 32) a.blocks).flatMap fun r => (chunks (k / 32) b.blocks).map fun c => mxDot a.fmt r c))
    else
      need ok (Tensor.ofVals o.fmt o.dims ((lanes [m, k] 1 .nan a.vals).flatMap fun r => (lanes [p, q] (if tr then 1 else 0) .nan b.vals).map fun c => dot a.fmt r c))
  | _, _ => none

/-- Output positions of a window of `f` taps along an axis of `n` (log entry 50). -/
def convOut (n f stride pad dil : Nat) : Nat := if n + 2 * pad < (f - 1) * dil + 1 then 0 else (n + 2 * pad - (f - 1) * dil - 1) / stride + 1

def opConv (o : AOp) (a b : Tensor) : OpRes :=
  let (sy, sx, py, px, dy, dx) := (bits o.attr 3 0, bits o.attr 7 4, bits o.attr 11 8, bits o.attr 15 12, bits o.attr 19 16, bits o.attr 23 20)
  match a.dims, b.dims with
  | [n, h, w, c], [fh, fw, c', f] =>
    let (oh, ow) := (convOut h fh sy py dy, convOut w fw sx px dx)
    let ok := decide (a.fmt = b.fmt) && plainFmt a.fmt && plainFmt o.fmt && decide (c = c') && decide (1 ≤ sy) && decide (1 ≤ sx) && decide (1 ≤ dy)
      && decide (1 ≤ dx) && decide (o.dims = [n, oh, ow, f]) && decide (fh * fw * c ≤ axisMax)
    let av := a.vals
    let bv := b.vals
    let at' (i y x z : Nat) : FVal := if py ≤ y ∧ px ≤ x ∧ y - py < h ∧ x - px < w then av.getD (((i * h + (y - py)) * w + (x - px)) * c + z) .nan else FVal.zero
    let window (i y x : Nat) : List FVal := (List.range fh).flatMap fun ky => (List.range fw).flatMap fun kx => (List.range c).map fun z => at' i (y * sy + ky * dy) (x * sx + kx * dx) z
    let filters := lanes [fh * fw * c, f] 0 .nan bv
    need ok (Tensor.ofVals o.fmt o.dims ((List.range n).flatMap fun i => (List.range oh).flatMap fun y => (List.range ow).flatMap fun x => filters.map (dot a.fmt (window i y x))))
  | _, _ => none

/-- ADD, MUL and BIAS: b broadcasts over a when its dims are a's trailing dims. -/
def opBinary (o : AOp) (g : FVal → FVal → FVal) (bias : Bool) (a b : Tensor) : OpRes :=
  let tail := decide (b.dims = a.dims.drop (a.dims.length - b.dims.length)) && (!bias || decide (b.dims.length = 1))
  let n := b.dims.prod
  let bv := b.vals
  need (tail && decide (a.fmt = b.fmt) && sameKind a.fmt o.fmt && decide (o.dims = a.dims))
    (Tensor.ofVals o.fmt o.dims (a.vals.zipIdx.map fun e => g e.1 (bv.getD (e.2 % n) .nan)))

def reluOf (x : FVal) : FVal := if x.isNan then .nan else if FVal.zero.lt x then x else FVal.zero

/-- Elementwise operations. -/
def opMap (o : AOp) (ok : Bool) (g : FVal → FVal) (a : Tensor) : OpRes := need (ok && decide (o.dims = a.dims)) (Tensor.ofVals o.fmt o.dims (a.vals.map g))

def maxOf (l : List FVal) : FVal :=
  match l with
  | [] => .nan
  | x :: r => if l.any FVal.isNan then .nan else r.foldl (fun m y => if m.lt y then y else m) x

/-- The index of the greatest element (ARGMAX). -/
def argmaxOf (l : List FVal) : Nat :=
  match l.findIdx? FVal.isNan with
  | some i => i
  | none => (l.zipIdx.foldl (fun (m : FVal × Nat) e => if m.1.lt e.1 then e else m) (l.getD 0 .nan, 0)).2

/-- Before in the order of TOPK. -/
def topBefore (x y : FVal × Nat) : Bool :=
  if x.1.isNan || y.1.isNan then x.1.isNan && (!y.1.isNan || decide (x.2 < y.2))
  else y.1.lt x.1 || (!(x.1.lt y.1) && decide (x.2 < y.2))
def topInsert (x : FVal × Nat) : List (FVal × Nat) → List (FVal × Nat)
  | [] => [x]
  | y :: r => if topBefore x y then x :: y :: r else y :: topInsert x r
def topOf (k : Nat) (l : List FVal) : List Nat := ((l.zipIdx.foldr topInsert []).take k).map Prod.snd

/-- SOFTMAX of a row, in binary32. -/
def softmaxRow (xs : List FVal) : List FVal :=
  let m := maxOf xs
  let es := xs.map fun x => exp32 (sub32 x m)
  let s := pairSum b32 es
  es.map fun e => div32 e s

/-- The sum of squares of a row over its length, and the reciprocal root of that plus eps. -/
def normRoot (eps : FVal) (xs : List FVal) : FVal :=
  rsqrt32 (add32 (div32 (pairSum b32 (xs.map fun x => mul32 x x)) (FVal.ofInt xs.length)) eps)
def rmsRow (eps : FVal) (g xs : List FVal) : List FVal :=
  let r := normRoot eps xs
  List.zipWith (fun x y => mul32 (mul32 x r) y) xs g
def layerRow (eps : FVal) (g β xs : List FVal) : List FVal :=
  let μ := div32 (pairSum b32 xs) (FVal.ofInt xs.length)
  let ds := xs.map fun x => sub32 x μ
  List.zipWith add32 (rmsRow eps g ds) β

/-- Operations on the rows of formats 2 to 4. -/
def opRows (o : AOp) (ok : Bool) (g : List FVal → List FVal) (a : Tensor) : OpRes :=
  need (ok && fmtIn 2 4 a.fmt && fmtIn 2 4 o.fmt && decide (o.dims = a.dims) && decide (lastDim a.dims ≤ axisMax))
    (Tensor.ofVals o.fmt o.dims ((chunks (lastDim a.dims) a.vals).flatMap g))

/-- The output dims of a reduction over an axis: the axis removed, or of length 1 (log entry 50). -/
def axisDims (dims : List Nat) (ax : Nat) (out : List Nat) : Bool := decide (ax < dims.length) && (decide (out = dims.eraseIdx ax) || decide (out = setAt dims ax 1))

def opGather (o : AOp) (a b : Tensor) : OpRes :=
  match a.dims, b.dims with
  | [v, d], [l] =>
    let n := rowBytes a.fmt d
    need (fmtIn 1 15 a.fmt && decide (b.fmt = 16) && decide (o.fmt = a.fmt) && decide (o.dims = [l, d]))
      ⟨o.fmt, o.dims, b.codes.flatMap fun i => if i < v then slice a.bytes (i * n) n else zeros n⟩
  | _, _ => none

/-- The largest normal exponent of an MX element format (R339). -/
def mxEmax (f : Nat) : Int :=
  match f with
  | 7 => 8
  | 8 => 15
  | 9 => 4
  | 10 | 11 => 2
  | _ => 0

/-- Block quantisation (R339). -/
def mxQuantBlock (f : Nat) (xs : List FVal) : List Byte :=
  let w := widthOf f
  let mag (x : FVal) : Rat := match x with
    | .fin _ m => m
    | _ => 0
  let special := xs.any fun x => match x with
    | .fin _ _ => false
    | _ => true
  let amax := xs.foldl (fun m x => max m (mag x)) 0
  if special then (0xFF : Byte) :: pack w (xs.map fun _ => 0)
  else if amax = 0 then (0 : Byte) :: pack w (xs.map fun _ => 0)
  else
    let s := max 0 (min 254 (floorLog2 amax - mxEmax f + 127))
    BitVec.ofInt 8 s :: pack w (xs.map fun x => EFmt.encode (elemFmt f) (x.mul (.fin false (pow2 (127 - s)))) 0 true)

/-- TREESCORE of a row of inputs (R291, R292). -/
def treeScore (img : List Byte) (xs : List Nat) : Nat :=
  let miss := (xs.zipIdx.map fun e => if e.1 = 0x80000000 then 2 ^ e.2 else 0).sum
  let s := le 8 miss ++ zeros 8 ++ (padTo 256 (xs.flatMap (le 4)))
  let x := (List.range (kTrees img)).foldl (fun (a : KSum) g => KSum.add a (kNodeForm img s g) true) ((0, 0, false) : KSum)
  if x.2.1 = 0 then intBits 32 (kScore img x.1).1 else 0x80000000

def opTree (o : AOp) (a b : Tensor) : OpRes :=
  match a.dims with
  | [l, i] =>
    need (decide (a.fmt = 16) && decide (o.fmt = 16) && decide (o.dims = [l]) && decide (0x8000 ≤ o.b) && decide (o.b < 0xFFFE) && kaleImageOk b.bytes && decide (kInputs b.bytes = i))
      (Tensor.ofCodes 16 o.dims ((chunks i a.codes).map (treeScore b.bytes)))
  | _ => none

/-- The table "Operation set": CRC. -/
def crcOf (k : Nat) (bs : List Byte) : List Byte :=
  match k with
  | 0 => le 8 (crc32 bs).toNat
  | 1 => le 8 (crc32c bs).toNat
  | 2 => le 8 (crc64 bs).toNat
  | _ => le 8 (crc16 bs).toNat

/-- A decode operation (R322): format 0 DEFLATE, 1 zlib, 2 gzip, 3 Zstandard, 4 LZ4. -/
def decodeTo (f n : Nat) (bs : List Byte) : List Byte :=
  let failed (code off : Nat) : List Byte := padTo n (le 8 (code + 256 * off))
  match Config.decompress f bs with
  | .ok out => if out.length = n then out else failed 3 (Config.lengthError f bs n)
  | .error off => failed (if Config.endCheckFails f bs then 2 else 1) off

/-- A byte stream (R298). -/
def Tensor.stream (t : Tensor) : Bool := decide (t.fmt = 13) && decide (t.dims.length = 1)
def opStream (o : AOp) (n : Nat) (g : List Byte → List Byte) (a : Tensor) : OpRes :=
  need (a.stream && decide (o.fmt = 13) && decide (o.dims = [n]) && decide (n ≤ 16777216)) ⟨13, o.dims, g a.bytes⟩

/-- One operation on its operands (R321, R335). -/
def evalOp (o : AOp) (a b c : Option Tensor) : OpRes :=
  let n0 := o.dims.getD 0 0
  let ax := bits o.attr 1 0
  let eps := EFmt.value (elemFmt 2) o.attr
  match o.code, a with
  | _, none => none
  | 0x06, some a => opMap o (plainFmt a.fmt && decide (o.fmt = a.fmt)) reluOf a
  | 0x07, some a => opMap o (fmtIn 2 4 a.fmt && fmtIn 2 4 o.fmt) gelu32 a
  | 0x08, some a => opMap o (fmtIn 2 4 a.fmt && fmtIn 2 4 o.fmt) exp32 a
  | 0x09, some a => opRows o true softmaxRow a
  | 0x0D, some a => need (plainFmt a.fmt && plainFmt o.fmt && axisDims a.dims ax o.dims && decide (a.dims.getD ax 1 ≤ axisMax)) (Tensor.ofVals o.fmt o.dims ((lanes a.dims ax .nan a.vals).map (sumTerms a.fmt)))
  | 0x0E, some a => need (plainFmt a.fmt && decide (o.fmt = a.fmt) && axisDims a.dims ax o.dims) (Tensor.ofVals o.fmt o.dims ((lanes a.dims ax .nan a.vals).map maxOf))
  | 0x0F, some a => need (plainFmt a.fmt && decide (o.fmt = 16) && axisDims a.dims ax o.dims) (Tensor.ofCodes 16 o.dims ((lanes a.dims ax .nan a.vals).map argmaxOf))
  | 0x10, some a =>
    let k := bits o.attr 15 0
    need (plainFmt a.fmt && decide (o.fmt = 16) && decide (1 ≤ k) && decide (k ≤ lastDim a.dims) && decide (o.dims = setAt a.dims (a.dims.length - 1) k))
      (Tensor.ofCodes 16 o.dims ((chunks (lastDim a.dims) a.vals).flatMap (topOf k)))
  | 0x11, some a => need (fmtIn 1 4 a.fmt && decide (o.fmt = bits o.attr 3 0) && decide (o.dims = a.dims)) ⟨o.fmt, o.dims, (chunks 32 a.vals).flatMap (mxQuantBlock o.fmt)⟩
  | 0x12, some a => opMap o (isMx a.fmt && fmtIn 1 4 o.fmt) id a
  | 0x13, some a => need (plainFmt a.fmt && plainFmt o.fmt && decide (o.dims = a.dims)) (Tensor.ofVals o.fmt o.dims a.vals ax (bit o.attr 2))
  | 0x15, some a => opStream o 8 (crcOf ax) a
  | 0x16, some a => opStream o n0 (decodeTo ax n0) a
  | 0x17, some a => opStream o n0 (decodeTo 3 n0) a
  | 0x18, some a => opStream o n0 (decodeTo 4 n0) a
  | k, some a =>
    match b with
    | none => none
    | some b =>
      match k with
      | 0x01 => opGemm o a b
      | 0x02 => opConv o a b
      | 0x03 => opBinary o FVal.add false a b
      | 0x04 => opBinary o FVal.mul false a b
      | 0x05 => opBinary o FVal.add true a b
      | 0x0A => opRows o (decide (b.fmt = a.fmt) && decide (b.dims = [lastDim a.dims])) (rmsRow eps b.vals) a
      | 0x0B =>
        match c with
        | some c => opRows o (decide (b.fmt = a.fmt) && decide (c.fmt = a.fmt) && decide (b.dims = [lastDim a.dims]) && decide (c.dims = b.dims)) (layerRow eps b.vals c.vals) a
        | none => none
      | 0x0C => opGather o a b
      | 0x14 => opTree o a b
      | _ => none

/-! ### Model images (R297) -/

def aOps (m : List Byte) : Nat := field m 6 2
def aTensors (m : List Byte) : Nat := field m 12 4
def aWeights (m : List Byte) : List Byte := slice m (field m 32 4) (field m 36 4)
def aDigest (m : List Byte) : DWord := BitVec.ofNat 64 (field m 16 8)
def aModel (m : List Byte) : Word := BitVec.ofNat 32 (field m 8 4)
/-- Four dims at an offset. -/
def aDims (m : List Byte) (o : Nat) : List Nat := (List.range 4).map fun i => field m (o + 4 * i) 4
/-- Dims beyond the rank hold 1, and the rank is 1 to 4. -/
def rankOk (rank : Nat) (dims : List Nat) : Bool := decide (1 ≤ rank) && decide (rank ≤ 4) && (dims.drop rank).all fun d => decide (d = 1)

/-- Where weight tensor `w` has its entry. -/
def aTensorAt (m : List Byte) (w : Nat) : Nat := field m 28 4 + 24 * w
def aTensorDims (m : List Byte) (w : Nat) : List Nat := (aDims m (aTensorAt m w + 4)).take (field m (aTensorAt m w + 1) 1)
def aTensor (m : List Byte) (w : Nat) : Tensor :=
  let f := field m (aTensorAt m w) 1
  let ds := aTensorDims m w
  ⟨f, ds, slice (aWeights m) (64 * field m (aTensorAt m w + 20) 4) (tensorBytes f ds)⟩

/-- Op record `i`, its dims as stored. -/
def aOp (m : List Byte) (i : Nat) : AOp :=
  let o := field m 24 4 + 32 * i
  { code := field m o 2, fmt := field m (o + 2) 1, dims := (aDims m (o + 12)).take (field m (o + 3) 1), a := field m (o + 4) 2, b := field m (o + 6) 2, c := field m (o + 8) 2, attr := field m (o + 28) 4 }

/-- An operand slot of op `i` that R297 allows. -/
def slotOk (m : List Byte) (i s : Nat) : Bool :=
  decide (s < i) || (decide (0x8000 ≤ s) && decide (s < 0xFFFE) && decide (s - 0x8000 < aTensors m)) || decide (s = 0xFFFE) || decide (s = 0xFFFF)

/-- Attributes with a reserved encoding (R5, R321). -/
def attrOk (code attr : Nat) : Bool :=
  match code with
  | 0x11 => fmtIn 7 12 (bits attr 3 0)
  | 0x13 | 0x16 => decide (bits attr 1 0 ≠ 3)
  | _ => true

def aOpOk (m : List Byte) (i : Nat) : Bool :=
  let o := field m 24 4 + 32 * i
  let p := aOp m i
  fmtIn 1 0x18 p.code && fmtIn 1 16 p.fmt && rankOk (field m (o + 3) 1) (aDims m (o + 12)) && slotOk m i p.a && slotOk m i p.b && slotOk m i p.c && attrOk p.code p.attr

def aTensorOk (m : List Byte) (w : Nat) : Bool :=
  let o := aTensorAt m w
  let f := field m o 1
  fmtIn 1 16 f && rankOk (field m (o + 1) 1) (aDims m (o + 4)) && decide (64 * field m (o + 20) 4 + tensorBytes f (aTensorDims m w) ≤ field m 36 4)

/-- A model image that ASSAY_MODEL_LOAD accepts (R297, R298, R309). -/
def modelOk (m : List Byte) : Bool :=
  let len := m.length
  decide (64 ≤ len) && decide (field m 0 4 = 0x4C444D41) && decide (field m 4 1 = 1) && decide (1 ≤ aOps m) && decide (aOps m ≤ 4096)
    && decide (aTensors m ≤ 65535) && decide (field m 24 4 % 32 = 0) && decide (field m 28 4 % 8 = 0) && decide (field m 32 4 % 64 = 0)
    && decide (field m 40 4 = len) && decide (field m 24 4 + 32 * aOps m ≤ len) && decide (field m 28 4 + 24 * aTensors m ≤ len)
    && decide (field m 32 4 + field m 36 4 ≤ len) && decide (field m 44 2 < aOps m) && fmtIn 1 16 (field m 46 1)
    && rankOk (field m 47 1) (1 :: (aDims m 48).take 3) && decide (field m 60 4 = (crc32c (m.take 60 ++ m.drop 64)).toNat)
    && decide (aDigest m = crc64 (aWeights m)) && (List.range (aOps m)).all (aOpOk m) && (List.range (aTensors m)).all (aTensorOk m)

/-- The stage input as a tensor: its dim 0 is the input length over the storage size of a slice (R298; a rank of 1: log entry 50). -/
def aInput (m input : List Byte) : Option Tensor :=
  let f := field m 46 1
  let rank := field m 47 1
  let ds := ((aDims m 48).take 3).take (rank - 1)
  let n := input.length
  if rank = 1 then
    let unit := if isMx f then 1 + 4 * widthOf f else if f = 14 then 1 else widthOf f / 8
    let per := if isMx f then 32 else if f = 14 then 2 else 1
    if n % unit = 0 then some ⟨f, [n / unit * per], input⟩ else none
  else
    let size := tensorBytes f (1 :: ds)
    if size = 0 ∨ n % size ≠ 0 ∨ mxOk f ds = false then none else some ⟨f, n / size :: ds, input⟩

/-- The operand in a slot. -/
def operandOf (m : List Byte) (x : Tensor) (outs : List Tensor) (s : Nat) : Option Tensor :=
  if s < 0x1000 then outs[s]?
  else if s = 0xFFFE then some x
  else if 0x8000 ≤ s ∧ s < 0xFFFE then (if mxOk (aTensor m (s - 0x8000)).fmt (aTensor m (s - 0x8000)).dims then some (aTensor m (s - 0x8000)) else none)
  else none

/-- Run the ops from index `i` on, in index order; none where one is outside the table (reason 2). -/
def runOps (m : List Byte) (x : Tensor) (i : Nat) : Nat → List Tensor → Option (List Tensor)
  | 0, outs => some outs
  | n + 1, outs =>
    let o := aOp m i
    let o := { o with dims := match o.dims with
      | 0 :: r => x.dims.getD 0 0 :: r
      | ds => ds }
    if mxOk o.fmt o.dims = false then none
    else match evalOp o (operandOf m x outs o.a) (operandOf m x outs o.b) (operandOf m x outs o.c) with
      | some t => runOps m x (i + 1) n (outs ++ [t])
      | none => none

/-- The outputs of a stage program on an input (R313 step 6), or none: unassayable with reason 2. -/
def runStage (m input : List Byte) : Option (List Tensor) :=
  match aInput m input with
  | some x => runOps m x 0 (aOps m) []
  | none => none

/-! ### Comparison (R318) -/

/-- The ordinal of a floating-point code: its magnitude bits with its sign. -/
def ordinal (f : FFmt) (c : Nat) : Int :=
  let m : Int := (c % 2 ^ (f.exp + f.man) : Nat)
  if bit c (f.exp + f.man) then -m else m

/-- The ULP distance of two codes of a format; none incomparable. -/
def ulpDist (f x y : Nat) : Option Nat :=
  match elemFmt f with
  | .flt g =>
    let nan (c : Nat) : Bool := FVal.isNan (EFmt.value (.flt g) c)
    if nan x && nan y then some 0 else if nan x || nan y then none else some (ordinal g x - ordinal g y).natAbs
  | .int w _ => if f = 16 then some (max x y - min x y) else some ((BitVec.ofNat w x).toInt - (BitVec.ofNat w y).toInt).natAbs

/-- The elements of stored bytes as they compare: code and block scale. -/
def Tensor.cmp (t : Tensor) : List (Nat × Nat) :=
  if isMx t.fmt then t.blocks.flatMap fun b => b.2.map fun c => (c, b.1) else t.codes.map fun c => (c, 0)

/-- First differing element, count of differing elements and greatest ULP distance of two outputs (R316, R318). -/
def compareOutputs (x y : Tensor) : Nat × Nat × Nat :=
  let ds := (x.cmp.zip y.cmp).zipIdx.filterMap fun e =>
    if e.1.1 = e.1.2 then none else some (e.2, if e.1.1.2 ≠ e.1.2.2 then none else ulpDist x.fmt e.1.1.1 e.1.2.1)
  let first := match ds with
    | d :: _ => d.1
    | [] => 0xFFFFFFFF
  let ulp := if ds.any fun d => d.2.isNone then 0xFFFFFFFF else ds.foldl (fun m d => max m (min 0xFFFFFFFE (d.2.getD 0))) 0
  (first, ds.length, ulp)

end Sys2Proof.Machine
end

