-- ==== Sys2Proof/Machine/LeafOps.lean ====
section
/-! DEFINITION. Operations that every leaf family shares: the leaf's time and class, its table lookups, its ports, its
position on the ring and the frames it originates. -/

namespace Sys2Proof.Machine

/-- The leaf's own time in whole ns. -/
def Leaf.now (l : Leaf) : Nat := TimeDom.ns l.time

/-- The leaf puts something out at its boundary. -/
def Leaf.emit (l : Leaf) (o : Out) : Leaf := { l with out := o :: l.out }

/-- Answer on the leaf host port with data (R448). -/
def Leaf.answer (l : Leaf) (d : DWord) : Leaf := Leaf.emit l (.rsp false d)

/-- The port's error response: no effect, data zero (R448). -/
def Leaf.answerError (l : Leaf) : Leaf := Leaf.emit l (.rsp true 0)

def Leaf.stn (l : Leaf) (i : Nat) : Station := Cells.get Station.reset l.cnt.stations i
def Leaf.setStn (l : Leaf) (i : Nat) (v : Station) : Leaf :=
  { l with cnt.stations := Cells.set Station.reset l.cnt.stations i v }
def Leaf.hist (l : Leaf) (i : Nat) : Hist := Cells.get Hist.reset l.cnt.hists i
def Leaf.setHist (l : Leaf) (i : Nat) (v : Hist) : Leaf := { l with cnt.hists := Cells.set Hist.reset l.cnt.hists i v }
def Leaf.site (l : Leaf) (i : Nat) : Site := Cells.get Site.reset l.cnt.sites i
def Leaf.setSite (l : Leaf) (i : Nat) (v : Site) : Leaf := { l with cnt.sites := Cells.set Site.reset l.cnt.sites i v }
def Leaf.pair (l : Leaf) (i : Nat) : Pair := Cells.get Pair.reset l.cnt.pairs i
def Leaf.setPair (l : Leaf) (i : Nat) (v : Pair) : Leaf := { l with cnt.pairs := Cells.set Pair.reset l.cnt.pairs i v }
def Leaf.input (l : Leaf) (i : Nat) : Input := Cells.get Input.reset l.inputs i
def Leaf.setInput (l : Leaf) (i : Nat) (v : Input) : Leaf := { l with inputs := Cells.set Input.reset l.inputs i v }
def Leaf.beat (l : Leaf) (i : Nat) : Beat := Cells.get Beat.reset l.dump.beats i
def Leaf.setBeat (l : Leaf) (i : Nat) (v : Beat) : Leaf := { l with dump.beats := Cells.set Beat.reset l.dump.beats i v }
def Leaf.trcPort (l : Leaf) (i : Nat) : TracePort := Cells.get TracePort.reset l.trace.ports i
def Leaf.setTrcPort (l : Leaf) (i : Nat) (v : TracePort) : Leaf :=
  { l with trace.ports := Cells.set TracePort.reset l.trace.ports i v }
def Leaf.slot (l : Leaf) (i : Nat) : Slot := Cells.get Slot.reset l.appts i
def Leaf.setSlot (l : Leaf) (i : Nat) (v : Slot) : Leaf := { l with appts := Cells.set Slot.reset l.appts i v }
def Leaf.cvEngine (l : Leaf) (i : Nat) : CvEngine := Cells.get CvEngine.reset l.cv i
def Leaf.setCv (l : Leaf) (i : Nat) (v : CvEngine) : Leaf := { l with cv := Cells.set CvEngine.reset l.cv i v }

/-- A live counter; one that failed BIST without a spare reads all ones (R75). -/
def Leaf.counter (l : Leaf) (i : Nat) : DWord :=
  if l.cnt.failed.contains i then 0xFFFFFFFFFFFFFFFF else Cells.get 0 l.cnt.counters i

/-- Add to a counter, modulo 2^64 (R68). -/
def Leaf.bumpCounter (l : Leaf) (i n : Nat) : Leaf :=
  { l with cnt.counters := Cells.modify 0 l.cnt.counters i (· + w64 n) }

/-- Add to a slot counter (R77). -/
def Leaf.bumpSlot (l : Leaf) (i n : Nat) : Leaf := { l with cnt.slots := Cells.modify 0 l.cnt.slots i (· + w64 n) }

/-- The leaf has a lease holder. -/
def Leaf.hasHolder (l : Leaf) : Bool := l.ring.lease.holder ≠ 0xFF

/-- A ring end whose exchanges do not cross the hop under recalibration (R45): hop h lies towards end A when h ≤ p. -/
def Leaf.endUsable (l : Leaf) (e : Nat) : Bool :=
  match l.time.rerunHop, l.ring.position with
  | some h, some p => if e = 14 then decide (p < h) else decide (h ≤ p)
  | _, _ => true

/-- The leaf's class (R32); the internal leaf's is its Tervon's (R40, R220). During a calibration rerun a leaf with only the
crossing path reports TQ5 (R45). -/
def Leaf.tq (l : Leaf) : BitVec 4 :=
  match l.kind with
  | .internal => TimeDom.tervonClass l.time
  | .ring =>
    let c := TimeDom.classOf l.time l.time.srcCls l.time.calibrated
    if l.time.rerunHop.isSome && c ≠ 0 && c ≠ 6
        && !(Leaf.endUsable l 14 && TimeDom.fresh l.time 14) && !(Leaf.endUsable l 15 && TimeDom.fresh l.time 15) then 5
    else c

/-- The port behind a name; the internal leaf's internal link stands in the west place. -/
def Leaf.port (l : Leaf) (p : PortId) : LinkPort :=
  match p with
  | .east => l.ring.east
  | _ => l.ring.west

def Leaf.setPort (l : Leaf) (p : PortId) (v : LinkPort) : Leaf :=
  match p with
  | .east => { l with ring.east := v }
  | _ => { l with ring.west := v }

/-- The other ring port. -/
def otherPort : PortId → PortId
  | .west => .east
  | _ => .west

/-- The port that leads to an end: frames towards end A travel west (R10). -/
def Leaf.portTo (l : Leaf) (e : Nat) : PortId :=
  match l.kind with
  | .internal => .internal
  | .ring => if e = 15 then .east else .west

/-- The end behind a port. -/
def endBehind : PortId → Nat
  | .east => 15
  | _ => 14

/-- The leaf's position in its frames; the internal leaf has none and writes 0 (log entry 13). -/
def Leaf.pos (l : Leaf) : Nat := l.ring.position.getD 0

/-- The class of a frame type (table "Frame types", R251, R357). -/
def Payload.cls : Payload → BitVec 2
  | .tally .. | .tallyEnd .. | .hist .. | .reducePart .. | .reduceResult .. | .mirror .. => 2
  | .health .. | .verdict .. => 1
  | .trace .. | .traceLoss .. | .dump .. | .captureDesc .. | .captureData .. | .stateLoad .. => 3
  | .routed _ _ _ _ _ h _ => h.cls
  | _ => 0

/-- The type code of a frame (table "Frame types", R251, R357). -/
def Payload.code : Payload → BitVec 6
  | .timeSync .. => 0x01 | .timeFollow .. => 0x02 | .delayReq .. => 0x03 | .delayResp .. => 0x04
  | .leaseReq .. => 0x08 | .leaseGrant .. => 0x09 | .tally .. => 0x10 | .tallyEnd .. => 0x11 | .hist .. => 0x12
  | .health .. => 0x14 | .trace .. => 0x18 | .traceLoss .. => 0x19 | .dump .. => 0x1C | .captureDesc .. => 0x20
  | .captureData .. => 0x21 | .verdict .. => 0x24 | .regRd .. => 0x28 | .regWr .. => 0x29 | .regRsp .. => 0x2A
  | .appoint .. => 0x2C | .sleeping .. => 0x3E | .nop .. => 0x3F | .routed .. => 0x30 | .reducePart .. => 0x31
  | .reduceResult .. => 0x32 | .mirror .. => 0x38 | .mirrorAck .. => 0x39 | .buddyState .. => 0x3A | .calReport .. => 0x3B
  | .stateLoad .. => 0x3C | .stateDone .. => 0x3D

/-- A frame to position `dst`; link sequence, alive count and epoch are filled when it is sent. -/
def mkFrame (dst src : Nat) (tag : Half) (did : Did) (p : Payload) : Frame :=
  ⟨{ type := Payload.code p, cls := Payload.cls p, dst := BitVec.ofNat 4 dst, src := BitVec.ofNat 4 src,
     length := BitVec.ofNat 12 (Payload.len p), linkSeq := 0, alive := 0, epoch := 0, tag := tag, flags := 0, srcDid := did }, p⟩

/-- Put a frame into the transmit buffer of a port, behind the frames of its class (R130). -/
def LinkPort.push (q : LinkPort) (f : Frame) : LinkPort :=
  { q with own := Quad.set q.own f.hdr.cls.toNat (Quad.get q.own f.hdr.cls.toNat ++ [f]) }

/-- Send a frame to an end through the port that leads there. -/
def Leaf.sendEnd (l : Leaf) (e : Nat) (tag : Half) (p : Payload) : Leaf :=
  let q := Leaf.portTo l e
  Leaf.setPort l q (LinkPort.push (Leaf.port l q) (mkFrame e (Leaf.pos l) tag l.ring.did p))

/-- Answer a request towards the port on which it arrived (R160). -/
def Leaf.reply (l : Leaf) (rx : Rx) (p : Payload) : Leaf :=
  Leaf.setPort l rx.port (LinkPort.push (Leaf.port l rx.port) (mkFrame rx.hdr.src.toNat (Leaf.pos l) rx.hdr.tag l.ring.did p))

/-- Send a frame to both ends; the internal leaf has one. -/
def Leaf.sendBoth (l : Leaf) (p : Payload) : Leaf :=
  match l.kind with
  | .internal => Leaf.sendEnd l 14 0 p
  | .ring => Leaf.sendEnd (Leaf.sendEnd l 14 0 p) 15 0 p

/-- Send a frame of classes 1 to 3 to the lease holder (R143); the caller has checked that there is one. -/
def Leaf.sendHolder (l : Leaf) (p : Payload) : Leaf := Leaf.sendEnd l l.ring.lease.holder.toNat 0 p

/-- The frame comes from the lease holder: its src_did and epoch match the lease granted (R144). -/
def Leaf.fromHolder (l : Leaf) (h : Hdr) : Bool :=
  Leaf.hasHolder l && decide (h.srcDid = l.ring.lease.holderDid) && decide (h.epoch = l.ring.lease.epoch)

/-- From the Cellar commit until wake completes (R162, R448). -/
def Leaf.asleep (l : Leaf) : Bool := decide (2 ≤ l.pwr.cellar)

/-- The leaf core works: the leaf is in service or only preparing to enter Cellar. -/
def Leaf.awake (l : Leaf) : Bool := !Leaf.asleep l

end Sys2Proof.Machine
end

