-- ==== Sys2Proof/Machine/Health.lean ====
section
/-! DEFINITION. Health records and what the sequencer makes of them: the record as R185 fills it, the health store and the
deferral queue (R181, R188), the decision register, the unit history, classification and escalation (R183, R191 to R193). -/

namespace Sys2Proof.Machine

/-- The declaration of a unit in the configuration image (R190). -/
def Leaf.unitDecl (l : Leaf) (u : Half) : Option DWord :=
  ((l.cfg.units.map Prod.snd).find? fun d => decide (d.setWidth 16 = u))

/-- A host-die unit that the configuration declares (R23, R190). -/
def Leaf.declared (l : Leaf) (u : Half) : Bool := (Leaf.unitDecl l u).isSome

/-- The sensor site of a unit: a sensor-site unit's own site, or the site of the declaration (R185, R187, R190). -/
def Leaf.unitSite (l : Leaf) (u : Half) : Option Nat :=
  if 0xFF20 ≤ u.toNat ∧ u.toNat ≤ 0xFF4F then some (u.toNat - 0xFF20)
  else match Leaf.unitDecl l u with
    | some d => if bits d.toNat 23 16 = 0xFF then none else some (bits d.toNat 23 16)
    | none => none

/-- The guardband group of a unit and its kind (1 frequency), when the declaration makes the group valid (R190). -/
def Leaf.unitGroup (l : Leaf) (u : Half) : Option (Byte × Bool) :=
  match Leaf.unitDecl l u with
  | some d => if bit d.toNat 32 then some (BitVec.ofNat 8 (bits d.toNat 31 24), bit d.toNat 33) else none
  | none => none

/-- The health record of an event now against a unit (R185): readings from the unit's site, flag bit 5 when either is
missing. `flags` gives further bits of byte 24. -/
def Leaf.record (l : Leaf) (time : Ns) (cls : Byte) (unit op : Half) (detail : BitVec 24) (flags : Byte) : HealthRec :=
  let st := (Leaf.unitSite l unit).map (Leaf.site l)
  let temp : Half := match st with
    | some s => s.thermal
    | none => 0x8000
  let volt : Half := match st with
    | some s => s.supply
    | none => 0xFFFF
  let inv : Byte := if temp = 0x8000 ∨ volt = 0xFFFF then 0x20 else 0
  { time := time, did := l.ring.did, cls := cls, unit := unit, op := op, temp := temp, volt := volt,
    step := l.assay.step.setWidth 32, quality := (Leaf.tq l).setWidth 8 ||| flags ||| inv, detail := detail }

/-- Two records come from the same internal source: the same class and unit, and the same input for alarm records. -/
def sameSource (a b : HealthRec) : Bool :=
  decide (a.cls = b.cls) && decide (a.unit = b.unit)
    && (decide (a.cls ≠ 0x08 ∧ a.cls ≠ 0x09 ∧ a.cls ≠ 0x0B ∧ a.cls ≠ 0x0C) || decide (a.detail = b.detail))

/-- Put a record of an internal source into the health store; when the store is full the source holds it and raises no further
record (R188). -/
def Leaf.storeRec (l : Leaf) (r : HealthRec) : Leaf :=
  if l.health.store.length < 512 && l.health.held.isEmpty then { l with health.store := l.health.store ++ [r] }
  else if l.health.held.any (sameSource r) then l
  else { l with health.held := l.health.held ++ [r] }

/-- Mark a logical page as holding a pending change (R179, R184, R194). -/
def LedgerSt.mark (d : LedgerSt) (kind logical : Nat) (urgent : Bool) : LedgerSt :=
  if d.dirty.any fun e => decide (e.1 = kind) && decide (e.2.1 = logical) then
    { d with dirty := d.dirty.map fun e => if e.1 = kind ∧ e.2.1 = logical then (e.1, e.2.1, e.2.2 || urgent) else e }
  else { d with dirty := d.dirty ++ [(kind, logical, urgent)] }

/-- The first setting of a header flag is written and raises LEDGER_STATUS against unit 0xFF07 (R186). -/
def Leaf.setLedgerFlag (l : Leaf) (n : Nat) : Leaf :=
  if l.led.header.flags.getLsbD n then l
  else
    let led := LedgerSt.mark { l.led with header.flags := l.led.header.flags ||| (1 <<< n) } 2 0 true
    Leaf.storeRec { l with led := led } (Leaf.record l (TimeDom.ns64 l.time) 0x19 0xFF07 0 (BitVec.ofNat 24 n) 0)

/-- Whether a record enters the decision register (column "Ledger effect" of R186). -/
def isDecision (r : HealthRec) : Bool :=
  match r.cls.toNat with
  | 0x10 | 0x12 | 0x13 | 0x14 => true
  | 0x11 => decide (bits r.detail.toNat 17 16 = 0)
  | 0x18 => decide (3 ≤ bits r.detail.toNat 23 16) && decide (bits r.detail.toNat 23 16 ≤ 8)
  | _ => false

/-- Whether a record changes the unit history (R186). -/
def isHistory (r : HealthRec) : Bool := decide (r.cls = 0x01 ∨ r.cls = 0x02 ∨ r.cls = 0x03)

/-- The record with flag bit 6: not in the Ledger. -/
def HealthRec.notInLedger (r : HealthRec) : HealthRec := { r with quality := r.quality ||| 0x40 }

/-- One more refused record (R183). -/
def Leaf.countRefused (l : Leaf) : Leaf :=
  { l with led := LedgerSt.mark { l.led with header.refused := satAdd32 l.led.header.refused 1 } 2 0 true }

/-- A record finds the deferral queue full: its change is lost and counted, and it carries flag bit 6 (R181). -/
def Leaf.deferLoss (l : Leaf) (r : HealthRec) : Leaf × HealthRec :=
  let l := { l with led := LedgerSt.mark { l.led with header.deferLoss := satAdd32 l.led.header.deferLoss 1 } 2 0 true }
  (Leaf.setLedgerFlag l 2, HealthRec.notInLedger r)

/-- The sequencer enters a record into the decision register; the last 8 entries are kept for ACCEPT_RISK (R183). The record
stays in the deferral queue until its page write commits (R181). -/
def Leaf.recordDecision (l : Leaf) (r : HealthRec) : Leaf × HealthRec :=
  let n := l.led.decisions.length
  if n < 2040 ∨ (r.cls = 0x14 ∧ n < 2048) then
    ({ l with led := LedgerSt.mark (LedgerSt.mark { l.led with decisions := l.led.decisions ++ [r] } 7 (n / 8) true) 2 0 true,
              health.deferral := l.health.deferral ++ [r] }, r)
  else (Leaf.setLedgerFlag (Leaf.countRefused l) 0, HealthRec.notInLedger r)

/-- Raise a record that is no error of the unit history (R181, R183, R188). -/
def Leaf.raiseRec (l : Leaf) (r : HealthRec) : Leaf :=
  if isDecision r then
    if 128 ≤ l.health.deferral.length then
      let (l, r) := Leaf.deferLoss l r
      Leaf.storeRec l r
    else if l.seq.running then
      let (l, r) := Leaf.recordDecision l r
      Leaf.storeRec l r
    else Leaf.storeRec { l with health.deferral := l.health.deferral ++ [r] } r
  else Leaf.storeRec l r

/-- Raise a record now against a unit. -/
def Leaf.raise (l : Leaf) (cls : Byte) (unit : Half) (detail : Nat) : Leaf :=
  Leaf.raiseRec l (Leaf.record l (TimeDom.ns64 l.time) cls unit 0 (BitVec.ofNat 24 detail) 0)

/-- Raise LEAF_FAULT: sub-code and locus (R186). -/
def Leaf.leafFault (l : Leaf) (unit : Half) (sub locus : Nat) : Leaf :=
  Leaf.raise l 0x18 unit (sub * 65536 + locus % 65536)

/-- The index of a unit's history entry. -/
def LedgerSt.entryOf (d : LedgerSt) (u : Half) : Option Nat := d.units.findIdx? fun e => decide (e.unit = u)

def LedgerSt.entry (d : LedgerSt) (i : Nat) : UnitEntry := d.units.getD i UnitEntry.reset

/-- Write a history entry and mark its page (R194). -/
def LedgerSt.setEntry (d : LedgerSt) (i : Nat) (e : UnitEntry) (urgent : Bool) : LedgerSt :=
  LedgerSt.mark { d with units := setAt d.units i e } 5 (i / 4) urgent

/-- A change of class raises CLASS_CHANGE (R192). -/
def Leaf.setClass (l : Leaf) (i : Nat) (c : Byte) : Leaf :=
  let e := LedgerSt.entry l.led i
  if e.cls = c then l
  else
    let l := { l with led := LedgerSt.setEntry l.led i { e with cls := c } true }
    Leaf.raise l 0x10 e.unit (c.toNat + 256 * e.cls.toNat)

/-- A handshake for the group is in progress or waits (R192). -/
def GbPort.pendingFor (g : GbPort) (grp : Byte) : Bool :=
  (match g.cur with
    | some h => decide (h.group = grp)
    | none => false) || g.queue.any fun h => decide (h.group = grp)

/-- The maximum step that any unit of a group holds (R193). -/
def Leaf.groupStep (l : Leaf) (grp : Byte) : Nat :=
  l.led.units.foldl (fun m e => match Leaf.unitGroup l e.unit with
    | some (g, _) => if g = grp then max m e.step.toNat else m
    | none => m) 0

/-- Ask for a group's guardband; the port takes requests one at a time (R193, R195). -/
def Leaf.requestGroup (l : Leaf) (grp : Byte) (kind : Bool) (v : Nat) (unit : Half) : Leaf :=
  { l with gb.queue := l.gb.queue ++ [{ Handshake.reset with group := grp, kind := kind, value := BitVec.ofNat 5 v, unit := unit }] }

/-- Fence request of an entry's unit (R192, R193, R198). -/
def Leaf.fenceUnit (l : Leaf) (i : Nat) (cause : Nat) : Leaf :=
  Leaf.raise (Leaf.setClass l i 4) 0x13 (LedgerSt.entry l.led i).unit cause

/-- escalate(e, t) of R192. -/
def Leaf.escalate (l : Leaf) (i : Nat) : Leaf :=
  let e := LedgerSt.entry l.led i
  match Leaf.unitGroup l e.unit with
  | none => l
  | some (g, k) =>
    if GbPort.pendingFor l.gb g then l
    else if e.step.toNat < (if k then 16 else 10) then
      Leaf.requestGroup l g k (max (Leaf.groupStep l g) (e.step.toNat + 1)) e.unit
    else Leaf.fenceUnit l i 1

/-- The position of the locus entry that an error takes: a held locus, a free entry, or the one with fewest hits, lowest index
among equals (`bump` of R192). -/
def lociPlace (loci : List (BitVec 24 × Byte)) (locus : BitVec 24) : Nat :=
  match loci.findIdx? fun e => decide (e.2 ≠ 0) && decide (e.1 = locus) with
  | some i => i
  | none =>
    if loci.length < 4 then loci.length
    else
      let m := loci.foldl (fun m e => min m e.2.toNat) 255
      (loci.findIdx? fun e => decide (e.2.toNat = m)).getD 0

/-- bump(loci, locus): the loci and the hits of that entry (R192). -/
def bumpLoci (loci : List (BitVec 24 × Byte)) (locus : BitVec 24) : List (BitVec 24 × Byte) × Nat :=
  let i := lociPlace loci locus
  match loci[i]? with
  | none => (loci ++ [(locus, 1)], 1)
  | some (l0, h) =>
    if l0 = locus then (setAt loci i (locus, satAdd8 h 1), (satAdd8 h 1).toNat) else (setAt loci i (locus, 1), 1)

/-- The counting part of on error(e, locus, t, pc): the entry after the error and the hits of its locus (R192). -/
def UnitEntry.countError (e : UnitEntry) (locus : BitVec 24) (t pc : Word) : UnitEntry × Nat :=
  let e := { e with total := satAdd32 e.total 1 }
  let first := match e.recent with
    | (p, _) :: _ => decide (p ≠ pc)
    | [] => true
  let e := if first then { e with recent := ((pc, t) :: e.recent).take 3, thisCycle := 0, loci := [] } else e
  let (loci, hits) := bumpLoci e.loci locus
  let e := { e with thisCycle := satAdd32 e.thisCycle 1, last := t, loci := loci }
  let sat := decide (e.total.toNat = 0xFFFFFFFF) || decide (e.thisCycle.toNat = 0xFFFFFFFF) || decide (hits = 255)
  ({ e with flags := e.flags ||| (if sat then 2 else 0) }, hits)

/-- The power cycles with errors in the last 30 days (R192). -/
def UnitEntry.cycles (e : UnitEntry) (t : Word) : Nat :=
  (e.recent.filter fun p => decide (p.1 ≠ 0) && decide (t.toNat - p.2.toNat ≤ 46080)).length

/-- `LF_GB_CTL.settle`, ticks. -/
def GbPort.settle (g : GbPort) : Nat := bits g.ctl.toNat 17 10

/-- `LF_GB_CTL.tmo`, ms. -/
def GbPort.tmo (g : GbPort) : Nat := bits g.ctl.toNat 9 0

/-- Leaf units and the whole die are classified but never escalated (R190, R192); they have no group. -/
def Leaf.onError (l : Leaf) (i : Nat) (locus : BitVec 24) : Leaf :=
  let t := l.led.header.op
  let old := LedgerSt.entry l.led i
  let (e, hits) := UnitEntry.countError old locus t l.led.header.power
  let l := { l with led := LedgerSt.setEntry l.led i e false }
  if e.cls.toNat ≤ 2 then
    if 3 ≤ UnitEntry.cycles e t ∨ 16 ≤ hits then Leaf.escalate (Leaf.setClass l i 3) i
    else if e.cls.toNat ≤ 1 then Leaf.setClass l i 2
    else l
  else if e.cls = 3 ∧ e.stepTime.toNat + GbPort.settle l.gb ≤ t.toNat then Leaf.escalate l i
  else l

/-- The group byte of a new entry (R191). -/
def Leaf.groupByte (l : Leaf) (u : Half) : Byte :=
  match Leaf.unitGroup l u with
  | some (g, _) => g
  | none => 0

/-- The sequencer applies an error record to the unit history (R183, R191, R192): the entry of its unit, a new entry, or entry 0
when the table is full. -/
def Leaf.classify (l : Leaf) (r : HealthRec) : Leaf × HealthRec :=
  match LedgerSt.entryOf l.led r.unit with
  | some i => (Leaf.onError l i r.detail, r)
  | none =>
    if l.led.units.length < 1024 then
      let e := { UnitEntry.reset with unit := r.unit, group := Leaf.groupByte l r.unit }
      let i := l.led.units.length
      let l := { l with led := LedgerSt.mark { l.led with units := l.led.units ++ [e] } 2 0 true }
      (Leaf.onError l i r.detail, r)
    else
      let e := LedgerSt.entry l.led 0
      let l := { l with led := LedgerSt.setEntry l.led 0 { e with flags := e.flags ||| 4 } false }
      (Leaf.setLedgerFlag (Leaf.countRefused (Leaf.onError l 0 r.detail)) 1, HealthRec.notInLedger r)

/-- An error record of classes 0x01 to 0x03 enters the deferral queue and, while the sequencer runs, is applied to its SRAM copy
at once (R181, R194); the record itself travels on the ring. -/
def Leaf.raiseError (l : Leaf) (r : HealthRec) : Leaf :=
  if 128 ≤ l.health.deferral.length then
    let (l, r) := Leaf.deferLoss l r
    Leaf.storeRec l r
  else if l.seq.running then
    let (l, r) := Leaf.classify l r
    Leaf.storeRec l r
  else Leaf.storeRec { l with health.deferral := l.health.deferral ++ [r] } r

/-- The unit that an error report or a verdict names: an undeclared one is recorded against unit 0xFFFF with flag bit 4
(R24). -/
def Leaf.reportUnit (l : Leaf) (u : Half) : Half × Byte :=
  if u = 0xFFFF ∨ 0xFF00 ≤ u.toNat ∨ Leaf.declared l u then (u, 0) else (0xFFFF, 0x10)

/-- One deferred record after a sequencer restart: its change is made now (R426). -/
def Leaf.replayRec (l : Leaf) (r : HealthRec) : Leaf :=
  if isHistory r then (Leaf.classify l r).1 else (Leaf.recordDecision l r).1

/-- The deferral queue replayed in order after a restart (R426). -/
def Leaf.replayDeferral (l : Leaf) : Leaf :=
  let q := l.health.deferral
  q.foldl Leaf.replayRec { l with health.deferral := [] }

end Sys2Proof.Machine
end

