-- ==== Sys2Proof/Machine/Counting.lean ====
section
/-! DEFINITION. Counting on the leaf: the set-up words in force, event stations and their queues (R64 to R67), counters and slot
counters, histograms (R80 to R85), timing pairs (R83) and sensor sites (R87, R88). -/

namespace Sys2Proof.Machine

/-- What an unlisted RWL word reads as: 0, but for counter assignments, whose reset mode is unbound (R69). -/
def cfgDefault (off : Nat) : Word := if 0x2000 ≤ off ∧ off < 0x4000 then 0xC000C000 else 0

/-- The RWL word at a window offset (R437). -/
def LeafCfg.word (c : LeafCfg) (off : Nat) : Word := Cells.get (cfgDefault off) c.words off

/-- Write an RWL word. -/
def LeafCfg.setWord (c : LeafCfg) (off : Nat) (v : Word) : LeafCfg := { c with words := Cells.set (cfgDefault off) c.words off v }

/-- The 16-bit entry `i` of a table of 2-byte entries. -/
def LeafCfg.half (c : LeafCfg) (base i : Nat) : Nat :=
  let w := (LeafCfg.word c (base + 4 * (i / 2))).toNat
  if i % 2 = 0 then w % 65536 else w / 65536

/-- The assignment entry of a counter (R69). -/
def LeafCfg.assignment (c : LeafCfg) (i : Nat) : Nat := LeafCfg.half c 0x2000 i
/-- The configuration entry of a histogram (R79). -/
def LeafCfg.histEntry (c : LeafCfg) (h : Nat) : Nat := LeafCfg.half c 0x1200 h
/-- The binding of a lifetime slot (R184). -/
def LeafCfg.lifeBinding (c : LeafCfg) (j : Nat) : Nat := LeafCfg.half c 0x1400 j

/-- Event number of an assignment: station (R62). -/
def asgStation (a : Nat) : Nat := bits a 13 6
/-- Event number of an assignment: line (R62). -/
def asgLine (a : Nat) : Nat := bits a 5 0
/-- Mode of an assignment (R69). -/
def asgMode (a : Nat) : Nat := bits a 15 14

/-- The counters that any listed assignment word binds, ascending. -/
def LeafCfg.boundCounters (c : LeafCfg) : List Nat :=
  (Cells.keys c.words).flatMap fun k => if 0x2000 ≤ k ∧ k < 0x4000 then [(k - 0x2000) / 2, (k - 0x2000) / 2 + 1] else []

/-- The configuration of station `s` as committed (R69, R76, LF_STATION). -/
def LeafCfg.station (c : LeafCfg) (s : Nat) : StnCfg :=
  let w := (LeafCfg.word c (0x0D00 + 4 * s)).toNat
  let rep := (List.range 64).find? fun k =>
    let r := (LeafCfg.word c (0x1100 + 4 * k)).toNat
    bit r 31 && decide (bits r 7 0 = s)
  { present := bit w 31
    ackDelay := BitVec.ofNat 16 w
    binds := (LeafCfg.boundCounters c).filterMap fun i =>
      let a := LeafCfg.assignment c i
      if asgMode a ≠ 3 ∧ asgStation a = s then some (i, BitVec.ofNat 6 (asgLine a), BitVec.ofNat 2 (asgMode a)) else none
    reporter := rep.map fun k =>
      let r := (LeafCfg.word c (0x1100 + 4 * k)).toNat
      (bits r 13 8, bits r 17 14) }

/-- The stations whose configuration is present in force, ascending. -/
def Leaf.presentStations (l : Leaf) : List Nat := (l.cnt.stations.filter fun e => e.2.cfg.present).map Prod.fst

/-! ### The station's clock edge -/

/-- A station's sample of one line (R64). -/
def lineBit (w : DWord) (i : Nat) : Nat := b2n (w.getLsbD i)

/-- The increment of a bound line at an edge (R64): level, rising edge, or the 4-bit value of a weighted group. -/
def lineInc (mode : BitVec 2) (prev cur : DWord) (line : Nat) : Nat :=
  match mode.toNat with
  | 0 => lineBit cur line
  | 1 => if cur.getLsbD line && !prev.getLsbD line then 1 else 0
  | 2 => lineBit cur line + 2 * lineBit cur (line + 1) + 4 * lineBit cur (line + 2) + 8 * lineBit cur (line + 3)
  | _ => 0

/-- The bound sources of a station and what one edge adds to each: its lines once each, then the slot states (R65, R77). -/
def StnCfg.increments (c : StnCfg) (prev cur : DWord) (slotVld : Bool) (slots : Half) : List (Nat × Nat) :=
  let lines := (c.binds.map fun b => (b.2.1.toNat, lineInc b.2.2 prev cur b.2.1.toNat)).foldl
    (fun acc e => if acc.any (fun x => decide (x.1 = e.1)) then acc else acc ++ [e]) []
  let st := match c.reporter with
    | some (_, n) => if slotVld then
        (List.range 4).map fun q => (64 + q, ((List.range n).filter fun k => decide (bits slots.toNat (2 * k + 1) (2 * k) = q)).length)
      else []
    | none => []
  lines ++ st

/-- Add an increment to a pre-counter: it holds 255 and the excess is lost (R66). Returns the lost part. -/
def Station.addPre (s : Station) (src n : Nat) : Station × Nat :=
  let v := (Cells.get 0 s.pre src).toNat + n
  ({ s with pre := Cells.set 0 s.pre src (BitVec.ofNat 8 (min v 255)) }, v - 255)

/-- The sources in the order of a search from the round-robin pointer over 0 to 67 (R65). -/
def rrOrder (rr : Nat) : List Nat := (List.range 68).map fun i => (rr + i) % 68

/-- The entry that an edge writes under rules 2 and 3 of R65: a pre-counter of 128 or more, or a non-zero one while the queue
holds 4 entries or fewer. -/
def Station.pick (s : Station) : Option Nat :=
  match (rrOrder s.rr).find? fun i => decide (128 ≤ (Cells.get 0 s.pre i).toNat) with
  | some i => some i
  | none => if s.queue.length ≤ 4 then (rrOrder s.rr).find? fun i => decide (0 < (Cells.get 0 s.pre i).toNat) else none

/-- Write at most one entry to the 16-entry queue: drain entries first (R65). -/
def Station.emitEntry (s : Station) : Station :=
  if 16 ≤ s.queue.length then s
  else match s.drain with
    | e :: r => { s with queue := s.queue ++ [e], drain := r }
    | [] => match Station.pick s with
      | some i => { s with queue := s.queue ++ [(i, Cells.get 0 s.pre i)], pre := Cells.set 0 s.pre i 0, rr := (i + 1) % 68 }
      | none => s

/-- The whole edge: one entry from the pre-counts as they stood, then the increments of this edge (R64, R65). -/
def Station.edge (s : Station) (lines : DWord) (slotVld : Bool) (slots : Half) : Station × Nat :=
  let incs := StnCfg.increments s.cfg s.prev lines slotVld slots
  let s := Station.emitEntry s
  let (s, lost) := incs.foldl (fun (a : Station × Nat) e => let r := Station.addPre a.1 e.1 e.2; (r.1, a.2 + r.2)) (s, 0)
  ({ s with prev := lines }, lost)

/-- STATION_CLOCK_EDGE. -/
def Leaf.stationEdge (l : Leaf) (i : Nat) (lines : DWord) (slotVld : Bool) (slots : Half) : Leaf :=
  let (s', lost) := Station.edge (Leaf.stn l i) lines slotVld slots
  { Leaf.setStn l i s' with cnt.ovf := Cells.set 0 l.cnt.ovf i (satAdd32 (Cells.get 0 l.cnt.ovf i) lost) }

/-- Apply a drained entry under a station configuration: every counter bound to the line, or a slot state of the engine (R67,
R77). -/
def Leaf.applyEntry (l : Leaf) (c : StnCfg) (src : Nat) (delta : Byte) : Leaf :=
  if src < 64 then
    (c.binds.filter fun b => decide (b.2.1.toNat = src)).foldl (fun l b => Leaf.bumpCounter l b.1 delta.toNat) l
  else match c.reporter with
    | some (e, _) => if src < 68 then Leaf.bumpSlot l (4 * e + (src - 64)) delta.toNat else l
    | none => l

/-- STATION_ENTRY_DRAIN: the leaf core takes the head of a station's queue; nothing drains in Cellar (R421). Entries before a freeze
marker belong to the configuration in force before it (R71). A marker at the head is FREEZE_MARKER_APPLIED's. -/
def Leaf.drainEntry (l : Leaf) (i : Nat) : Leaf :=
  let s := Leaf.stn l i
  match s.queue with
  | (src, d) :: r =>
    if Leaf.asleep l || decide (src = 68) then l
    else Leaf.applyEntry (Leaf.setStn l i { s with queue := r }) (s.old.getD s.cfg) src d
  | [] => l

/-! ### Histograms -/

/-- The bin of a sample value (R80). -/
def binOf (shift v : Nat) : Nat :=
  if v = 0 then 0
  else
    let k := Nat.log2 v
    let m := if 2 ≤ k then v / 2 ^ (k - 2) % 4 else v * 2 ^ (2 - k) % 4
    if k < shift then 0 else min (4 * (k - shift) + m) 63

/-- Apply one sample (R81, R84). -/
def Hist.add (h : Hist) (shift : Nat) (v : DWord) (time : Ns) : Hist :=
  let b := binOf shift v.toNat
  let n := Cells.get 0 h.bins b
  let full := decide (2 ^ 40 - 1 ≤ n)
  let h := { h with bins := if full then h.bins else Cells.set 0 h.bins b (n + 1), saturated := h.saturated || full,
                    count := h.count + 1, sum := h.sum + v.setWidth 96,
                    sumWrap := h.sumWrap || decide (2 ^ 96 ≤ h.sum.toNat + v.toNat) }
  let h := if v.toNat < h.min.toNat then { h with min := v, minAt := time } else h
  if h.max.toNat < v.toNat then { h with max := v, maxAt := time } else h

/-- The sample queue keeps the order of sample times (R85). -/
def insertSample (e : Nat × DWord × Ns) : List (Nat × DWord × Ns) → List (Nat × DWord × Ns)
  | [] => [e]
  | x :: r => if e.2.2.toNat < x.2.2.toNat then e :: x :: r else x :: insertSample e r

/-- Submit a sample: when the 256-entry queue is full it is dropped and counted (R85). -/
def Leaf.submit (l : Leaf) (h : Nat) (v : DWord) (time : Ns) : Leaf :=
  if 256 ≤ l.cnt.samples.length then
    let x := Leaf.hist l h
    Leaf.setHist l h { x with drops := satAdd32 x.drops 1 }
  else { l with cnt.samples := insertSample (h, v, time) l.cnt.samples }

/-- The histograms of a kind and index, ascending (R79). -/
def Leaf.histsOf (l : Leaf) (kind index mask : Nat) : List Nat :=
  (List.range 256).filter fun h =>
    let e := LeafCfg.histEntry l.cfg h
    decide (bits e 7 6 = kind) && decide (bits e 15 8 &&& mask = index)

/-- Submit a sample to every histogram of a kind and index. -/
def Leaf.submitAll (l : Leaf) (kind index mask : Nat) (v : DWord) (time : Ns) : Leaf :=
  (Leaf.histsOf l kind index mask).foldl (fun l h => Leaf.submit l h v time) l

/-- The index of a sensor histogram: site and quantity (R79). -/
def sensorIndex (site quantity : Nat) : Nat := site + 64 * quantity

/-- HISTOGRAM_SAMPLE_APPLY: the update unit takes the head of the queue; a sample timed at or after the instant of a full freeze waits
until the histograms have frozen (R94). -/
def Leaf.applySample (l : Leaf) : Leaf :=
  match l.cnt.samples with
  | [] => l
  | (h, v, t) :: r =>
    let waits := match l.snap.freeze with
      | some f => !f.histDone && decide (f.instant.toNat ≤ t.toNat)
      | none => false
    if waits || Leaf.asleep l then l
    else Leaf.setHist { l with cnt.samples := r } h (Hist.add (Leaf.hist l h) (bits (LeafCfg.histEntry l.cfg h) 5 0) v t)

/-! ### Held low words of the host port -/

/-- The key of a requester's held low word at an offset: host requesters 0 to 15, ring ends 16 and 17 (R73, R433). -/
def heldKey (req off : Nat) : Nat := 65536 * req + off

/-- The requester's number. -/
def Requester.num : Requester → Nat
  | .host id => id.toNat
  | .ring rx => if rx.hdr.src = 15 then 17 else 16

/-- The host port takes no request in Cellar, while it wakes, or in its own reset (R448, R449). -/
def Leaf.portOpen (l : Leaf) : Bool := Leaf.awake l && !l.hp.inReset

/-- A value port write (R82): a low word is held; a high word or a 64-bit write submits. -/
def Leaf.valuePort (l : Leaf) (req h : Nat) (d : WriteData) : Leaf :=
  let key := heldKey req (0x7000 + 8 * h)
  let sub (v : DWord) (l : Leaf) : Leaf :=
    if bits (LeafCfg.histEntry l.cfg h) 7 6 = 1 then Leaf.submit l h v (TimeDom.ns64 l.time) else l
  match d with
  | .low w => { l with cfg.held := Cells.set 0 l.cfg.held key w }
  | .high w => sub (w ++ Cells.get 0 l.cfg.held key) l
  | .full v => sub v l

/-! ### Timing pairs -/

/-- A leaf event time in units of 2^-4 ns (R30). -/
def Stamp.t16 (s : Stamp) : Nat := s.ns.toNat * 16 + s.frac.toNat / 4096

/-- A stamp from units of 2^-4 ns. -/
def stampOf16 (t : Nat) : Stamp := ⟨BitVec.ofNat 64 (t / 16), BitVec.ofNat 16 (t % 16 * 4096)⟩

/-- An edge within 4 ns of the previous edge on the same input is ignored (R83). -/
def tooClose (last : Option Nat) (t : Nat) : Bool :=
  match last with
  | some p => decide (t < p + 64)
  | none => false

/-- TIMING_START_EDGE (R83). -/
def Leaf.timingStart (l : Leaf) (i : Nat) (t : Nat) : Leaf :=
  let p := Leaf.pair l i
  if Leaf.asleep l || tooClose p.lastStart t then l
  else
    let p := { p with lastStart := some t }
    Leaf.setPair l i (match p.opened with
      | none => { p with opened := some t }
      | some _ => { p with faults := satAdd32 p.faults 1 })

/-- TIMING_STOP_EDGE (R83): the value is stop minus start, at the stop time (R82). -/
def Leaf.timingStop (l : Leaf) (i : Nat) (t : Nat) : Leaf :=
  let p := Leaf.pair l i
  if Leaf.asleep l || tooClose p.lastStop t then l
  else
    let p := { p with lastStop := some t }
    match p.opened with
    | none => Leaf.setPair l i { p with faults := satAdd32 p.faults 1 }
    | some t0 => Leaf.submitAll (Leaf.setPair l i { p with opened := none }) 3 i 31 (w64 (t - t0)) (stampOf16 t).ns

/-! ### Sensor sites -/

/-- The site is placed (LF_SITE.present). -/
def Site.present (s : Site) : Bool := s.ctl.getLsbD 15

/-- Clamp a thermal code to -640 to 2,400 (R87). -/
def clampThermal (c : Half) : Half × Bool :=
  if c.toInt < -640 then (BitVec.ofInt 16 (-640), true) else if 2400 < c.toInt then (2400, true) else (c, false)

/-- One thermal reading: the code, or none when the site has failed its self-check (R87); submitted as the code plus 1,024 (R82). -/
def Leaf.thermalSample (l : Leaf) (time : Ns) (x : ThermalSample) : Leaf :=
  let s := Leaf.site l x.site
  if !Site.present s then l
  else match x.code with
    | none => Leaf.setSite l x.site { s with thermal := 0x8000, clamped := false }
    | some c =>
      let (c', cl) := clampThermal c
      Leaf.submitAll (Leaf.setSite l x.site { s with thermal := c', clamped := cl }) 2 (sensorIndex x.site 0) 255
        (BitVec.ofInt 64 (c'.toInt + 1024)) time

/-- THERMAL_READING on the grid of whole milliseconds of the leaf's own time (R463); sites are not observed in Cellar (R421). -/
def Leaf.thermal (l : Leaf) (xs : List ThermalSample) : Leaf :=
  let g := Leaf.now l / 1000000
  if Leaf.asleep l || decide (l.cnt.lastThermal = some g) then l
  else xs.foldl (fun l x => Leaf.thermalSample l (BitVec.ofNat 64 (g * 1000000)) x) { l with cnt.lastThermal := some g }

/-- One supply and margin reading: supply codes unchanged, margin codes times 2 (R82). -/
def Leaf.supplySample (l : Leaf) (time : Ns) (x : SupplySample) : Leaf :=
  let s := Leaf.site l x.site
  if !Site.present s then l
  else
    let l := Leaf.setSite l x.site { s with supply := x.supply.getD 0xFFFF, margin := x.margin.getD 0xFF }
    let l := match x.supply with
      | some v => Leaf.submitAll l 2 (sensorIndex x.site 1) 255 (v.setWidth 64) time
      | none => l
    match x.margin with
    | some m => Leaf.submitAll l 2 (sensorIndex x.site 2) 255 (w64 (m.toNat * 2)) time
    | none => l

/-- SUPPLY_MARGIN_READING on the 10 µs grid (R463). -/
def Leaf.supply (l : Leaf) (xs : List SupplySample) : Leaf :=
  let g := Leaf.now l / 10000
  if Leaf.asleep l || decide (l.cnt.lastSupply = some g) then l
  else xs.foldl (fun l x => Leaf.supplySample l (BitVec.ofNat 64 (g * 10000)) x) { l with cnt.lastSupply := some g }

/-- DROOP_BEGIN (R88): the count rises and the crossing is stamped to 62.5 ps. -/
def Leaf.droopBegin (l : Leaf) (i : Nat) (at' : Stamp) : Leaf :=
  let s := Leaf.site l i
  if Leaf.asleep l || !Site.present s || s.droop then l
  else Leaf.setSite l i { s with droop := true, count := satAdd32 s.count 1, beginAt := stampOf16 (Stamp.t16 at') }

/-- DROOP_END (R88): the duration feeds the site's droop histograms in units of 2^-4 ns (R82). -/
def Leaf.droopEnd (l : Leaf) (i : Nat) (at' : Stamp) : Leaf :=
  let s := Leaf.site l i
  if Leaf.asleep l || !Site.present s || !s.droop then l
  else
    let e := stampOf16 (Stamp.t16 at')
    Leaf.submitAll (Leaf.setSite l i { s with droop := false, endAt := e }) 2 (sensorIndex i 3) 255
      (w64 (Stamp.t16 e - Stamp.t16 s.beginAt)) e.ns

end Sys2Proof.Machine
end

