-- ==== Sys2Proof/Machine/Appoint.lean ====
section
/-! DEFINITION. Appointments of both parts: the checks of R55, the status of R56, what a slot does when it falls due (R57 to
R59). -/

namespace Sys2Proof.Machine

/-- Lanes of a port of a part under R128: none where the number is reserved. -/
def laneCount (leaf : Bool) (port : Nat) : Nat :=
  if leaf then (if port < 2 then 2 else 0)
  else if port < 8 then 2 else if port = 8 then 5 else if port < 13 then 3 else 0

/-- Bit 0 of the flags: repeat (R55). -/
def Appointment.repeats (a : Appointment) : Bool := a.flags.getLsbD 0

/-- The minimum period of a repeat, none where repeat is not allowed (table "Appointment actions"). -/
def Appointment.minPeriod (a : Appointment) : Option Nat :=
  match a.action.toNat with
  | 1 => some (if bits a.argument.toNat 7 0 = 0 then 100000 else 10000)
  | 6 => some 1000000
  | _ => none

/-- The argument is one that the action allows (table "Appointment actions", R55). -/
def Appointment.argOk (leaf : Bool) (a : Appointment) : Bool :=
  match a.action.toNat with
  | 1 => decide (bits a.argument.toNat 7 0 < 16)
  | 4 => decide (bits a.argument.toNat 4 0 < 25)
  | 5 => decide (bits a.argument.toNat 11 8 < laneCount leaf (bits a.argument.toNat 3 0))
  | _ => true

/-- Malformed under R55. -/
def Appointment.malformed (leaf : Bool) (a : Appointment) : Bool :=
  decide (6 < a.action.toNat) || decide ((if leaf then 15 else 63) < a.slot.toNat) || !Appointment.argOk leaf a
    || (if Appointment.repeats a then
          match Appointment.minPeriod a with
          | some m => decide (a.period.toNat < m)
          | none => true
        else decide (a.period ≠ 0) || decide (a.count ≠ 0))

/-- The instant at which a slot next falls due (R59). -/
def Slot.due (s : Slot) : Option Nat := s.appt.map fun a => a.instant.toNat + s.fired * a.period.toNat

/-- A due instant less than 50 µs after arrival, or in the past. -/
def soon (now : Nat) (due : Option Nat) : Bool :=
  match due with
  | some d => decide (d < now + 50000)
  | none => false

/-- The status of an appointment (R56): 0 ACCEPTED, 1 LATE, 2 MALFORMED, 3 BUSY, 4 UNTIMED. -/
def apptStatus (leaf : Bool) (tq : BitVec 4) (now : Nat) (s : Slot) (a : Appointment) : Nat :=
  if Appointment.malformed leaf a then 2
  else if tq = 0 then 4
  else if a.action = 0 then (if soon now (Slot.due s) then 1 else 0)
  else if a.instant.toNat < now + 50000 then 1
  else if soon now (Slot.due s) then 3
  else 0

/-- The slot after an accepted appointment: CANCEL frees it, any other content restarts its counts (R56, LF_APPT). -/
def Slot.accept (s : Slot) (a : Appointment) : Slot :=
  if a.action = 0 then { s with appt := none } else { appt := some a, firings := 0, skips := 0, fired := 0 }

/-- The slot after it fell due: fired or skipped, and free after its count of firings or when it does not repeat (R59). -/
def Slot.advance (s : Slot) (skip : Bool) : Slot :=
  match s.appt with
  | none => s
  | some a =>
    let n := s.fired + 1
    let s := { s with fired := n, firings := if skip then s.firings else satAdd32 s.firings 1,
                      skips := if skip then satAdd32 s.skips 1 else s.skips }
    if !Appointment.repeats a || (a.count ≠ 0 && decide (a.count.toNat ≤ n)) then { s with appt := none } else s

/-- The firing order of R58 among slots due at the same instant. -/
def actionRank (action : Byte) : Nat :=
  match action.toNat with
  | 3 => 0
  | 4 => 1
  | 1 => 2
  | 6 => 3
  | 5 => 4
  | _ => 5

/-- Whether another slot of the table must fire before slot `i`: one due earlier, or at the same instant with an action earlier in the
order of R58, or the same action in a lower slot. -/
def firesBefore (m : Cells Slot) (i : Nat) : Bool :=
  match (Cells.get Slot.reset m i).appt, Slot.due (Cells.get Slot.reset m i) with
  | some a, some d => m.any fun e =>
      match e.2.appt, Slot.due e.2 with
      | some b, some f => decide (f < d) || (decide (f = d) && (decide (actionRank b.action < actionRank a.action)
          || (decide (b.action = a.action) && decide (e.1 < i))))
      | _, _ => false
  | _, _ => false

/-- Slot `i` holds an appointment of this action that is due by `now` and is next in the order of R58. -/
def slotFires (m : Cells Slot) (i : Nat) (action : Byte) (now : Nat) : Bool :=
  match (Cells.get Slot.reset m i).appt, Slot.due (Cells.get Slot.reset m i) with
  | some a, some d => decide (a.action = action) && decide (d ≤ now) && !firesBefore m i
  | _, _ => false

/-- The argument of a slot's appointment. -/
def Slot.arg (s : Slot) : Nat :=
  match s.appt with
  | some a => a.argument.toNat
  | none => 0

/-- The due instant as an ns count. -/
def Slot.instant (s : Slot) : Ns := BitVec.ofNat 64 ((Slot.due s).getD 0)

/-- A full snapshot that falls due with a subset makes one full Tally (R58). -/
def fullDueAt (m : Cells Slot) (d : Nat) : Bool :=
  m.any fun e => match e.2.appt, Slot.due e.2 with
    | some b, some f => decide (f = d) && decide (b.action = 1) && decide (bits b.argument.toNat 7 0 = 0)
    | _, _ => false

/-- A slot of a leaf fires or is skipped: in Cellar every action is skipped and counted but CELLAR_ENTER, which has no effect (R59). -/
def Leaf.fireSlot (l : Leaf) (i : Nat) (act : Leaf → Leaf) : Leaf :=
  let s := Leaf.slot l i
  if Leaf.asleep l then
    let l := Leaf.setSlot l i (Slot.advance s true)
    { l with pwr.skipped := satAdd32 l.pwr.skipped 1 }
  else act (Leaf.setSlot l i (Slot.advance s false))

end Sys2Proof.Machine
end

