-- ==== Sys2Proof/Machine/Snapshot.lean ====
section
/-! DEFINITION. Freezes, the snapshot store and the Tally stream (R92 to R103, R149 to R152), and the folds into lifetime slots
(R184). -/

namespace Sys2Proof.Machine

/-- The stations whose set-up may differ from the configuration in force. -/
def Leaf.candidateStations (l : Leaf) : List Nat :=
  (Cells.keys l.cnt.stations ++ ((Cells.keys l.cfg.words).filterMap fun k =>
    if 0x0D00 ≤ k ∧ k < 0x1100 then some ((k - 0x0D00) / 4) else none)).dedup

/-- At a full freeze every committed change waits for the freeze edge of its station (R71). -/
def Leaf.armChanges (l : Leaf) : Leaf :=
  (Leaf.candidateStations l).foldl (fun l s =>
    let st := Leaf.stn l s
    let c := LeafCfg.station l.cfg s
    if c = st.cfg then l else Leaf.setStn l s { st with next' := some c }) l

/-- Toggle the freeze strobe for instant T (R92): every station present in force is listed and awaited. -/
def Leaf.beginFreeze (l : Leaf) (kind : Byte) (t : Ns) : Leaf :=
  let l := if kind = 0 then Leaf.armChanges l else l
  let ps := Leaf.presentStations l
  { l with snap.strobe := !l.snap.strobe, snap.lastAny := some t, snap.lastFull := if kind = 0 then some t else l.snap.lastFull,
           snap.freeze := some { Freeze.reset with kind := kind, instant := t, tq := Leaf.tq l, waiting := ps, edges := ps.map (fun s => (s, (Leaf.stn l s).cfg, false, (⟨0, 0⟩ : Stamp))), histDone := decide (kind ≠ 0) } }

/-- The counters whose binding two configurations of a station give differently (R71). -/
def rebound (a b : StnCfg) : List Nat :=
  ((a.binds ++ b.binds).map (·.1)).dedup.filter fun i =>
    decide ((a.binds.find? fun x => decide (x.1 = i)) ≠ (b.binds.find? fun x => decide (x.1 = i)))

/-- Freeze a station's lost-increment count. -/
def Leaf.freezeOvf (l : Leaf) (i : Nat) : Leaf :=
  match l.snap.freeze with
  | some f => if f.waiting.contains i then
      { l with snap.freeze := some { f with ovf := f.ovf ++ [(i, Cells.get 0 l.cnt.ovf i)] } } else l
  | none => l

/-- STATION_FREEZE_EDGE (R93): the first edge that shows the strobe toggle copies the pre-counters to the drain bank, the freeze marker
last, zeroes them and toggles the acknowledge; a waiting change of configuration takes effect (R71). -/
def Leaf.freezeEdge (l : Leaf) (i : Nat) : Leaf :=
  let s := Leaf.stn l i
  if s.frzSeen == l.snap.strobe then l
  else
    let bank := (List.range 68).filterMap fun k =>
      let v := Cells.get 0 s.pre k
      if v = 0 then none else some (k, v)
    let c := s.next'.getD s.cfg
    let l := Leaf.freezeOvf l i
    let l := Leaf.setStn l i { s with frzSeen := l.snap.strobe, ack := !s.ack, drain := s.drain ++ bank ++ [(68, 0)], pre := [],
                                      old := some s.cfg, cfg := c, next' := none }
    { l with snap.reassigned := (l.snap.reassigned ++ rebound s.cfg c).dedup }

/-- A stamp less a delay in 2^-4 ns (R93). -/
def Stamp.minus16 (s : Stamp) (d : Half) : Stamp := stampOf16 (Stamp.t16 s - d.toNat)

/-- FREEZE_ACK_TIMESTAMP (R93): the acknowledge's time less the delay declared before the freeze is the time of E_s. -/
def Leaf.freezeAck (l : Leaf) (i : Nat) (at' : Stamp) : Leaf :=
  match l.snap.freeze with
  | none => l
  | some f =>
    if (f.edges.any fun e => decide (e.1 = i)) && !f.acked.contains i && (Leaf.stn l i).frzSeen == l.snap.strobe then
      { l with snap.freeze := some { f with acked := f.acked ++ [i], edges := f.edges.map fun e => if e.1 = i then (e.1, e.2.1, e.2.2.1, Stamp.minus16 at' e.2.1.ackDelay) else e } }
    else l

/-- Freeze the counters and slot counters that a station's configuration before the freeze binds (R93, R96). -/
def Leaf.freezeStation (l : Leaf) (f : Freeze) (i : Nat) : Freeze :=
  let c := match f.edges.find? fun e => decide (e.1 = i) with
    | some e => e.2.1
    | none => StnCfg.reset
  { f with counters := f.counters ++ c.binds.map (fun b => (b.1, Leaf.counter l b.1)),
           slots := f.slots ++ (match c.reporter with
             | some (e, _) => (List.range 4).map fun q => (4 * e + q, Cells.get 0 l.cnt.slots (4 * e + q))
             | none => []),
           waiting := f.waiting.filter (· ≠ i) }

/-- FREEZE_MARKER_APPLIED (R93): the marker at the head of the queue is applied and the station's counters freeze. A marker that no
freeze awaits (its station stalled, R95) only ends the old configuration's entries. -/
def Leaf.markerApplied (l : Leaf) (i : Nat) : Leaf :=
  let s := Leaf.stn l i
  match s.queue with
  | (src, _) :: r =>
    if Leaf.asleep l || decide (src ≠ 68) then l
    else
      let l := Leaf.setStn l i { s with queue := r, old := none }
      match l.snap.freeze with
      | some f => if f.waiting.contains i then { l with snap.freeze := some (Leaf.freezeStation l f i) } else l
      | none => l
  | [] => l

/-- Freeze a stalled station at its applied values, with edge time 0 (R95). -/
def Leaf.stall (l : Leaf) (i : Nat) : Leaf :=
  match l.snap.freeze with
  | none => l
  | some f =>
    let f := { f with ovf := if f.ovf.any (fun e => decide (e.1 = i)) then f.ovf else f.ovf ++ [(i, Cells.get 0 l.cnt.ovf i)] }
    let f := Leaf.freezeStation l f i
    { l with snap.freeze := some { f with edges := f.edges.map fun e => if e.1 = i then (e.1, e.2.1, true, (⟨0, 0⟩ : Stamp)) else e } }

/-- STATION_STALL_TIMEOUT: no marker by T + 10 µs (R95). -/
def Leaf.stallTimeout (l : Leaf) (i : Nat) : Leaf :=
  match l.snap.freeze with
  | some f => if f.waiting.contains i && decide (f.instant.toNat + 10000 ≤ Leaf.now l) then Leaf.stall l i else l
  | none => l

/-- Start a histogram's next interval of extremes (R84). -/
def Hist.nextInterval (h : Hist) : Hist := { h with min := 0xFFFFFFFFFFFFFFFF, minAt := 0, max := 0, maxAt := 0 }

/-- HISTOGRAM_FREEZE (R94): once no queued sample is timed before T, a full freeze copies the histograms and resets the extremes. -/
def Leaf.histFreeze (l : Leaf) : Leaf :=
  match l.snap.freeze with
  | some f =>
    if f.histDone || (l.cnt.samples.any fun e => decide (e.2.2.toNat < f.instant.toNat)) || decide (Leaf.now l < f.instant.toNat) then l
    else { l with snap.freeze := some { f with hists := l.cnt.hists, histDone := true },
                  cnt.hists := (l.cnt.hists.map fun e => (e.1, Hist.nextInterval e.2)).filter fun e => decide (e.2 ≠ Hist.reset) }
  | none => l

/-! ### The snapshot -/

/-- A subset's counter list (R100, "subsets 1-15" of R437). -/
def LeafCfg.subsetList (c : LeafCfg) (j : Nat) : List Nat :=
  let b := 0x4000 + 0x220 * (j - 1)
  (List.range (bits (LeafCfg.word c b).toNat 8 0)).map fun i => LeafCfg.half c (b + 0x20) i

/-- A subset's engines (R100). -/
def LeafCfg.subsetEngines (c : LeafCfg) (j : Nat) : List Nat :=
  let b := 0x4000 + 0x220 * (j - 1)
  (List.range 64).filter fun e =>
    if e < 32 then bit (LeafCfg.word c (b + 8)).toNat e else bit (LeafCfg.word c (b + 12)).toNat (e - 32)

/-- The value of a frozen table at a key, or the live one. -/
def frozen {α : Type} [OfNat α 0] (fr : List (Nat × α)) (live : Cells α) (k : Nat) : α :=
  match fr.find? fun e => decide (e.1 = k) with
  | some e => e.2
  | none => Cells.get 0 live k

/-- The four fractions of an engine from the changes of its slot counters (R78): idle, and floor(d * 65,535 / total). -/
def slotFractions (d : List Nat) : Bool × List Nat :=
  let total := d.sum
  if total = 0 then (true, d.map fun _ => 0) else (false, d.map fun q => q * 65535 / total)

/-- The engines whose slot reporter is enabled in force, ascending. -/
def enginesOf (edges : List (Nat × StnCfg × Bool × Stamp)) : List Nat :=
  let es := edges.filterMap fun e => e.2.1.reporter.map Prod.fst
  (List.range 64).filter es.contains

/-- The snapshot that a finished freeze makes (R97). -/
def Leaf.takeSnapshot (l : Leaf) (f : Freeze) : Snapshot :=
  let full := decide (f.kind = 0)
  let listed := if full then [] else LeafCfg.subsetList l.cfg f.kind.toNat
  let cs := if full then (Cells.keys l.cnt.counters ++ f.counters.map Prod.fst ++ l.cnt.failed).dedup else listed
  let live := l.cnt.failed.foldl (fun m i => Cells.set 0 m i (0xFFFFFFFFFFFFFFFF : DWord)) l.cnt.counters
  let engines := if full then enginesOf f.edges else LeafCfg.subsetEngines l.cfg f.kind.toNat
  let slotOf := frozen f.slots l.cnt.slots
  { seq := l.snap.lastSeq + 1, kind := f.kind, instant := f.instant, tq := f.tq, disc := l.snap.disc,
    counters := cs.foldl (fun m i => Cells.set 0 m i (frozen f.counters live i)) [],
    slots := engines.foldl (fun m e => (List.range 4).foldl (fun m q => Cells.set 0 m (4 * e + q) (slotOf (4 * e + q))) m) [],
    ovf := f.edges.foldl (fun m e => Cells.set 0 m e.1 (frozen f.ovf l.cnt.ovf e.1)) [],
    hists := f.hists,
    marks := (List.range 4096).flatMap fun i => if full || listed.contains i then
        (if l.snap.reassigned.contains i then [(i, 1)] else []) ++ (if l.cnt.failed.contains i then [(i, 2)] else [])
          ++ (if l.cnt.poisoned.contains i then [(i, 3)] else []) else [],
    stations := f.edges, epoch := l.ring.lease.epoch,
    fracs := engines.map fun e =>
      let d := (List.range 4).map fun q => (slotOf (4 * e + q) - Cells.get 0 l.snap.prevSlots (4 * e + q)).toNat
      let r := slotFractions d
      (e, r.1, r.2),
    cfgHist := if full then (List.range 256).filter fun h => decide (bits (LeafCfg.histEntry l.cfg h) 7 6 ≠ 0) else [],
    listed := listed }

/-- Changes in groups of 8: a bitmap byte, then each non-zero change as LEB128 (R101). -/
def encodeChanges (cs : List Nat) : List Byte :=
  (chunks 8 cs).flatMap fun g =>
    let bm := (List.range g.length).foldl (fun a i => if g.getD i 0 = 0 then a else a + 2 ^ i) 0
    BitVec.ofNat 8 bm :: g.flatMap fun c => if c = 0 then [] else leb128 14 c

/-- The change of a table entry against the reference, modulo the width. -/
def change {w : Nat} (cur ref : Cells (BitVec w)) (k : Nat) : Nat := (Cells.get 0 cur k - Cells.get 0 ref k).toNat

/-- A histogram of a snapshot. -/
def Snapshot.hist (s : Snapshot) (h : Nat) : Hist := Cells.get Hist.reset s.hists h

/-- The Tally stream of a snapshot against a reference (R150). -/
def Snapshot.stream (s r : Snapshot) : List Byte :=
  let full := decide (s.kind = 0)
  let cs := if full then List.range 4096 else s.listed
  le 2 cs.length ++ (if full then [] else cs.flatMap (le 2)) ++ encodeChanges (cs.map (change s.counters r.counters))
    ++ le 2 s.marks.length ++ s.marks.flatMap (fun m => le 2 (m.1 + 4096 * m.2))
    ++ le 1 s.fracs.length
    ++ encodeChanges (s.fracs.flatMap fun e => (List.range 4).map fun q => change s.slots r.slots (4 * e.1 + q))
    ++ s.fracs.flatMap (fun e => le 1 e.1 ++ le 1 (b2n e.2.1) ++ e.2.2.flatMap (le 2))
    ++ le 2 s.stations.length ++ encodeChanges (s.stations.map fun e => change s.ovf r.ovf e.1)
    ++ s.stations.flatMap (fun e => le 1 e.1 ++ le 1 (b2n e.2.2.1) ++ le 2 e.2.2.2.frac.toNat ++ le 8 e.2.2.2.ns.toNat)
    ++ s.cfgHist.flatMap fun h =>
      let x := Snapshot.hist s h
      let y := Snapshot.hist r h
      le 1 h ++ le 1 (b2n x.saturated + 2 * b2n x.sumWrap) ++ zeros 2 ++ le 4 x.drops.toNat ++ le 8 x.min.toNat ++ le 8 x.minAt.toNat
        ++ le 8 x.max.toNat ++ le 8 x.maxAt.toNat ++ encodeChanges [(x.count - y.count).toNat, (x.sum - y.sum).toNat]

/-- The bin changes of a histogram, modulo 2^40 (R151). -/
def binChanges (x y : Hist) : List Nat :=
  (List.range 64).map fun b => (Cells.get 0 x.bins b + 2 ^ 40 - Cells.get 0 y.bins b) % 2 ^ 40

/-- The payloads of a Tally (R149 to R152): TALLY frames of at most 2,032 stream bytes, HIST frames for each histogram whose sample count
changed or, when absolute, for each that is not off, then TALLY_END. -/
def Leaf.tallyPayloads (l : Leaf) (s : Snapshot) (absolute : Bool) : List Payload :=
  let ref := if absolute then none else l.snap.reference
  let r := ref.getD Snapshot.reset
  let rseq : Word := match ref with
    | some x => x.seq
    | none => 0
  let bs := Snapshot.stream s r
  let fl : Byte := BitVec.ofNat 8 (b2n ref.isNone + 2 * b2n s.disc)
  let parts := chunks 2032 bs
  let hs := s.cfgHist.filter fun h => ref.isNone || decide ((Snapshot.hist s h).count ≠ (Snapshot.hist r h).count)
  (parts.zipIdx.map fun e => Payload.tally { seq := s.seq, kind := s.kind, flags := fl, index := BitVec.ofNat 16 e.2, offset := w32 (2032 * e.2), refSeq := rseq } e.1)
    ++ (hs.map fun h => Payload.hist { seq := s.seq, histogram := BitVec.ofNat 8 h, absolute := ref.isNone }
      (encodeChanges (binChanges (Snapshot.hist s h) (Snapshot.hist r h))))
    ++ [Payload.tallyEnd { seq := s.seq, kind := s.kind, flags := fl, tallyFrames := BitVec.ofNat 16 parts.length, instant := s.instant, tq := s.tq, histFrames := BitVec.ofNat 16 hs.length, streamBytes := w32 bs.length, streamCrc := crc32c bs, overrun := l.snap.overrun, tooSoon := l.snap.tooSoon, refSeq := rseq }]

/-- Start sending a Tally to the holder; without a holder it waits in the store (R143). A snapshot re-sent in a later epoch than its own is
absolute (R352), and so is one that carries DISCONTINUITY (R103) or finds no reference (R98). -/
def Leaf.sendTally (l : Leaf) (s : Snapshot) : Leaf :=
  if Leaf.hasHolder l then
    let absolute := s.disc || l.snap.reference.isNone || decide (s.epoch ≠ l.ring.lease.epoch)
    { l with snap.txq := l.snap.txq ++ Leaf.tallyPayloads l s absolute }
  else l

/-- The TALLY_END that tells the holder of a skipped firing (R99, R152). -/
def Leaf.missingEnd (l : Leaf) (kind : Byte) (t : Ns) : Payload :=
  .tallyEnd { seq := l.snap.lastSeq, kind := kind, flags := 4, tallyFrames := 0, instant := t, tq := Leaf.tq l, histFrames := 0,
              streamBytes := 0, streamCrc := 0, overrun := l.snap.overrun, tooSoon := l.snap.tooSoon,
              refSeq := match l.snap.reference with
                | some r => r.seq
                | none => 0 }

/-! ### Lifetime folds (R184) -/

/-- A slot that takes no fold yet is bound and has flag bit 0 clear. -/
def LifeSlot.inUse (s : LifeSlot) : Bool := s.flags.getLsbD 0

/-- Fold one histogram's changes of a full snapshot into a lifetime slot (R184). -/
def LifeSlot.fold (s : LifeSlot) (h shift : Nat) (x y : Hist) (op pc : Word) : LifeSlot :=
  let s := if LifeSlot.inUse s then s
    else { s with histogram := BitVec.ofNat 8 h, shift := BitVec.ofNat 8 shift, flags := 1, firstOp := op, min := 0xFFFFFFFFFFFFFFFF, max := 0 }
  let mism := decide (s.shift.toNat ≠ shift)
  let dn := (x.count - y.count).toNat
  let ds := (x.sum - y.sum).toNat
  let bins := if mism then s.bins else ((binChanges x y).zipIdx).foldl (fun m e =>
    if e.1 = 0 then m else Cells.set 0 m e.2 (satAdd32 (Cells.get 0 m e.2) e.1)) s.bins
  let binSat := bins.any fun e => decide (e.2 = 0xFFFFFFFF)
  let n := s.count.toNat + dn
  let sm := s.sum.toNat + ds
  let sat := decide (2 ^ 64 - 1 ≤ n) || decide (2 ^ 96 - 1 ≤ sm)
  let fl : Byte := s.flags ||| BitVec.ofNat 8 (2 * b2n binSat + 4 * b2n sat + 8 * b2n mism)
  let s := { s with bins := bins, count := w64 (Nat.min n (2 ^ 64 - 1)), sum := BitVec.ofNat 96 (Nat.min sm (2 ^ 96 - 1)), flags := fl,
                    folds := satAdd32 s.folds 1 }
  let s := if 0 < dn ∧ x.min.toNat < s.min.toNat then { s with min := x.min, minOp := op, minPc := pc } else s
  if 0 < dn ∧ s.max.toNat < x.max.toNat then { s with max := x.max, maxOp := op, maxPc := pc } else s

/-- The sequencer folds a full snapshot into every bound slot; the folds wait in SRAM (R184). -/
def Leaf.foldLifetime (l : Leaf) (s : Snapshot) : Leaf :=
  if !l.seq.running then l
  else (List.range 128).foldl (fun l j =>
    let b := LeafCfg.lifeBinding l.cfg j
    if bit b 15 then
      let h := b % 256
      let x := Snapshot.hist s h
      let y := Cells.get Hist.reset l.snap.prevHists h
      let sl := LifeSlot.fold (Cells.get LifeSlot.reset l.led.life j) h (bits (LeafCfg.histEntry l.cfg h) 5 0) x y
        l.led.header.op l.led.header.power
      let d := LedgerSt.mark { l.led with life := Cells.set LifeSlot.reset l.led.life j sl } 6 (2 * j) false
      { l with led := LedgerSt.mark d 6 (2 * j + 1) false }
    else l) l

/-- The finished freeze becomes a held snapshot: it takes a sequence number, a fifth discards the oldest (R97), and its Tally starts. -/
def Leaf.finishFreeze (l : Leaf) (f : Freeze) : Leaf :=
  let s := Leaf.takeSnapshot l f
  let fifth := decide (4 ≤ l.snap.store.length)
  let l := { l with snap.freeze := none, snap.lastSeq := s.seq, snap.disc := false,
                    snap.store := (if fifth then l.snap.store.drop 1 else l.snap.store) ++ [s],
                    snap.overrun := if fifth then satAdd32 l.snap.overrun 1 else l.snap.overrun,
                    snap.reassigned := l.snap.reassigned.filter fun i => !(decide (s.kind = 0) || s.listed.contains i),
                    snap.prevSlots := s.fracs.foldl (fun m e => (List.range 4).foldl
                      (fun m q => Cells.set 0 m (4 * e.1 + q) (Cells.get 0 s.slots (4 * e.1 + q))) m) l.snap.prevSlots }
  let l := if s.kind = 0 then
      let l := Leaf.foldLifetime l s
      { l with snap.prevHists := s.hists }
    else l
  Leaf.sendTally l s

/-- SNAPSHOT_COMPLETE: every marker applied or stalled, the histograms frozen, and T reached (R93, R97). -/
def Leaf.snapshotComplete (l : Leaf) : Leaf :=
  match l.snap.freeze with
  | some f => if f.waiting.isEmpty && f.histDone && decide (f.instant.toNat ≤ Leaf.now l) && Leaf.awake l then Leaf.finishFreeze l f else l
  | none => l

/-- A freeze still in progress when the next one starts ends as it stands: its stations stall (R95) and its histograms freeze. -/
def Leaf.forceComplete (l : Leaf) : Leaf :=
  match l.snap.freeze with
  | none => l
  | some f =>
    let l := f.waiting.foldl Leaf.stall l
    match l.snap.freeze with
    | none => l
    | some f => Leaf.finishFreeze l (if f.histDone then f else { f with hists := l.cnt.hists, histDone := true })

/-- The too-soon test of R99. -/
def Leaf.tooSoon (l : Leaf) (kind : Byte) (t : Nat) : Bool :=
  (decide (kind = 0) && match l.snap.lastFull with
    | some p => decide (t < p.toNat + 100000)
    | none => false)
  || match l.snap.lastAny with
    | some p => decide (t < p.toNat + 10000)
    | none => false

/-- A snapshot of the kind for instant T, unless too soon (R99): whether it was taken. -/
def Leaf.tryFreeze (l : Leaf) (kind : Byte) (t : Ns) : Leaf × Bool :=
  if Leaf.tooSoon l kind t.toNat then ({ l with snap.tooSoon := satAdd32 l.snap.tooSoon 1 }, false)
  else (Leaf.beginFreeze (Leaf.forceComplete l) kind t, true)

/-- What a SNAPSHOT firing for instant T does: one Tally for coincident firings (R58), otherwise the test of R99; a skipped firing is
reported to the holder. -/
def Leaf.snapshotAt (l : Leaf) (kind : Byte) (t : Ns) : Leaf :=
  let same := match l.snap.freeze with
    | some f => decide (f.instant = t) && (decide (f.kind = 0) || decide (f.kind = kind))
    | none => false
  if same then l
  else
    let (l', taken) := Leaf.tryFreeze l kind t
    if !taken && Leaf.hasHolder l' then { l' with snap.txq := l'.snap.txq ++ [Leaf.missingEnd l' kind t] } else l'

/-- SNAPSHOT on a leaf's slot (R57, R92): the strobe toggles at T - LF_SNAP_ADV. -/
def Leaf.snapshotSlot (l : Leaf) (i : Nat) : Leaf :=
  let adv := (l.snap.adv.toNat + 15) / 16
  if slotFires l.appts i 1 (Leaf.now l + adv) then
    let s := Leaf.slot l i
    let kind : Byte := if fullDueAt l.appts ((Slot.due s).getD 0) then 0 else BitVec.ofNat 8 (Slot.arg s)
    Leaf.fireSlot l i fun l => Leaf.snapshotAt l kind (Slot.instant s)
  else l

/-- Acknowledge every held snapshot at or before q; the latest full one acknowledged becomes the reference (R98). -/
def Leaf.snapAck (l : Leaf) (q : Word) : Leaf :=
  let acked := l.snap.store.filter fun s => serialLe s.seq q
  let fulls := acked.filter fun s => decide (s.kind = 0)
  { l with snap.store := l.snap.store.filter fun s => !serialLe s.seq q,
           snap.reference := match fulls.getLast? with
             | some s => some s
             | none => l.snap.reference }

/-- Resend a held snapshot's Tally: the status of REG_RSP, 0 or 6 ABSENT (R98). -/
def Leaf.snapResend (l : Leaf) (q : Word) : Leaf × Byte :=
  match l.snap.store.find? fun s => decide (s.seq = q) with
  | some s => (Leaf.sendTally l s, 0)
  | none => (l, 6)

/-- LF_SNAP_NOW (R464): T is the toggle time plus LF_SNAP_ADV; the answer gives the sequence taken, or the last one and 1 when skipped. -/
def Leaf.snapNow (l : Leaf) (kind : Byte) : Leaf × List Byte :=
  let t : Ns := BitVec.ofNat 64 (Leaf.now l + (if l.time.now.toNat % 2 ^ 40 = 0 then 0 else 1) + l.snap.adv.toNat / 16)
  let (l', taken) := Leaf.tryFreeze l kind t
  let seq := if taken then l'.snap.lastSeq + 1 else l'.snap.lastSeq
  (l', le 4 seq.toNat ++ [if taken then 0 else 1] ++ zeros 3)

end Sys2Proof.Machine
end

