-- ==== Sys2Proof/Machine/Inputs.lean ====
section
/-! DEFINITION. Alarm and heartbeat inputs (R89 to R91) and hang detection (R119, R120). Alarm inputs are 0 to 15 and heartbeat inputs
16 to 23, as LF_INPUT numbers them. -/

namespace Sys2Proof.Machine

/-- The input number of a heartbeat. -/
def hbInput (hb : Nat) : Nat := 16 + hb

/-- Detail of a STUCK_ACTIVE record: the input, and bit 4 for a heartbeat (R186). -/
def inputDetail (i : Nat) : Nat := if i < 16 then i else (i - 16) + 16

/-- Three edges, in either direction, lie within 1,000 ns from the first to the third (R91). -/
def chatters (edges : List Nat) : Bool :=
  match edges with
  | [a, _, c] => decide (a ≤ c + 1000)
  | _ => false

/-- One edge of an input at the front end: the limiter may engage; while it is engaged the edge is suppressed and counted (R91). The Bool
says whether the edge stands as an event. -/
def Input.edge (x : Input) (now : Nat) : Input × Bool :=
  let es := (now :: x.edges).take 3
  let burst := chatters es
  let engaged := x.limiter || burst
  let x := { x with edges := es, lastTriple := if burst then now else x.lastTriple,
                    lastChatter := if burst && !x.limiter then now else x.lastChatter, limiter := engaged }
  if engaged then ({ x with chatter := satAdd32 x.chatter 1, suppressed := x.suppressed + 1 }, false) else (x, true)

/-- An inactive-to-active edge of an input: the event, if it stands, is `act`. Inputs are not observed in Cellar (R421). -/
def Leaf.inputRise (l : Leaf) (i : Nat) (act : Leaf → Leaf) : Leaf :=
  let x := Leaf.input l i
  if Leaf.asleep l || x.level then l
  else
    let (x, ev) := Input.edge x (Leaf.now l)
    let l := Leaf.setInput l i { x with level := true, since := Leaf.now l }
    if ev then act l else l

/-- ALARM_EDGE raises ALARM against the input's unit (R89). -/
def Leaf.alarmEdge (l : Leaf) (i : Nat) : Leaf :=
  Leaf.inputRise l i fun l => Leaf.raise l 0x08 (Leaf.input l i).unit i

/-- ALARM_RELEASE: an active-to-inactive edge clears the stuck-active flag and re-arms the input; it is no event (R90). -/
def Leaf.inputFall (l : Leaf) (i : Nat) : Leaf :=
  let x := Leaf.input l i
  if Leaf.asleep l || !x.level then l
  else
    let (x, _) := Input.edge x (Leaf.now l)
    Leaf.setInput l i { x with level := false, stuck := false }

/-- STUCK_ACTIVE_TIMEOUT after 10 ms of activity (R90). -/
def Leaf.stuckActive (l : Leaf) (i : Nat) : Leaf :=
  let x := Leaf.input l i
  if Leaf.awake l && x.level && !x.stuck && decide (x.since + 10000000 ≤ Leaf.now l) then
    Leaf.raise (Leaf.setInput l i { x with stuck := true }) 0x09 x.unit (inputDetail i)
  else l

/-- The CHATTER record: the edges suppressed since the last one, at most 0xFF_FFFF (R91). -/
def Leaf.chatterRecord (l : Leaf) (i : Nat) : Leaf :=
  let x := Leaf.input l i
  Leaf.raise (Leaf.setInput l i { x with suppressed := 0, lastChatter := Leaf.now l }) 0x0A x.unit (min x.suppressed 0xFFFFFF)

/-- CHATTER_RECORD_TIMER: one record each ms while the limiter is engaged (R91). -/
def Leaf.chatterTimer (l : Leaf) (i : Nat) : Leaf :=
  let x := Leaf.input l i
  if Leaf.awake l && x.limiter && decide (x.lastChatter + 1000000 ≤ Leaf.now l) then Leaf.chatterRecord l i else l

/-- CHATTER_RELEASE: after 1 ms without three edges within 1,000 ns the limiter releases and a final record is raised (R91). -/
def Leaf.chatterRelease (l : Leaf) (i : Nat) : Leaf :=
  let x := Leaf.input l i
  if Leaf.awake l && x.limiter && decide (x.lastTriple + 1000000 ≤ Leaf.now l) then
    Leaf.chatterRecord (Leaf.setInput l i { x with limiter := false, edges := [] }) i
  else l

/-! ### Heartbeats -/

/-- LF_HB_CTL.en. -/
def Beat.en (b : Beat) : Bool := b.ctl.getLsbD 0
/-- LF_HB_CTL.dump_en. -/
def Beat.dumpEn (b : Beat) : Bool := b.ctl.getLsbD 1
/-- LF_HB_CTL.tmo, µs. -/
def Beat.tmo (b : Beat) : Nat := bits b.ctl.toNat 27 2
/-- LF_HB_CTL.seg_start. -/
def Beat.segStart (b : Beat) : Nat := bits b.ctl.toNat 47 32
/-- The entries of the segment; an index that reaches 65,536 ends it there. -/
def Beat.segCount (b : Beat) : Nat := min (bits b.ctl.toNat 63 48 + 1) (65536 - Beat.segStart b)

/-- A heartbeat is enabled; the stewards' heartbeats 0 to 3 of an internal leaf always are (R209). -/
def Leaf.beatEn (l : Leaf) (hb : Nat) : Bool := Beat.en (Leaf.beat l hb) || (decide (l.kind = .internal) && decide (hb < 4))
/-- The timeout of a heartbeat, µs: 10 ms for the stewards' (R209). -/
def Leaf.beatTmo (l : Leaf) (hb : Nat) : Nat := if l.kind = .internal ∧ hb < 4 then 10000 else Beat.tmo (Leaf.beat l hb)

/-- A refresh of a heartbeat (R119, R120): it arms an enabled heartbeat; a hung one raises HANG_CLEAR. -/
def Leaf.refreshBeat (l : Leaf) (hb : Nat) : Leaf :=
  let b := Leaf.beat l hb
  let l' := Leaf.setBeat l hb { b with armed := Leaf.beatEn l hb, last := Leaf.now l, hung := false }
  if b.hung then Leaf.raise l' 0x0C (Leaf.input l (hbInput hb)).unit hb else l'

/-- HEARTBEAT_EDGE (R89, R119). -/
def Leaf.heartbeatEdge (l : Leaf) (hb : Nat) : Leaf :=
  Leaf.inputRise l (hbInput hb) fun l => Leaf.refreshBeat l hb

/-- The heartbeat already has a dump queued or in progress (R120). -/
def DumpSt.hasFor (d : DumpSt) (hb : Nat) : Bool :=
  (d.queue.any fun r => decide (r.hb.toNat = hb)) || match d.walk with
    | some w => decide (w.req.hb.toNat = hb)
    | none => false

/-- Queue a heartbeat's request: ascending heartbeat number among those declared in the same µs, otherwise in order of declaration; a
manual request stays behind the heartbeat requests already queued when it came (R120, R124). -/
def insertDump (r : DumpReq) : List DumpReq → List DumpReq
  | [] => [r]
  | x :: rest =>
    if x.hb ≠ 0xFF ∧ x.at'.toNat / 1000 = r.at'.toNat / 1000 ∧ r.hb.toNat < x.hb.toNat then r :: x :: rest
    else x :: insertDump r rest

/-- HEARTBEAT_TIMEOUT (R119, R120): HANG, and a dump request when dump_en is set. -/
def Leaf.heartbeatTimeout (l : Leaf) (hb : Nat) : Leaf :=
  let b := Leaf.beat l hb
  if Leaf.awake l && Leaf.beatEn l hb && b.armed && !b.hung && decide (b.last + Leaf.beatTmo l hb * 1000 ≤ Leaf.now l) then
    let l := Leaf.raise (Leaf.setBeat l hb { b with hung := true, armed := false }) 0x0B (Leaf.input l (hbInput hb)).unit hb
    if Beat.dumpEn b && !DumpSt.hasFor l.dump hb then
      { l with dump.queue := insertDump { hb := BitVec.ofNat 8 hb, start := Beat.segStart b, count := Beat.segCount b,
                                          at' := TimeDom.ns64 l.time, tq := Leaf.tq l } l.dump.queue }
    else l
  else l

/-- A low word of LF_HB_CTL is refused when tmo is 0 or above 60,000,000. -/
def hbLowOk (w : Word) : Bool := decide (1 ≤ bits w.toNat 27 2) && decide (bits w.toNat 27 2 ≤ 60000000)

/-- The low word takes effect alone: writing en to 0 disarms at once; tmo written while armed restarts the count (R119). -/
def Beat.writeLow (b : Beat) (w : Word) (now : Nat) : Beat :=
  let en := w.getLsbD 0
  { b with ctl := (b.ctl &&& 0xFFFFFFFF00000000) ||| (w &&& 0x0FFFFFFF).setWidth 64, armed := b.armed && en,
           last := if b.armed then now else b.last }

/-- The high word takes effect alone. -/
def Beat.writeHigh (b : Beat) (w : Word) : Beat := { b with ctl := (b.ctl &&& 0xFFFFFFFF) ||| (w.setWidth 64 <<< 32) }

/-- A write of LF_HB_CTL; none where it is refused. -/
def Leaf.writeHb (l : Leaf) (hb : Nat) (d : WriteData) : Option Leaf :=
  let b := Leaf.beat l hb
  match d with
  | .low w => if hbLowOk w then some (Leaf.setBeat l hb (Beat.writeLow b w (Leaf.now l))) else none
  | .high w => some (Leaf.setBeat l hb (Beat.writeHigh b w))
  | .full v =>
    if hbLowOk (v.setWidth 32) then
      some (Leaf.setBeat l hb (Beat.writeHigh (Beat.writeLow b (v.setWidth 32) (Leaf.now l)) ((v >>> 32).setWidth 32)))
    else none

end Sys2Proof.Machine
end

