-- ==== Sys2Proof/Machine/Scrivener.lean ====
section
/-! DEFINITION. Scrivener: the trace port (R105 to R109), the encoder and its packets (R110 to R114), buffering (R115) and loss (R116,
R117). -/

namespace Sys2Proof.Machine

/-! ### The trace port -/

/-- The conditions that R107 checks on a valid cycle. -/
def BranchCycle.bad (c : BranchCycle) : Bool :=
  decide (5 ≤ c.cnt.toNat) || decide (c.cnt.toNat < c.evPos.toNat)
    || ((c.ev = 2 || c.ev = 3) && decide (c.evPos ≠ c.cnt))

/-- A closed entry enters the 16-entry queue with the counts that wait to cross, or is lost and counted (R108, R109). `blocked` is Cellar,
where entries count as lost (R421). -/
def TracePort.enqueue (p : TracePort) (blocked : Bool) (e : TEntry) : TracePort :=
  if blocked || decide (16 ≤ p.queue.length) then
    { p with lostBranches := satAdd32 p.lostBranches e.outcomes.length, lostEvents := satAdd32 p.lostEvents (if e.ev = 0 then 0 else 1) }
  else
    { p with queue := p.queue ++ [{ e with lostBranches := p.lostBranches, lostEvents := p.lostEvents, ifErr := p.ifErrPending }],
             lostBranches := 0, lostEvents := 0, ifErrPending := false }

/-- Accumulate outcomes towards an entry; 24 close one (R108). `last` says that the cycle ends after them. -/
def TracePort.addOutcomes (p : TracePort) (blocked last : Bool) (npc : DWord) : List Bool → TracePort
  | [] => p
  | o :: r =>
    let acc := p.acc ++ [o]
    let p := if 24 ≤ acc.length then
        TracePort.enqueue { p with acc := [] } blocked { TEntry.reset with outcomes := acc, npc := npc, ctx := p.ctx, cycleEnd := last && r.isEmpty }
      else { p with acc := acc }
    TracePort.addOutcomes p blocked last npc r

/-- The outcomes of a cycle, oldest first (R105). -/
def BranchCycle.outcomes (c : BranchCycle) : List Bool := (List.range c.cnt.toNat).map fun i => c.taken.getLsbD i

/-- A valid cycle (R107, R108): older outcomes, the flow event, younger outcomes, and the entry that a SYNC request asks for. -/
def TracePort.cycle (p : TracePort) (blocked : Bool) (c : BranchCycle) : TracePort :=
  if BranchCycle.bad c then { p with ifErrors := satAdd32 p.ifErrors 1, ifErrPending := true }
  else
    let os := BranchCycle.outcomes c
    let older := if c.ev = 0 then os else os.take c.evPos.toNat
    let younger := if c.ev = 0 then [] else os.drop c.evPos.toNat
    let p := { p with retired := true }
    let p := TracePort.addOutcomes p blocked (decide (c.ev = 0)) c.npc older
    let ctx := if c.ev = 3 then c.ctx else p.ctx
    let p := if c.ev = 0 then p else
      TracePort.enqueue { p with acc := [], ctx := ctx } blocked
        { TEntry.reset with outcomes := p.acc, ev := c.ev, tgt := c.tgt, epc := c.epc, exc := c.exc, ctx := ctx, npc := c.npc, cycleEnd := younger.isEmpty }
    let p := TracePort.addOutcomes p blocked true c.npc younger
    if p.syncReq && !(match p.queue.getLast? with
        | some e => e.cycleEnd && decide (e.npc = c.npc) && p.acc.isEmpty && !os.isEmpty
        | none => false) then
      TracePort.enqueue { p with acc := [], syncReq := false } blocked { TEntry.reset with outcomes := p.acc, npc := c.npc, ctx := p.ctx, cycleEnd := true }
    else p

/-! ### Packets -/

/-- What a packet holds: its bytes, its conditional branches and its flow events. -/
abbrev Packet := List Byte × Nat × Nat

/-- The outcome bytes of a GROUP (R111). -/
def outcomeBytes (os : List Bool) : List Byte :=
  (chunks 8 os).map fun g => BitVec.ofNat 8 ((g.zipIdx).foldl (fun a e => a + b2n e.1 * 2 ^ e.2) 0)

/-- GROUP: 1 to 32 outcomes (R111). -/
def groupPacket (os : List Bool) : Packet := (BitVec.ofNat 8 (os.length - 1) :: outcomeBytes os, os.length, 0)

/-- RUN: 33 or more identical outcomes (R111). -/
def runPacket (o : Bool) (n : Nat) : Packet :=
  if n ≤ 47 then ([BitVec.ofNat 8 (0x20 + 16 * b2n o + (n - 33))], n, 0)
  else (BitVec.ofNat 8 (0x20 + 16 * b2n o + 15) :: leb128 5 (n - 48), n, 0)

/-- The zigzag form of the delta from a base to an address (R112). -/
def zigzag (b a : DWord) : Nat :=
  let d := (a - b).toInt
  if 0 ≤ d then (2 * d).toNat else (-2 * d - 1).toNat

/-- TARGET (R111). -/
def targetPacket (l tgt : DWord) : Packet := (0x40 :: leb128 10 (zigzag l tgt), 0, 1)

/-- EXCEPTION (R111): the interrupted address against L, then the handler against it. -/
def exceptionPacket (l : DWord) (exc : Byte) (epc tgt : DWord) : Packet :=
  (0x41 :: exc :: (leb128 10 (zigzag l epc) ++ leb128 10 (zigzag epc tgt)), 0, 1)

/-- SYNC (R111): flags with the class in bits [7:4], and CRC-16 over bytes 0 to 25. -/
def syncPacket (flags : Byte) (tq : BitVec 4) (seq : Word) (time : Ns) (addr : DWord) (ctx : Word) : Packet :=
  let b := ([0xE8, flags ||| (tq.setWidth 8 <<< 4)] : List Byte) ++ le 4 seq.toNat ++ le 8 time.toNat ++ le 8 addr.toNat ++ le 4 ctx.toNat
  (b ++ le 2 (crc16 b).toNat, 0, 0)

/-- on outcome(o) of R114: the encoder's pending outcomes and open run, and the packet it emits. -/
def onOutcome (pending : List Bool) (run : Option Run) (o : Bool) : List Bool × Option Run × List Packet :=
  let append (pending : List Bool) (out : List Packet) : List Bool × Option Run × List Packet :=
    let q := pending ++ [o]
    if q.length = 33 then
      if q.all (· == o) then ([], some ⟨o, 33⟩, out) else (q.drop 32, none, out ++ [groupPacket (q.take 32)])
    else (q, none, out)
  match run with
  | some r => if o == r.o && decide (r.n < 2 ^ 32 - 1) then (pending, some { r with n := r.n + 1 }, []) else append pending [runPacket r.o r.n]
  | none => append pending []

/-- on flush of R114. -/
def flushPackets (pending : List Bool) (run : Option Run) : List Packet :=
  (match run with
    | some r => [runPacket r.o r.n]
    | none => []) ++ (if pending.isEmpty then [] else [groupPacket pending])

/-! ### Buffering and loss -/

/-- The ports that LF_TRC_CTL.core_en enables. -/
def TraceSt.enabled (t : TraceSt) : List Nat := (List.range 8).filter fun c => t.ctl.getLsbD c

/-- A port's share of the 64 KiB buffer: divided equally, rounded down to 1 KiB. -/
def TraceSt.share (t : TraceSt) : Nat :=
  let n := (TraceSt.enabled t).length
  if n = 0 then 65536 else 65536 / n / 1024 * 1024

/-- The packet bytes that a payload of the port holds in its share. -/
def sharePart : Payload → Nat
  | .trace _ _ bs => bs.length
  | _ => 0

/-- The packet bytes held by a port. -/
def TracePort.held (p : TracePort) : Nat := p.frame.length + (p.frames.map fun e => sharePart e.1).sum

/-- Close the frame being filled and queue it (R115). -/
def TracePort.closeFrame (p : TracePort) (core : Nat) : TracePort :=
  if p.frame.isEmpty then p
  else { p with frames := p.frames ++ [(.trace (BitVec.ofNat 3 core) (p.offset - w32 p.frame.length) p.frame, p.frameTotals)], frame := [],
                frameTotals := (0, 0, 0) }

/-- Discard a packet and count it in the loss state (R116). -/
def TracePort.lose (p : TracePort) (k : Packet) : TracePort :=
  match p.loss with
  | some x => { p with loss := some { x with packets := satAdd32 x.packets 1, branches := satAdd32 x.branches k.2.1, events := satAdd32 x.events k.2.2 } }
  | none => p

/-- Enter the loss state: pending outcomes and any open run are discarded and counted (R116). -/
def TracePort.enterLoss (p : TracePort) (cause : Byte) (tq : BitVec 4) : TracePort :=
  let x := p.loss.getD { TLoss.reset with start := p.lastKept, tq := tq }
  let n := p.pending.length + (match p.run with
    | some r => r.n
    | none => 0)
  { p with loss := some { x with cause := x.cause ||| cause, branches := satAdd32 x.branches n }, pending := [], run := none }

/-- Write a packet into the share (R115): a packet that does not fit is discarded and starts a loss (R116). -/
def TracePort.put (p : TracePort) (core share now : Nat) (tq : BitVec 4) (k : Packet) : TracePort :=
  if p.loss.isSome then TracePort.lose p k
  else if share < TracePort.held p + k.1.length then TracePort.lose (TracePort.enterLoss p 2 tq) k
  else
    let p := if 2040 < p.frame.length + k.1.length then TracePort.closeFrame p core else p
    { p with frameAt := if p.frame.isEmpty then now else p.frameAt, frame := p.frame ++ k.1,
             frameTotals := (p.frameTotals.1 + 1, p.frameTotals.2.1 + k.2.1, p.frameTotals.2.2 + k.2.2),
             offset := p.offset + w32 k.1.length, sinceSync := p.sinceSync + k.1.length }

/-- What the encoder needs of its surroundings: core, share, own time, class. -/
structure EncCtx where
  core  : Nat
  share : Nat
  now   : Nat
  time  : Ns
  tq    : BitVec 4
  limit : Nat

def TracePort.putAll (p : TracePort) (x : EncCtx) (ks : List Packet) : TracePort :=
  ks.foldl (fun p k => TracePort.put p x.core x.share x.now x.tq k) p

/-- Flush: the open run, then the pending outcomes (R114). -/
def TracePort.flush (p : TracePort) (x : EncCtx) : TracePort :=
  TracePort.putAll { p with pending := [], run := none } x (flushPackets p.pending p.run)

/-- Encode the outcomes of an entry. Before the first SYNC of an enabled port nothing is written (log entry 17). -/
def TracePort.encodeOutcomes (p : TracePort) (x : EncCtx) : List Bool → TracePort
  | [] => p
  | o :: r =>
    let e := onOutcome p.pending p.run o
    let p := if p.loss.isSome then TracePort.putAll { p with pending := [], run := none } x [([], 1, 0)]
      else TracePort.putAll { p with pending := e.1, run := e.2.1 } x e.2.2
    TracePort.encodeOutcomes p x r

/-- Write a SYNC after flushing (R111, R113); it sets L. -/
def TracePort.writeSync (p : TracePort) (x : EncCtx) (npc : DWord) (ctx : Word) : TracePort :=
  let p := TracePort.flush p x
  let before := p.loss.isSome
  let p' := TracePort.putAll p x [syncPacket p.syncFlags x.tq p.seq x.time npc ctx]
  if before || p'.loss.isSome then p'
  else { p' with lastAddr := npc, seq := p.seq + 1, syncFlags := 0, started := true, sinceSync := 0, lastSync := x.now, retired := false }

/-- Encode the flow event of an entry (R111, R112). -/
def TracePort.encodeEvent (p : TracePort) (x : EncCtx) (e : TEntry) : TracePort :=
  match e.ev.toNat with
  | 1 =>
    let p := TracePort.flush p x
    let q := TracePort.putAll p x [targetPacket p.lastAddr e.tgt]
    if q.loss.isSome then q else { q with lastAddr := e.tgt }
  | 2 =>
    let p := TracePort.flush p x
    let q := TracePort.putAll p x [exceptionPacket p.lastAddr e.exc e.epc e.tgt]
    if q.loss.isSome then q else { q with lastAddr := e.tgt }
  | 3 =>
    if p.loss.isSome then TracePort.lose p ([], 0, 1) else TracePort.writeSync { p with syncFlags := p.syncFlags ||| 2 } x e.npc e.ctx
  | _ => p

/-- The TRACE_LOSS record (R117). -/
def TLoss.record (t : TLoss) (core : Nat) (endTime : Ns) (resync : Word) : List Byte :=
  [BitVec.ofNat 8 core, t.cause] ++ zeros 2 ++ le 4 t.packets.toNat ++ le 4 t.branches.toNat ++ le 4 t.events.toNat
    ++ le 8 t.start.toNat ++ le 8 endTime.toNat ++ le 4 resync.toNat ++ [t.tq.setWidth 8] ++ zeros 3

/-- TRACE_LOSS_RESUME: the encoder leaves the loss state at an entry that closes a cycle and brings no count, with no count pending at the
port and a quarter of the share free; it writes TRACE_LOSS, then a SYNC with the resume flag (R116, R117). -/
def TracePort.tryResume (p : TracePort) (x : EncCtx) (e : TEntry) : TracePort :=
  match p.loss with
  | none => p
  | some t =>
    if e.cycleEnd && decide (e.lostBranches = 0) && decide (e.lostEvents = 0) && !e.ifErr && decide (p.lostBranches = 0)
        && decide (p.lostEvents = 0) && !p.ifErrPending && decide (4 * TracePort.held p ≤ 3 * x.share) then
      let p := { p with loss := none, pending := [], run := none, syncFlags := p.syncFlags ||| 4,
                        frames := p.frames ++ [(.traceLoss (TLoss.record t x.core x.time p.seq), (0, 0, 0))] }
      TracePort.writeSync p x e.npc e.ctx
    else { p with syncReq := true }

/-- Count an entry's content as lost (R116). -/
def TracePort.loseEntry (p : TracePort) (e : TEntry) : TracePort :=
  match p.loss with
  | some t => { p with loss := some { t with branches := satAdd32 t.branches (e.outcomes.length + e.lostBranches.toNat),
                                             events := satAdd32 t.events ((if e.ev = 0 then 0 else 1) + e.lostEvents.toNat) } }
  | none => p

/-- TRACE_ENTRY_ENCODE: the encoder takes one entry (R114, R116). -/
def TracePort.encodeEntry (p : TracePort) (x : EncCtx) (e : TEntry) : TracePort :=
  let p := { p with lastActive := x.now }
  let brings := decide (e.lostBranches ≠ 0) || decide (e.lostEvents ≠ 0)
  let p := if brings then TracePort.enterLoss p 1 x.tq else p
  let p := if e.ifErr then TracePort.enterLoss p 4 x.tq else p
  if p.loss.isSome then TracePort.tryResume (TracePort.loseEntry p e) x e
  else if !p.started then
    if e.cycleEnd then { TracePort.writeSync { p with pending := [], run := none } x e.npc e.ctx with lastKept := x.time } else { p with syncReq := true }
  else
    let p := TracePort.encodeOutcomes p x e.outcomes
    let p := TracePort.encodeEvent p x e
    let p := if p.loss.isSome then p else { p with lastKept := x.time }
    let due := decide (x.limit ≤ p.sinceSync) || decide (p.syncFlags ≠ 0)
    if due && p.loss.isNone then
      if e.cycleEnd then TracePort.writeSync p x e.npc e.ctx else { p with syncReq := true }
    else p

/-- The encoder's surroundings at a port now. -/
def Leaf.encCtx (l : Leaf) (core : Nat) : EncCtx :=
  ⟨core, TraceSt.share l.trace, Leaf.now l, TimeDom.ns64 l.time, Leaf.tq l, 2 ^ (8 + bits l.trace.ctl.toNat 10 8)⟩

/-- Port `c` is traced. -/
def Leaf.traced (l : Leaf) (c : Nat) : Bool := l.trace.ctl.getLsbD c

/-- BRANCH_RETIRE_CYCLE: content of a port that is not enabled is not traced. -/
def Leaf.branchCycle (l : Leaf) (c : Nat) (x : BranchCycle) : Leaf :=
  let p := Leaf.trcPort l c
  if !Leaf.traced l c then l else Leaf.setTrcPort l c (TracePort.cycle p (Leaf.asleep l) x)

/-- TRACE_ENTRY_ENCODE. -/
def Leaf.traceEncode (l : Leaf) (c : Nat) : Leaf :=
  let p := Leaf.trcPort l c
  match p.queue with
  | e :: r => if Leaf.asleep l || !Leaf.traced l c then l
      else Leaf.setTrcPort l c (TracePort.encodeEntry { p with queue := r } (Leaf.encCtx l c) e)
  | [] => l

/-- TRACE_FLUSH_IDLE: after 10 µs idle the run and the pending outcomes are written (R114). -/
def Leaf.traceFlushIdle (l : Leaf) (c : Nat) : Leaf :=
  let p := Leaf.trcPort l c
  if Leaf.awake l && Leaf.traced l c && p.loss.isNone && (p.run.isSome || !p.pending.isEmpty) && decide (p.lastActive + 10000 ≤ Leaf.now l) then
    Leaf.setTrcPort l c (TracePort.flush p (Leaf.encCtx l c))
  else l

/-- SYNC_PERIODIC: 1 ms after the last SYNC, when content has retired since, the encoder asks for the SYNC, which closes the next valid
cycle (R108, R113). -/
def Leaf.syncPeriodic (l : Leaf) (c : Nat) : Leaf :=
  let p := Leaf.trcPort l c
  if Leaf.awake l && Leaf.traced l c && p.started && p.retired && decide (p.lastSync + 1000000 ≤ Leaf.now l) then
    Leaf.setTrcPort l c { p with syncReq := true, sinceSync := max p.sinceSync (Leaf.encCtx l c).limit }
  else l

/-- TRACE_FRAME_CLOSE_TIMER: 100 µs after its first packet (R115). -/
def Leaf.traceClose (l : Leaf) (c : Nat) : Leaf :=
  let p := Leaf.trcPort l c
  if Leaf.awake l && !p.frame.isEmpty && decide (p.frameAt + 100000 ≤ Leaf.now l) then Leaf.setTrcPort l c (TracePort.closeFrame p c) else l

/-- Packets, branches and events in a port's share. -/
def TracePort.heldTotals (p : TracePort) : Nat × Nat × Nat :=
  p.frames.foldl (fun a e => (a.1 + e.2.1, a.2.1 + e.2.2.1, a.2.2 + e.2.2.2)) p.frameTotals

/-- A port that stays enabled loses what it holds when the buffer is redivided (R116, cause bit 3); its TRACE_LOSS records stay. -/
def TracePort.redivide (p : TracePort) (tq : BitVec 4) : TracePort :=
  let h := TracePort.heldTotals p
  if h.1 = 0 then p
  else
    let p := TracePort.enterLoss p 8 tq
    match p.loss with
    | some t => { p with loss := some { t with packets := satAdd32 t.packets h.1, branches := satAdd32 t.branches h.2.1, events := satAdd32 t.events h.2.2 },
                         frame := [], frameTotals := (0, 0, 0), frames := p.frames.filter fun e => decide (sharePart e.1 = 0) }
    | none => p

/-- TRC_CTL_WRITE (R114): a change of core_en flushes every port and redivides the buffer; a port disabled closes its last frame, a port
newly enabled starts afresh and asks for a SYNC with the start flag. -/
def Leaf.writeTrcCtl (l : Leaf) (v : Word) : Leaf :=
  let v := v &&& 0x7FF
  let old := l.trace.ctl
  if v.setWidth 8 = old.setWidth 8 then { l with trace.ctl := v }
  else
    let flushed := (List.range 8).foldl (fun l c =>
      if l.trace.ctl.getLsbD c then
        let p := Leaf.trcPort l c
        Leaf.setTrcPort l c (if p.loss.isSome then p else TracePort.flush p (Leaf.encCtx l c))
      else l) l
    let l := { flushed with trace.ctl := v }
    (List.range 8).foldl (fun l c =>
      let p := Leaf.trcPort l c
      match old.getLsbD c, v.getLsbD c with
      | true, true => Leaf.setTrcPort l c (TracePort.redivide p (Leaf.tq l))
      | true, false => Leaf.setTrcPort l c { TracePort.closeFrame p c with acc := [], queue := [] }
      | false, true => Leaf.setTrcPort l c { TracePort.reset with frames := p.frames, ifErrors := p.ifErrors, ctx := p.ctx,
                                                                  syncReq := true, syncFlags := 1, lastSync := Leaf.now l }
      | false, false => l) l

/-- At the prepare phase of Cellar the ports are flushed into their shares (R420). -/
def Leaf.flushTrace (l : Leaf) : Leaf :=
  (TraceSt.enabled l.trace).foldl (fun l c =>
    let p := Leaf.trcPort l c
    Leaf.setTrcPort l c (if p.loss.isSome then p else TracePort.flush p (Leaf.encCtx l c))) l

end Sys2Proof.Machine
end

