-- ==== Sys2Proof/Machine/Dump.lean ====
section
/-! DEFINITION. The host port's initiator side with its pacing (R447 to R450) and the dump walk (R121 to R126). -/

namespace Sys2Proof.Machine

/-! ### The initiator -/

/-- Beats gained per lhp_clk cycle (R450). -/
def Leaf.paceShare (l : Leaf) : Rat :=
  let s := l.fuses.lhpShare.toNat
  if s = 0 then 2 / 100 else if s ≤ 12 then (s : Rat) / 400 else 1 / 400

/-- The bucket filled up to now (R450). -/
def Leaf.fillBucket (l : Leaf) : Leaf :=
  let gain := Leaf.paceShare l * ((Leaf.now l - l.hp.bucketAt : Nat) : Rat) * (Config.lhpMHz : Rat) / 1000
  { l with hp.bucket := min 64 (l.hp.bucket + gain), hp.bucketAt := Leaf.now l }

/-- Request beats: one per 32 bytes or part thereof (R450). -/
def beats (len : Nat) : Nat := (len + 31) / 32

/-- The lowest free initiator tag; at most 32 requests are outstanding (R447). -/
def HostPort.freeTag (h : HostPort) : Option Nat := (List.range 32).find? fun t => (Cells.get none h.outstanding t).isNone

/-- The 16 lhp_clk cycles after the release of lhp_rst_n have passed (R449). -/
def Leaf.portSettled (l : Leaf) : Bool :=
  !l.hp.inReset && match l.hp.releasedAt with
    | some t => decide (t * Config.lhpMHz + 16000 ≤ Leaf.now l * Config.lhpMHz)
    | none => true

/-- The initiator may issue now. -/
def Leaf.mayIssue (l : Leaf) (len : Nat) : Bool :=
  Leaf.awake l && Leaf.portSettled l && (HostPort.freeTag l.hp).isSome && decide (((beats len : Nat) : Rat) ≤ (Leaf.fillBucket l).hp.bucket)

/-- Issue a read that does not cross a 64-byte boundary, or a trigger write; the caller has checked mayIssue (R449, R450). -/
def Leaf.issue (l : Leaf) (purpose : Nat) (addr : DWord) (len : Nat) (wr : Option Word) : Leaf :=
  let l := Leaf.fillBucket l
  let tag := (HostPort.freeTag l.hp).getD 0
  let l := { l with hp.bucket := l.hp.bucket - (beats len : Nat),
                    hp.outstanding := Cells.set none l.hp.outstanding tag (some { purpose := purpose, address := addr, len := len, data := [], at' := Leaf.now l }) }
  Leaf.emit l (match wr with
    | some w => .initWrite tag addr w
    | none => .initRead tag addr len)

/-- The bytes that one read takes: up to 64 and never across a 64-byte boundary (R449). -/
def readLen (addr : DWord) (want : Nat) : Nat := min want (64 - addr.toNat % 64)

/-- A request with this purpose is outstanding. -/
def HostPort.busyWith (h : HostPort) (p : Nat → Bool) : Bool :=
  h.outstanding.any fun e => match e.2 with
    | some r => p r.purpose
    | none => false

/-- The requests of a purpose are no longer wanted: their answers are taken and dropped. -/
def HostPort.orphan (h : HostPort) (p : Nat → Bool) : HostPort :=
  { h with outstanding := h.outstanding.map fun e => (e.1, e.2.map fun r => if p r.purpose then { r with purpose := 5 } else r) }

/-! ### The walk -/

/-- Room in the 8 KiB frame buffer for one more frame (R125). -/
def DumpSt.room (d : DumpSt) : Bool := decide ((d.frames.map Payload.len).sum + 80 ≤ 8192)

/-- The port towards the holder is up. -/
def Leaf.pathUp (l : Leaf) : Bool :=
  Leaf.hasHolder l && decide ((Leaf.port l (Leaf.portTo l l.ring.lease.holder.toNat)).link = 2)

/-- Queue one DUMP frame of the walk (R125). -/
def Leaf.dumpFrame (l : Leaf) (w : Walk) (status : Byte) (addr : DWord) (data : List Byte) : Leaf × Walk :=
  ({ l with dump.frames := l.dump.frames ++ [.dump w.id (BitVec.ofNat 16 w.entry) w.kind status addr data] },
   { w with frames := w.frames + 1, bytes := w.bytes + w64 data.length })

/-- The END frame with its summary: status 5, or 6 after abort (R125). -/
def Leaf.dumpEnd (l : Leaf) (w : Walk) (status : Byte) : Leaf :=
  let summary := le 8 w.req.at'.toNat ++ [w.req.hb, w.req.tq.setWidth 8 ||| (if w.restarted then 0x10 else 0)] ++ zeros 2
    ++ le 4 w.walked.toNat ++ le 4 w.failed.toNat ++ le 8 w.bytes.toNat ++ le 4 (w.frames + 1).toNat
  { l with dump.frames := l.dump.frames ++ [.dump w.id (BitVec.ofNat 16 w.entry) 0 status 0 summary] }

/-- The walk ends (R122). -/
def Leaf.endWalk (l : Leaf) (w : Walk) : Leaf :=
  let l := Leaf.dumpEnd l w 5
  { l with dump.walk := none }

/-- The entry is done: the walk goes on to the next one, or ends at the segment's last entry or at a failed entry with its stop flag
(R122). -/
def Leaf.nextEntry (l : Leaf) (w : Walk) (failed : Bool) : Leaf :=
  let w := { w with walked := w.walked + 1, failed := if failed then w.failed + 1 else w.failed }
  if (failed && w.stop) || decide (w.req.start + w.req.count ≤ w.entry + 1) then Leaf.endWalk l w
  else { l with dump.walk := some { w with entry := w.entry + 1, phase := 0, failedNow := false, stop := false } }

/-- Address of a dump list entry (R121). -/
def Leaf.entryAddr (l : Leaf) (i : Nat) : DWord := l.dump.base + w64 (16 * i)

/-- Issue the walk's next request when nothing holds it back: an entry read, a data read or the trigger write (R122, R125). -/
def Leaf.driveWalk (l : Leaf) : Leaf :=
  match l.dump.walk with
  | none => l
  | some w =>
    if HostPort.busyWith l.hp (fun p => p = 0 || p = 4) || !Leaf.hasHolder l || !DumpSt.room l.dump || decide (l.pwr.cellar ≠ 0) then
      { l with dump.walk := some { w with paused := true } }
    else
      let w := { w with paused := false }
      match w.phase with
      | 0 => if Leaf.mayIssue l 16 then Leaf.issue { l with dump.walk := some w } 0 (Leaf.entryAddr l w.entry) 16 none
             else { l with dump.walk := some { w with paused := true } }
      | 1 =>
        let n := readLen w.address w.remaining
        if Leaf.mayIssue l n then Leaf.issue { l with dump.walk := some w } 0 w.address n none
        else { l with dump.walk := some { w with paused := true } }
      | 3 => if Leaf.mayIssue l 4 then
               Leaf.issue { l with dump.walk := some { w with phase := 2, scanAt := Leaf.now l } } 4 w.address 4 (some (w32 w.remaining))
             else { l with dump.walk := some { w with paused := true } }
      | _ => { l with dump.walk := some w }

/-- An entry's fields break R121. -/
def entryBad (kind : Nat) (addr : DWord) (len : Nat) : Bool :=
  decide (addr.toNat % 8 ≠ 0) || match kind with
    | 1 | 2 => decide (len ≠ 0)
    | 3 => decide (len % 8 ≠ 0) || decide (len < 8) || decide (16777216 < len)
    | 4 => false
    | _ => true

/-- The list entry has been read (R121, R122). -/
def Leaf.gotEntry (l : Leaf) (w : Walk) (bs : List Byte) : Leaf :=
  let kind := field bs 12 1
  let addr := w64 (field bs 0 8)
  let len := field bs 8 4
  let w := { w with kind := BitVec.ofNat 8 kind, stop := bit (field bs 13 1) 0, address := addr, failedNow := false }
  if kind = 0 then Leaf.endWalk l w
  else if entryBad kind addr len then
    let (l, w) := Leaf.dumpFrame l w 3 addr []
    Leaf.nextEntry l w true
  else
    let w := { w with phase := if kind = 4 then 3 else 1,
                      remaining := if kind = 1 then 4 else if kind = 2 then 8 else len }
    { l with dump.walk := some w }

/-- A data read ended: its bytes, or zeros with the status that names the failure (R123). -/
def Leaf.gotData (l : Leaf) (w : Walk) (n : Nat) (status : Byte) (bs : List Byte) : Leaf :=
  let (l, w) := Leaf.dumpFrame l w status w.address (if status = 0 then padTo n bs else zeros n)
  let w := { w with address := w.address + w64 n, remaining := w.remaining - n, failedNow := w.failedNow || decide (status ≠ 0) }
  if w.remaining = 0 then Leaf.nextEntry l w w.failedNow else { l with dump.walk := some w }

/-- A read of the walk ended with a status of R125: 0 data, 1 error response, 2 read timeout. An entry that cannot be read is reported without
data and counts as failed. -/
def Leaf.walkRead (l : Leaf) (n : Nat) (status : Byte) (bs : List Byte) : Leaf :=
  match l.dump.walk with
  | none => l
  | some w =>
    if w.phase = 0 then
      if status = 0 then Leaf.gotEntry l w (padTo 16 bs)
      else
        let (l, w) := Leaf.dumpFrame l w status (Leaf.entryAddr l w.entry) []
        Leaf.nextEntry l w true
    else Leaf.gotData l w n status bs

/-- DUMP_WALK_START (R120, R122, R125): the next queued request, while no walk runs and the leaf is in service. -/
def Leaf.startWalk (l : Leaf) : Leaf :=
  match l.dump.walk, l.dump.queue with
  | none, r :: rest =>
    if Leaf.awake l && decide (l.pwr.cellar = 0) then
      let id := l.dump.lastId + 1
      Leaf.driveWalk { l with dump.queue := rest, dump.lastId := id, dump.walk := some { Walk.reset with req := r, id := id, entry := r.start } }
    else l
  | _, _ => l

/-- Start the walk again from the segment's first entry with the restarted bit (R126). -/
def Walk.restart (w : Walk) : Walk := { Walk.reset with req := w.req, id := w.id, entry := w.req.start, restarted := true }

/-- A new lease epoch restarts the walk; what went to the previous holder is sent again (R126). -/
def Leaf.restartWalk (l : Leaf) : Leaf :=
  match l.dump.walk with
  | some w => { l with dump.walk := some (Walk.restart w), dump.frames := [], hp := HostPort.orphan l.hp fun p => p = 0 || p = 4 }
  | none => { l with dump.frames := [] }

/-- DUMP_WALK_RESUME: room, a holder or the path returned (R125, R126). -/
def Leaf.resumeWalk (l : Leaf) : Leaf :=
  match l.dump.walk with
  | some w =>
    if w.needRestart then (if Leaf.pathUp l then Leaf.driveWalk (Leaf.restartWalk l) else l)
    else Leaf.driveWalk l
  | none => l

/-- Cellar entry abandons the walk; the END after abort frame follows at wake (R126). -/
def Leaf.abandonWalk (l : Leaf) : Leaf :=
  match l.dump.walk with
  | some w => { l with dump.walk := none, dump.endDue := some w, hp := HostPort.orphan l.hp fun p => p = 0 || p = 4 }
  | none => l

/-- At wake the END after abort frame of an abandoned walk is sent (R126). -/
def Leaf.sendEndDue (l : Leaf) : Leaf :=
  match l.dump.endDue with
  | some w =>
    let l := Leaf.dumpEnd l w 6
    { l with dump.endDue := none }
  | none => l

/-- The port towards the holder went down: the walk pauses and restarts later (R126). -/
def Leaf.dumpPortDown (l : Leaf) (p : PortId) : Leaf :=
  match l.dump.walk with
  | some w => if Leaf.hasHolder l && decide (Leaf.portTo l l.ring.lease.holder.toNat = p) then
      { l with dump.walk := some { w with needRestart := true, paused := true } } else l
  | none => l

/-- DUMP_READ_TIMEOUT (R123). -/
def Leaf.dumpTimeout (l : Leaf) (tag : Nat) : Leaf :=
  match Cells.get none l.hp.outstanding tag with
  | some r =>
    if r.purpose = 0 && decide (r.at' + l.dump.rdTmo * 1000 ≤ Leaf.now l) then
      Leaf.driveWalk (Leaf.walkRead { l with hp.outstanding := Cells.set none l.hp.outstanding tag none } r.len 2 [])
    else l
  | none => l

/-- SCAN_DONE while a trigger waits (R122, R452). -/
def Leaf.scanDone (l : Leaf) : Leaf :=
  match l.dump.walk with
  | some w => if w.phase = 2 && Leaf.awake l then
      let (l, w) := Leaf.dumpFrame l w 0 w.address []
      Leaf.driveWalk (Leaf.nextEntry l w false)
    else l
  | none => l

/-- SCAN_DONE_TIMEOUT (R123). -/
def Leaf.scanTimeout (l : Leaf) : Leaf :=
  match l.dump.walk with
  | some w => if w.phase = 2 && decide (w.scanAt + l.dump.scanTmo * 1000000 ≤ Leaf.now l) then
      let (l, w) := Leaf.dumpFrame l w 4 w.address []
      Leaf.driveWalk (Leaf.nextEntry l w true)
    else l
  | none => l

/-- Queue a manual dump behind the requests already queued; none when one is queued already (R124). An entry index that reaches 65,536 ends the
segment. -/
def Leaf.manualDump (l : Leaf) (v : Word) : Option Leaf :=
  if l.dump.queue.any fun r => decide (r.hb = 0xFF) then none
  else
    let start := bits v.toNat 15 0
    let r : DumpReq := { hb := 0xFF, start := start, count := Nat.min (bits v.toNat 31 16 + 1) (65536 - start), at' := TimeDom.ns64 l.time, tq := Leaf.tq l }
    some { l with dump.queue := l.dump.queue ++ [r] }

end Sys2Proof.Machine
end

