-- ==== Sys2Proof/Machine/Guardband.lean ====
section
/-! DEFINITION. The guardband port (R193 to R199): its handshake, conflicts, the requests after its reset, and accepted risks. -/

namespace Sys2Proof.Machine

/-- GUARDBAND_STEP: value, group and result (R186); raised against the guardband port's unit. -/
def Leaf.gbStep (l : Leaf) (h : Handshake) (result : Nat) : Leaf :=
  Leaf.raise l 0x11 0xFF0A (h.value.toNat + 256 * h.group.toNat + 65536 * result)

/-- GUARDBAND_REQUEST_START: one request at a time (R195). -/
def Leaf.gbStart (l : Leaf) : Leaf :=
  match l.gb.cur, l.gb.queue with
  | none, h :: r =>
    if l.gb.ackLow || Leaf.asleep l then l
    else Leaf.emit { l with gb.cur := some { h with t0 := Leaf.now l }, gb.queue := r, gb.req := true } (.gbRequest h.group h.kind h.value)
  | _, _ => l

/-- Units of a group that hold a step and are not yet in class fence requested are fenced with cause 3 (R198). -/
def Leaf.fenceGroup (l : Leaf) (grp : Byte) : Leaf :=
  (List.range l.led.units.length).foldl (fun l i =>
    let e := LedgerSt.entry l.led i
    match Leaf.unitGroup l e.unit with
    | some (g, _) => if g = grp ∧ 0 < e.step.toNat ∧ e.cls ≠ 4 then Leaf.fenceUnit l i 3 else l
    | none => l) l

/-- A conflict: GUARDBAND_CONFLICT, then the fences; every floor and ceiling stays (R198). -/
def Leaf.conflict (l : Leaf) (grp : Byte) : Leaf := Leaf.fenceGroup (Leaf.raise l 0x12 0xFF0A (256 * grp.toNat)) grp

/-- An applied handshake: the guardband state of the group, and the step of the unit that escalated (R192, R196). -/
def Leaf.gbApplied (l : Leaf) (h : Handshake) : Leaf :=
  let st : GbState := { value := h.value.setWidth 8, kind := BitVec.ofNat 8 (b2n h.kind), op := l.led.header.op, pc := l.led.header.power }
  let l := { l with led := LedgerSt.mark { l.led with gbState := Cells.set GbState.reset l.led.gbState h.group.toNat st } 4 (h.group.toNat / 16) true }
  if h.unit = 0 then l
  else match LedgerSt.entryOf l.led h.unit with
    | some i =>
      let e := LedgerSt.entry l.led i
      { l with led := LedgerSt.setEntry l.led i { e with step := e.step + 1, stepTime := l.led.header.op } true }
    | none => l

/-- A refused escalation: the unit's class becomes fence requested, cause 2 (R193). -/
def Leaf.gbRefused (l : Leaf) (h : Handshake) : Leaf :=
  if h.unit = 0 then l
  else match LedgerSt.entryOf l.led h.unit with
    | some i => Leaf.fenceUnit l i 2
    | none => l

/-- GUARDBAND_ACK (R195): result 0b11 is handled as refused and counted. -/
def Leaf.gbAck (l : Leaf) (res : BitVec 2) : Leaf :=
  match l.gb.cur with
  | some h =>
    if h.acked then l
    else
      let l := { l with gb.req := false, gb.ackLow := true, gb.cur := none, gb.badRes := if res = 3 then satAdd32 l.gb.badRes 1 else l.gb.badRes }
      let r := if res = 3 then 1 else res.toNat
      let l := Leaf.gbStep l h r
      if r = 0 then Leaf.gbApplied l h else if r = 1 then Leaf.gbRefused l h else Leaf.conflict l h.group
  | none => l

/-- GUARDBAND_ACK_LOW (R195). -/
def Leaf.gbAckLow (l : Leaf) : Leaf := { l with gb.ackLow := false }

/-- GUARDBAND_TIMEOUT (R195): result 3 once; the request stays up. -/
def Leaf.gbTimeout (l : Leaf) : Leaf :=
  match l.gb.cur with
  | some h =>
    if !h.timedOut && decide (h.t0 + GbPort.tmo l.gb * 1000000 ≤ Leaf.now l) then
      Leaf.gbStep { l with gb.cur := some { h with timedOut := true } } h 3
    else l
  | none => l

/-- GUARDBAND_CONFLICT on the conflict channel (R198). -/
def Leaf.gbConflict (l : Leaf) (grp : Byte) : Leaf := if l.gb.cfAck then l else Leaf.conflict { l with gb.cfAck := true } grp

/-- CONFLICT_REQUEST_LOW closes the conflict handshake (R195). -/
def Leaf.gbConflictLow (l : Leaf) : Leaf := { l with gb.cfAck := false }

/-- Request every group whose held step is above 0, in ascending group order, from the guardband state of the Ledger (R196); the units'
greatest step stands for a group that the state lacks. -/
def Leaf.requestHeldGroups (l : Leaf) : Leaf :=
  (List.range 256).foldl (fun l g =>
    let s := Cells.get GbState.reset l.led.gbState g
    if s.value ≠ 0 then Leaf.requestGroup l (BitVec.ofNat 8 g) (decide (s.kind ≠ 0)) s.value.toNat 0
    else
      let v := Leaf.groupStep l (BitVec.ofNat 8 g)
      if v = 0 then l
      else
        let k := l.led.units.any fun e => match Leaf.unitGroup l e.unit with
          | some (g', k) => decide (g'.toNat = g) && k
          | none => false
        Leaf.requestGroup l (BitVec.ofNat 8 g) k v 0) l

/-- GUARDBAND_PORT_RESET: at the release of lf_gb_rst_n a request in progress starts again from t0, before the requests of R196 (R452). -/
def Leaf.gbPortReset (l : Leaf) : Leaf :=
  let q := match l.gb.cur with
    | some h => { h with timedOut := false } :: l.gb.queue
    | none => l.gb.queue
  Leaf.requestHeldGroups { l with gb.cur := none, gb.queue := q, gb.req := false, gb.ackLow := false, gb.cfAck := false }

/-- A write of LF_GB_CTL; none where it is refused. -/
def Leaf.writeGbCtl (l : Leaf) (v : Word) : Option Leaf :=
  if bits v.toNat 9 0 = 0 ∨ 1000 < bits v.toNat 9 0 ∨ bits v.toNat 17 10 = 0 then none else some { l with gb.ctl := v &&& 0x3FFFF }

/-- A 64-bit write of LF_GB_ACCEPT by a requester (R199): none where it is refused. The step falls only once the ACCEPT_RISK record has
committed. -/
def Leaf.gbAccept (l : Leaf) (requester : Half) (v : DWord) : Option Leaf :=
  let lo : Word := v.setWidth 32
  let unit : Half := v.setWidth 16
  let new := bits v.toNat 20 16
  match LedgerSt.entryOf l.led unit with
  | none => none
  | some i =>
    let e := LedgerSt.entry l.led i
    if (v >>> 32).setWidth 32 ≠ lo ^^^ 0xA5A55A5A ∨ e.step.toNat ≤ new ∨ 2048 ≤ l.led.decisions.length then none
    else
      let r := Leaf.record l (TimeDom.ns64 l.time) 0x14 unit requester (BitVec.ofNat 24 (new + 256 * e.step.toNat)) 0
      some (Leaf.raiseRec { l with gb.accepts := l.gb.accepts ++ [(unit, BitVec.ofNat 8 new, r)] } r)

/-- The record of an accepted risk has committed: step, flag and class change, and the group is requested at its new maximum (R199). -/
def Leaf.applyAccept (l : Leaf) (unit : Half) (new : Byte) : Leaf :=
  match LedgerSt.entryOf l.led unit with
  | none => l
  | some i =>
    let e := LedgerSt.entry l.led i
    let l := { l with led := LedgerSt.setEntry l.led i { e with step := new, flags := e.flags ||| 1 } true }
    let l := if e.cls = 4 then Leaf.setClass l i 3 else l
    match Leaf.unitGroup l unit with
    | some (g, k) => Leaf.requestGroup l g k (Leaf.groupStep l g) 0
    | none => l

/-- Apply the accepted risks whose record is among those committed. -/
def Leaf.acceptCommitted (l : Leaf) (recs : List HealthRec) : Leaf :=
  let ready := l.gb.accepts.filter fun a => recs.contains a.2.2
  ready.foldl (fun l a => Leaf.applyAccept l a.1 a.2.1) { l with gb.accepts := l.gb.accepts.filter fun a => !recs.contains a.2.2 }

end Sys2Proof.Machine
end

