-- ==== Sys2Proof/Machine/Ledger.lean ====
section
/-! DEFINITION. The Ledger: its map and commit trailers (R168 to R175), the wire form of every structure, page writes with sag, tears and
spares (R170, R179 to R182), LF_LDG_CMD (R177), the sequencer's start (R176, R201, R427) and attestation (R202). -/

namespace Sys2Proof.Machine

/-! ### The map -/

/-- First page of a structure kind within its bank (R173). -/
def kindBase (kind : Nat) : Nat :=
  match kind with
  | 1 => 0 | 2 => 768 | 3 => 800 | 4 => 816 | 5 => 832 | 6 => 1088 | 7 => 1344 | _ => 1600

/-- Pages of a structure kind in one bank (R173). -/
def kindPages (kind : Nat) : Nat :=
  match kind with
  | 1 => 768 | 2 => 32 | 3 => 4 | 4 => 16 | 5 => 256 | 6 => 256 | 7 => 256 | _ => 0

/-- The place that a page of a bank stands for: kind and logical page; none in a reserved or spare range. -/
def placeOf (off : Nat) : Option (Nat × Nat) :=
  ([1, 2, 3, 4, 5, 6, 7].find? fun k => decide (kindBase k ≤ off) && decide (off < kindBase k + kindPages k)).map fun k => (k, off - kindBase k)

/-- Physical page of spare i (R182). -/
def sparePage (i : Nat) : Nat := 2048 * (i / 32) + 2016 + i % 32

/-- The page at which a page of the map now lies: its latest spare, or itself (R175, R182). -/
def LedgerHdr.lies (h : LedgerHdr) (p : Nat) : Nat :=
  ((List.range 64).reverse.find? fun i =>
    let e := (Cells.get 0 h.spares i).toNat
    bit e 15 && decide (bits e 11 0 = p)).elim p sparePage

/-- Physical page of a logical page in a bank. -/
def LedgerHdr.phys (h : LedgerHdr) (bank kind logical : Nat) : Nat := LedgerHdr.lies h (2048 * bank + kindBase kind + logical)

def LedgerSt.page (d : LedgerSt) (p : Nat) : Page := Cells.get Page.reset d.pages p

/-- The commit trailer (R170). -/
def trailerOf (kind logical : Nat) (gen : Word) (wear : BitVec 24) (data : List Byte) : List Byte :=
  let t := le 2 0xC5A7 ++ le 2 (logical + 4096 * kind) ++ le 4 gen.toNat ++ le 3 wear.toNat ++ [1]
  t ++ le 4 (crc32c (data ++ t)).toNat

/-- The page is committed at this place (R171). -/
def Page.committed (p : Page) (kind logical : Nat) : Bool :=
  decide (p.trailer = trailerOf kind logical (w32 (field p.trailer 4 4)) (BitVec.ofNat 24 (field p.trailer 8 3)) p.data)

/-- The generation in a trailer. -/
def Page.gen (p : Page) : Nat := field p.trailer 4 4

/-- The committed copy of a logical page of kinds 3 to 7, and its bank (R174). -/
def LedgerSt.best (d : LedgerSt) (kind logical : Nat) : Option (Nat × Page) :=
  let a := LedgerSt.page d (LedgerHdr.phys d.header 0 kind logical)
  let b := LedgerSt.page d (LedgerHdr.phys d.header 1 kind logical)
  match Page.committed a kind logical, Page.committed b kind logical with
  | true, true => if Page.gen a < Page.gen b then some (1, b) else some (0, a)
  | true, false => some (0, a)
  | false, true => some (1, b)
  | false, false => none

/-- Some copy has been programmed: neither copy committed then means that the page is lost. -/
def LedgerSt.touched (d : LedgerSt) (kind logical : Nat) : Bool :=
  decide (LedgerSt.page d (LedgerHdr.phys d.header 0 kind logical) ≠ Page.reset)
    || decide (LedgerSt.page d (LedgerHdr.phys d.header 1 kind logical) ≠ Page.reset)

/-- The committed header slot with the highest generation (R175): slot s is page s/2 of bank s mod 2. -/
def LedgerSt.latestSlot (d : LedgerSt) : Option (Nat × Page) :=
  (List.range 64).foldl (fun best s =>
    let p := LedgerSt.page d (LedgerHdr.phys d.header (s % 2) 2 (s / 2))
    if Page.committed p 2 (s / 2) then
      match best with
      | some (_, q) => if Page.gen q < Page.gen p then some (s, p) else best
      | none => some (s, p)
    else best) none

/-! ### The structures as bytes -/

/-- Header slot (R175). -/
def LedgerSt.headerBytes (d : LedgerSt) : List Byte :=
  padTo 256 (le 4 d.header.power.toNat ++ le 4 d.header.op.toNat ++ le 4 d.header.refused.toNat ++ le 4 d.header.deferLoss.toNat
    ++ [d.header.flags] ++ zeros 3 ++ le 4 d.decisions.length ++ le 4 d.units.length ++ zeros 4
    ++ (List.range 64).flatMap fun i => le 2 (Cells.get 0 d.header.spares i).toNat)

/-- A header slot read back; the counts of entries follow it. -/
def parseHeader (bs : List Byte) : LedgerHdr × Nat × Nat :=
  ({ power := w32 (field bs 0 4), op := w32 (field bs 4 4), refused := w32 (field bs 8 4), deferLoss := w32 (field bs 12 4),
     flags := BitVec.ofNat 8 (field bs 16 1),
     spares := (List.range 64).foldl (fun m i => Cells.set 0 m i (BitVec.ofNat 16 (field bs (32 + 2 * i) 2))) [] }, field bs 20 4, field bs 24 4)

/-- Unit history entry (R191). -/
def UnitEntry.bytes (e : UnitEntry) : List Byte :=
  le 2 e.unit.toNat ++ [e.cls, e.step, e.group, e.flags] ++ zeros 2 ++ le 4 e.total.toNat ++ le 4 e.thisCycle.toNat ++ le 4 e.stepTime.toNat
    ++ le 4 e.last.toNat ++ padTo 24 (e.recent.flatMap fun p => le 4 p.1.toNat ++ le 4 p.2.toNat)
    ++ padTo 16 (e.loci.flatMap fun p => le 3 p.1.toNat ++ [p.2])

/-- A unit history entry read back. -/
def UnitEntry.parse (bs : List Byte) : UnitEntry :=
  { unit := BitVec.ofNat 16 (field bs 0 2), cls := BitVec.ofNat 8 (field bs 2 1), step := BitVec.ofNat 8 (field bs 3 1),
    group := BitVec.ofNat 8 (field bs 4 1), flags := BitVec.ofNat 8 (field bs 5 1), total := w32 (field bs 8 4), thisCycle := w32 (field bs 12 4),
    stepTime := w32 (field bs 16 4), last := w32 (field bs 20 4),
    recent := ((List.range 3).map fun i => (w32 (field bs (24 + 8 * i) 4), w32 (field bs (28 + 8 * i) 4))).filter fun p => decide (p ≠ (0, 0)),
    loci := ((List.range 4).map fun i => (BitVec.ofNat 24 (field bs (48 + 4 * i) 3), BitVec.ofNat 8 (field bs (51 + 4 * i) 1))).filter fun p => decide (p.2 ≠ 0) }

/-- Second page of a lifetime slot (R184). -/
def LifeSlot.second (s : LifeSlot) : List Byte :=
  padTo 256 ([s.histogram, s.shift, s.flags, 0] ++ le 8 s.count.toNat ++ le 12 s.sum.toNat ++ le 8 s.min.toNat ++ le 4 s.minOp.toNat
    ++ le 4 s.minPc.toNat ++ le 8 s.max.toNat ++ le 4 s.maxOp.toNat ++ le 4 s.maxPc.toNat ++ le 4 s.firstOp.toNat ++ le 4 s.folds.toNat)

/-- First page of a lifetime slot (R184). -/
def LifeSlot.first (s : LifeSlot) : List Byte := (List.range 64).flatMap fun b => le 4 (Cells.get 0 s.bins b).toNat

/-- A lifetime slot read back from its two pages. -/
def LifeSlot.parse (a b : List Byte) : LifeSlot :=
  { LifeSlot.reset with
    histogram := BitVec.ofNat 8 (field b 0 1), shift := BitVec.ofNat 8 (field b 1 1), flags := BitVec.ofNat 8 (field b 2 1),
    bins := (List.range 64).foldl (fun m i => Cells.set 0 m i (w32 (field a (4 * i) 4))) [], count := w64 (field b 4 8),
    sum := BitVec.ofNat 96 (field b 12 12), min := w64 (field b 24 8), minOp := w32 (field b 32 4), minPc := w32 (field b 36 4),
    max := w64 (field b 40 8), maxOp := w32 (field b 48 4), maxPc := w32 (field b 52 4), firstOp := w32 (field b 56 4), folds := w32 (field b 60 4) }

/-- Guardband state of a group (R196). -/
def GbState.bytes (g : GbState) : List Byte := [g.value, g.kind] ++ zeros 2 ++ le 4 g.op.toNat ++ le 4 g.pc.toNat ++ zeros 4

/-- The guardband state of a group read back. -/
def GbState.parse (bs : List Byte) : GbState :=
  { value := BitVec.ofNat 8 (field bs 0 1), kind := BitVec.ofNat 8 (field bs 1 1), op := w32 (field bs 4 4), pc := w32 (field bs 8 4) }

/-- The identity copy (R201). -/
def Fuses.copy (f : Fuses) : List Byte := f.identity ++ le 8 f.serial.toNat ++ f.publicKey

/-- The bytes of a logical page as the sequencer holds it. -/
def Leaf.pageData (l : Leaf) (kind logical : Nat) : List Byte :=
  match kind with
  | 2 => LedgerSt.headerBytes l.led
  | 3 => padTo 256 (if logical = 0 then Fuses.copy l.fuses else [])
  | 4 => (List.range 16).flatMap fun i => GbState.bytes (Cells.get GbState.reset l.led.gbState (16 * logical + i))
  | 5 => padTo 256 ((slice l.led.units (4 * logical) 4).flatMap UnitEntry.bytes)
  | 6 =>
    let s := Cells.get LifeSlot.reset l.led.life (logical / 2)
    if logical % 2 = 0 then LifeSlot.first s else LifeSlot.second s
  | _ => padTo 256 ((slice l.led.decisions (8 * logical) 8).flatMap HealthRec.bytes)

/-! ### Page writes -/

/-- The image that the sequencer executes; none while no image is valid. -/
def SeqSt.executing (s : SeqSt) : Option Nat := if s.noFw then none else some (b2n s.image)

/-- A pending change may be written now (R184, R194). -/
def LedgerSt.due (d : LedgerSt) (e : Nat × Nat × Bool) : Bool :=
  let limit := if e.1 = 5 then 32 else if e.1 = 6 then 64 else 0
  let last := Cells.get 0 d.pageTick (4096 * e.1 + e.2.1)
  e.2.2 || decide (last = 0) || decide (last - 1 + limit ≤ d.header.op.toNat)

/-- Where the next write of a logical page goes: physical page and generation (R174, R175). -/
def LedgerSt.target (d : LedgerSt) (kind logical : Nat) : Nat × Nat × Nat :=
  if kind = 2 then
    match LedgerSt.latestSlot d with
    | some (s, p) => let s' := (s + 1) % 64; (LedgerHdr.phys d.header (s' % 2) 2 (s' / 2), s' / 2, Page.gen p + 1)
    | none => (LedgerHdr.phys d.header 0 2 0, 0, 1)
  else match LedgerSt.best d kind logical with
    | some (b, p) => (LedgerHdr.phys d.header (1 - b) kind logical, logical, Page.gen p + 1)
    | none => (LedgerHdr.phys d.header 0 kind logical, logical, 1)

/-- The wear that a program of a page carries: its own trailer's, or the other copy's, plus 1 (R182). -/
def LedgerSt.wearOf (d : LedgerSt) (phys : Nat) : Nat :=
  let t := (LedgerSt.page d phys).trailer
  let o := (LedgerSt.page d ((phys + 2048) % 4096)).trailer
  (if t.length = 16 then field t 8 3 else if o.length = 16 then field o 8 3 else 0) + 1

/-- Clear the commit cell and begin a page write (R170). -/
def LedgerSt.begin (d : LedgerSt) (w : PageWrite) : LedgerSt :=
  { d with write := some w, pages := Cells.set Page.reset d.pages w.phys { LedgerSt.page d w.phys with trailer := [] } }

/-- The write of a LF_LDG_CMD program command (R177). -/
def LedgerSt.beginUser (d : LedgerSt) (p : Nat) : LedgerSt :=
  let phys := LedgerHdr.lies d.header p
  let pg := LedgerSt.page d phys
  let logical := p % 2048
  let gen := if Page.committed pg 1 logical then Page.gen pg + 1 else 1
  LedgerSt.begin { d with user := none, userLast := true }
    { phys := phys, kind := 1, logical := logical, generation := w32 gen, wear := BitVec.ofNat 24 (LedgerSt.wearOf d phys), data := d.buf.take 256,
      torn := false, user := true }

/-- The write of the first pending change that is due. -/
def Leaf.beginSeq (l : Leaf) (e : Nat × Nat × Bool) : Leaf :=
  let t := LedgerSt.target l.led e.1 e.2.1
  let d := { l.led with dirty := l.led.dirty.filter (fun x => decide ((x.1, x.2.1) ≠ (e.1, e.2.1))), userLast := false,
                        pageTick := Cells.set 0 l.led.pageTick (4096 * e.1 + e.2.1) (l.led.header.op.toNat + 1) }
  let w : PageWrite := { phys := t.1, kind := e.1, logical := t.2.1, generation := w32 t.2.2, wear := BitVec.ofNat 24 (LedgerSt.wearOf l.led t.1),
                         data := Leaf.pageData l e.1 e.2.1, torn := false, user := false }
  { l with led := LedgerSt.begin d w }

/-- PAGE_WRITE_START (R170, R179, R180): the sequencer's writes and LF_LDG_CMD alternate while both wait. -/
def Leaf.pageStart (l : Leaf) : Leaf :=
  if l.led.write.isSome || l.led.vnvLow || l.led.cellarPaused || Leaf.asleep l then l
  else
    let seqNext := if l.seq.running then l.led.dirty.find? (LedgerSt.due l.led) else none
    match l.led.user, seqNext with
    | some p, none => { l with led := LedgerSt.beginUser l.led p }
    | some p, some e => if l.led.userLast then Leaf.beginSeq l e else { l with led := LedgerSt.beginUser l.led p }
    | none, some e => Leaf.beginSeq l e
    | none, none => l

/-- Status of the last LF_LDG_CMD. -/
def LedgerSt.setStatus (d : LedgerSt) (n : Nat) : LedgerSt := { d with status := w32 n }

/-- The lowest free spare of a bank. -/
def LedgerHdr.freeSpare (h : LedgerHdr) (bank : Nat) : Option Nat :=
  ((List.range 32).map (· + 32 * bank)).find? fun i => decide (Cells.get 0 h.spares i = 0)

/-- The page of the map that a physical page stands for. -/
def LedgerHdr.stands (h : LedgerHdr) (phys : Nat) : Nat :=
  ((List.range 64).find? fun i => decide (sparePage i = phys) && decide (Cells.get 0 h.spares i ≠ 0)).elim phys
    fun i => bits (Cells.get 0 h.spares i).toNat 11 0

/-- The Ledger bank's unit (R187). -/
def ledgerUnit (phys : Nat) : Half := if phys < 2048 then 0xFF07 else 0xFF08

/-- Retire a physical page: the write repeats at a free spare of its bank, or is refused (R182). -/
def Leaf.retirePage (l : Leaf) (w : PageWrite) : Leaf :=
  match LedgerHdr.freeSpare l.led.header (w.phys / 2048) with
  | some i =>
    let from' := LedgerHdr.stands l.led.header w.phys
    let h := { l.led.header with spares := Cells.set 0 l.led.header.spares i (BitVec.ofNat 16 (0x8000 + from')) }
    let d := LedgerSt.mark (LedgerSt.begin { l.led with header := h } { w with phys := sparePage i, wear := BitVec.ofNat 24 (LedgerSt.wearOf l.led (sparePage i)) }) 2 0 true
    Leaf.leafFault { l with led := d } (ledgerUnit w.phys) 3 w.phys
  | none =>
    if w.user then { l with led := LedgerSt.setStatus { l.led with write := none } 4 }
    else
      let l := Leaf.countRefused { l with led := { l.led with write := none, refusing := (w.kind, w.logical) :: l.led.refusing } }
      if l.led.spareOut then l else Leaf.leafFault { l with led.spareOut := true } (ledgerUnit w.phys) 5 w.phys

/-- A page write has committed: deferred decisions of the page leave the queue, accepted risks apply, the header is written (R181, R199). -/
def Leaf.pageCommitted (l : Leaf) (w : PageWrite) : Leaf :=
  if w.kind = 7 then
    let recs := slice l.led.decisions (8 * w.logical) 8
    Leaf.acceptCommitted { l with health.deferral := l.health.deferral.filter fun r => !(isDecision r && recs.contains r) } recs
  else if w.kind = 2 then { l with seq.headerDue := false }
  else l

/-- PAGE_WRITE_COMPLETE (R170, R182): the read-back verifies the page or retires it; a page whose wear reached 100,000 is retired too. -/
def Leaf.pageComplete (l : Leaf) (verified : Bool) : Leaf :=
  match l.led.write with
  | some w =>
    if l.led.vnvLow || w.torn then l
    else
      let pg : Page := { data := w.data, trailer := if verified then trailerOf w.kind w.logical w.generation w.wear w.data else [] }
      let l := { l with led := { l.led with pages := Cells.set Page.reset l.led.pages w.phys pg } }
      if l.led.refusing.contains (w.kind, w.logical) && !w.user then Leaf.countRefused { l with led.write := none }
      else if !verified then Leaf.retirePage l w
      else if 100000 ≤ w.wear.toNat then Leaf.retirePage (Leaf.pageCommitted l w) w
      else
        let l := { l with led := if w.user then LedgerSt.setStatus { l.led with write := none } 0 else { l.led with write := none } }
        Leaf.pageCommitted l w
  | none => l

/-- The bytes of a torn page (R172): chunks before `chunk` new, that chunk indeterminate, later ones old. -/
def tornData (old new : List Byte) (chunk n : Nat) : List Byte :=
  new.take (32 * chunk) ++ (List.range 32).map (Config.tornByte n) ++ old.drop (32 * chunk + 32)

/-- Tear the page write in progress at a chunk. -/
def Leaf.tear (l : Leaf) (w : PageWrite) (chunk : Nat) : Leaf :=
  let old := LedgerSt.page l.led w.phys
  { l with free := l.free + 1, led := { l.led with pages := Cells.set Page.reset l.led.pages w.phys { data := tornData old.data w.data (chunk % 8) l.free, trailer := [] } } }

/-- VNV_SAG (R180): no program starts; below 1.60 V the chunk in progress is torn and the write restarts on resumption. -/
def Leaf.vnvSag (l : Leaf) (below160 : Bool) (chunk : Nat) : Leaf :=
  let l := { l with led.vnvLow := true }
  match l.led.write with
  | some w => if below160 && !w.torn then
      let l := Leaf.tear l w chunk
      { l with led.write := some { w with torn := true } }
    else l
  | none => l

/-- VNV_RESUME (R180). -/
def Leaf.vnvResume (l : Leaf) : Leaf :=
  { l with led := { l.led with vnvLow := false, write := l.led.write.map fun w => { w with torn := false } } }

/-- Power is lost during a page write: which chunk was in progress is not known (R172). -/
def Leaf.powerTear (l : Leaf) : Leaf :=
  match l.led.write with
  | some w =>
    let l := if w.torn then l else Leaf.tear { l with free := l.free + 1 } w (Config.tornByte l.free 0).toNat
    { l with led.write := none }
  | none => l

/-- OPERATING_TIME_TICK (R176): each 1/64 hour of leaf time while the leaf core domain is powered. -/
def Leaf.opTick (l : Leaf) : Leaf :=
  let n := Leaf.now l / 56250000000
  if l.led.lastTick < n then
    { l with led := LedgerSt.mark { l.led with lastTick := n, header := { l.led.header with op := satAdd32 l.led.header.op 1 } } 2 0 true }
  else l

/-! ### LF_LDG_CMD -/

/-- A command is in progress. -/
def LedgerSt.busy (d : LedgerSt) : Bool := d.user.isSome || match d.write with
  | some w => w.user
  | none => false

/-- LDG_READ_PAGE (R177): page and trailer into LF_LDG_BUF. -/
def Leaf.ldgRead (l : Leaf) (p : Nat) : Leaf :=
  let pg := LedgerSt.page l.led p
  let ok := match placeOf (LedgerHdr.stands l.led.header p % 2048) with
    | some (k, n) => Page.committed pg k n
    | none => false
  { l with led := LedgerSt.setStatus { l.led with buf := padTo 256 pg.data ++ padTo 16 pg.trailer } (if ok then 0 else 1) }

/-- LDG_PROGRAM_PAGE (R177): only a page of the inactive image. -/
def Leaf.ldgProgram (l : Leaf) (p : Nat) : Leaf :=
  if 768 ≤ p % 2048 then { l with led := LedgerSt.setStatus l.led 3 }
  else if SeqSt.executing l.seq = some (p / 2048) then { l with led := LedgerSt.setStatus l.led 2 }
  else { l with led.user := some p }

/-- A write of LF_LDG_CMD; none where it is refused. -/
def Leaf.writeLdgCmd (l : Leaf) (v : Word) : Option Leaf :=
  if LedgerSt.busy l.led then none
  else match bits v.toNat 13 12 with
    | 0 => some l
    | 1 => some (Leaf.ldgRead l (bits v.toNat 11 0))
    | 2 => some (Leaf.ldgProgram l (bits v.toNat 11 0))
    | _ => none

/-- LF_LDG_STAT (R177). -/
def Leaf.ldgStat (l : Leaf) : Word :=
  let f := l.led.header.flags
  let spares := 64 - (l.led.header.spares.filter fun e => decide (e.2 ≠ 0)).length
  w32 (l.led.status.toNat % 16 + 16 * b2n (LedgerSt.busy l.led) + 32 * b2n (f.getLsbD 0 || f.getLsbD 1) + 64 * b2n (f.getLsbD 2)
    + 128 * b2n l.led.vnvLow + 256 * spares)

/-! ### The sequencer -/

/-- The bytes of an image from page 0 on (R427). -/
def LedgerSt.imageBytes (d : LedgerSt) (img n : Nat) : List Byte :=
  ((List.range ((n + 255) / 256)).flatMap fun i => (LedgerSt.page d (LedgerHdr.phys d.header img 1 i)).data).take n

/-- The version of a valid image (R427): magic, every page it covers committed, CRC-32C over the image bytes after its header. -/
def LedgerSt.imageVersion (d : LedgerSt) (img : Nat) : Option Nat :=
  let h := (LedgerSt.page d (LedgerHdr.phys d.header img 1 0)).data
  let n := 16 + field h 8 4
  if field h 0 4 = 0x57464C43 ∧ n ≤ 196608
      ∧ (List.range ((n + 255) / 256)).all (fun i => Page.committed (LedgerSt.page d (LedgerHdr.phys d.header img 1 i)) 1 i)
      ∧ field h 12 4 = (crc32c ((LedgerSt.imageBytes d img n).drop 16)).toNat then some (field h 4 4) else none

/-- The image that boots (R427): the higher version, image A when equal; the other valid one when the watchdog or LF_SEQ_CTL names it. -/
def Leaf.bootImage (l : Leaf) : Option Nat :=
  match LedgerSt.imageVersion l.led 0, LedgerSt.imageVersion l.led 1 with
  | none, none => none
  | some _, none => some 0
  | none, some _ => some 1
  | some a, some b => if l.seq.other then some (1 - b2n l.seq.image) else if a < b then some 1 else some 0

/-- A logical page as committed; a lost one is rebuilt from its defaults, with the page-lost flag and a LEAF_FAULT (R174). -/
def Leaf.loadPage (l : Leaf) (kind logical : Nat) : Leaf × Option (List Byte) :=
  match LedgerSt.best l.led kind logical with
  | some (_, p) => (l, some p.data)
  | none =>
    if LedgerSt.touched l.led kind logical then
      let p := LedgerHdr.phys l.led.header 0 kind logical
      (Leaf.leafFault (Leaf.setLedgerFlag { l with led := LedgerSt.mark l.led kind logical true } 3) (ledgerUnit p) 4 p, none)
    else (l, none)

/-- Read the latest header into SRAM (R175). -/
def Leaf.loadHeader (l : Leaf) : Leaf × Nat × Nat :=
  match LedgerSt.latestSlot l.led with
  | some (_, p) => let r := parseHeader p.data; ({ l with led.header := r.1 }, r.2.1, r.2.2)
  | none => ({ l with led.header := { LedgerHdr.reset with flags := 0x10 } }, 0, 1)

/-- Unit history entries of a page. -/
def Leaf.loadUnits (l : Leaf) (n : Nat) : Leaf :=
  (List.range ((n + 3) / 4)).foldl (fun l i =>
    let r := Leaf.loadPage l 5 i
    let bs := r.2.getD (zeros 256)
    let es := (List.range 4).map fun k => UnitEntry.parse (slice bs (64 * k) 64)
    { r.1 with led.units := (r.1.led.units ++ es).take n }) { l with led.units := [] }

/-- The decision register. -/
def Leaf.loadDecisions (l : Leaf) (n : Nat) : Leaf :=
  (List.range ((n + 7) / 8)).foldl (fun l i =>
    let r := Leaf.loadPage l 7 i
    let bs := r.2.getD (zeros 256)
    let es := (List.range 8).filterMap fun k => HealthRec.parse (slice bs (32 * k) 32)
    { r.1 with led.decisions := (r.1.led.decisions ++ es).take n }) { l with led.decisions := [] }

/-- The guardband state. -/
def Leaf.loadGuardband (l : Leaf) : Leaf :=
  (List.range 16).foldl (fun l i =>
    let r := Leaf.loadPage l 4 i
    match r.2 with
    | some bs => { r.1 with led.gbState := (List.range 16).foldl (fun m k => Cells.set GbState.reset m (16 * i + k) (GbState.parse (slice bs (16 * k) 16))) r.1.led.gbState }
    | none => r.1) { l with led.gbState := [] }

/-- The lifetime slots. -/
def Leaf.loadLife (l : Leaf) : Leaf :=
  (List.range 128).foldl (fun l j =>
    let a := Leaf.loadPage l 6 (2 * j)
    let b := Leaf.loadPage a.1 6 (2 * j + 1)
    match b.2 with
    | some bs => { b.1 with led.life := Cells.set LifeSlot.reset b.1.led.life j (LifeSlot.parse (a.2.getD (zeros 256)) bs) }
    | none => b.1) { l with led.life := [] }

/-- Entry 0 of the unit history belongs to unit 0xFFFF (R191). -/
def Leaf.ensureEntry0 (l : Leaf) : Leaf :=
  match l.led.units with
  | [] => { l with led.units := [{ UnitEntry.reset with unit := 0xFFFF, cls := 1 }] }
  | _ => l

/-- The header of a power-up: the count of the latest committed header plus 1 (R176). -/
def Leaf.powerUpHeader (l : Leaf) : Leaf :=
  if l.seq.powerOn then
    { l with led := LedgerSt.mark { l.led with header := { l.led.header with power := satAdd32 l.led.header.power 1 } } 2 0 true,
             seq := { l.seq with powerOn := false, headerDue := true } }
  else l

/-- The identity copy against the fuses (R201): the fuses govern. -/
def Leaf.checkIdentity (l : Leaf) : Leaf :=
  match LedgerSt.best l.led 3 0 with
  | some (_, p) =>
    if p.data.take 120 = Fuses.copy l.fuses then l else Leaf.leafFault { l with led := LedgerSt.mark l.led 3 0 true } 0xFF00 6 0
  | none =>
    if LedgerSt.touched l.led 3 0 then Leaf.leafFault (Leaf.loadPage l 3 0).1 0xFF00 6 0 else { l with led := LedgerSt.mark l.led 3 0 true }

/-- SEQUENCER_BOOT (R427): image, header, structures, identity, the guardband requests of start-up (R196), then the deferral queue
(R426). -/
def Leaf.seqBoot (l : Leaf) : Leaf :=
  if l.seq.running || l.led.write.isSome || Leaf.asleep l then l
  else match Leaf.bootImage l with
    | none => { l with seq.noFw := true }
    | some img =>
      let l := { l with seq := { l.seq with running := true, image := decide (img = 1), noFw := false, bootAt := Leaf.now l, other := false } }
      let (l, nd, nu) := Leaf.loadHeader l
      let l := Leaf.powerUpHeader l
      let l := Leaf.ensureEntry0 (Leaf.loadLife (Leaf.loadGuardband (Leaf.loadDecisions (Leaf.loadUnits l nu) nd)))
      Leaf.replayDeferral (Leaf.requestHeldGroups (Leaf.checkIdentity l))

/-- Stop the sequencer: its SRAM and the changes it holds are lost (R426). -/
def Leaf.seqStop (l : Leaf) (cause : BitVec 3) (other : Bool) : Leaf :=
  { l with seq := { l.seq with running := false, other := other },
           led := { l.led with units := [], decisions := [], gbState := [], life := [], dirty := [] },
           pwr := { l.pwr with cause := cause, count := l.pwr.count + 1 } }

/-- A write of LF_SEQ_CTL; none where it is refused (R427). -/
def Leaf.writeSeqCtl (l : Leaf) (v : Word) : Option Leaf :=
  match bits v.toNat 1 0 with
  | 0 => some l
  | 1 => some (Leaf.seqStop l 6 false)
  | 2 => some (Leaf.seqStop l 6 true)
  | _ => none

/-- SEQUENCER_WATCHDOG: on the other image when within 1 s of a boot (R426, R427). -/
def Leaf.seqWatchdog (l : Leaf) : Leaf :=
  if l.seq.running then Leaf.seqStop l 5 (decide (Leaf.now l < l.seq.bootAt + 1000000000)) else l

/-- LF_RST_STAT (R427). -/
def Leaf.rstStat (l : Leaf) : Word :=
  w32 (l.pwr.cause.toNat + 8 * b2n l.seq.image + 16 * b2n l.seq.noFw + 65536 * l.pwr.count.toNat)

/-! ### Attestation -/

/-- The message that the leaf signs (R202). -/
def Leaf.attMessage (l : Leaf) : List Byte :=
  l.att.nonce ++ l.fuses.identity ++ le 8 l.fuses.serial.toNat ++ le 4 l.led.header.power.toNat ++ le 4 l.led.header.op.toNat
    ++ le 3 l.ring.did.toNat ++ [0] ++ le 2 l.ring.lease.epoch.toNat ++ zeros 2

/-- A word of LF_ATT_NONCE; the final one starts the signature; none while one is in progress (R202). -/
def Leaf.writeNonce (l : Leaf) (word : Nat) (v : Word) : Option Leaf :=
  if l.att.busy then none
  else
    let n := setBytes l.att.nonce (4 * word) (le 4 v.toNat)
    some { l with att := if word = 11 then { l.att with nonce := n, busy := true, done := false } else { l.att with nonce := n } }

/-- ATTESTATION_SIGNED (R202); the header of the last power-up is written first (R176). -/
def Leaf.attSigned (l : Leaf) : Leaf :=
  if l.att.busy && l.seq.running && !l.seq.headerDue then
    { l with att := { l.att with busy := false, done := true, sig := Config.ecdsaSign l.fuses.privateKey (Leaf.attMessage l) } }
  else l

end Sys2Proof.Machine
end

