-- ==== Sys2Proof/Machine/AssayLeaf.lean ====
section
/-! DEFINITION. Captures of a leaf (R300 to R308), verdicts at the leaf (R319), the answers on the host port's initiator side (R447), and the
check-value engines (R408 to R410). -/

namespace Sys2Proof.Machine

/-! ### The step and the rate -/

/-- A write of LF_STEP (R300): a pending rate exponent takes effect. -/
def Leaf.writeStep (l : Leaf) (v : DWord) : Leaf :=
  let a := l.assay
  let a := { a with step := v }
  if a.pending then
    if a.kNext = a.k then { l with assay := { a with pending := false } }
    else { l with assay := { a with pending := false, k := a.kNext, changes := a.changes + 1, stepAt := v } }
  else { l with assay := a }

/-- A SAMPLING_RATE firing (R300). -/
def Leaf.setRate (l : Leaf) (k : Nat) : Leaf := { l with assay := { l.assay with pending := true, kNext := BitVec.ofNat 5 k } }

/-- LF_ASSAY_RATE (R300). -/
def LeafAssay.rate (a : LeafAssay) : DWord := w64 (a.k.toNat + 32 * b2n a.pending + 256 * a.kNext.toNat + 4294967296 * a.changes.toNat)

/-! ### Posts -/

/-- `LF_CAP_CTL.en`. -/
def LeafAssay.en (a : LeafAssay) : Bool := a.capCtl.getLsbD 0
/-- `LF_CAP_CTL.hold`, ms. -/
def LeafAssay.hold (a : LeafAssay) : Nat := bits a.capCtl.toNat 10 1
/-- `LF_CAP_CTL.backlog`, bytes. -/
def LeafAssay.backlog (a : LeafAssay) : Nat := bits a.capCtl.toNat 16 11 * 1048576

/-- A write of LF_CAP_CTL; none where it is refused (R302). -/
def Leaf.writeCapCtl (l : Leaf) (v : Word) : Option Leaf :=
  let hold := bits v.toNat 10 1
  if hold < 10 ∨ 1000 < hold ∨ bits v.toNat 16 11 = 0 ∨ bits v.toNat 31 17 ≠ 0 then none
  else some { l with assay := { l.assay with capCtl := v } }

/-- One more of LF_CAP_CNT i (R306). -/
def Leaf.countCap (l : Leaf) (i : Nat) : Leaf :=
  { l with assay := { l.assay with counts := Cells.set 0 l.assay.counts i (satAdd32 (Cells.get 0 l.assay.counts i) 1) } }

/-- A 64-bit write of LF_CAP_POST (R303); the Bool says that it was taken. -/
def Leaf.capPost (l : Leaf) (v : DWord) : Leaf × Bool :=
  let waiting := (l.assay.posts.filter fun p => !p.done).length
  if LeafAssay.en l.assay && decide (v.toNat % 64 = 0) && decide (waiting < 64) then
    ({ l with assay := { l.assay with posts := l.assay.posts ++ [{ Post.reset with id := l.assay.nextId, address := v, at' := Leaf.now l }],
                                      nextId := l.assay.nextId + 1 } }, true)
  else (Leaf.countCap l 0, false)

/-- LF_CAP_REL: the lowest capture ID not released (R307). -/
def LeafAssay.rel (a : LeafAssay) : Word :=
  match a.posts.find? fun p => !p.released with
  | some p => p.id
  | none => a.nextId

/-- Replace a post. -/
def LeafAssay.setPost (a : LeafAssay) (p : Post) : LeafAssay := { a with posts := a.posts.map fun x => if x.id = p.id then p else x }

/-- Posts that are both released and done need no record any more. -/
def LeafAssay.prune (a : LeafAssay) : LeafAssay := { a with posts := a.posts.filter fun p => !(p.released && p.done) }

/-- Checkpoints of a header (R301). -/
def Post.n (p : Post) : Nat := field p.hdr 5 1
/-- Input length of a header. -/
def Post.len (p : Post) : Nat := field p.hdr 44 4
/-- Bytes of header and checkpoint entries. -/
def Post.hdrLen (p : Post) : Nat := if p.hdr.length < 64 then 64 else 64 + 16 * Post.n p
/-- Offset of the input within the record (R301). -/
def Post.inputOff (p : Post) : Nat := (64 + 16 * Post.n p + 63) / 64 * 64
/-- The magic, format, n or input length breaks R301. -/
def Post.bad (p : Post) : Bool :=
  decide (field p.hdr 0 4 ≠ 0x50414341) || decide (field p.hdr 4 1 ≠ 1) || decide (64 < Post.n p) || decide (Post.len p = 0)
    || decide (16777216 < Post.len p)

/-- Room in the 16 KiB capture buffer for another frame. -/
def LeafAssay.room (a : LeafAssay) : Bool :=
  decide ((a.txq.map Payload.len).sum + (a.posts.map fun p => p.part.length).sum + (a.fetches.map fun f => f.part.length).sum + 2048 ≤ 16384)

/-- Queue a capture frame for the holder. -/
def Leaf.capFrame (l : Leaf) (p : Payload) : Leaf := { l with assay := { l.assay with txq := l.assay.txq ++ [p] } }

/-- Input bytes accepted and not yet sent (R304). -/
def LeafAssay.unsent (a : LeafAssay) : Nat := ((a.posts.filter fun p => p.accepted && !p.done).map fun p => Post.len p - p.sent).sum

/-- The CAPTURE_DESC of a post. -/
def Post.desc (p : Post) : Payload :=
  if p.skipped then .captureDesc p.id 0 0 p.hdr else .captureDesc p.id (w32 (Post.len p)) (w32 ((Post.len p + 2039) / 2040)) p.hdr

/-- The header and checkpoint entries of a post are read: steps 2 to 4 of R304. -/
def Leaf.headerRead (l : Leaf) (p : Post) : Leaf :=
  if Post.bad p then Leaf.countCap { l with assay := LeafAssay.prune (LeafAssay.setPost l.assay { p with done := true }) } 1
  else if LeafAssay.backlog l.assay < LeafAssay.unsent l.assay + Post.len p then
    let p := { p with skipped := true, done := true }
    Leaf.countCap (Leaf.capFrame { l with assay := LeafAssay.setPost l.assay p } (Post.desc p)) 2
  else
    let p := { p with accepted := true }
    Leaf.capFrame { l with assay := LeafAssay.setPost l.assay p } (Post.desc p)

/-- Capture pulls run: a holder, no dump walk, room in the buffer (R304). -/
def Leaf.pullsOpen (l : Leaf) : Bool := Leaf.hasHolder l && l.dump.walk.isNone && LeafAssay.room l.assay && decide (l.pwr.cellar = 0)

/-- The next post whose header is not read. -/
def LeafAssay.nextHeader (a : LeafAssay) : Option Post := a.posts.find? fun p => !p.done && !p.accepted

/-- The next post whose input is to be pulled. -/
def LeafAssay.nextInput (a : LeafAssay) : Option Post := a.posts.find? fun p => p.accepted && !p.done

/-- Issue the next pull: a retained output, an input already accepted, or the next header, one read of each kind at a time. -/
def Leaf.drivePulls (l : Leaf) : Leaf :=
  if !Leaf.pullsOpen l then l
  else
    let l := match LeafAssay.nextHeader l.assay with
      | some p =>
        let a := p.address + w64 p.hdr.length
        let n := readLen a (Post.hdrLen p - p.hdr.length)
        if HostPort.busyWith l.hp (· = 1) || !Leaf.mayIssue l n then l else Leaf.issue l 1 a n none
      | none => l
    let l := match LeafAssay.nextInput l.assay with
      | some p =>
        let a := p.address + w64 (Post.inputOff p + p.sent)
        let n := readLen a (min (Post.len p - p.sent) (2040 - p.part.length))
        if HostPort.busyWith l.hp (· = 2) || !Leaf.mayIssue l n then l else Leaf.issue l 2 a n none
      | none => l
    match l.assay.fetches with
    | f :: _ =>
      let n := readLen f.address (min f.remaining (2040 - f.part.length))
      if HostPort.busyWith l.hp (· = 3) || !Leaf.mayIssue l n then l else Leaf.issue l 3 f.address n none
    | [] => l

/-- Abandon a capture: no further frame of it is sent, and the failure is counted (R304). -/
def Leaf.abandonCapture (l : Leaf) (p : Post) : Leaf :=
  let mine (x : Payload) : Bool := match x with
    | .captureDesc id _ _ _ => decide (id = p.id)
    | .captureData id _ _ => decide (id = p.id)
    | _ => false
  let a := LeafAssay.setPost l.assay { p with done := true, part := [] }
  Leaf.countCap { l with assay := LeafAssay.prune { a with txq := a.txq.filter fun x => !mine x } } 3

/-- A pull read ended: `ok` with its bytes, or failed. -/
def Leaf.pullEnd (l : Leaf) (purpose : Nat) (ok : Bool) (bs : List Byte) : Leaf :=
  match purpose with
  | 1 => match LeafAssay.nextHeader l.assay with
    | some p =>
      if ok then
        let p := { p with hdr := p.hdr ++ bs }
        let l := { l with assay := LeafAssay.setPost l.assay p }
        if Post.hdrLen p ≤ p.hdr.length || (decide (64 ≤ p.hdr.length) && Post.bad p) then Leaf.headerRead l p else l
      else Leaf.abandonCapture l p
    | none => l
  | 2 => match LeafAssay.nextInput l.assay with
    | some p =>
      if ok then
        let p := { p with sent := p.sent + bs.length, part := p.part ++ bs }
        if 2040 ≤ p.part.length || decide (Post.len p ≤ p.sent) then
          let done := decide (Post.len p ≤ p.sent)
          let l := { l with assay := LeafAssay.prune (LeafAssay.setPost l.assay { p with part := [], done := done }) }
          Leaf.capFrame l (.captureData p.id (w32 (p.sent - p.part.length)) p.part)
        else { l with assay := LeafAssay.setPost l.assay p }
      else Leaf.abandonCapture l p
    | none => l
  | 3 => match l.assay.fetches with
    | f :: r =>
      if ok then
        let part := f.part ++ bs
        let f := { f with address := f.address + w64 bs.length, remaining := f.remaining - bs.length, part := part }
        if f.remaining = 0 || decide (2040 ≤ part.length) then
          let rest := if f.remaining = 0 then r else { f with part := [], offset := f.offset + w32 part.length } :: r
          Leaf.capFrame { l with assay := { l.assay with fetches := rest } } (.captureData f.id f.offset part)
        else { l with assay := { l.assay with fetches := f :: r } }
      else Leaf.countCap { l with assay := { l.assay with fetches := r } } 3
    | [] => l
  | _ => l

/-- CAPTURE_PULL_TIMEOUT: the oldest pull unanswered for LF_DUMP_CTL.rd_tmo (R123, R304). -/
def Leaf.pullTimeout (l : Leaf) : Leaf :=
  let due (r : InitReq) : Bool := (r.purpose = 1 || r.purpose = 2 || r.purpose = 3) && decide (r.at' + l.dump.rdTmo * 1000 ≤ Leaf.now l)
  match l.hp.outstanding.find? fun e => match e.2 with
    | some r => due r
    | none => false with
  | some (tag, some r) => Leaf.drivePulls (Leaf.pullEnd { l with hp.outstanding := Cells.set none l.hp.outstanding tag (some { r with purpose := 5 }) } r.purpose false [])
  | _ => l

/-- LHP_INITIATOR_RESPONSE (R447, R449): the beats of an answer collect under its tag; the last one, or an error, ends the request. An answer
whose tag is not outstanding is a LEAF_FAULT of unit 0xFF0B (log entry 19). -/
def Leaf.initResponse (l : Leaf) (tag : Nat) (err last : Bool) (data : List Byte) : Leaf :=
  match Cells.get none l.hp.outstanding tag with
  | none => Leaf.leafFault l 0xFF0B 0 0
  | some r =>
    let got := r.data ++ data
    if !err && !last then { l with hp.outstanding := Cells.set none l.hp.outstanding tag (some { r with data := got }) }
    else
      let l := { l with hp.outstanding := Cells.set none l.hp.outstanding tag none }
      match r.purpose with
      | 0 => Leaf.driveWalk (Leaf.walkRead l r.len (if err then 1 else 0) got)
      | 4 => if err then
          match l.dump.walk with
          | some w => if w.phase = 2 then
              let (l, w) := Leaf.dumpFrame l w 1 w.address []
              Leaf.driveWalk (Leaf.nextEntry l w true)
            else l
          | none => l
        else l
      | 5 => l
      | n => Leaf.drivePulls (Leaf.pullEnd l n (!err) (padTo r.len got))

/-- CAPTURE_HOLD_EXPIRY (R307). -/
def Leaf.capHold (l : Leaf) (id : Word) : Leaf :=
  match l.assay.posts.find? fun p => decide (p.id = id) with
  | some p =>
    if !p.released && decide (p.at' + LeafAssay.hold l.assay * 1000000 ≤ Leaf.now l) then
      Leaf.countCap { l with assay := LeafAssay.prune (LeafAssay.setPost l.assay { p with released := true }) } 4
    else l
  | none => l

/-- A write of LF_CAP_FETCH from the holder (R308); none where it is refused. -/
def Leaf.capFetch (l : Leaf) (v : DWord) : Option Leaf :=
  let id : Word := v.setWidth 32
  let j := bits v.toNat 37 32
  match l.assay.posts.find? fun p => decide (p.id = id) && !p.released with
  | none => none
  | some p =>
    let ret := field p.hdr (76 + 16 * j) 4
    if p.hdr.length < Post.hdrLen p ∨ Post.n p ≤ j ∨ ret = 0 then none
    else
      let f : Fetch := { id := id, address := p.address + w64 (64 * ret), remaining := 1 + Config.retainedLength l.free % 16777216,
                         offset := w32 (64 * ret - Post.inputOff p), part := [] }
      some { l with free := l.free + 1, assay := { l.assay with fetches := l.assay.fetches ++ [f] } }

/-- A new lease epoch: every capture not yet wholly sent starts again from its CAPTURE_DESC (R305). -/
def Leaf.restartCaptures (l : Leaf) : Leaf :=
  let queued (id : Word) : Bool := l.assay.txq.any fun x => match x with
    | .captureDesc i _ _ _ => decide (i = id)
    | .captureData i _ _ => decide (i = id)
    | _ => false
  let again (p : Post) : Bool := (p.accepted || p.skipped) && (!p.done || queued p.id)
  let posts := l.assay.posts.map fun p => if again p then { p with sent := 0, part := [], done := p.skipped } else p
  { l with assay := { l.assay with posts := posts, fetches := [], txq := (l.assay.posts.filter again).map Post.desc },
           hp := HostPort.orphan l.hp fun x => x = 2 || x = 3 }

/-! ### Verdicts -/

/-- The record of a verdict or host report against a unit of the host die (R24, R185, R189). -/
def Leaf.hostRecord (l : Leaf) (cls : Byte) (unit op : Half) (detail : BitVec 24) : HealthRec :=
  let u := Leaf.reportUnit l unit
  Leaf.record l (TimeDom.ns64 l.time) cls u.1 op detail u.2

/-- A verdict reaches the leaf (R319): the capture is released and counted; a verdict other than MATCH raises a record. -/
def Leaf.verdict (l : Leaf) (capture : Word) (r : VerdictRec) : Leaf :=
  let l := match l.assay.posts.find? fun p => decide (p.id = capture) with
    | some p => { l with assay := LeafAssay.prune (LeafAssay.setPost l.assay { p with released := true }) }
    | none => l
  match r.verdict.toNat with
  | 0 => Leaf.countCap l 5
  | 1 => Leaf.raiseError (Leaf.countCap l 6) (Leaf.hostRecord l 0x03 r.unit r.operation (r.checkpoint.setWidth 24))
  | _ => Leaf.raiseRec (Leaf.countCap l 7) (Leaf.hostRecord l 0x04 r.unit r.operation (r.verdict.setWidth 24))

/-- A submitted error report (R189); none where it is refused. -/
def Leaf.errReport (l : Leaf) (v : DWord) : Option Leaf :=
  let unit : Half := v.setWidth 16
  let sev := bits v.toNat 57 56
  if unit = 0 ∨ 0xFF00 ≤ unit.toNat ∨ 2 ≤ sev ∨ 448 < l.health.store.length then none
  else some (Leaf.raiseError l (Leaf.hostRecord l (if sev = 0 then 0x01 else 0x02) unit (BitVec.ofNat 16 (bits v.toNat 31 16)) (BitVec.ofNat 24 (bits v.toNat 55 32))))

/-- HEALTH_STORE_ADMIT: the store takes records held by internal sources, in the order raised (R188). -/
def Leaf.admitHeld (l : Leaf) : Leaf :=
  let n := 512 - l.health.store.length
  { l with health := { l.health with store := l.health.store ++ l.health.held.take n, held := l.health.held.drop n } }

/-! ### Check-value engines -/

/-- The initial running value (R408). -/
def cvInit (poly : BitVec 2) : DWord :=
  if poly = 2 then 0xFFFFFFFFFFFFFFFF else if poly = 3 then 0xFFFF else 0xFFFFFFFF

/-- Feed one byte (R408). -/
def cvByte (poly : BitVec 2) (run : DWord) (b : Byte) : DWord :=
  match poly.toNat with
  | 0 => (crcByte 0xEDB88320#32 (run.setWidth 32) b).setWidth 64
  | 1 => (crcByte 0x82F63B78#32 (run.setWidth 32) b).setWidth 64
  | 2 => crcByte 0xC96C5795D7870F42#64 run b
  | _ => (crc16Byte (run.setWidth 16) b).setWidth 64

/-- The result: the running value XOR the final XOR (R408). -/
def cvResult (poly : BitVec 2) (run : DWord) : DWord := if poly = 3 then run else run ^^^ cvInit poly

/-- CV_START (R410). -/
def CvEngine.start (e : CvEngine) : CvEngine :=
  { e with run := cvInit e.poly, alive := e.alive + 1, readOnce := false, reread := false, open' := true }

/-- CV_FEED; none without an open context (R409). -/
def CvEngine.feed (e : CvEngine) (bs : List Byte) : Option CvEngine := if e.open' then some { e with run := bs.foldl (cvByte e.poly) e.run } else none

/-- What LF_CV_RES or LF_CV_VAL shows for a value (table "Check-value registers"). -/
def CvEngine.shown (e : CvEngine) (v : DWord) : DWord :=
  if e.poly = 2 then v else (v &&& 0xFFFFFFFF) ||| (e.alive.setWidth 64 <<< 32)

/-- A read of LF_CV_RES: every read after the first sets reread (R410). -/
def CvEngine.readResult (e : CvEngine) : CvEngine × DWord :=
  ({ e with readOnce := true, reread := e.reread || e.readOnce }, CvEngine.shown e (cvResult e.poly e.run))

/-- A write of LF_CV_VAL opens the context with both values as written (R410). -/
def CvEngine.restore (e : CvEngine) (v : DWord) : CvEngine :=
  if e.poly = 2 then { e with run := v, readOnce := false, reread := false, open' := true }
  else { e with run := if e.poly = 3 then v &&& 0xFFFF else v &&& 0xFFFFFFFF, alive := (v >>> 32).setWidth 8, readOnce := false, reread := false, open' := true }

/-- A write of LF_CV_CTL closes an open context. -/
def CvEngine.writeCtl (e : CvEngine) (v : Word) : CvEngine := { e with poly := v.setWidth 2, open' := false }

/-- LF_CV_ALIVE. -/
def CvEngine.aliveWord (e : CvEngine) : Word := w32 (e.alive.toNat + 256 * b2n e.reread + 512 * b2n e.open')

/-- A write of LF_CV_ALIVE; none without an open context. -/
def CvEngine.writeAlive (e : CvEngine) (v : Word) : Option CvEngine := if e.open' then some { e with alive := v.setWidth 8 } else none

end Sys2Proof.Machine
end

