-- ==== Sys2Proof/Machine/Operands.lean ====
section
/-! DEFINITION. Descriptor operands (R378, R382) and the checks of R379 that a descriptor's own bytes decide. -/

namespace Sys2Proof.Machine

def Job.byte (j : Job) (o : Nat) : Nat := field j.desc o 1
def Job.u16 (j : Job) (o : Nat) : Nat := field j.desc o 2
def Job.u32 (j : Job) (o : Nat) : Nat := field j.desc o 4
def Job.u64 (j : Job) (o : Nat) : Nat := field j.desc o 8
/-- The opcode (R378). -/
def Job.op (j : Job) : Nat := field j.desc 0 2
def Job.fence (j : Job) : Bool := bit (Job.byte j 2) 0
def Job.gather (j : Job) : Bool := bit (Job.byte j 2) 1
def Job.quiet (j : Job) : Bool := bit (Job.byte j 2) 2
def Job.tag (j : Job) : Nat := Job.u32 j 4
def Job.inAddr (j : Job) : Nat := Job.u64 j 8
def Job.inLen (j : Job) : Nat := Job.u32 j 16
def Job.inSize (j : Job) : Nat := Job.u32 j 20
def Job.outAddr (j : Job) : Nat := Job.u64 j 24
def Job.outSize (j : Job) : Nat := Job.u32 j 32
/-- The DID field (R378). -/
def Job.did (j : Job) : Did := BitVec.ofNat 24 (field j.desc 36 3)

/-- The input of a job has the length that its descriptor gives; a gathered input's length is that of its list (R380). -/
def Job.inputOk (j : Job) (d : HostData) : Bool := Job.gather j || decide (d.bytes.length = Job.inLen j)

/-- Operand bytes 40 to 63 that an opcode defines; every other one is reserved (R382). -/
def operandBytes (op : Nat) : List Nat :=
  match op with
  | 0x02 => [40, 41, 42, 43]
  | 0x03 => [40, 41, 42]
  | 0x04 => [40, 41, 42, 43, 44, 45, 46, 47, 48, 49, 50, 51, 52, 53, 54, 55, 56, 57, 58, 59, 60, 61, 62, 63]
  | 0x05 => [40]
  | 0x06 => [40, 41, 42, 44, 45, 46, 47, 48]
  | 0x07 => [40, 41, 42, 44]
  | 0x08 => [40, 41, 42, 43, 44, 45, 46, 47, 48, 49]
  | 0x09 => [40, 41, 42, 43]
  | 0x0A => [40, 41, 42]
  | 0x0B => [40, 41, 42, 43, 44, 48, 49, 50, 51, 52, 53, 54, 55]
  | 0x0C => [40, 42, 43, 44, 45, 46, 47, 48, 49]
  | 0x0D => [40]
  | 0x0E => [40, 41, 42, 43, 44, 45]
  | 0x0F => [40]
  | 0x10 => [40, 41, 42, 43, 44, 45, 46, 47, 48]
  | 0x11 => [40, 41, 42, 43]
  | 0x12 => [40, 41, 42]
  | 0x13 => [40, 41]
  | 0x14 => [40]
  | 0x15 => [40, 41, 42, 43, 44, 45, 46, 47, 48, 49, 50, 51, 52, 53, 54, 55, 56, 57, 58, 59, 60]
  | 0x16 => [40, 41, 42, 43, 44, 45, 46, 47]
  | 0x17 => [40, 44, 45, 46, 47]
  | _ => []

/-- Reserved bits inside the operand bytes that an opcode defines are zero. -/
def Job.operandBitsOk (j : Job) : Bool :=
  match Job.op j with
  | 0x03 => decide (Job.byte j 42 ≤ 4)
  | 0x06 => decide (Job.byte j 42 < 16) && decide (Job.byte j 44 ≤ 2) && decide (Job.byte j 48 < 16)
  | 0x07 => decide (Job.byte j 42 < 16) && decide (Job.byte j 44 < 2)
  | 0x08 => decide (Job.byte j 41 ≤ 1) && decide (Job.byte j 48 < 2) && decide (Job.byte j 49 < 64)
  | 0x09 => decide (Job.byte j 43 ≤ 1)
  | 0x10 => decide (Job.byte j 48 < 4)
  | 0x15 => decide (Job.byte j 60 < 2)
  | _ => true

/-- Every reserved field of the descriptor is zero, and a DID stands only where the opcode names one (R378, R382). -/
def Job.reservedOk (j : Job) : Bool :=
  decide (Job.byte j 2 < 8) && decide (Job.byte j 3 = 0) && decide (Job.byte j 39 = 0)
    && ((List.range 24).all fun i => (operandBytes (Job.op j)).contains (40 + i) || decide (Job.byte j (40 + i) = 0))
    && Job.operandBitsOk j
    && (decide (Job.did j = 0) || [0x01, 0x02, 0x03, 0x04, 0x05, 0x06, 0x10, 0x11, 0x12].contains (Job.op j))
    && (decide (Job.did j ≠ didAll) || decide (Job.op j = 0x04))

/-- Whether the opcode may carry an input, and whether it may be empty (R382, check 4 of R379). -/
def Job.inLenOk (j : Job) : Bool :=
  let n := Job.inLen j
  match Job.op j with
  | 0x01 | 0x0A | 0x0D | 0x0E | 0x0F | 0x14 => decide (n ≠ 0)
  | 0x03 => decide (n ≠ 0) || [1, 3, 4].contains (Job.byte j 42)
  | 0x06 => if Job.byte j 44 = 2 then decide (n = 64) else decide (n = 0)
  | 0x09 => if Job.byte j 43 = 0 then decide (n ≠ 0) else decide (n = 0)
  | 0x0B => true
  | 0x12 => if Job.byte j 42 = 0 then decide (n = 112) else decide (n = 0)
  | 0x15 => if Job.byte j 40 = 2 then decide (34 ≤ n) && decide (n ≤ 1024) else decide (n = 0)
  | _ => decide (n = 0)

/-- The output length where it is known before the job runs (check 5 of R379). -/
def Job.outLen (j : Job) : Nat :=
  match Job.op j with
  | 0x02 => Job.u16 j 42
  | 0x07 | 0x0D => 64
  | 0x0A => if Job.gather j then 0 else 16 * (Job.inLen j / 272)
  | 0x11 => 272 * Job.u16 j 42
  | _ => 0

/-- Opcodes that the physical function alone may issue (R382). -/
def pfOnly (op : Nat) : Bool := [0x01, 0x03, 0x04, 0x05, 0x12, 0x13, 0x14, 0x15].contains op

/-- Opcodes that accept gather (R380). -/
def gatherOk (op : Nat) : Bool := [0x09, 0x0A, 0x0B, 0x0D, 0x0E, 0x0F].contains op

/-- The partition that an opcode names, or none. -/
def Job.partNamed (j : Job) : Option Nat :=
  match Job.op j with
  | 0x09 => some (Job.byte j 42)
  | 0x0B => some (Job.byte j 44)
  | 0x0C | 0x0D | 0x14 => some (Job.byte j 40)
  | _ => none

/-- The DID that the opcode's DID field names, or none: STREAM_DEFINE op 1 ignores it. -/
def Job.didNamed (j : Job) : Option Did :=
  match Job.op j with
  | 0x02 | 0x10 | 0x11 => some (Job.did j)
  | 0x06 => if Job.byte j 44 = 1 then none else some (Job.did j)
  | _ => none

/-- Checks 1 to 5 of R379, with those of the gather list of R380: the status of the first that fails. -/
def Job.formStatus (j : Job) : Option Nat :=
  if 0x18 ≤ Job.op j ∨ Job.reservedOk j = false ∨ Job.inAddr j % 8 ≠ 0 ∨ Job.outAddr j % 64 ≠ 0 then some 3
  else if 16777216 < Job.inLen j ∨ 16777216 < Job.inSize j ∨ 16777216 < Job.outSize j then some 3
  else if Job.inSize j < Job.inLen j then some 5
  else if Job.inLenOk j = false then some 3
  else if Job.gather j = true ∧ (gatherOk (Job.op j) = false ∨ Job.inLen j = 0 ∨ Job.inLen j % 16 ≠ 0 ∨ 4096 < Job.inLen j) then some 3
  else if Job.outSize j < Job.outLen j then some 5
  else none

/-- The first partition range that a named partition breaks: 0 to 15, or 0xFF for a policy (R382). -/
def Job.partRangeOk (j : Job) : Bool :=
  match Job.partNamed j with
  | some p => decide (p ≤ 15) || (decide (Job.op j = 0x0C) && decide (p = 0xFF))
  | none => true

end Sys2Proof.Machine
end

