-- ==== Sys2Proof/Machine/Link.lean ====
section
/-! DEFINITION. The link layer of a port of either part: lanes (R129, R130, R364), sequence numbers, ACK and NAK (R132, R133), retraining
(R134), credits (R135), alive counts (R139) and the scheduler (R165 to R167). Each operation gives the port after it and what the port puts
out, in order. -/

namespace Sys2Proof.Machine

/-- A port after an operation, and what it put out, oldest first. -/
abbrev LinkRes := LinkPort × List Out

/-- Credits that a payload of `n` bytes takes: 64-byte units of the whole frame (R135). -/
def credits (n : Nat) : Nat := (n + 20 + 63) / 64

/-- The port carries frames. -/
def LinkPort.up (q : LinkPort) : Bool := decide (q.link = 2)

/-! ### Lanes -/

/-- The spare transmit lane can take traffic (R130, R364). -/
def LinkPort.spareUsable (q : LinkPort) : Bool := !q.retired.contains q.txSpare && q.recal.isNone

/-- The lowest active transmit lane. -/
def LinkPort.activeLane (q : LinkPort) : Nat :=
  ((List.range q.lanes).find? fun i => decide (i ≠ q.txSpare) && !q.retired.contains i).getD 0

/-- Start moving traffic from a lane to the spare (R129). -/
def LinkPort.startMove (q : LinkPort) (lane : Nat) (recal : Bool) : LinkPort :=
  if q.move.isSome || !LinkPort.spareUsable q then q
  else { q with move := some { source := lane, target := q.txSpare, recal := recal } }

/-- LANE_RECAL of a lane (R130): the spare recalibrates without moving traffic; without a usable spare the direction halts. -/
def LinkPort.recalibrate (q : LinkPort) (lane : Nat) : LinkPort :=
  if lane = q.txSpare then { q with recal := some lane }
  else if LinkPort.spareUsable q then LinkPort.startMove q lane true
  else { q with recal := some lane, halted := true }

/-- LANE_RECAL_COMPLETE (R129, R130). -/
def LinkPort.recalDone (q : LinkPort) : LinkPort := if q.recal.isSome then { q with recal := none, halted := false } else q

/-- A lane that traffic left 4 times within 1 s is retired (R364). -/
def LinkPort.noteMove (q : LinkPort) (lane now : Nat) : LinkPort :=
  let ts := ((lane, now) :: q.moveTimes).filter fun e => decide (now < e.2 + 1000000000)
  let n := (ts.filter fun e => decide (e.1 = lane)).length
  { q with moveTimes := ts, retired := if 4 ≤ n ∧ !q.retired.contains lane then q.retired ++ [lane] else q.retired }

/-- LANE_READY at the transmitter (R129): LANE_SWAP goes out, traffic moves, and the old lane becomes the spare. The Bool says that the
active lane changed. -/
def LinkPort.laneReady (p : PortId) (q : LinkPort) (lane now : Nat) : LinkRes × Bool :=
  match q.move with
  | some m =>
    if m.target = lane then
      let q := { q with move := none, txSpare := m.source, recal := if m.recal then some m.source else q.recal }
      ((if m.recal then q else LinkPort.noteMove q m.source now, [.ctl p (.laneSwap lane)]), true)
    else ((q, []), false)
  | none => ((q, []), false)

/-- SPARE_LANE_ALIGNED at the receiver: LANE_READY goes back (R129). -/
def LinkPort.laneAligned (p : PortId) (q : LinkPort) : LinkRes := if LinkPort.up q then (q, [.ctl p (.laneReady q.rxSpare)]) else (q, [])

/-- LANE_SWAP at the receiver: codewords come from the lane named (R129). -/
def LinkPort.laneSwap (q : LinkPort) (lane : Nat) : LinkPort :=
  if lane = q.rxSpare then
    { q with rxSpare := ((List.range q.lanes).find? fun i => decide (i ≠ lane)).getD 0 }
  else q

/-- A lane failed to train; twice in succession retires it (R364). -/
def LinkPort.trainFailed (q : LinkPort) (lane : Nat) : LinkPort :=
  let n := Cells.get 0 q.trainFails lane + 1
  { q with trainFails := Cells.set 0 q.trainFails lane n, retired := if 2 ≤ n ∧ !q.retired.contains lane then q.retired ++ [lane] else q.retired }

/-- A lane trained. A port of two lanes takes it as its active lane; the lane that it leaves has failed to train. -/
def LinkPort.trained (q : LinkPort) (lane : Nat) : LinkPort × Bool :=
  let q := { q with trainFails := Cells.set 0 q.trainFails lane 0 }
  if q.lanes = 2 ∧ lane = q.txSpare then
    let old := LinkPort.activeLane q
    (LinkPort.trainFailed { q with txSpare := old, rxSpare := old } old, true)
  else (q, false)

/-! ### Sequence numbers, ACK and NAK -/

/-- Send an ACK of everything received (R132). -/
def LinkPort.sendAck (p : PortId) (q : LinkPort) (now : Nat) : LinkRes :=
  ({ q with sinceAck := 0, lastAck := now }, [.ctl p (.ack (q.rxSeq - 1))])

/-- ACK_TIMER: at least every 1 µs (R132). -/
def LinkPort.ackTimer (p : PortId) (q : LinkPort) (now : Nat) : LinkRes :=
  if LinkPort.up q && decide (q.lastAck + 1000 ≤ now) then LinkPort.sendAck p q now else (q, [])

/-- The link layer accepts the frame whose sequence it expects (R132); an ACK goes out after every 16 frames. None: not accepted. -/
def LinkPort.acceptSeq (p : PortId) (q : LinkPort) (h : Hdr) (now : Nat) : Option LinkRes :=
  if LinkPort.up q && decide (h.linkSeq = q.rxSeq) then
    let q := { q with rxSeq := q.rxSeq + 1, nakSent := false, sinceAck := q.sinceAck + 1, seen := true }
    some (if 16 ≤ q.sinceAck then LinkPort.sendAck p q now else (q, []))
  else none

/-- Release the frames of the replay buffer up to and including a sequence (R132); progress ends a retrain (R134). -/
def LinkPort.release (q : LinkPort) (seq : BitVec 12) (now : Nat) : LinkPort :=
  match q.replay.findIdx? fun f => decide (f.hdr.linkSeq = seq) with
  | some i => { q with replay := q.replay.drop (i + 1), fruitless := 0, lastProgress := now, retrain := if q.resumed then none else q.retrain, resumed := false }
  | none => q

/-- ACK (R132). -/
def LinkPort.onAck (q : LinkPort) (seq : BitVec 12) (now : Nat) : LinkPort := if LinkPort.up q then LinkPort.release q seq now else q

/-- A retrain starts; the port is down 10 ms after the first start without success (R134). -/
def LinkPort.startRetrain (q : LinkPort) (now : Nat) : LinkPort :=
  { q with link := 1, retrain := some (q.retrain.getD now), fruitless := 0, move := none,
           failedAt := if q.retrain.isSome then q.failedAt else now }

/-- Resend every unacknowledged frame from the oldest, or retrain in place of the fifth fruitless replay (R133, R134). -/
def LinkPort.replayAll (p : PortId) (q : LinkPort) (now : Nat) : LinkRes :=
  if q.replay.isEmpty then (q, [])
  else if 4 ≤ q.fruitless then (LinkPort.startRetrain q now, [])
  else ({ q with fruitless := q.fruitless + 1, lastProgress := now, replays := satAdd32 q.replays 1 }, q.replay.map fun f => .tx p true f)

/-- NAK (R133). -/
def LinkPort.onNak (p : PortId) (q : LinkPort) (now : Nat) : LinkRes := if LinkPort.up q then LinkPort.replayAll p q now else (q, [])

/-- REPLAY_TIMEOUT: 4 µs without ACK progress while frames are outstanding (R133). -/
def LinkPort.replayTimeout (p : PortId) (q : LinkPort) (now : Nat) : LinkRes :=
  if LinkPort.up q && decide (q.lastProgress + 4000 ≤ now) then LinkPort.replayAll p q now else (q, [])

/-- DAMAGED_FRAME: one NAK until the expected sequence arrives (R133). -/
def LinkPort.damaged (p : PortId) (q : LinkPort) (crcBad : Bool) : LinkRes :=
  if !LinkPort.up q then (q, [])
  else
    let q := if crcBad then { q with badCrc := satAdd32 q.badCrc 1 } else { q with uncorr := q.uncorr + 1 }
    if q.nakSent then (q, []) else ({ q with nakSent := true }, [.ctl p (.nak q.rxSeq)])

/-- CODEWORD_LOSS: 20 µs without a codeword (R134). -/
def LinkPort.codewordLoss (q : LinkPort) (now : Nat) : LinkPort :=
  if LinkPort.up q then { LinkPort.startRetrain q now with failedAt := if q.retrain.isSome then q.failedAt else now - 20000 } else q

/-- The receive buffer's free space of a class while `held` credits of it wait for another port. -/
def LinkPort.freeSpace (q : LinkPort) (held : Quad Nat) (c : Nat) : Nat := Quad.get q.bufs c - Quad.get held c

/-- RETRAIN_COMPLETE: a lane trained, and the port sends RESUME with its free space (R134). The Bool says that the active lane changed. -/
def LinkPort.retrained (p : PortId) (q : LinkPort) (held : Quad Nat) (lane : Nat) : LinkRes × Bool :=
  if q.link = 1 ∧ q.retrain.isSome then
    let (q, moved) := LinkPort.trained q lane
    let fs := (List.range 4).map fun c => LinkPort.freeSpace q held c
    let cr : Quad Half := ⟨BitVec.ofNat 16 (fs.getD 0 0), BitVec.ofNat 16 (fs.getD 1 0), BitVec.ofNat 16 (fs.getD 2 0), BitVec.ofNat 16 (fs.getD 3 0)⟩
    (({ q with link := 2, resumed := true, nakSent := false, credRx := cr, credSent := cr },
      [.ctl p (.resume q.rxSeq (fs.map fun n => BitVec.ofNat 8 n))]), moved)
  else ((q, []), false)

/-- Credits used by a list of frames, per class. -/
def usedBy (fs : List Frame) : Quad Half :=
  fs.foldl (fun u f => Quad.set u f.hdr.cls.toNat (Quad.get u f.hdr.cls.toNat + BitVec.ofNat 16 (credits f.hdr.length.toNat))) (Quad.all 0)

/-- RESUME: replay from the sequence named, with the credits named (R134). With nothing left to resume the retrain has succeeded (log
entry 16). -/
def LinkPort.onResume (p : PortId) (q : LinkPort) (seq : BitVec 12) (free : List Byte) (now : Nat) : LinkRes :=
  if q.retrain.isNone then (q, [])
  else
    let rest := match q.replay.findIdx? fun f => decide (f.hdr.linkSeq = seq) with
      | some i => q.replay.drop i
      | none => if q.txSeq = seq then [] else q.replay
    let f c : Half := (free.getD c 0).setWidth 16
    let q := { q with replay := rest, credTx := ⟨f 0, f 1, f 2, f 3⟩, credUsed := usedBy rest, lastProgress := now, link := 2, resumed := !rest.isEmpty,
                      retrain := if rest.isEmpty then none else q.retrain }
    (q, rest.map fun f => .tx p true f)

/-- The port goes down: its replay and transmit buffers are discarded and counted (R134). -/
def LinkPort.goDown (q : LinkPort) (now : Nat) : LinkPort :=
  let n := q.replay.length + q.own.c0.length + q.own.c1.length + q.own.c2.length + q.own.c3.length
  { q with link := 0, replay := [], own := Quad.all [], downDiscards := satAdd32 q.downDiscards n, retrain := none, resumed := false, downAt := now,
           halted := false, recal := none, move := none, nakSent := false, fruitless := 0 }

/-- The retrain has not succeeded within 10 ms (R134). -/
def LinkPort.downDue (q : LinkPort) (now : Nat) : Bool :=
  match q.retrain with
  | some t => decide (t + 10000000 ≤ now)
  | none => false

/-- A link that comes up from down starts its sequences and credits afresh. -/
def LinkPort.bringUp (q : LinkPort) (held : Quad Nat) (now : Nat) : LinkPort :=
  let f c : Half := BitVec.ofNat 16 (LinkPort.freeSpace q held c)
  { q with link := 2, txSeq := 0, rxSeq := 0, replay := [], fruitless := 0, lastProgress := now, nakSent := false, sinceAck := 0, retrain := none,
           resumed := false, credTx := Quad.all 0, credUsed := Quad.all 0, credRx := ⟨f 0, f 1, f 2, f 3⟩, credSent := Quad.all 0,
           heldCredits := Quad.all 0 }

/-- The port may train now: it is down or in its first training. -/
def LinkPort.mayTrain (q : LinkPort) : Bool := decide (q.link = 0) || (decide (q.link = 1) && q.retrain.isNone)

/-- TRAINING_RETRY falls due 100 ms after the port went down or last tried (R134). -/
def LinkPort.retryDue (q : LinkPort) (now : Nat) : Bool := decide (q.link = 0) && decide (q.downAt + 100000000 ≤ now)

/-! ### Credits -/

/-- Credits of a class are withheld (R400, R425). -/
def LinkPort.withholds (q : LinkPort) (c : Nat) : Bool := (q.withheld && decide (c ≠ 0)) || (q.withheld3 && decide (c = 3))

/-- Grant the credits of a frame that left the receive buffer, unless they are withheld (R135, R400, R425). -/
def LinkPort.grant (q : LinkPort) (c n : Nat) : LinkPort :=
  if LinkPort.withholds q c then { q with heldCredits := Quad.set q.heldCredits c (Quad.get q.heldCredits c + BitVec.ofNat 16 n) }
  else { q with credRx := Quad.set q.credRx c (Quad.get q.credRx c + BitVec.ofNat 16 n) }

/-- Grant what was held of every class that is no longer withheld (R400, R425). -/
def LinkPort.ungrip (q : LinkPort) : LinkPort :=
  let g c := if LinkPort.withholds q c then Quad.get q.credRx c else Quad.get q.credRx c + Quad.get q.heldCredits c
  let k c := if LinkPort.withholds q c then Quad.get q.heldCredits c else 0
  { q with credRx := ⟨g 0, g 1, g 2, g 3⟩, heldCredits := ⟨k 0, k 1, k 2, k 3⟩ }

/-- CREDIT (R135): the cumulative count, and the lane error counts by which the transmitter decides on a lane move (R129). -/
def LinkPort.onCredit (q : LinkPort) (c : Nat) (count : Half) (uncorrectable corrected : Nat) : LinkPort :=
  if !LinkPort.up q then q
  else
    let q := { q with credTx := Quad.set q.credTx c count }
    if 4 < uncorrectable ∨ q.laneCtl.toNat < corrected then LinkPort.startMove q (LinkPort.activeLane q) false else q

/-- CREDIT_ADVERTISE: while the count changes (R135). -/
def LinkPort.advertise (p : PortId) (q : LinkPort) (c : Nat) : LinkRes :=
  if LinkPort.up q && decide (Quad.get q.credRx c ≠ Quad.get q.credSent c) then
    ({ q with credSent := Quad.set q.credSent c (Quad.get q.credRx c), uncorr := 0 },
     [.ctl p (.credit (BitVec.ofNat 2 c) (Quad.get q.credRx c) q.uncorr 0)])
  else (q, [])

/-- The transmitter holds the credits of a frame (R135). -/
def LinkPort.hasCredit (q : LinkPort) (f : Frame) : Bool :=
  let c := f.hdr.cls.toNat
  decide (credits f.hdr.length.toNat ≤ (Quad.get q.credTx c - Quad.get q.credUsed c).toNat)

/-! ### Alive counts -/

/-- The check of R139: the port after it, and whether the frame is accepted. -/
def LinkPort.checkAlive (q : LinkPort) (h : Hdr) : LinkPort × Bool :=
  let key := 4 * h.src.toNat + h.cls.toNat
  let next := fun (q : LinkPort) => { q with aliveRx := Cells.set none q.aliveRx key (some (h.alive + 1)) }
  match Cells.get none q.aliveRx key with
  | none => (next q, true)
  | some e =>
    if h.flags.getLsbD 2 then (next q, true)
    else
      let d := (h.alive - e).toNat
      if d < 128 then
        (next { q with aliveGap := satAdd32 q.aliveGap d, gapSrc := Cells.set 0 q.gapSrc key (satAdd32 (Cells.get 0 q.gapSrc key) d) }, true)
      else ({ q with stale := satAdd32 q.stale 1 }, false)

/-- An own frame takes its alive count; the first one after reset carries the resync flag (R139). -/
def LinkPort.stampAlive (q : LinkPort) (f : Frame) : LinkPort × Frame :=
  let key := 4 * f.hdr.dst.toNat + f.hdr.cls.toNat
  let a := Cells.get 0 q.aliveTx key
  let first := !q.aliveSent.contains key
  ({ q with aliveTx := Cells.set 0 q.aliveTx key (a + 1), aliveSent := if first then q.aliveSent ++ [key] else q.aliveSent },
   { f with hdr := { f.hdr with alive := a, flags := if first then f.hdr.flags ||| 4 else f.hdr.flags } })

/-! ### The scheduler -/

/-- Counted length of a frame (R165). -/
def LinkPort.counted (q : LinkPort) (f : Frame) : Nat := 16 + f.hdr.length.toNat + 4 + bits q.shpCtl.toNat 7 0

/-- The head of a class: a frame in transit before the part's own (R166). The Bool says that it is the part's own. -/
def LinkPort.head (q : LinkPort) (c : Nat) : Option (Frame × Bool) :=
  match Quad.get q.transit c, Quad.get q.own c with
  | f :: _, _ => some (f, false)
  | [], f :: _ => some (f, true)
  | [], [] => none

/-- The shaper of a class lets an own frame start (R166; rate 0 originates nothing and 0xFFFF is unshaped). -/
def LinkPort.shaperOpen (q : LinkPort) (c : Nat) : Bool :=
  let rate := bits (Quad.get q.shp c).toNat 15 0
  decide (rate = 0xFFFF) || (decide (rate ≠ 0) && decide (0 < Quad.get q.tokens c))

/-- eligible(c) of R166. -/
def LinkPort.eligible (q : LinkPort) (c : Nat) : Bool :=
  match LinkPort.head q c with
  | some (f, own) => LinkPort.hasCredit q f && (!own || LinkPort.shaperOpen q c)
  | none => false

/-- The quantum of a class, bytes. -/
def LinkPort.quantum (q : LinkPort) (c : Nat) : Nat := 64 * bits q.drr.toNat (8 * c - 1) (8 * c - 8)

/-- Quanta written take effect at the first round that starts after a refill (R167). -/
def LinkPort.newRound (q : LinkPort) : LinkPort :=
  if q.drrArmed then { q with rrClass := 1, rrAdded := false, drr := q.drrNext, drrArmed := false } else { q with rrClass := 1, rrAdded := false }

/-- Go on to the next class of the round, or to the next round (R166). -/
def LinkPort.nextClass (q : LinkPort) : LinkPort := if q.rrClass = 3 then LinkPort.newRound q else { q with rrClass := q.rrClass + 1, rrAdded := false }

/-- The deficit of the current class becomes 0 when its queue is empty (R166). -/
def LinkPort.endTurn (q : LinkPort) : LinkPort :=
  if q.rrAdded && (LinkPort.head q q.rrClass).isNone then { q with deficit := Quad.set q.deficit q.rrClass 0 } else q

/-- The rounds of R166 until a class may send; the fuel bounds the rounds that a large frame needs with a small quantum. -/
def LinkPort.rounds : Nat → LinkPort → LinkPort × Option Nat
  | 0, q => (q, none)
  | n + 1, q =>
    let c := q.rrClass
    match LinkPort.head q c with
    | some (f, _) =>
      if LinkPort.eligible q c then
        if q.rrAdded then
          if LinkPort.counted q f ≤ Quad.get q.deficit c then (q, some c) else LinkPort.rounds n (LinkPort.nextClass q)
        else LinkPort.rounds n { q with deficit := Quad.set q.deficit c (Quad.get q.deficit c + LinkPort.quantum q c), rrAdded := true }
      else LinkPort.rounds n (LinkPort.nextClass q)
    | none => LinkPort.rounds n (LinkPort.nextClass (LinkPort.endTurn q))

/-- The class that sends at this frame boundary (R166). -/
def LinkPort.choose (q : LinkPort) : LinkPort × Option Nat :=
  if LinkPort.eligible q 0 then (q, some 0)
  else if LinkPort.eligible q 1 || LinkPort.eligible q 2 || LinkPort.eligible q 3 then LinkPort.rounds 400 q
  else (LinkPort.newRound (LinkPort.endTurn q), none)

/-- Bytes that frames hold in the replay buffer. -/
def frameBytes (fs : List Frame) : Nat := (fs.map fun f => f.hdr.length.toNat + 20).sum

/-- The replay buffer takes one more frame (R132). -/
def LinkPort.replayRoom (q : LinkPort) (f : Frame) : Bool :=
  decide (q.replay.length < 2047) && decide (frameBytes q.replay + f.hdr.length.toNat + 20 ≤ 65536)

/-- Put the head of a class on the wire: `fill` gives an own frame its epoch. The frame taken is returned with whether it was in transit. -/
def LinkPort.sendHead (p : PortId) (q : LinkPort) (c : Nat) (now : Nat) (fill : Hdr → Hdr) : LinkRes × Option (Frame × Bool) :=
  match LinkPort.head q c with
  | none => ((q, []), none)
  | some (f, own) =>
    if !LinkPort.replayRoom q f then ((q, []), none)
    else
      let len := LinkPort.counted q f
      let (q, f) := if own then LinkPort.stampAlive q { f with hdr := fill f.hdr } else (q, f)
      let f := { f with hdr := { f.hdr with linkSeq := q.txSeq } }
      let q := if own then { q with own := Quad.set q.own c ((Quad.get q.own c).drop 1), tokens := Quad.set q.tokens c (Quad.get q.tokens c - len) }
        else { q with transit := Quad.set q.transit c ((Quad.get q.transit c).drop 1) }
      let q := if c = 0 then q else { q with deficit := Quad.set q.deficit c (Quad.get q.deficit c - len) }
      let q := { q with txSeq := q.txSeq + 1, lastProgress := if q.replay.isEmpty then now else q.lastProgress, replay := q.replay ++ [f],
                        credUsed := Quad.set q.credUsed c (Quad.get q.credUsed c + BitVec.ofNat 16 (credits f.hdr.length.toNat)) }
      ((LinkPort.endTurn q, [.tx p false f]), some (f, !own))

/-- FRAME_BOUNDARY_SCHEDULE (R166): nothing is sent while the link is down or training, or while the direction is halted (R130). -/
def LinkPort.schedule (p : PortId) (q : LinkPort) (now : Nat) (fill : Hdr → Hdr) : LinkRes × Option (Frame × Bool) :=
  if !LinkPort.up q || q.halted then ((q, []), none)
  else match LinkPort.choose q with
    | (q, some c) => LinkPort.sendHead p q c now fill
    | (q, none) => ((q, []), none)

/-- The refill of one class with its new settings (R166, R167). -/
def LinkPort.refillClass (q : LinkPort) (c : Nat) : LinkPort :=
  let w := Quad.get q.shpNext c
  let t : Int := Quad.get q.tokens c + (bits w.toNat 15 0 : Int)
  { q with shp := Quad.set q.shp c w, tokens := Quad.set q.tokens c (min t (bits w.toNat 31 16 : Int)) }

/-- SHAPER_REFILL (R166, R167). -/
def LinkPort.refill (q : LinkPort) (now : Nat) : LinkPort :=
  if q.lastRefill + bits q.shpCtl.toNat 11 8 ≤ now / 250 then
    let q := LinkPort.refillClass (LinkPort.refillClass (LinkPort.refillClass (LinkPort.refillClass q 0) 1) 2) 3
    { q with shpCtl := q.shpCtlNext, drrArmed := q.drrArmed || decide (q.drrNext ≠ q.drr), lastRefill := now / 250 }
  else q

/-- The zeroing of classes 1 to 3 at a GRANTED, at once (R351). -/
def LinkPort.zeroRates (q : LinkPort) : LinkPort :=
  let z (w : Word) : Word := w &&& 0xFFFF0000
  { q with shp := ⟨q.shp.c0, z q.shp.c1, z q.shp.c2, z q.shp.c3⟩, shpNext := ⟨q.shpNext.c0, z q.shpNext.c1, z q.shpNext.c2, z q.shpNext.c3⟩,
           tokens := ⟨q.tokens.c0, 0, 0, 0⟩ }

/-- A write of a shaper register (LF_RING_SHP): a depth below 2,400 is refused. -/
def LinkPort.writeShp (q : LinkPort) (c : Nat) (v : Word) : Option LinkPort :=
  if bits v.toNat 31 16 < 2400 then none else some { q with shpNext := Quad.set q.shpNext c v }

/-- A write of the shaper control: refill 0 is refused. -/
def LinkPort.writeShpCtl (q : LinkPort) (v : Word) : Option LinkPort :=
  if bits v.toNat 11 8 = 0 then none else some { q with shpCtlNext := v &&& 0xFFF }

/-- A write of the quanta: a quantum of 0 is refused. -/
def LinkPort.writeDrr (q : LinkPort) (v : Word) : Option LinkPort :=
  if bits v.toNat 7 0 = 0 ∨ bits v.toNat 15 8 = 0 ∨ bits v.toNat 23 16 = 0 then none else some { q with drrNext := v &&& 0xFFFFFF, drrArmed := false }

end Sys2Proof.Machine
end

