-- ==== Sys2Proof/Machine/Regs.lean ====
section
/-! DEFINITION. The leaf's register window (R72, R73, R433 to R439): what each word reads as, what a write of each word does, the set-up lock
with its shadow bank and checks (R70, R190, R394, R395), and the latches and held words of each requester. -/

namespace Sys2Proof.Machine

/-! ### Reading -/

/-- 32 bits of a byte list at a word index. -/
def wordAt (bs : List Byte) (i : Nat) : Word := w32 (field bs (4 * i) 4)

/-- The low or high word of a 64-bit value by the offset's bit 2. -/
def half64 (v : DWord) (off : Nat) : Word := if off % 8 = 0 then v.setWidth 32 else (v >>> 32).setWidth 32

/-- TIME_STAT (R440). -/
def timeStatWord (t : TimeDom) (tq : BitVec 4) (hops : Nat) : Word :=
  w32 (tq.toNat + 16 * b2n t.valid + 32 * b2n t.holdover.isSome + 4096 * (hops % 16) + 65536 * (TimeDom.frac16 t).toNat)

/-- LF_LINK_STAT of one port. -/
def LinkPort.statByte (q : LinkPort) : Nat :=
  q.link.toNat % 4 + 4 * (LinkPort.activeLane q % 2) + 8 * ((1 - q.rxSpare) % 2) + 16 * b2n (q.retired.contains q.txSpare)

/-- LF_LEASE_STAT. -/
def Leaf.leaseStat (l : Leaf) : Word :=
  w32 (l.ring.lease.holder.toNat + 256 * l.ring.lease.epoch.toNat + 16777216 * Leaf.pos l + 268435456 * (l.ring.length % 16))

/-- LF_LOCK (table). -/
def LockState.word (k : LockState) : Word :=
  w32 (256 * k.result.toNat + 65536 * k.owner.toNat + 16777216 * Nat.min k.shadow.length 255)

/-- DET_STAT as two 64-bit halves (R344). -/
def DetStat.words (d : DetStat) (off : Nat) : Word :=
  match off % 16 / 4 with
  | 0 => w32 (b2n d.det)
  | 1 => d.switches
  | 2 => d.since.setWidth 32
  | _ => (d.since >>> 32).setWidth 32

/-- LF_APPT n: the structure as accepted, zeros when free, then firings and skips. -/
def Slot.words (s : Slot) (i : Nat) : Word :=
  let bs := match s.appt with
    | some a => Appointment.bytes a
    | none => zeros 24
  if i = 6 then s.firings else if i = 7 then s.skips else wordAt bs i

/-- LF_SITE n. -/
def Site.words (s : Site) (i : Nat) : Word :=
  match i with
  | 0 => s.ctl
  | 1 => s.count
  | 2 => s.beginAt.ns.setWidth 32
  | 3 => (s.beginAt.ns >>> 32).setWidth 32
  | 4 => s.endAt.ns.setWidth 32
  | 5 => (s.endAt.ns >>> 32).setWidth 32
  | 6 => w32 (s.beginAt.frac.toNat + 65536 * s.endAt.frac.toNat)
  | _ => 0

/-- The readings of a site (R87). -/
def Site.reading (s : Site) (i : Nat) : Word :=
  if i = 0 then w32 (s.thermal.toNat + 65536 * s.supply.toNat) else w32 (s.margin.toNat + 256 * (b2n s.clamped + 2 * b2n s.droop))

/-- LF_INPUT i. -/
def Input.word (x : Input) : Word := w32 (x.unit.toNat + 65536 * b2n x.activeHigh + 131072 * b2n x.stuck + 262144 * b2n x.limiter)

/-- LF_SNAP_STAT. -/
def SnapSt.words (s : SnapSt) (i : Nat) : Word :=
  match i with
  | 0 => s.lastSeq
  | 1 => s.overrun
  | 2 => s.tooSoon
  | _ => match s.reference with
    | some r => r.seq
    | none => 0

/-- LF_PWR_STAT. -/
def LeafPower.stat (p : LeafPower) : Word := w32 (b2n (decide (2 ≤ p.cellar)) + 2 * b2n (decide (p.cellar = 4)) + 65536 * p.lateWake.toNat)

/-- The always-on block, 0x0000 to 0x00FF. -/
def Leaf.peekAlwaysOn (l : Leaf) (off : Nat) : Word :=
  if off < 0x10 then wordAt l.fuses.identity (off / 4)
  else if off < 0x18 then half64 l.fuses.serial off
  else if off = 0x18 then l.ring.did.setWidth 32
  else if off = 0x1C then Leaf.rstStat l
  else if off < 0x28 then half64 l.time.ctl off
  else if off < 0x30 then half64 (TimeDom.ns64 l.time) off
  else if off = 0x30 then timeStatWord l.time (Leaf.tq l) 0
  else if off = 0x34 then l.path.a
  else if off = 0x38 then l.path.b
  else if off = 0x3C then l.snap.adv.setWidth 32
  else if off = 0x40 then Leaf.leaseStat l
  else if off = 0x44 then 0
  else if off < 0x50 then half64 l.ring.lease.expiry off
  else if off = 0x50 then LeafPower.stat l.pwr
  else if off = 0x54 then LockState.word l.cfg.lock
  else if off = 0x58 then l.ring.west.laneCtl
  else if off = 0x5C then w32 (LinkPort.statByte l.ring.west + 256 * LinkPort.statByte l.ring.east)
  else if off < 0x70 then DetStat.words l.det off
  else if off < 0x80 then 0
  else if off < 0x90 then Quad.get l.ring.west.shp (off / 4 % 4)
  else if off < 0xA0 then Quad.get l.ring.east.shp (off / 4 % 4)
  else if off = 0xA0 then l.ring.west.shpCtl
  else if off = 0xA4 then l.ring.west.drr
  else 0

/-- Registers 0x0100 to 0x0CFF. -/
def Leaf.peekRegs (l : Leaf) (off : Nat) : Word :=
  if off < 0x108 then half64 l.assay.step off
  else if off < 0x120 then 0
  else if off < 0x128 then half64 (LeafAssay.rate l.assay) off
  else if off < 0x130 then half64 l.assay.stepAt off
  else if off = 0x130 then l.assay.capCtl
  else if off = 0x134 then LeafAssay.rel l.assay
  else if off = 0x138 then w32 (l.cfg.plainRwl.toNat + 65536 * l.cfg.commits.toNat)
  else if off < 0x140 then 0
  else if off < 0x160 then Cells.get 0 l.assay.counts ((off - 0x140) / 4)
  else if off = 0x160 then l.trace.ctl
  else if off < 0x16C then 0
  else if off = 0x16C then l.cfg.unitBank.setWidth 32
  else if off < 0x180 then SnapSt.words l.snap ((off - 0x170) / 4)
  else if off = 0x180 then l.gb.ctl
  else if off < 0x190 then 0
  else if off = 0x190 then Leaf.ldgStat l
  else if off = 0x194 then w32 (l.dump.rdTmo + 65536 * l.dump.scanTmo)
  else if off < 0x1A0 then half64 l.dump.base off
  else if off = 0x1A4 then w32 (b2n l.att.done + 2 * b2n l.att.busy)
  else if off < 0x200 then 0
  else if off < 0x240 then half64 (Leaf.beat l ((off - 0x200) / 8)).ctl off
  else if off < 0x300 then 0
  else if off < 0x500 then Slot.words (Leaf.slot l ((off - 0x300) / 32)) (off % 32 / 4)
  else if off < 0x560 then Input.word (Leaf.input l ((off - 0x500) / 4))
  else if off < 0x580 then 0
  else if off < 0x5E0 then (Leaf.input l ((off - 0x580) / 4)).chatter
  else if off < 0x600 then 0
  else if off < 0x680 then (Leaf.pair l ((off - 0x600) / 4)).faults
  else if off < 0x700 then 0
  else Site.words (Leaf.site l ((off - 0x700) / 32)) (off % 32 / 4)

/-- One word of a check-value engine. -/
def CvEngine.peek (e : CvEngine) (o : Nat) : Word :=
  match o / 4 with
  | 0 => e.poly.setWidth 32
  | 3 => CvEngine.aliveWord e
  | 4 => half64 (CvEngine.shown e (cvResult e.poly e.run)) 0
  | 5 => half64 (CvEngine.shown e (cvResult e.poly e.run)) 4
  | 6 => half64 (CvEngine.shown e e.run) 0
  | 7 => half64 (CvEngine.shown e e.run) 4
  | _ => 0

/-- What the word at an offset of the window holds; an offset not listed reads zero (R72, R434). -/
def Leaf.peek (l : Leaf) (off : Nat) : Word :=
  if off < 0x100 then Leaf.peekAlwaysOn l off
  else if off < 0xD00 then Leaf.peekRegs l off
  else if off < 0x1500 then LeafCfg.word l.cfg off
  else if off < 0x1580 then CvEngine.peek (Leaf.cvEngine l ((off - 0x1500) / 32)) (off % 32)
  else if off < 0x1690 then wordAt l.led.buf ((off - 0x1580) / 4)
  else if off < 0x1740 then 0
  else if off < 0x17A0 then wordAt l.att.sig ((off - 0x1740) / 4)
  else if off < 0x1800 then wordAt l.fuses.publicKey ((off - 0x17A0) / 4)
  else if off < 0x2000 then 0
  else if off < 0x6000 then LeafCfg.word l.cfg off
  else if off < 0x6800 then half64 (Cells.get 0 l.cfg.units (256 * l.cfg.unitBank.toNat + (off - 0x6000) / 8)) off
  else if off < 0x6C00 then Cells.get 0 l.cnt.ovf ((off - 0x6800) / 4)
  else if off < 0x6D80 then Site.reading (Leaf.site l ((off - 0x6C00) / 8)) (off % 8 / 4)
  else if off < 0x7800 then 0
  else if off < 0x8000 then half64 (Cells.get 0 l.cnt.slots ((off - 0x7800) / 8)) off
  else if off < 0x10000 then half64 (Leaf.counter l ((off - 0x8000) / 8)) off
  else 0

/-- The word belongs to a value wider than 32 bits (R73, R433). -/
def wideAt (off : Nat) : Bool :=
  decide (off < 0x18) || (decide (0x20 ≤ off) && decide (off < 0x30)) || (decide (0x40 ≤ off) && decide (off < 0x50))
    || (decide (0x60 ≤ off) && decide (off < 0x70)) || (decide (0x100 ≤ off) && decide (off < 0x130))
    || (decide (0x170 ≤ off) && decide (off < 0x180)) || (decide (0x188 ≤ off) && decide (off < 0x190))
    || (decide (0x198 ≤ off) && decide (off < 0x1A0)) || (decide (0x200 ≤ off) && decide (off < 0x240))
    || (decide (0x300 ≤ off) && decide (off < 0x500)) || (decide (0x700 ≤ off) && decide (off < 0xD00) && decide (8 ≤ off % 32))
    || (decide (0x1500 ≤ off) && decide (off < 0x1580) && decide (16 ≤ off % 32)) || (decide (0x6000 ≤ off) && decide (off < 0x6800))
    || (decide (0x6C00 ≤ off) && decide (off < 0x6D80)) || decide (0x7000 ≤ off)

/-- A read of an LF_CV_RES sets its reread bit (R410). -/
def Leaf.touchCvRes (l : Leaf) (off : Nat) : Leaf :=
  if 0x1500 ≤ off ∧ off < 0x1580 ∧ off % 32 = 16 then
    let e := (off - 0x1500) / 32
    Leaf.setCv l e (CvEngine.readResult (Leaf.cvEngine l e)).1
  else l

/-- A read of LF_TIME_NOW latches LF_TIME_STAT for the requester (R437). -/
def Leaf.touchTime (l : Leaf) (req off : Nat) : Leaf :=
  if off = 0x28 then { l with cfg.timeStat := Cells.set 0 l.cfg.timeStat req (timeStatWord l.time (Leaf.tq l) 0) } else l

/-- A 32-bit read (R73, R433). -/
def Leaf.read32 (l : Leaf) (req off : Nat) : Leaf × Word :=
  if off = 0x30 then (l, Cells.get 0 l.cfg.timeStat req)
  else if wideAt off then
    if off % 8 = 0 then
      (Leaf.touchTime (Leaf.touchCvRes { l with cfg.latches := Cells.set 0 l.cfg.latches req (Leaf.peek l (off + 4)) } off) req off, Leaf.peek l off)
    else (l, Cells.get 0 l.cfg.latches req)
  else (l, Leaf.peek l off)

/-- A 64-bit read from one instant, which leaves the latch unchanged (R73). -/
def Leaf.read64 (l : Leaf) (req off : Nat) : Leaf × DWord :=
  let hi := if off + 4 = 0x30 then Cells.get 0 l.cfg.timeStat req else Leaf.peek l (off + 4)
  let lo := if off = 0x30 then Cells.get 0 l.cfg.timeStat req else Leaf.peek l off
  (Leaf.touchTime (Leaf.touchCvRes l off) req off, hi ++ lo)

/-- A read of `n` words: each aligned pair from one instant, the rest by single words. -/
def Leaf.readWords (l : Leaf) (req off : Nat) : Nat → Leaf × List Byte
  | 0 => (l, [])
  | 1 => let r := Leaf.read32 l req off; (r.1, le 4 r.2.toNat)
  | n + 2 =>
    if off % 8 = 0 then
      let r := Leaf.read64 l req off
      let t := Leaf.readWords r.1 req (off + 8) n
      (t.1, le 8 r.2.toNat ++ t.2)
    else
      let r := Leaf.read32 l req off
      let t := Leaf.readWords r.1 req (off + 4) (n + 1)
      (t.1, le 4 r.2.toNat ++ t.2)

/-! ### Checks of a commit -/

/-- Two bindings of one station clash under R70: a line in two modes. -/
def bindClash (a b : Nat × Nat) : Bool := decide (a.1 = b.1) && decide (a.2 ≠ b.2)

/-- The assignments meet R70: one mode per line, weighted bases aligned, stations present. -/
def LeafCfg.assignOk (c : LeafCfg) : Bool :=
  let bs := ((LeafCfg.boundCounters c).map fun i => LeafCfg.assignment c i).filter fun a => decide (asgMode a ≠ 3)
  let ev := (bs.map fun a => (a % 16384, asgMode a)).dedup
  ev.all fun x => !(ev.any (bindClash x)) && (decide (x.2 ≠ 2) || decide (x.1 % 4 = 0))
    && bit (LeafCfg.word c (0x0D00 + 4 * (x.1 / 64))).toNat 31

/-- The histogram entries meet R79 and name sites that are present (R434). -/
def LeafCfg.histsOk (c : LeafCfg) (site : Nat → Bool) : Bool :=
  (List.range 256).all fun h =>
    let e := LeafCfg.histEntry c h
    let ix := bits e 15 8
    match bits e 7 6 with
    | 0 => true
    | 1 => decide (bits e 5 0 ≤ 48) && decide (ix = 0)
    | 2 => decide (bits e 5 0 ≤ 48) && decide (ix % 64 < 48) && site (ix % 64)
    | _ => decide (bits e 5 0 ≤ 48) && decide (ix < 32)

/-- No two enabled slot reporters share a station or an engine, and each has 1 to 8 slots (R76, R434). -/
def LeafCfg.reportersOk (c : LeafCfg) : Bool :=
  let rs := ((List.range 64).map fun k => (LeafCfg.word c (0x1100 + 4 * k)).toNat).filter fun w => bit w 31
  decide ((rs.map fun w => bits w 7 0).Nodup) && decide ((rs.map fun w => bits w 13 8).Nodup)
    && rs.all fun w => decide (1 ≤ bits w 17 14) && decide (bits w 17 14 ≤ 8)

/-- No subset lists more than 256 counters, or one above 4,095 (R100, R434). -/
def LeafCfg.subsetsOk (c : LeafCfg) : Bool :=
  (List.range 15).all fun j => decide (bits (LeafCfg.word c (0x4000 + 0x220 * j)).toNat 8 0 ≤ 256)
    && (LeafCfg.subsetList c (j + 1)).all fun i => decide (i < 4096)

/-- The declared units meet R190 and R434. -/
def LeafCfg.unitsOk (c : LeafCfg) : Bool :=
  let ds := (c.units.map fun e => e.2.toNat)
  let grouped := ds.filter fun d => bit d 32
  decide ((ds.map fun d => d % 65536).Nodup)
    && ds.all (fun d => decide (1 ≤ d % 65536) && decide (d % 65536 ≤ 0xFEFF) && (decide (bits d 23 16 < 48) || decide (bits d 23 16 = 255)))
    && grouped.all fun a => grouped.all fun b => decide (bits a 31 24 ≠ bits b 31 24) || (bit a 33 == bit b 33)

/-- The checks of every commit (R70, R190, R434). -/
def Leaf.commitOk (l : Leaf) : Bool :=
  LeafCfg.assignOk l.cfg && LeafCfg.histsOk l.cfg (fun s => Site.present (Leaf.site l s)) && LeafCfg.reportersOk l.cfg
    && LeafCfg.subsetsOk l.cfg && LeafCfg.unitsOk l.cfg

/-! ### Writing -/

/-- RWL offsets: written only by locked writes (R434); the present bit of LF_SITE is treated by itself. -/
def isRwl (off : Nat) : Bool :=
  (decide (0xD00 ≤ off) && decide (off < 0x1500)) || (decide (0x2000 ≤ off) && decide (off < 0x5FE0)) || (decide (0x6000 ≤ off) && decide (off < 0x6800))

/-- The bits of an RWL word that are not reserved. -/
def rwlMask (off : Nat) : Word :=
  if off < 0x1100 then 0x8000FFFF else if off < 0x1200 then 0x8003FFFF else if off < 0x1400 then 0xFFFFFFFF else if off < 0x1500 then 0x80FF80FF
  else 0xFFFFFFFF

/-- What a write of a word answers: the leaf after it, a status of R157 (0 OK, 1 ERROR, 4 LOCKED, 6 ABSENT) and data. -/
abbrev WriteRes := Leaf × Byte × List Byte

/-- An operation that may refuse. -/
def orError (l : Leaf) : Option Leaf → WriteRes
  | some l' => (l', 0, [])
  | none => (l, 1, [])

/-- A refused access. -/
def refusedW (l : Leaf) : WriteRes := (l, 1, [])

/-- The requester word of R199. -/
def Requester.riskOp : Requester → Half
  | .host id => 0xF000 + id.setWidth 16
  | .ring rx => rx.hdr.srcDid.setWidth 16

/-- The requester is a ring end. -/
def Requester.isRing : Requester → Bool
  | .host _ => false
  | .ring _ => true

/-- A write of a path constant (R43); both written make the calibration current and end a rerun (R45). -/
def Leaf.writePath (l : Leaf) (isA : Bool) (v : Word) : Leaf :=
  let p := if isA then { l.path with a := v, gotA := true } else { l.path with b := v, gotB := true }
  { l with path := p, time := { l.time with calibrated := l.time.calibrated || (p.gotA && p.gotB), rerunHop := none } }

/-- A plain write of a word of the always-on block or of 0x0100 to 0x0CFF that is one register by itself. -/
def Leaf.poke (l : Leaf) (rq : Requester) (off : Nat) (v : Word) : WriteRes :=
  if off = 0x18 then (if v.setWidth 24 = didAll then refusedW l else ({ l with ring := { l.ring with did := v.setWidth 24 } }, 0, []))
  else if off = 0x34 then (Leaf.writePath l true v, 0, [])
  else if off = 0x38 then (Leaf.writePath l false v, 0, [])
  else if off = 0x3C then ({ l with snap := { l.snap with adv := v.setWidth 16 } }, 0, [])
  else if off = 0x58 then
    let w := v &&& 0xFFFFFF
    if w = 0 then refusedW l
    else ({ l with ring := { l.ring with west := { l.ring.west with laneCtl := w }, east := { l.ring.east with laneCtl := w } } }, 0, [])
  else if 0x80 ≤ off ∧ off < 0x90 then orError l ((LinkPort.writeShp l.ring.west (off / 4 % 4) v).map fun q => { l with ring := { l.ring with west := q } })
  else if 0x90 ≤ off ∧ off < 0xA0 then orError l ((LinkPort.writeShp l.ring.east (off / 4 % 4) v).map fun q => { l with ring := { l.ring with east := q } })
  else if off = 0xA0 then
    match LinkPort.writeShpCtl l.ring.west v, LinkPort.writeShpCtl l.ring.east v with
    | some w, some e => ({ l with ring := { l.ring with west := w, east := e } }, 0, [])
    | _, _ => refusedW l
  else if off = 0xA4 then
    match LinkPort.writeDrr l.ring.west v, LinkPort.writeDrr l.ring.east v with
    | some w, some e => ({ l with ring := { l.ring with west := w, east := e } }, 0, [])
    | _, _ => refusedW l
  else if off = 0x130 then orError l (Leaf.writeCapCtl l v)
  else if off = 0x13C then orError l (Leaf.writeSeqCtl l v)
  else if off = 0x160 then (Leaf.writeTrcCtl l v, 0, [])
  else if off = 0x164 then (if Requester.isRing rq then (Leaf.snapAck l v, 0, []) else refusedW l)
  else if off = 0x168 then
    (if Requester.isRing rq then
      let r := Leaf.snapResend l v
      (r.1, r.2, [])
    else refusedW l)
  else if off = 0x16C then ({ l with cfg := { l.cfg with unitBank := v.setWidth 4 } }, 0, [])
  else if off = 0x180 then orError l (Leaf.writeGbCtl l v)
  else if off = 0x184 then orError l (Leaf.writeLdgCmd l v)
  else if off = 0x194 then
    let rd := bits v.toNat 9 0
    let sc := bits v.toNat 29 16
    if rd = 0 ∨ 1000 < rd ∨ sc = 0 ∨ 10000 < sc then refusedW l else ({ l with dump := { l.dump with rdTmo := rd, scanTmo := sc } }, 0, [])
  else if off = 0x1A0 then orError l (Leaf.manualDump l v)
  else if off = 0x1A8 then
    (if Requester.isRing rq ∧ bits v.toNat 7 0 < 16 then
      let r := Leaf.snapNow l (v.setWidth 8)
      (r.1, 0, r.2)
    else refusedW l)
  else if 0x500 ≤ off ∧ off < 0x560 then
    let i := (off - 0x500) / 4
    (Leaf.setInput l i { Leaf.input l i with unit := v.setWidth 16, activeHigh := v.getLsbD 16 }, 0, [])
  else if 0x700 ≤ off ∧ off < 0xD00 ∧ off % 32 = 0 then
    let n := (off - 0x700) / 32
    let s := Leaf.site l n
    if v.getLsbD 15 ≠ s.ctl.getLsbD 15 then ({ l with cfg := { l.cfg with plainRwl := satAdd16 l.cfg.plainRwl 1 } }, 1, [])
    else if bits v.toNat 10 0 < 450 ∨ 1200 < bits v.toNat 10 0 then refusedW l
    else (Leaf.setSite l n { s with ctl := (s.ctl &&& 0x8000) ||| (v &&& 0x37FF) }, 0, [])
  else if 0x1500 ≤ off ∧ off < 0x1580 then
    let i := (off - 0x1500) / 32
    let e := Leaf.cvEngine l i
    match off % 32 / 4 with
    | 0 => (Leaf.setCv l i (CvEngine.writeCtl e v), 0, [])
    | 1 => (Leaf.setCv l i (CvEngine.start e), 0, [])
    | 2 => orError l ((CvEngine.feed e (le 4 v.toNat)).map (Leaf.setCv l i))
    | 3 => orError l ((CvEngine.writeAlive e v).map (Leaf.setCv l i))
    | _ => refusedW l
  else if 0x1580 ≤ off ∧ off < 0x1690 then ({ l with led := { l.led with buf := setBytes l.led.buf (off - 0x1580) (le 4 v.toNat) } }, 0, [])
  else if 0x1700 ≤ off ∧ off < 0x1730 then orError l (Leaf.writeNonce l ((off - 0x1700) / 4) v)
  else refusedW l

/-- A write of a whole 64-bit register. -/
def Leaf.pokeWide (l : Leaf) (rq : Requester) (off : Nat) (v : DWord) : WriteRes :=
  if off = 0x20 then
    (if timeCtlOk (decide (l.kind = .ring)) v then ({ l with time := { l.time with ctlNext := some (v &&& timeCtlMask (decide (l.kind = .ring))), ctlAt := Leaf.now l / 125000 } }, 0, []) else refusedW l)
  else if off = 0x100 then (Leaf.writeStep l v, 0, [])
  else if off = 0x108 then orError l (Leaf.errReport l v)
  else if off = 0x110 then
    let r := Leaf.capPost l v
    (r.1, if r.2 then 0 else 1, [])
  else if off = 0x118 then (if Requester.isRing rq then orError l (Leaf.capFetch l v) else refusedW l)
  else if off = 0x188 then orError l (Leaf.gbAccept l (Requester.riskOp rq) v)
  else if off = 0x198 then (if v.toNat % 16 = 0 then ({ l with dump := { l.dump with base := v } }, 0, []) else refusedW l)
  else if 0x200 ≤ off ∧ off < 0x240 then orError l (Leaf.writeHb l ((off - 0x200) / 8) (.full v))
  else if 0x1500 ≤ off ∧ off < 0x1580 ∧ off % 32 = 24 then
    let i := (off - 0x1500) / 32
    (Leaf.setCv l i (CvEngine.restore (Leaf.cvEngine l i) v), 0, [])
  else if 0x7000 ≤ off ∧ off < 0x7800 then (Leaf.valuePort l (Requester.num rq) ((off - 0x7000) / 8) (.full v), 0, [])
  else refusedW l

/-- Registers that take only a single 64-bit write (R433). -/
def onlyWhole (off : Nat) : Bool := off / 8 * 8 = 0x110 || off / 8 * 8 = 0x118 || off / 8 * 8 = 0x188

/-- 64-bit registers that can be written. -/
def wideWritable (off : Nat) : Bool :=
  off = 0x20 || off = 0x100 || off = 0x108 || off = 0x110 || off = 0x118 || off = 0x188 || off = 0x198
    || (decide (0x200 ≤ off) && decide (off < 0x240)) || (decide (0x1500 ≤ off) && decide (off < 0x1580) && decide (off % 32 = 24))
    || (decide (0x7000 ≤ off) && decide (off < 0x7800))

/-- The low word that a requester holds for a register. -/
def Leaf.heldLow (l : Leaf) (rq : Requester) (off : Nat) : Word := Cells.get 0 l.cfg.held (heldKey (Requester.num rq) off)

/-- Hold a low word for the requester (R433). -/
def Leaf.holdLow (l : Leaf) (rq : Requester) (off : Nat) (v : Word) : Leaf :=
  { l with cfg := { l.cfg with held := Cells.set 0 l.cfg.held (heldKey (Requester.num rq) off) v } }

/-- A plain 32-bit write at an offset of the window (R72, R433, R434). -/
def Leaf.write32 (l : Leaf) (rq : Requester) (off : Nat) (v : Word) : WriteRes :=
  if isRwl off then ({ l with cfg := { l.cfg with plainRwl := satAdd16 l.cfg.plainRwl 1 } }, 1, [])
  else if onlyWhole off then
    -- a narrower post is a refused post (R303, R306)
    (if off / 8 * 8 = 0x110 then Leaf.countCap l 0 else l, 1, [])
  else if 0x200 ≤ off ∧ off < 0x240 then orError l (Leaf.writeHb l ((off - 0x200) / 8) (if off % 8 = 0 then .low v else .high v))
  else if wideWritable (off / 8 * 8) then
    if off % 8 = 0 then (Leaf.holdLow l rq off v, 0, [])
    else Leaf.pokeWide l rq (off - 4) (v ++ Leaf.heldLow l rq (off - 4))
  else Leaf.poke l rq off v

/-- A plain 64-bit write. -/
def Leaf.write64 (l : Leaf) (rq : Requester) (off : Nat) (v : DWord) : WriteRes :=
  if isRwl off then ({ l with cfg := { l.cfg with plainRwl := satAdd16 l.cfg.plainRwl 1 } }, 1, [])
  else if wideWritable off then Leaf.pokeWide l rq off v
  else
    let a := Leaf.write32 l rq off (v.setWidth 32)
    let b := Leaf.write32 a.1 rq (off + 4) ((v >>> 32).setWidth 32)
    (b.1, if a.2.1 = 0 then b.2.1 else a.2.1, a.2.2 ++ b.2.2)

/-- Writes of a run of words: each aligned pair of a wide register as one, the first status other than OK is answered. -/
def Leaf.writeWords (l : Leaf) (rq : Requester) (off : Nat) : List Word → WriteRes
  | [] => (l, 0, [])
  | [a] => Leaf.write32 l rq off a
  | a :: b :: r =>
    if off % 8 = 0 ∧ wideWritable off then
      let x := Leaf.write64 l rq off (b ++ a)
      let y := Leaf.writeWords x.1 rq (off + 8) r
      (y.1, if x.2.1 = 0 then y.2.1 else x.2.1, x.2.2 ++ y.2.2)
    else
      let x := Leaf.write32 l rq off a
      let y := Leaf.writeWords x.1 rq (off + 4) (b :: r)
      (y.1, if x.2.1 = 0 then y.2.1 else x.2.1, x.2.2 ++ y.2.2)

/-! ### The set-up lock -/

/-- The owner code of a requester (LF_LOCK). -/
def Requester.owner : Requester → Byte
  | .host id => 0x80 + id.setWidth 8
  | .ring rx => rx.hdr.src.setWidth 8

/-- The requester owns the lock. -/
def Leaf.owns (l : Leaf) (rq : Requester) : Bool := l.cfg.lock.owner ≠ 0 && decide (l.cfg.lock.owner = Requester.owner rq)

/-- Write the lock. -/
def Leaf.setLock (l : Leaf) (k : LockState) : Leaf := { l with cfg := { l.cfg with lock := k } }

/-- Acquire (R394): the status 0 OK or 4 LOCKED. -/
def Leaf.lockAcquire (l : Leaf) (rq : Requester) : Leaf × Byte :=
  if l.cfg.lock.owner = 0 then
    (Leaf.setLock l { l.cfg.lock with owner := Requester.owner rq, shadow := [], overflow := false, lastOk := Leaf.now l }, 0)
  else if Leaf.owns l rq then (Leaf.setLock l { l.cfg.lock with lastOk := Leaf.now l }, 0)
  else (l, 4)

/-- The bank that an aperture write is recorded against (R438). -/
def Leaf.shadowBank (l : Leaf) : Nat :=
  match l.cfg.lock.shadow.find? fun e => decide (e.1 = 0x16C) with
  | some e => e.2.toNat % 16
  | none => l.cfg.unitBank.toNat

/-- Shadow key of an offset: aperture words carry their bank (R438). -/
def Leaf.shadowKey (l : Leaf) (off : Nat) : Nat := if 0x6000 ≤ off then 0x10000 * (Leaf.shadowBank l + 1) + off else off

/-- A shadow word replaces an earlier one of the same word; the bank holds 2,048 words (R394). -/
def Leaf.shadowWord (l : Leaf) (off : Nat) (v : Word) : Leaf × Byte :=
  let key := Leaf.shadowKey l off
  let k := l.cfg.lock
  if k.shadow.any fun e => decide (e.1 = key) then
    (Leaf.setLock l { k with shadow := k.shadow.map fun e => if e.1 = key then (key, v) else e }, 0)
  else if 2048 ≤ k.shadow.length then (Leaf.setLock l { k with overflow := true }, 1)
  else (Leaf.setLock l { k with shadow := k.shadow ++ [(key, v)] }, 0)

/-- A locked write of the owner: 5 NO_LOCK, 3 BAD_ACCESS outside the set-up area (R394). -/
def Leaf.lockedWords (l : Leaf) (rq : Requester) (off : Nat) (ws : List Word) : Leaf × Byte :=
  if !Leaf.owns l rq then (l, 5)
  else if 0x6800 < off + 4 * ws.length then (l, 3)
  else
    let r := (ws.zipIdx).foldl (fun (a : Leaf × Byte) e =>
      let x := Leaf.shadowWord a.1 (off + 4 * e.2) e.1
      (x.1, if a.2 = 0 then x.2 else a.2)) (l, 0)
    if r.2 = 0 then (Leaf.setLock r.1 { r.1.cfg.lock with lastOk := Leaf.now l }, 0) else r

/-- Apply one shadow word: RWL words to the set-up, the present bit of a site, or the register itself; a value that its register refuses is
dropped. -/
def Leaf.applyShadow (rq : Requester) (l : Leaf) (e : Nat × Word) : Leaf :=
  if 0x10000 ≤ e.1 then
    let bank := e.1 / 0x10000 - 1
    let off := e.1 % 0x10000
    let i := 256 * bank + (off - 0x6000) / 8
    let old := Cells.get 0 l.cfg.units i
    let hi : Word := (old >>> 32).setWidth 32
    let v : DWord := if off % 8 = 0 then hi ++ e.2 else (e.2 &&& 3) ++ (old.setWidth 32 : Word)
    { l with cfg := { l.cfg with units := Cells.set 0 l.cfg.units i v } }
  else if isRwl e.1 then { l with cfg := LeafCfg.setWord l.cfg e.1 (e.2 &&& rwlMask e.1) }
  else if 0x700 ≤ e.1 ∧ e.1 < 0xD00 ∧ e.1 % 32 = 0 then
    let n := (e.1 - 0x700) / 32
    if bits e.2.toNat 10 0 < 450 ∨ 1200 < bits e.2.toNat 10 0 then l
    else Leaf.setSite l n { Leaf.site l n with ctl := e.2 &&& 0xB7FF }
  else (Leaf.write32 l rq e.1 e.2).1

/-- Free the lock. -/
def Leaf.freeLock (l : Leaf) : Leaf := Leaf.setLock l { l.cfg.lock with owner := 0, shadow := [], overflow := false }

/-- Commit (R394): the checks on the registers as they would stand, then every shadow word in one cycle; the lock is freed either way. -/
def Leaf.lockCommit (l : Leaf) (rq : Requester) : Leaf × Byte :=
  if !Leaf.owns l rq then (l, 5)
  else
    let l' := l.cfg.lock.shadow.foldl (Leaf.applyShadow rq) l
    if !l.cfg.lock.overflow && Leaf.commitOk l' then
      (Leaf.freeLock { l' with cfg := { l'.cfg with commits := satAdd16 l'.cfg.commits 1 } }, 0)
    else (Leaf.freeLock l, 1)

/-- Abandon (R394). -/
def Leaf.lockAbandon (l : Leaf) (rq : Requester) : Leaf × Byte := if Leaf.owns l rq then (Leaf.freeLock l, 0) else (l, 5)

/-- The lock is lost: LOCK_LOST with cause, owner and shadow words (R395). -/
def Leaf.loseLock (l : Leaf) (cause : Nat) : Leaf :=
  if l.cfg.lock.owner = 0 then l
  else
    let d := cause + 256 * l.cfg.lock.owner.toNat + 65536 * Nat.min l.cfg.lock.shadow.length 255
    Leaf.raise (Leaf.freeLock l) 0x1B 0xFF00 d

/-- The lock's owner is a ring end. -/
def LockState.byEnd (k : LockState) : Bool := k.owner = 14 || k.owner = 15

/-- LOCK_TIMEOUT: 10 ms without an OK answer to the owning end (R395). -/
def Leaf.lockTimeout (l : Leaf) : Leaf :=
  if LockState.byEnd l.cfg.lock && decide (l.cfg.lock.lastOk + 10000000 ≤ Leaf.now l) then Leaf.loseLock l 1 else l

/-- Offsets outside the lock (R394). -/
def unlocked (off : Nat) : Bool := off = 0x164 || off = 0x168 || off = 0x1A8 || decide (0x6800 ≤ off)

/-- A host write of LF_LOCK (R439). -/
def Leaf.hostLock (l : Leaf) (rq : Requester) (v : Word) : WriteRes :=
  let done (r : Leaf × Byte) : WriteRes := (Leaf.setLock r.1 { r.1.cfg.lock with result := r.2 }, 0, [])
  match bits v.toNat 2 0 with
  | 1 => done (Leaf.lockAcquire l rq)
  | 3 => done (Leaf.lockCommit l rq)
  | 4 => done (Leaf.lockAbandon l rq)
  | _ => refusedW l

/-- A write through the leaf host port (R394, R439): LF_LOCK by itself, the owner's writes to the shadow bank, others refused while the lock
is held. -/
def Leaf.hostWords (l : Leaf) (id : BitVec 4) (off : Nat) (ws : List Word) : WriteRes :=
  let rq := Requester.host id
  if off = 0x54 then
    match ws with
    | [v] => Leaf.hostLock l rq v
    | _ => refusedW l
  else if l.cfg.lock.owner = 0 ∨ unlocked off then Leaf.writeWords l rq off ws
  else if Leaf.owns l rq then
    let r := Leaf.lockedWords l rq off ws
    (r.1, if r.2 = 0 then 0 else 1, [])
  else refusedW l

/-- A host write with its answer on the port; nothing is accepted while the port is closed (R448, R449). -/
def Leaf.hostWrite (l : Leaf) (id : BitVec 4) (off : Nat) (ws : List Word) : Leaf :=
  if !Leaf.portOpen l then l
  else
    let r := Leaf.hostWords l id off ws
    if r.2.1 = 0 then Leaf.answer r.1 0 else Leaf.answerError r.1

/-- A host read with its answer. -/
def Leaf.hostRead32 (l : Leaf) (id : BitVec 4) (off : Nat) : Leaf :=
  if !Leaf.portOpen l then l
  else
    let r := Leaf.read32 l id.toNat off
    Leaf.answer r.1 (r.2.setWidth 64)

def Leaf.hostRead64 (l : Leaf) (id : BitVec 4) (off : Nat) : Leaf :=
  if !Leaf.portOpen l then l
  else
    let r := Leaf.read64 l id.toNat off
    Leaf.answer r.1 r.2

/-- The words of a write. -/
def WriteData.words (off : Nat) : WriteData → Nat × List Word
  | .low w => (off, [w])
  | .high w => (off + 4, [w])
  | .full d => (off, [d.setWidth 32, (d >>> 32).setWidth 32])

end Sys2Proof.Machine
end

