-- ==== Sys2Proof/Machine/Ring.lean ====
section
/-! DEFINITION. The leaf on its ring: what it does with an arriving frame (R139 to R144), leases (R146 to R148, R351), register and appointment
frames (R156 to R161), Cellar on the wire (R162 to R164), sending (R143, R166), discovery (R430) and its ports' link events. -/

namespace Sys2Proof.Machine

/-- Log several outputs, oldest first. -/
def Leaf.emitAll (l : Leaf) (os : List Out) : Leaf := { l with out := os.reverse ++ l.out }

/-- A port of this leaf: the internal leaf has only its internal link. -/
def Leaf.hasPort (l : Leaf) (p : PortId) : Bool :=
  match l.kind, p with
  | .ring, .west => true
  | .ring, .east => true
  | .internal, .internal => true
  | _, _ => false

/-- Put the result of a link operation into the leaf. -/
def Leaf.putLink (l : Leaf) (p : PortId) (r : LinkRes) : Leaf := Leaf.emitAll (Leaf.setPort l p r.1) r.2

/-- Run a link operation on a port that the leaf has. -/
def Leaf.onPort (l : Leaf) (p : PortId) (f : LinkPort → LinkRes) : Leaf :=
  if Leaf.hasPort l p then Leaf.putLink l p (f (Leaf.port l p)) else l

/-- Run an operation that puts nothing out. -/
def Leaf.modPort (l : Leaf) (p : PortId) (f : LinkPort → LinkPort) : Leaf := Leaf.onPort l p fun q => (f q, [])

/-- Credits of a frame list. -/
def heldCredits (fs : List Frame) : Nat := (fs.map fun f => credits f.hdr.length.toNat).sum

/-- The credits of a port's receive buffer that frames in transit hold: they wait for the other port (R130). -/
def Leaf.inTransit (l : Leaf) (p : PortId) : Quad Nat :=
  match l.kind with
  | .internal => Quad.all 0
  | .ring =>
    let t := (Leaf.port l (otherPort p)).transit
    ⟨heldCredits t.c0, heldCredits t.c1, heldCredits t.c2, heldCredits t.c3⟩

/-! ### Arriving frames -/

/-- Payload lengths that the type allows (table "Frame types"). -/
def Payload.lenOk (p : Payload) (n : Nat) : Bool :=
  match p with
  | .tally .. => decide (32 ≤ n) && decide (n ≤ 2048)
  | .hist .. => decide (16 ≤ n) && decide (n ≤ 400)
  | .health .. => decide (32 ≤ n) && decide (n ≤ 2048)
  | .trace .. | .captureData .. => decide (9 ≤ n) && decide (n ≤ 2048)
  | .traceLoss .. => decide (n = 40)
  | .dump .. | .captureDesc .. => decide (16 ≤ n) && decide (n ≤ 2048)
  | .regWr .. => decide (8 ≤ n) && decide (n ≤ 520)
  | .regRsp .. => decide (4 ≤ n) && decide (n ≤ 516)
  | _ => decide (n ≤ 2048)

/-- A payload field breaks its stated rule (R140, R146, R316). -/
def Payload.fieldBad (p : Payload) : Bool :=
  match p with
  | .leaseReq q => decide (4 ≤ q.op.toNat) || (decide (q.op.toNat < 2) && (decide (q.duration.toNat < 10) || decide (500 < q.duration.toNat)))
      || (decide (2 ≤ q.op.toNat) && decide (q.duration ≠ 0))
  | .verdict _ _ r => decide (5 ≤ r.verdict.toNat)
  | .leaseGrant q => decide (7 ≤ q.result.toNat)
  | .sleeping q => decide (2 ≤ q.state.toNat)
  | .timeSync q => decide (8 ≤ q.tq.toNat)
  | _ => false

/-- A ring position that names no part: 8 to 13 (R140). -/
def badPos (p : BitVec 4) : Bool := decide (8 ≤ p.toNat) && decide (p.toNat ≤ 13)

/-- Types that only buddy and peer ports carry (R144). -/
def peerType (t : BitVec 6) : Bool := decide (0x30 ≤ t.toNat) && decide (t.toNat ≤ 0x3D)

/-- Malformed under R140 on a ring port. The length of a REG_WR is R156's. -/
def frameBad (h : Hdr) (p : Payload) : Bool :=
  decide (h.type ≠ Payload.code p) || (decide (h.cls ≠ Payload.cls p) && decide (h.type ≠ 0x3F)) || badPos h.dst || badPos h.src
    || (decide (h.length.toNat ≠ Payload.len p) && (match p with
        | .regWr .. => false
        | _ => true))
    || !Payload.lenOk p h.length.toNat || Payload.fieldBad p || peerType h.type

/-- The frame is addressed to this leaf. -/
def Leaf.mine (l : Leaf) (h : Hdr) : Bool :=
  match l.kind with
  | .internal => true
  | .ring => decide (l.ring.position = some h.dst.toNat)

/-- dst lies further in the frame's direction of travel (R141). -/
def Leaf.beyond (l : Leaf) (p : PortId) (h : Hdr) : Bool :=
  match l.kind, p with
  | .ring, .west => h.dst = 15 || match l.ring.position with
    | some q => decide (q < h.dst.toNat) && decide (h.dst.toNat < 8)
    | none => false
  | .ring, .east => h.dst = 14 || match l.ring.position with
    | some q => decide (h.dst.toNat < q)
    | none => false
  | _, _ => false

/-- Types that only leaves send (R144). -/
def fromLeafType (t : BitVec 6) : Bool :=
  [0x03, 0x09, 0x10, 0x11, 0x12, 0x14, 0x18, 0x19, 0x1C, 0x20, 0x21, 0x2A, 0x3E].contains t.toNat

/-- What a leaf in Cellar still acts on (table "Frame types"). -/
def Payload.inCellar : Payload → Bool
  | .timeSync .. | .timeFollow .. | .delayResp .. | .leaseReq .. | .appoint .. | .nop .. => true
  | .regRd _ off cnt => decide (off.toNat + cnt.toNat ≤ 0x100)
  | _ => false

def Leaf.countMisrouted (l : Leaf) (p : PortId) : Leaf := Leaf.modPort l p fun q => { q with misrouted := satAdd32 q.misrouted 1 }
def Leaf.countMalformed (l : Leaf) (p : PortId) : Leaf := Leaf.modPort l p fun q => { q with malformed := satAdd32 q.malformed 1 }
def Leaf.countRefusedFrame (l : Leaf) (p : PortId) : Leaf := Leaf.modPort l p fun q => { q with refusedNonHolder := satAdd32 q.refusedNonHolder 1 }

/-- SLEEPING, state 0: the refused frame's type and tag, and the time of Cellar entry (R162, R163). -/
def Leaf.replySleeping (l : Leaf) (rx : Rx) : Leaf :=
  Leaf.reply l rx (.sleeping { state := 0, refType := rx.hdr.type.setWidth 8, refTag := rx.hdr.tag, time := BitVec.ofNat 64 l.pwr.committedAt })

/-- Forward a frame from the other port, behind the frames in transit of its class (R141, R166). -/
def Leaf.forward (l : Leaf) (p : PortId) (f : Frame) : Leaf :=
  Leaf.modPort l (otherPort p) fun q => { q with transit := Quad.set q.transit f.hdr.cls.toNat (Quad.get q.transit f.hdr.cls.toNat ++ [f]) }

/-- Grant back the credits of a consumed or discarded frame (R135). -/
def Leaf.grantBack (l : Leaf) (p : PortId) (h : Hdr) : Leaf := Leaf.modPort l p fun q => LinkPort.grant q h.cls.toNat (credits h.length.toNat)

/-- The frame is a copy in passing: TIME_SYNC and TIME_FOLLOW (R142). -/
def Payload.passing : Payload → Bool
  | .timeSync .. | .timeFollow .. => true
  | _ => false

/-- What the leaf does with a frame that its link layer accepted (R139 to R144, R162): `act` is the frame's own effect, and `fwd` the frame as
it is forwarded. -/
def Leaf.deliver (l : Leaf) (rx : Rx) (p fwd : Payload) (act : Leaf → Leaf) : Leaf :=
  let h := rx.hdr
  if frameBad h p then Leaf.grantBack (Leaf.countMalformed l rx.port) rx.port h
  else if Payload.passing p && !Leaf.mine l h then
    if Leaf.beyond l rx.port h then Leaf.forward (act l) rx.port ⟨h, fwd⟩ else Leaf.grantBack (Leaf.countMisrouted l rx.port) rx.port h
  else if Leaf.mine l h then
    let (q, ok) := LinkPort.checkAlive (Leaf.port l rx.port) h
    let l := Leaf.grantBack (Leaf.setPort l rx.port q) rx.port h
    if !ok then l
    else if fromLeafType h.type then Leaf.countMisrouted l rx.port
    else if Leaf.asleep l && !Payload.inCellar p then Leaf.replySleeping l rx
    else act l
  else if Leaf.beyond l rx.port h then Leaf.forward l rx.port ⟨h, fwd⟩
  else Leaf.grantBack (Leaf.countMisrouted l rx.port) rx.port h

/-- A frame arrives: the link layer accepts the sequence it expects (R132), then the leaf delivers it. A frame that the link layer does not
accept changes nothing. -/
def Leaf.frameIn (l : Leaf) (rx : Rx) (p fwd : Payload) (act : Leaf → Leaf) : Leaf :=
  if !Leaf.hasPort l rx.port then l
  else match LinkPort.acceptSeq rx.port (Leaf.port l rx.port) rx.hdr (Leaf.now l) with
    | some r => Leaf.deliver (Leaf.putLink l rx.port r) rx p fwd act
    | none => l

/-- The target DID check of R22; `all` where 0xFF_FFFF is allowed. -/
def Leaf.withDid (l : Leaf) (rx : Rx) (did : Did) (all : Bool) (act : Leaf → Leaf) : Leaf :=
  if did = l.ring.did ∨ (all = true ∧ did = didAll) then act l
  else if did = didAll then Leaf.countMalformed l rx.port
  else Leaf.countMisrouted l rx.port

/-! ### Leases -/

/-- A lease that has not expired is held (R147). -/
def Leaf.leaseLive (l : Leaf) : Bool := Leaf.hasHolder l && decide (Leaf.now l < l.ring.lease.expiry.toNat)

/-- LEASE_GRANT to both ends (R148); a leaf that knows no position sends none (log entry 20). -/
def Leaf.sendGrant (l : Leaf) (result : Byte) : Leaf :=
  if l.kind = .ring ∧ l.ring.position.isNone then l
  else
    let e := l.ring.lease
    let g : LeaseGrantP := { result := result, holder := e.holder, epoch := e.epoch, duration := if Leaf.hasHolder l then e.duration else 0, position := BitVec.ofNat 8 (Leaf.pos l), ringLen := BitVec.ofNat 8 l.ring.length, expiry := e.expiry, serial := l.fuses.serial, did := l.ring.did, tq := Leaf.tq l }
    Leaf.sendBoth l (.leaseGrant g)

def Leaf.setLease (l : Leaf) (e : Lease) : Leaf := { l with ring := { l.ring with lease := e } }

/-- A new lease epoch begins: budgets at zero (R351), the reference and the Tally part way sent are dropped (R98), captures and the dump walk
start again (R126, R305), and an end's lock is lost (R395). -/
def Leaf.newEpoch (l : Leaf) : Leaf :=
  let l := { l with ring := { l.ring with west := LinkPort.zeroRates l.ring.west, east := LinkPort.zeroRates l.ring.east },
                    snap := { l.snap with reference := none, txq := [] } }
  let l := Leaf.restartCaptures (Leaf.restartWalk l)
  if LockState.byEnd l.cfg.lock then Leaf.loseLock l 3 else l

/-- No lease is held any more. -/
def Leaf.dropLease (l : Leaf) : Leaf := Leaf.setLease l { l.ring.lease with holder := 0xFF, holderDid := 0, duration := 0, expiry := 0 }

/-- The next epoch: 1 to 0xFFFF, then 1 again (R147). -/
def nextEpoch (e : Half) : Half := if e = 0xFFFF then 1 else e + 1

/-- Expiry after a duration in ms. -/
def Leaf.expiryFor (l : Leaf) (d : Half) : Ns := BitVec.ofNat 64 (Leaf.now l + d.toNat * 1000000)

/-- The requester holds the lease. -/
def Leaf.isHolder (l : Leaf) (h : Hdr) : Bool := Leaf.leaseLive l && decide (l.ring.lease.holder = h.src.setWidth 8) && decide (l.ring.lease.holderDid = h.srcDid)

/-- The decision on acquire (R147). -/
def Leaf.acquire (l : Leaf) (h : Hdr) (p : LeaseReqP) : Leaf :=
  if Leaf.leaseLive l && !Leaf.isHolder l h then Leaf.sendGrant l 2
  else
    let e : Lease := { holder := h.src.setWidth 8, holderDid := h.srcDid, epoch := nextEpoch l.ring.lease.epoch, duration := p.duration, expiry := Leaf.expiryFor l p.duration }
    let l := Leaf.setLease l e
    Leaf.newEpoch (Leaf.sendGrant l 0)

/-- The decision on renew (R147). -/
def Leaf.renew (l : Leaf) (h : Hdr) (p : LeaseReqP) : Leaf :=
  if Leaf.isHolder l h && decide (p.epoch = l.ring.lease.epoch) then
    Leaf.sendGrant (Leaf.setLease l { l.ring.lease with duration := p.duration, expiry := Leaf.expiryFor l p.duration }) 1
  else Leaf.sendGrant l 3

/-- The decision on release (R147). -/
def Leaf.releaseLease (l : Leaf) (h : Hdr) (p : LeaseReqP) : Leaf :=
  if Leaf.isHolder l h && decide (p.epoch = l.ring.lease.epoch) then Leaf.sendGrant (Leaf.dropLease l) 4 else Leaf.sendGrant l 3

/-- The decision on fence (R147). -/
def Leaf.fence (l : Leaf) : Leaf := Leaf.sendGrant (Leaf.dropLease l) 5

/-- LEASE_EXPIRY (R147). -/
def Leaf.leaseExpiry (l : Leaf) : Leaf :=
  if Leaf.hasHolder l && decide (l.ring.lease.expiry.toNat ≤ Leaf.now l) then Leaf.sendGrant (Leaf.dropLease l) 6 else l

/-- A LEASE_REQ that reaches the leaf: its target DID (R22), a ring end as its source, and no relay but for a fence (R349). -/
def Leaf.leaseFrame (l : Leaf) (rx : Rx) (p : LeaseReqP) (act : Leaf → Leaf) : Leaf :=
  Leaf.frameIn l rx (.leaseReq p) (.leaseReq p) fun l => Leaf.withDid l rx p.did false fun l =>
    if rx.hdr.src.toNat < 14 || (rx.hdr.flags.getLsbD 0 && decide (p.op ≠ 3)) then Leaf.countRefusedFrame l rx.port else act l

/-! ### Register and appointment frames -/

/-- Answer with REG_RSP (R157, R160). -/
def Leaf.respond (l : Leaf) (rx : Rx) (status : Byte) (dup : Bool) (data : List Byte) : Leaf :=
  Leaf.reply l rx (.regRsp { status := status, duplicate := dup, data := data })

/-- Offset and count meet R156. -/
def regRangeOk (off cnt : Nat) : Bool :=
  decide (off % 4 = 0) && decide (cnt % 4 = 0) && decide (4 ≤ cnt) && decide (cnt ≤ 512) && decide (off + cnt ≤ 65536)

/-- REG_RD (R156). -/
def Leaf.doRegRd (l : Leaf) (rx : Rx) (off cnt : Nat) : Leaf :=
  if regRangeOk off cnt then
    let r := Leaf.readWords l (Requester.num (.ring rx)) off (cnt / 4)
    Leaf.respond r.1 rx 0 false r.2
  else Leaf.respond l rx 3 false []

/-- The kept answer of a write tag (R161). -/
def Leaf.keptTag (l : Leaf) (h : Hdr) : Option (Byte × List Byte) :=
  match l.cfg.tags.find? fun t => decide (t.did = h.srcDid) with
  | some t => (t.tags.find? fun e => decide (e.1 = h.tag)).map (·.2)
  | none => none

/-- Keep a write tag: 16 per requester, 4 requesters, the least recently used one replaced (R161). -/
def Leaf.keepTag (l : Leaf) (h : Hdr) (status : Byte) (data : List Byte) : Leaf :=
  let old := match l.cfg.tags.find? fun t => decide (t.did = h.srcDid) with
    | some t => t.tags
    | none => []
  let mine : WrTags := { did := h.srcDid, tags := ((h.tag, status, data) :: old).take 16 }
  { l with cfg := { l.cfg with tags := (mine :: l.cfg.tags.filter fun t => decide (t.did ≠ h.srcDid)).take 4 } }

/-- Answer a write and keep its tag. -/
def Leaf.finishWrite (l : Leaf) (rx : Rx) (status : Byte) (data : List Byte) : Leaf :=
  Leaf.respond (Leaf.keepTag l rx.hdr status data) rx status false data

/-- Time path registers (R144). -/
def timePath (off cnt : Nat) : Bool := decide (0x34 ≤ off) && decide (off + cnt ≤ 0x3C)

/-- The words of a REG_WR's data. -/
def wordsOf (bs : List Byte) : List Word := (chunks 4 bs).map fun c => w32 (fromLe c)

/-- A REG_WR that names an operation and a range (R156, R394): status and data. -/
def Leaf.regWrite (l : Leaf) (rq : Requester) (op off cnt : Nat) (data : List Byte) : WriteRes :=
  let badCnt := cnt = 0 && !(op = 1 || op = 3 || op = 4)
  if 5 ≤ op ∨ badCnt = true ∨ (cnt ≠ 0 ∧ regRangeOk off cnt = false) then (l, 3, [])
  else match op with
    | 0 =>
      if l.cfg.lock.owner ≠ 0 ∧ unlocked off = false then (l, 4, [])
      else Leaf.writeWords l rq off (wordsOf data)
    | 1 => let r := Leaf.lockAcquire l rq; (r.1, r.2, [])
    | 2 => let r := Leaf.lockedWords l rq off (wordsOf data); (r.1, r.2, [])
    | 3 => let r := Leaf.lockCommit l rq; (r.1, r.2, [])
    | _ => let r := Leaf.lockAbandon l rq; (r.1, r.2, [])

/-- REG_WR once under its write tag (R144, R156, R161). -/
def Leaf.doRegWr (l : Leaf) (rx : Rx) (op off cnt : Nat) (data : List Byte) : Leaf :=
  match Leaf.keptTag l rx.hdr with
  | some (st, d) => Leaf.respond l rx st true d
  | none =>
    if !Leaf.fromHolder l rx.hdr && !(decide (op = 0) && timePath off cnt) then Leaf.respond l rx 2 false []
    else if rx.hdr.length.toNat ≠ 8 + cnt ∨ data.length ≠ cnt then Leaf.finishWrite l rx 3 []
    else
      let r := Leaf.regWrite l (.ring rx) op off cnt data
      Leaf.finishWrite r.1 rx r.2.1 r.2.2

/-- A whole REG_WR frame. -/
def Leaf.regWrFrame (l : Leaf) (rx : Rx) (did : Did) (op : Byte) (off cnt : Half) (data : List Byte) : Leaf :=
  let p := Payload.regWr did op off cnt data
  Leaf.frameIn l rx p p fun l => Leaf.withDid l rx did false fun l => Leaf.doRegWr l rx op.toNat off.toNat cnt.toNat data

/-- A whole REG_RD frame. -/
def Leaf.regRdFrame (l : Leaf) (rx : Rx) (did : Did) (off cnt : Half) : Leaf :=
  let p := Payload.regRd did off cnt
  Leaf.frameIn l rx p p fun l => Leaf.withDid l rx did false fun l => Leaf.doRegRd l rx off.toNat cnt.toNat

/-- A register write by a requester: through the host port, or by a plain REG_WR of a ring end. -/
def Leaf.writeBy (l : Leaf) (rq : Requester) (did : Did) (off : Nat) (ws : List Word) : Leaf :=
  match rq with
  | .host id => Leaf.hostWrite l id off ws
  | .ring rx => Leaf.regWrFrame l rx did 0 (BitVec.ofNat 16 off) (BitVec.ofNat 16 (4 * ws.length)) (ws.flatMap fun w => le 4 w.toNat)

/-- A write of a register that takes 32 or 64 bits. -/
def Leaf.writeDataBy (l : Leaf) (rq : Requester) (did : Did) (off : Nat) (d : WriteData) : Leaf :=
  let r := WriteData.words off d
  Leaf.writeBy l rq did r.1 r.2

/-- A 32-bit read by a requester. -/
def Leaf.read32By (l : Leaf) (rq : Requester) (off : Nat) : Leaf :=
  match rq with
  | .host id => Leaf.hostRead32 l id off
  | .ring rx => Leaf.regRdFrame l rx l.ring.did (BitVec.ofNat 16 off) 4

/-- A 64-bit read by a requester. -/
def Leaf.read64By (l : Leaf) (rq : Requester) (off : Nat) : Leaf :=
  match rq with
  | .host id => Leaf.hostRead64 l id off
  | .ring rx => Leaf.regRdFrame l rx l.ring.did (BitVec.ofNat 16 off) 8

/-- A narrow feed of a check-value engine through the host port (R409): 1 or 2 bytes; otherwise a 32-bit write. -/
def Leaf.feedBy (l : Leaf) (rq : Requester) (e : Nat) (d : FeedData) : Leaf :=
  let off := 0x1508 + 32 * e
  let narrow (id : BitVec 4) (bs : List Byte) : Leaf :=
    if !Leaf.portOpen l then l
    else if l.cfg.lock.owner ≠ 0 then Leaf.answerError l
    else match CvEngine.feed (Leaf.cvEngine l e) bs with
      | some x => Leaf.answer (Leaf.setCv l e x) 0
      | none => let _ := id; Leaf.answerError l
  match rq, d with
  | .host id, .b1 b => narrow id [b]
  | .host id, .b2 h => narrow id (le 2 h.toNat)
  | rq, .b4 w => Leaf.writeBy l rq l.ring.did off [w]
  | .ring _, _ => l

/-- APPOINT once under its write tag (R144, R158, R161). -/
def Leaf.doAppoint (l : Leaf) (rx : Rx) (a : Appointment) : Leaf :=
  match Leaf.keptTag l rx.hdr with
  | some (st, d) => Leaf.respond l rx st true d
  | none =>
    if !Leaf.fromHolder l rx.hdr then Leaf.respond l rx 2 false []
    else
      let n := a.slot.toNat
      let st := apptStatus true (Leaf.tq l) (Leaf.now l) (Leaf.slot l n) a
      let l := if st = 0 then Leaf.setSlot l n (Slot.accept (Leaf.slot l n) a) else l
      Leaf.finishWrite l rx 0 [BitVec.ofNat 8 st, 0, 0, 0]

/-- A whole APPOINT frame (R158): its target DID may be 0xFF_FFFF. -/
def Leaf.appointFrame (l : Leaf) (rx : Rx) (did : Did) (a : Appointment) : Leaf :=
  Leaf.frameIn l rx (.appoint did a) (.appoint did a) fun l => Leaf.withDid l rx did true fun l => Leaf.doAppoint l rx a

/-- A whole VERDICT frame (R155, R319). -/
def Leaf.verdictFrame (l : Leaf) (rx : Rx) (did : Did) (capture : Word) (r : VerdictRec) : Leaf :=
  Leaf.frameIn l rx (.verdict did capture r) (.verdict did capture r) fun l =>
    Leaf.withDid l rx did false fun l => Leaf.verdict l capture r

/-- A lock op without data: LF_LOCK through the host port, or a REG_WR of count 0 (R394, R439). -/
def Leaf.lockOpBy (l : Leaf) (rq : Requester) (did : Did) (op : Nat) : Leaf :=
  match rq with
  | .host id => Leaf.hostWrite l id 0x54 [w32 op]
  | .ring rx => Leaf.regWrFrame l rx did (BitVec.ofNat 8 op) 0 0 []

/-- A locked write: a host write while host firmware owns the lock, or lock op 2 (R394, R439). -/
def Leaf.lockedWriteBy (l : Leaf) (rq : Requester) (did : Did) (off : Half) (data : List Byte) : Leaf :=
  match rq with
  | .host id => Leaf.hostWrite l id off.toNat (wordsOf data)
  | .ring rx => Leaf.regWrFrame l rx did 2 off (BitVec.ofNat 16 data.length) data

/-- A context restored through LF_CV_VAL: alive stands in bits [39:32] for polynomials 0, 1 and 3, and in LF_CV_ALIVE for 2 (R410). -/
def Leaf.cvRestoreBy (l : Leaf) (rq : Requester) (e : Nat) (v : DWord) (alive : Byte) : Leaf :=
  if (Leaf.cvEngine l e).poly = 2 then
    Leaf.writeBy (Leaf.writeBy l rq l.ring.did (0x1518 + 32 * e) [v.setWidth 32, (v >>> 32).setWidth 32]) rq l.ring.did (0x150C + 32 * e) [alive.setWidth 32]
  else Leaf.writeBy l rq l.ring.did (0x1518 + 32 * e) [v.setWidth 32, alive.setWidth 32]

/-! ### Sending -/

/-- Up to two frames that the leaf has ready in a class for its holder (R143): health records, Tally frames, then dump, trace and capture
frames (log entry 21). -/
def Leaf.candidates (l : Leaf) (c : Nat) : List Payload :=
  match c with
  | 1 => (chunks 64 (l.health.store.take 128)).map Payload.health
  | 2 => l.snap.txq.take 2
  | 3 => (l.dump.frames ++ (l.trace.ports.flatMap fun e => e.2.frames.map Prod.fst) ++ l.assay.txq).take 2
  | _ => []

/-- Take the first frame of a class out of its producer. -/
def Leaf.takeCandidate (l : Leaf) (c : Nat) : Leaf :=
  match c with
  | 1 => { l with health := { l.health with store := l.health.store.drop 64 } }
  | 2 => { l with snap := { l.snap with txq := l.snap.txq.drop 1 } }
  | 3 =>
    match l.dump.frames, l.trace.ports.find? fun e => !e.2.frames.isEmpty with
    | _ :: r, _ => { l with dump := { l.dump with frames := r } }
    | [], some (i, p) => Leaf.setTrcPort l i { p with frames := p.frames.drop 1 }
    | [], none => { l with assay := { l.assay with txq := l.assay.txq.drop 1 } }
  | _ => l

/-- The port leads to the holder, and the leaf sends frames of classes 1 to 3 (R143, R162). -/
def Leaf.feeds (l : Leaf) (p : PortId) : Bool :=
  Leaf.hasHolder l && Leaf.awake l && decide (Leaf.portTo l l.ring.lease.holder.toNat = p)

/-- The port's own queues with the frames that the leaf has ready. -/
def Leaf.fed (l : Leaf) (p : PortId) : LinkPort :=
  let q := Leaf.port l p
  let mk c := (Leaf.candidates l c).map fun x => mkFrame l.ring.lease.holder.toNat (Leaf.pos l) 0 l.ring.did x
  if Leaf.feeds l p then { q with own := ⟨q.own.c0, mk 1, mk 2, mk 3⟩ } else { q with own := ⟨q.own.c0, [], [], []⟩ }

/-- FRAME_BOUNDARY_SCHEDULE on a leaf port (R166): the frame sent leaves its producer, or the receive buffer it waited in. -/
def Leaf.schedule (l : Leaf) (p : PortId) : Leaf :=
  if !Leaf.hasPort l p then l
  else
    let fill (h : Hdr) : Hdr := { h with epoch := if Leaf.hasHolder l then l.ring.lease.epoch else 0 }
    let (r, sent) := LinkPort.schedule p (Leaf.fed l p) (Leaf.now l) fill
    let l' := Leaf.putLink l p ({ r.1 with own := ⟨r.1.own.c0, [], [], []⟩ }, r.2)
    match sent with
    | some (f, transit) =>
      if transit then Leaf.modPort l' (otherPort p) fun q => LinkPort.grant q f.hdr.cls.toNat (credits f.hdr.length.toNat)
      else if f.hdr.cls = 0 then l' else Leaf.takeCandidate l' f.hdr.cls.toNat
    | none => l'

/-! ### Discovery and link events -/

/-- The leaf takes a position and length (R430): a change ends its lease with EXPIRED, and calibration starts again. -/
def Leaf.discover (l : Leaf) (q : Option Nat) (len : Nat) (west : Bool) : Leaf :=
  let r := l.ring
  let len' := if west || r.length = 0 then len else r.length
  let changed := (r.position.isSome && decide (r.position ≠ q)) || (decide (r.length ≠ 0) && decide (r.length ≠ len'))
  let l := { l with ring := { r with position := q, length := len', westChain := r.westChain || west } }
  if changed then
    let l := { l with time := { l.time with calibrated := false }, path := { l.path with gotA := false, gotB := false } }
    if Leaf.hasHolder l then Leaf.sendGrant (Leaf.dropLease l) 6 else l
  else l

/-- PROBE at a leaf: echoed; a discovery PROBE sets position and length and is passed on (R131, R430). -/
def Leaf.probe (l : Leaf) (p : PortId) (id : Half) (len : Byte) : Leaf :=
  if !Leaf.hasPort l p then l
  else
    let l := Leaf.emit l (.ctl p (.probeEcho id))
    let n := id.toNat
    match p with
    | .west =>
      if 0xF000 ≤ n ∧ n < 0xF100 then
        let q := n - 0xF000
        let l := Leaf.discover l (if q ≤ 7 then some q else none) len.toNat true
        Leaf.emit l (.ctl .east (.probe (id + 1) (BitVec.ofNat 8 l.ring.length)))
      else l
    | .east =>
      if 0xF100 ≤ n ∧ n < 0xF200 ∧ l.ring.westChain = false then
        let q := n - 0xF100
        let l := Leaf.discover l (if q ≤ 7 then some q else none) len.toNat false
        if q = 0 then l else Leaf.emit l (.ctl .west (.probe (id - 1) (BitVec.ofNat 8 l.ring.length)))
      else l
    | _ => l

/-- PROBE_ECHO at a leaf ends a hop round-trip measurement (R43). -/
def Leaf.probeEcho (l : Leaf) (p : PortId) (trip : Nat) : Leaf :=
  if Leaf.hasPort l p then { l with ring := { l.ring with trips := Cells.set 0 l.ring.trips (if p = .east then 1 else 0) trip } } else l

/-- A lane of one of the leaf's hops changed: the hop's calibration reruns (R45). Hop h lies towards end A of position h. -/
def Leaf.laneChanged (l : Leaf) (p : PortId) : Leaf :=
  match l.ring.position, p with
  | some q, .west => { l with time := { l.time with rerunHop := some q } }
  | some q, .east => { l with time := { l.time with rerunHop := some (q + 1) } }
  | _, _ => l

/-- The filter of the sources behind a port holds no value after the port has been down (R48). -/
def Leaf.dropFilter (l : Leaf) (p : PortId) : Leaf :=
  let e := endBehind p
  { l with time := TimeDom.setSource l.time e { TimeDom.source l.time e with filt := none } }

/-- PORT_DOWN_TIMEOUT at a leaf (R126, R134). -/
def Leaf.portDown (l : Leaf) (p : PortId) : Leaf :=
  if Leaf.hasPort l p && LinkPort.downDue (Leaf.port l p) (Leaf.now l) then
    Leaf.dumpPortDown (Leaf.dropFilter (Leaf.modPort l p fun q => LinkPort.goDown q (Leaf.now l)) p) p
  else l

/-- A leaf's link comes up. -/
def Leaf.linkUp (l : Leaf) (p : PortId) : Leaf :=
  if Leaf.hasPort l p && LinkPort.mayTrain (Leaf.port l p) then Leaf.modPort l p fun q => LinkPort.bringUp q (Leaf.inTransit l p) (Leaf.now l) else l

/-- WAKE_PHRASE (R164): latched for a leaf that enters or is in Cellar; counted in service. -/
def Leaf.wakePhrase (l : Leaf) : Leaf :=
  if l.pwr.cellar = 0 then { l with pwr := { l.pwr with phrases := satAdd32 l.pwr.phrases 1 } }
  else { l with pwr := { l.pwr with phrase := true, phraseAt := Leaf.now l } }

/-- WAKE_BURST naming another position is forwarded at the same spacing (R164). -/
def Leaf.wakeBurst (l : Leaf) (p : PortId) (target : BitVec 4) (burst : BitVec 3) : Leaf :=
  if l.kind = .ring ∧ (p = .west ∨ p = .east) ∧ l.ring.position ≠ some target.toNat then Leaf.emit l (.ctl (otherPort p) (.wake target burst)) else l

end Sys2Proof.Machine
end

