-- ==== Sys2Proof/Machine/LeafTime.lean ====
section
/-! DEFINITION. Time exchanges of a leaf with its two ring ends (R45 to R49), its holdover and slew instants (R50, R52), and the port latency
measurement (R46). -/

namespace Sys2Proof.Machine

def Leaf.src (l : Leaf) (k : Nat) : Source := TimeDom.source l.time k
def Leaf.setSrc (l : Leaf) (k : Nat) (s : Source) : Leaf := { l with time := TimeDom.setSource l.time k s }

/-- The exchange source behind a frame's sender. -/
def srcOf (h : Hdr) : Nat := h.src.toNat

/-- A frame of the exchange was replayed or hit (R48, R136). -/
def Rx.spoiled (rx : Rx) : Bool := rx.hit || rx.replayed

/-- TIME_SYNC at a leaf (R142): its receive time, and the residence it will add to the follow-up. -/
def Leaf.timeSync (l : Leaf) (rx : Rx) (p : TimeSyncP) (t2 : Stamp) (residence : DWord) : Leaf :=
  let s := Leaf.src l (srcOf rx.hdr)
  Leaf.setSrc l (srcOf rx.hdr) { s with sync := some (p, t2, residence.toNat), follow := none, t3 := none, hit := Rx.spoiled rx }

/-- The residence to add to the TIME_FOLLOW of a TIME_SYNC with this identifier (R142). -/
def Leaf.residenceFor (l : Leaf) (k : Nat) (seq : Half) : DWord :=
  match (Leaf.src l k).sync with
  | some (p, _, r) => if p.seq = seq then w64 r else 0
  | none => 0

/-- TIME_FOLLOW at a leaf (R142, R462): it holds t1, and one TIME_DELAY_REQ goes to that end. -/
def Leaf.timeFollow (l : Leaf) (rx : Rx) (p : TimeFollowP) (t3 : Stamp) : Leaf :=
  let k := srcOf rx.hdr
  let s := Leaf.src l k
  match s.sync with
  | some (y, _, _) =>
    if y.seq = p.seq then
      let l := Leaf.setSrc l k { s with follow := some p, t3 := some t3, reqSeq := s.seq, seq := s.seq + 1, hit := s.hit || Rx.spoiled rx }
      Leaf.sendEnd l k 0 (.delayReq { seq := s.seq, corr := 0 })
    else l
  | none => l

/-- The corrected offset of an end: θA less A_path, θB plus B_path (R47). -/
def Leaf.corrected (l : Leaf) (k : Nat) (meas : Rat) : Rat :=
  if k = 14 then meas - (l.path.a.toInt : Rat) / 65536 else meas + (l.path.b.toInt : Rat) / 65536

/-- An end's corrected offset is fresh, and its path does not cross a hop under recalibration (R45, R47). -/
def Leaf.freshEnd (l : Leaf) (k : Nat) : Bool := TimeDom.fresh l.time k && Leaf.endUsable l k

/-- The pacing end (R47). -/
def Leaf.pacingEnd (l : Leaf) : Nat := if Leaf.freshEnd l 14 then 14 else 15

/-- The leaf takes the lower class of the ends whose exchanges it accepts (R32). -/
def Leaf.takeClass (l : Leaf) : Leaf :=
  let a := (Leaf.src l 14).cls
  let b := (Leaf.src l 15).cls
  let c := match Leaf.freshEnd l 14, Leaf.freshEnd l 15 with
    | true, true => if a.toNat ≤ b.toNat then a else b
    | true, false => a
    | false, true => b
    | false, false => l.time.srcCls
  { l with time := { l.time with srcCls := c } }

/-- The run of pairs that differ by more than 1.5 ns; at 64 a TIME_EVENT is raised (R47). -/
def Leaf.notePair (l : Leaf) (a b : Rat) : Leaf :=
  if (3 / 2 : Rat) < |a - b| then
    let n := l.time.disagree + 1
    let l := { l with time := { l.time with disagree := n } }
    if n = 64 then Leaf.raise l 0x1C 0xFF09 1 else l
  else { l with time := { l.time with disagree := 0 } }

/-- One update of the servo, when the accepted exchange is the pacing end's (R47). -/
def Leaf.steer (l : Leaf) (k : Nat) : Leaf :=
  if k ≠ Leaf.pacingEnd l then l
  else
    let own := (Leaf.src l k).offset.getD 0
    let other := if k = 14 then 15 else 14
    let up := Config.roundUp l.free
    let l := { l with free := l.free + 1 }
    if Leaf.freshEnd l other then
      let o := (Leaf.src l other).offset.getD 0
      let l := Leaf.notePair l own o
      { l with time := TimeDom.servo l.time 1 up ((own + o) / 2) }
    else { l with time := TimeDom.servo l.time 1 up own }

/-- The exchange that a TIME_DELAY_RESP completes: mean path delay and corrected offset; none when parts of it are missing. -/
def Leaf.exchange (l : Leaf) (k : Nat) (p : DelayRespP) : Option (Rat × Rat × TimeSyncP) :=
  let s := Leaf.src l k
  match s.sync, s.follow, s.t3 with
  | some (y, t2, _), some f, some t3 =>
    if p.seq = s.reqSeq then
      let v := exchangeValues (Stamp.rat f.t1) (Stamp.rat t2) (Stamp.rat t3) (Stamp.rat p.t4) (corrRat f.corr) (corrRat p.corr)
      some (v.1, Leaf.corrected l k v.2, y)
    else none
  | _, _, _ => none

/-- TIME_DELAY_RESP at a leaf (R47 to R49, R52). -/
def Leaf.delayResp (l : Leaf) (rx : Rx) (p : DelayRespP) : Leaf :=
  let k := srcOf rx.hdr
  match Leaf.exchange l k p with
  | none => l
  | some (delay, off, y) =>
    let s := Leaf.src l k
    if s.hit || Rx.spoiled rx then { l with time := TimeDom.discard l.time k true }
    else if !Source.delayOk s delay then { l with time := TimeDom.discard l.time k false }
    else if TimeDom.holdoverRejects l.time y.tq off then { l with time := TimeDom.discard l.time k false }
    else Leaf.steer (Leaf.takeClass { l with time := TimeDom.accept l.time k off delay y.tq y.hop }) k

/-- HOLDOVER_TIMEOUT: 500 µs without an accepted exchange (R52). -/
def TimeDom.holdoverTimeout (t : TimeDom) : TimeDom :=
  if t.everSet && t.holdover.isNone && decide (t.lastAccept + 500000 ≤ TimeDom.ns t) then TimeDom.enterHoldover t else t

/-- HOLDOVER_LONG: 1 s of holdover (R52). -/
def TimeDom.holdoverLong (t : TimeDom) : TimeDom :=
  match t.holdover with
  | some h => if h + 1000000000 ≤ TimeDom.ns t then { t with holdLong := true } else t
  | none => t

/-- SLEW_TICK at a whole microsecond in slew mode (R50). -/
def TimeDom.slewTick (t : TimeDom) : TimeDom :=
  if TimeDom.slewMode t && decide (t.lastMicro < TimeDom.ns t / 1000) then TimeDom.slew { t with lastMicro := TimeDom.ns t / 1000 } else t

/-- TIME_CTL_APPLY at the exchange period boundary after the write (R440). -/
def TimeDom.ctlApply (t : TimeDom) : TimeDom := if t.ctlAt < TimeDom.ns t / 125000 then TimeDom.applyCtl t else t

/-- PORT_LATENCY_MEASURE: the port part of the path constants takes the new values (R46). -/
def Leaf.portLatency (l : Leaf) (x : PortLatency) : Leaf :=
  let p := l.path
  { l with path := { p with a := p.a + BitVec.ofInt 32 (x.partA - p.partA), b := p.b + BitVec.ofInt 32 (x.partB - p.partB), partA := x.partA, partB := x.partB } }

end Sys2Proof.Machine
end

