-- ==== Sys2Proof/Machine/LeafPower.lean ====
section
/-! DEFINITION. The firings of a leaf's appointment slots other than SNAPSHOT (R55, R59), Cellar (R420 to R424) and the leaf's resets (R426,
R449, R451). -/

namespace Sys2Proof.Machine

/-! ### Firings -/

/-- A slot of a leaf whose appointment of this action is due fires (R57, R58). -/
def Leaf.fire (l : Leaf) (i : Nat) (action : Byte) (act : Nat → Leaf → Leaf) : Leaf :=
  if slotFires l.appts i action (Leaf.now l) then
    let a := Slot.arg (Leaf.slot l i)
    Leaf.fireSlot l i (act a)
  else l

/-- CELLAR_ENTER at a leaf (R420): the prepare phase. A leaf already in Cellar is not affected (R59). -/
def Leaf.cellarEnter (l : Leaf) (i : Nat) : Leaf :=
  if slotFires l.appts i 2 (Leaf.now l) then
    let l := Leaf.setSlot l i (Slot.advance (Leaf.slot l i) false)
    if l.pwr.cellar ≠ 0 then l
    else
      let l := { l with pwr := { l.pwr with cellar := 1, firedAt := Leaf.now l, skipped := 0, phrase := false }, led := { l.led with cellarPaused := true } }
      Leaf.flushTrace (Leaf.abandonWalk l)
  else l

/-- MODE_SWITCH for an instant (R340, R344, R345): a firing that gives the value in force changes no mode. -/
def DetStat.switch (d : DetStat) (arg : Nat) (instant : Ns) : DetStat :=
  let same := decide (bit arg 0 = d.det)
  { det := bit arg 0, switches := d.switches + 1, since := instant, prev := if same then d.prev else d.det, start := if same then d.start else instant }

/-- LANE_RECAL of a port and lane (R55, R130): bits [3:0] port, bits [11:8] lane. -/
def Leaf.laneRecal (l : Leaf) (arg : Nat) : Leaf :=
  let lane := bits arg 11 8
  if bits arg 3 0 = 0 then Leaf.modPort l .west fun q => LinkPort.recalibrate q lane
  else Leaf.modPort l .east fun q => LinkPort.recalibrate q lane

/-! ### Cellar -/

/-- No page write holds up the commit: none in progress, or held under R180, or 120 µs have passed (R420). -/
def Leaf.commitReady (l : Leaf) : Bool :=
  l.led.write.isNone || l.led.vnvLow || decide (l.pwr.firedAt + 120000 ≤ Leaf.now l)

/-- CELLAR_COMMIT (R420): a page write stopped by sag restarts after wake; the lock is lost with cause 4. -/
def Leaf.cellarCommit (l : Leaf) : Leaf :=
  if l.pwr.cellar = 1 ∧ Leaf.commitReady l then
    let l := Leaf.loseLock l 4
    { l with pwr := { l.pwr with cellar := 2, committedAt := Leaf.now l }, led := { l.led with write := l.led.write.map fun w => { w with torn := true } } }
  else l

/-- LEAF_WAKE_START: at the later of the end of entry, 3 µs after the commit, and the end of a phrase (R164, R420, R422). -/
def Leaf.wakeStart (l : Leaf) : Leaf :=
  if l.pwr.cellar = 2 ∧ l.pwr.phrase ∧ l.pwr.committedAt + 3000 ≤ Leaf.now l then
    { l with pwr := { l.pwr with cellar := 4, wakeAt := Leaf.now l, lcGoodAt := none, phrase := false } }
  else l

/-- HD_LC_GOOD while waking (R422). -/
def Leaf.lcGood (l : Leaf) : Leaf :=
  if l.pwr.cellar = 4 ∧ l.pwr.lcGoodAt.isNone then { l with pwr := { l.pwr with lcGoodAt := some (Leaf.now l) } } else l

/-- hd_lc_good was late (R422). -/
def LeafPower.late (p : LeafPower) : Bool :=
  match p.lcGoodAt with
  | some g => decide (p.wakeAt + 15000 < g)
  | none => false

/-- Wake may complete: 8 µs after hd_lc_good, or 10 µs when it was late (R422). -/
def Leaf.wakeReady (l : Leaf) : Bool :=
  match l.pwr.lcGoodAt with
  | some g => decide (g + (if LeafPower.late l.pwr then 10000 else 8000) ≤ Leaf.now l)
  | none => false

/-! ### Resets -/

/-- Slots of the lifetime area with folds pending (R184). -/
def LedgerSt.pendingFolds (d : LedgerSt) : Nat := (d.dirty.filter fun e => decide (e.1 = 6) && decide (e.2.1 % 2 = 0)).length

/-- The core reset (R426): the always-on set, the fuses, the Ledger and the committed configuration stay. -/
def Leaf.coreClear (l : Leaf) : Leaf :=
  let l := Leaf.powerTear l
  { l with
    cfg := { l.cfg with unitBank := 0, plainRwl := 0, commits := 0, lock := LockState.reset, latches := [], timeStat := [], held := [] },
    cnt := { l.cnt with counters := [], slots := [], ovf := [], hists := [], samples := [], pairs := [],
                        sites := (l.cnt.sites.map fun e => (e.1, { e.2 with ctl := (e.2.ctl &&& 0x8000) ||| (Site.reset.ctl &&& 0x37FF) })).filter fun e => decide (e.2 ≠ Site.reset) },
    snap := { SnapSt.reset with adv := l.snap.adv, strobe := l.snap.strobe },
    inputs := [], trace := TraceSt.reset, dump := DumpSt.reset, assay := LeafAssay.reset, health := HealthSt.reset,
    hp := HostPort.orphan l.hp fun _ => true,
    led := { l.led with units := [], decisions := [], gbState := [], life := [], dirty := [], user := none, buf := List.replicate 272 0, status := 0,
                        cellarPaused := false },
    gb := { l.gb with ctl := GbPort.reset.ctl, queue := [], accepts := [] },
    att := AttSt.reset, cv := [], seq := { l.seq with running := false } }

/-- A core reset with its cause: the records of R184 and R188 tell what it lost, and the next Tally carries DISCONTINUITY (R103). -/
def Leaf.coreReset (l : Leaf) (cause : BitVec 3) (powerUp : Bool) : Leaf :=
  let lost := l.health.store.length + l.health.deferral.length
  let folds := LedgerSt.pendingFolds l.led
  let l := Leaf.coreClear l
  let l := { l with pwr := { l.pwr with cause := cause, count := l.pwr.count + 1 }, seq := { l.seq with powerOn := l.seq.powerOn || powerUp } }
  let l := if lost = 0 then l else Leaf.leafFault l 0xFF00 7 (Nat.min lost 0xFFFF)
  if folds = 0 then l else Leaf.leafFault l 0xFF00 8 folds

/-- LEAF_WAKE_COMPLETE (R422, R424): SLEEPING state 1 to both ends, the record of R59, heartbeats to be armed again (R421); after a retention
loss the leaf takes a core reset. -/
def Leaf.wakeComplete (l : Leaf) : Leaf :=
  if l.pwr.cellar = 4 ∧ Leaf.wakeReady l then
    let late := LeafPower.late l.pwr
    let n := l.pwr.skipped
    let l := if l.pwr.retentionLost then Leaf.coreReset l 4 false else l
    let l := { l with pwr := { l.pwr with cellar := 0, lateWake := if late then satAdd16 l.pwr.lateWake 1 else l.pwr.lateWake, retentionLost := false, skipped := 0 },
                      led := { l.led with cellarPaused := false, write := l.led.write.map fun w => { w with torn := false } },
                      dump := { l.dump with beats := (l.dump.beats.map fun e => (e.1, { e.2 with armed := false, last := Leaf.now l })).filter fun e => decide (e.2 ≠ Beat.reset) } }
    let l := Leaf.sendBoth l (.sleeping { state := 1, refType := 0, refTag := 0, time := TimeDom.ns64 l.time })
    let l := if n = 0 then l else Leaf.raise l 0x1A 0xFF00 n.toNat
    Leaf.sendEndDue l
  else l

/-- VDD_LC_LOSS outside Cellar (R423). -/
def Leaf.lcLoss (l : Leaf) : Leaf := if Leaf.asleep l then l else Leaf.coreReset l 3 true

/-- RETENTION_LOSS in Cellar (R424). -/
def Leaf.retention (l : Leaf) : Leaf := if Leaf.asleep l then { l with pwr := { l.pwr with retentionLost := true } } else l

/-- The cause code of a cold reset (R427). -/
def ColdCause.code : ColdCause → BitVec 3
  | .powerOn => 0
  | .brownOut => 1
  | .pin => 2

/-- LEAF_COLD_RESET (R426): everything but the fuses and the Ledger; counter BIST and spares are applied again (R75). What the leaf had put out
stays in the log. -/
def Leaf.coldReset (l : Leaf) (cause : BitVec 3) (failed : List Nat) : Leaf :=
  let l := Leaf.powerTear l
  let fs := failed.filter fun i => decide (i < 4096)
  let l' := { Leaf.reset with kind := l.kind, fuses := l.fuses, led := { LedgerSt.reset with pages := l.led.pages }, out := l.out, free := l.free,
                              cnt := { Counting.reset with spared := fs.take 128, failed := fs.drop 128 }, pwr := { LeafPower.reset with cause := cause } }
  (fs.drop 128).foldl (fun l i => Leaf.leafFault l 0xFF02 1 i) l'

/-- LEAF_CORE_RESET through lf_core_rst_n (R426): not a power-up (R176). -/
def Leaf.coreResetPin (l : Leaf) : Leaf := Leaf.coreReset { l with pwr := { l.pwr with cellar := 0 } } 3 false

/-- HOST_PORT_RESET (R426, R449): requester latches and held low words, host firmware's lock, and every outstanding initiator request as an
error. -/
def Leaf.hostPortReset (l : Leaf) : Leaf :=
  let l := if l.cfg.lock.owner ≠ 0 ∧ LockState.byEnd l.cfg.lock = false then Leaf.loseLock l 2 else l
  let drop (k : Nat) : Bool := decide (k / 65536 < 16) && (decide (k % 65536 = 0x108) || decide (0x7000 ≤ k % 65536))
  let l := { l with cfg := { l.cfg with latches := Cells.dropKeys (fun k => decide (k < 16)) l.cfg.latches, timeStat := Cells.dropKeys (fun k => decide (k < 16)) l.cfg.timeStat,
                                        held := Cells.dropKeys drop l.cfg.held },
                    hp := { l.hp with inReset := true, releasedAt := none }, pwr := { l.pwr with count := l.pwr.count + 1 } }
  (Cells.keys l.hp.outstanding).foldl (fun l t => Leaf.initResponse l t true true []) l

/-- HOST_PORT_RESET_RELEASE (R449). -/
def Leaf.hostPortRelease (l : Leaf) : Leaf := if l.hp.inReset then { l with hp := { l.hp with inReset := false, releasedAt := some (Leaf.now l) } } else l

/-- STATION_RESET: pre-counters and queue (R451; log entry 22). -/
def Leaf.stationReset (l : Leaf) (i : Nat) : Leaf :=
  Leaf.setStn l i { Leaf.stn l i with prev := 0xFFFFFFFFFFFFFFFF, pre := [], drain := [], queue := [], rr := 0, old := none }

/-- TRACE_PORT_RESET (R451; log entry 22). -/
def Leaf.tracePortReset (l : Leaf) (c : Nat) : Leaf :=
  Leaf.setTrcPort l c { Leaf.trcPort l c with acc := [], queue := [], ctx := 0, syncReq := false }

end Sys2Proof.Machine
end

