-- ==== Sys2Proof/Machine/State.lean ====
section
/-! DEFINITION. The state of the block: a leaf on a ring, a Tervon with its internal leaf, and the queue of waiting
commands; the outcomes' reasons; and the state after reset. -/

namespace Sys2Proof.Machine

/-- Why a step could stop with a fault. The spec gives every command an effect, or says that nothing changes, so no command
of this model faults and the type has no constructor (safe: nothing is claimed of a stop). -/
inductive Fault where
  deriving DecidableEq, Repr

/-- Why a command could be refused. -/
inductive Refusal where
  /-- Raised by `exec` alone, for a command that has no meaning yet, named as the opcode table spells it. Safe: the machine
  stops where the hardware goes on. -/
  | notModelled (mnemonic : String)
  deriving DecidableEq, Repr

/-- The block. -/
structure State where
  /-- A leaf on a ring. -/
  leaf : Leaf
  /-- A Tervon, with its internal leaf. -/
  tv : Tervon
  /-- Commands waiting, first in, first out. -/
  pending : List Instr
  deriving DecidableEq, Repr

/-- The block right after reset: both parts at their reset values, no command waiting. -/
def State.reset : State where
  leaf := Leaf.reset
  tv := Tervon.reset
  pending := []

end Sys2Proof.Machine
end

