-- ==== Sys2Proof/Machine/Ops.lean ====
section
/-! DEFINITION. How a command reaches the part it names: the ring leaf, the internal leaf with its Tervon's time domain
(R220), or the Tervon. -/

namespace Sys2Proof.Machine

/-- The outcome type of a meaning. -/
abbrev Res := Host.Outcome State Fault Refusal

/-- Keep the internal leaf's time equal to the Tervon's (R220: it takes its time directly from the Tervon's time domain); that it is the internal
one is how it is built and no command changes it. -/
def Tervon.syncTime (t : Tervon) : Tervon := { t with ileaf.time := t.time, ileaf.kind := .internal }

/-- The internal leaf with the Tervon's time domain in place. -/
def Tervon.ileafNow (t : Tervon) : Leaf := { t.ileaf with time := t.time }

/-- Run an operation on the internal leaf, which shares the Tervon's time domain. -/
def Tervon.onIleaf (t : Tervon) (f : Leaf → Leaf) : Tervon :=
  Tervon.syncTime { t with ileaf := f (Tervon.ileafNow t) }

/-- The leaf named, as an operation on it finds it. -/
def State.leafNow (s : State) : LeafId → Leaf
  | .ring => s.leaf
  | .internal => Tervon.ileafNow s.tv

/-- Put a leaf in place of the one named. -/
def State.putLeaf (s : State) (who : LeafId) (l : Leaf) : State :=
  match who with
  | .ring => { s with leaf := { l with kind := .ring } }
  | .internal => { s with tv := Tervon.syncTime { s.tv with ileaf := l } }

/-- Put a Tervon in place; the internal leaf follows its time. -/
def State.putTv (s : State) (t : Tervon) : State := { s with tv := Tervon.syncTime t }

/-- Run an operation on the leaf named. -/
def State.onLeaf (s : State) (who : LeafId) (f : Leaf → Leaf) : State := State.putLeaf s who (f (State.leafNow s who))

/-- Run an operation on the Tervon; the internal leaf follows its time. -/
def State.onTv (s : State) (f : Tervon → Tervon) : State := State.putTv s (f s.tv)

/-- The next state with the leaf named changed. -/
def leafStep (who : LeafId) (f : Leaf → Leaf) (s : State) : Res := .next (State.onLeaf s who f)

/-- The next state with the Tervon changed. -/
def tvStep (f : Tervon → Tervon) (s : State) : Res := .next (State.onTv s f)

/-- The next state with the part named changed. -/
def partStep (p : Part) (f : Leaf → Leaf) (g : Tervon → Tervon) (s : State) : Res :=
  match p with
  | .leaf who => leafStep who f s
  | .tervon => tvStep g s

/-- The leaf that has the port named: the ring leaf's two ports; the internal link stands in the internal leaf (R220). -/
def portStep (p : PortId) (f : Leaf → Leaf) (g : Nat → Tervon → Tervon) (s : State) : Res :=
  match p with
  | .west | .east => leafStep .ring f s
  | .internal => leafStep .internal f s
  | .tv k => if k ≤ 12 then tvStep (g k) s else .next s

/-- One cycle of the time domains of both parts (R461). -/
def idle (s : State) : State :=
  { s with leaf := { s.leaf with time := TimeDom.tick s.leaf.time },
           tv := Tervon.syncTime { s.tv with time := TimeDom.tick s.tv.time } }

end Sys2Proof.Machine
end

