-- ==== Sys2Proof/Machine/TvHost.lean ====
section
/-! DEFINITION. The Tervon's host side: functions and rings, MSI-X, records (R389), completions (R383), descriptor start and
its checks (R379, R381). -/

namespace Sys2Proof.Machine

/-- The Tervon's own time, ns. -/
def Tervon.now (t : Tervon) : Nat := TimeDom.ns t.time
/-- The class the Tervon reports (R31, R32). -/
def Tervon.tq (t : Tervon) : BitVec 4 := TimeDom.tervonClass t.time
def Tervon.emit (t : Tervon) (o : Out) : Tervon := { t with out := o :: t.out }
def Tervon.emitAll (t : Tervon) (os : List Out) : Tervon := { t with out := os.reverse ++ t.out }
def Tervon.fn (t : Tervon) (f : Nat) : HostFn := Cells.get HostFn.reset t.fns f
def Tervon.setFn (t : Tervon) (f : Nat) (v : HostFn) : Tervon := { t with fns := Cells.set HostFn.reset t.fns f v }
def HostFn.ring (x : HostFn) (i : Nat) : HostRing := Cells.get HostRing.reset x.rings i
def HostFn.setRing (x : HostFn) (i : Nat) (r : HostRing) : HostFn := { x with rings := Cells.set HostRing.reset x.rings i r }
def Tervon.ring (t : Tervon) (f i : Nat) : HostRing := HostFn.ring (Tervon.fn t f) i
def Tervon.setRing (t : Tervon) (f i : Nat) (r : HostRing) : Tervon := Tervon.setFn t f (HostFn.setRing (Tervon.fn t f) i r)
def Tervon.part (t : Tervon) (p : Nat) : PartSt := Cells.get PartSt.reset t.parts p
def Tervon.setPart (t : Tervon) (p : Nat) (v : PartSt) : Tervon := { t with parts := Cells.set PartSt.reset t.parts p v }
/-- The Tervon's coordinate (TV_POD). -/
def Tervon.x (t : Tervon) : Nat := bits t.boot.pod.toNat 10 8
def Tervon.y (t : Tervon) : Nat := bits t.boot.pod.toNat 13 11
/-- The set-up is committed (R435). -/
def Tervon.committed (t : Tervon) : Bool := decide (t.boot.setup = 1)

/-- Entries of a ring (R374). -/
def HostRing.n (r : HostRing) : Nat := 2 ^ r.size
/-- Entries that a completion or record ring holds (R374). -/
def HostRing.used (r : HostRing) : Nat := (r.head - r.tail).toNat
/-- Free entries of a completion or record ring. -/
def HostRing.free (r : HostRing) : Nat := HostRing.n r - HostRing.used r
/-- The address of entry `i` (R374). -/
def HostRing.addr (r : HostRing) (i bytes : Nat) : Nat := r.base.toNat + i % HostRing.n r * bytes
/-- The phase bit of entry `i` (R375). -/
def HostRing.phase (r : HostRing) (i : Nat) : Nat := if i / HostRing.n r % 2 = 0 then 1 else 0

/-! ### MSI-X -/

/-- Send an MSI-X message: not without Bus Master Enable (R391); a masked vector sets its pending bit. -/
def Tervon.msix (t : Tervon) (f v : Nat) : Tervon :=
  let x := Tervon.fn t f
  if !x.bme then t
  else
    let m := Cells.get MsixVec.reset x.vecs v
    if m.masked then Tervon.setFn t f { x with vecs := Cells.set MsixVec.reset x.vecs v { m with pend := true } }
    else Tervon.emit t (.msix f v)

/-- The coalescing interval of a vector, ns (TV_MSIX_COAL). -/
def HostFn.interval (x : HostFn) (v : Nat) : Nat :=
  match v with
  | 0 => bits x.coal.toNat 7 0 * 1000
  | 1 => bits x.coal.toNat 15 8 * 1000
  | _ => 0

/-- Send a message and begin its coalescing interval. -/
def Tervon.sendSignal (t : Tervon) (f v : Nat) : Tervon :=
  let x := Tervon.fn t f
  let m := Cells.get MsixVec.reset x.vecs v
  let ends := if HostFn.interval x v = 0 then none else some (Tervon.now t + HostFn.interval x v)
  Tervon.msix (Tervon.setFn t f { x with vecs := Cells.set MsixVec.reset x.vecs v { m with wanted := false, endsAt := ends } }) f v

/-- Signal a vector, at most once per coalescing interval (R373). -/
def Tervon.signal (t : Tervon) (f v : Nat) : Tervon :=
  let x := Tervon.fn t f
  let m := Cells.get MsixVec.reset x.vecs v
  match m.endsAt with
  | some e => if Tervon.now t < e then Tervon.setFn t f { x with vecs := Cells.set MsixVec.reset x.vecs v { m with wanted := true } }
              else Tervon.sendSignal t f v
  | none => Tervon.sendSignal t f v

/-- MSIX_COALESCE_EXPIRY (R373). -/
def Tervon.coalesceExpiry (t : Tervon) (f v : Nat) : Tervon :=
  let x := Tervon.fn t f
  let m := Cells.get MsixVec.reset x.vecs v
  match m.endsAt with
  | some e =>
    if e ≤ Tervon.now t then
      if m.wanted then Tervon.sendSignal t f v
      else Tervon.setFn t f { x with vecs := Cells.set MsixVec.reset x.vecs v { m with endsAt := none } }
    else t
  | none => t

/-! ### Records -/

/-- One entry of a chain: the 32-byte header with its check, then 32 body bytes (R389). -/
def recordEntry (typ flags idx count : Nat) (seq : Word) (time : Nat) (did : Did) (tq : BitVec 4) (x y len : Nat) (body : List Byte) :
    List Byte :=
  let h := [BitVec.ofNat 8 typ, BitVec.ofNat 8 flags, BitVec.ofNat 8 idx, BitVec.ofNat 8 count] ++ le 4 seq.toNat ++ le 8 time
    ++ le 3 did.toNat ++ [tq.setWidth 8, BitVec.ofNat 8 x, BitVec.ofNat 8 y] ++ le 2 len ++ zeros 4
  let b := padTo 32 body
  h ++ le 4 (crc32c (h ++ b)).toNat ++ b

/-- Entries of a record of `n` body bytes. -/
def chainLen (n : Nat) : Nat := if n ≤ 32 then 1 else (n + 31) / 32

/-- Write a chain into a record ring that has room for it (R375, R389), and signal vector 1. -/
def Tervon.writeChain (t : Tervon) (f typ flags : Nat) (did : Did) (body : List Byte) (poisoned : Bool) : Tervon :=
  let x := Tervon.fn t f
  let r := HostFn.ring x 5
  let n := chainLen body.length
  let entry (k : Nat) : Out :=
    let i := (r.head + BitVec.ofNat 32 k).toNat
    .hostWrite f (HostRing.addr r i 64) (recordEntry typ (HostRing.phase r i + flags) k n x.recSeq (Tervon.now t) did (Tervon.tq t)
      (Tervon.x t) (Tervon.y t) body.length ((body.drop (32 * k)).take 32)) poisoned
  let x' := HostFn.setRing { x with recSeq := x.recSeq + 1 } 5 { r with head := r.head + BitVec.ofNat 32 n }
  Tervon.signal (Tervon.emitAll (Tervon.setFn t f x') ((List.range n).map entry)) f 1

/-- The body of the LOSS record of a record ring (R26, R390). -/
def HostFn.lossBody (x : HostFn) : List Byte :=
  [2, 0, 0, 0] ++ le 4 (satAt 0xFFFFFFFF x.lost) ++ le 8 x.lostFirst ++ le 8 x.lostLast ++ [x.lostCls.setWidth 8] ++ zeros 7

/-- Write the LOSS record of dropped records once the ring has room (R26). -/
def Tervon.writeLoss (t : Tervon) (f : Nat) : Tervon :=
  let x := Tervon.fn t f
  let r := HostFn.ring x 5
  if x.lost = 0 ∨ r.state ≠ 1 ∨ x.bme = false ∨ HostRing.free r = 0 ∨ t.pwr.cellar = true then t
  else Tervon.writeChain (Tervon.setFn t f { x with lost := 0 }) f 9 0 didNone (HostFn.lossBody x) false

/-- Drop a record and count it (R26, R27). -/
def Tervon.dropRecord (t : Tervon) (f : Nat) : Tervon :=
  let x := Tervon.fn t f
  let now := Tervon.now t
  let x' := { x with drops := satAdd32 x.drops 1, lost := x.lost + 1, lostLast := now }
  Tervon.setFn t f (if x.lost = 0 then { x' with lostFirst := now, lostCls := Tervon.tq t } else x')

/-- Write a record to a function's record ring, or drop it: while the ring is full, not running or without Bus Master Enable, and while a
LOSS record is still to come (R26, R389, R391), and in Cellar, where the record engine stands (R425, log entry 60). `flags` holds the header flags above the phase. -/
def Tervon.record (t : Tervon) (f typ flags : Nat) (did : Did) (body : List Byte) (poisoned : Bool := false) : Tervon :=
  let x := Tervon.fn t f
  let r := HostFn.ring x 5
  if x.lost ≠ 0 ∨ r.state ≠ 1 ∨ x.bme = false ∨ HostRing.free r < chainLen body.length ∨ t.pwr.cellar = true then Tervon.dropRecord t f
  else Tervon.writeChain t f typ flags did body poisoned

/-- A DID set contains a DID (R215). -/
def PartSt.hasDid (p : PartSt) (d : Did) : Bool := p.ranges.any fun r => decide (r.1.toNat ≤ d.toNat) && decide (d.toNat ≤ r.2.toNat)

/-- The partitions whose DID set contains a DID, in ascending number. -/
def Tervon.partsOf (t : Tervon) (d : Did) : List Nat := (List.range 16).filter fun p => PartSt.hasDid (Tervon.part t p) d

/-- The functions whose record ring takes a record that names a DID (R219). -/
def Tervon.recordFns (t : Tervon) (d : Did) : List Nat :=
  match Tervon.partsOf t d with
  | [] => [0]
  | ps => ps.map (· + 1)

/-- Write a record that names a DID (R219). -/
def Tervon.recordDid (t : Tervon) (typ flags : Nat) (did : Did) (body : List Byte) (poisoned : Bool := false) : Tervon :=
  (Tervon.recordFns t did).foldl (fun t f => Tervon.record t f typ flags did body poisoned) t

/-- TIME_EVENT on the physical function's ring (R219, R390): the body's first bytes are given. -/
def Tervon.timeEvent (t : Tervon) (kind port pos cls : Nat) (ptp : Nat) (value : Nat) (frac : Nat) (did : Did := didNone) : Tervon :=
  Tervon.record t 0 8 0 did ([BitVec.ofNat 8 kind, BitVec.ofNat 8 port, BitVec.ofNat 8 pos, BitVec.ofNat 8 cls] ++ le 2 ptp ++ zeros 2
    ++ le 8 value ++ le 2 frac ++ zeros 14)

/-- ROSTER_EVENT on the physical function's ring (R219, R390). -/
def Tervon.rosterEvent (t : Tervon) (kind cause ring pos : Nat) (did : Did) (serial power epoch : Nat) : Tervon :=
  Tervon.record t 0 7 0 did ([BitVec.ofNat 8 kind, BitVec.ofNat 8 cause, BitVec.ofNat 8 ring, BitVec.ofNat 8 pos] ++ le 3 did.toNat
    ++ [0] ++ le 8 serial ++ le 4 power ++ le 2 epoch ++ zeros 10)

/-- A LOSS record (R25, R390). -/
def lossBody (point port count first last : Nat) (cls : BitVec 4) : List Byte :=
  [BitVec.ofNat 8 point, BitVec.ofNat 8 port, 0, 0] ++ le 4 count ++ le 8 first ++ le 8 last ++ [cls.setWidth 8] ++ zeros 7

/-! ### Completions -/

/-- A completion entry without its phase (R383). -/
def completionBytes (j : Job) (status flags d0 d1 d2 : Nat) : List Byte :=
  le 4 (Job.tag j) ++ le 2 status ++ [BitVec.ofNat 8 flags, BitVec.ofNat 8 j.ref.ring] ++ le 4 j.ref.idx.toNat ++ le 4 d0 ++ le 8 d1 ++ le 8 d2

/-- Set the phase bit of a completion entry. -/
def withPhase (bs : List Byte) (phase : Nat) : List Byte := setAt bs 6 (bs.getD 6 0 ||| BitVec.ofNat 8 phase)

/-- Write a completion entry at the completion ring's producer index. -/
def Tervon.putCompletion (t : Tervon) (f : Nat) (bs : List Byte) (quiet : Bool) : Tervon :=
  let x := Tervon.fn t f
  let r := HostFn.ring x 4
  let i := r.head.toNat
  let t := Tervon.emit (Tervon.setFn t f (HostFn.setRing x 4 { r with head := r.head + 1 }))
    (.hostWrite f (HostRing.addr r i 32) (withPhase bs (HostRing.phase r i)) false)
  if quiet then t else Tervon.signal t f 0

/-- A completion entry may be written now. -/
def HostFn.compOpen (x : HostFn) : Bool :=
  let r := HostFn.ring x 4
  decide (r.state = 1) && x.bme && decide (0 < HostRing.free r)

/-- Write a completion, or keep it until the completion ring runs with Bus Master Enable set and has room (R391). -/
def Tervon.postCompletion (t : Tervon) (f : Nat) (bs : List Byte) (quiet : Bool) : Tervon :=
  let x := Tervon.fn t f
  if HostFn.compOpen x = true ∧ x.heldComp = [] then Tervon.putCompletion t f bs quiet
  else Tervon.setFn t f { x with heldComp := x.heldComp ++ [bs] }

/-- Write completions that wait, oldest first, as far as the ring has room. -/
def Tervon.flushSome (t : Tervon) (f : Nat) : Nat → Tervon
  | 0 => t
  | n + 1 =>
    let x := Tervon.fn t f
    match x.heldComp with
    | bs :: r =>
      if HostFn.compOpen x then Tervon.flushSome (Tervon.putCompletion (Tervon.setFn t f { x with heldComp := r }) f bs false) f n else t
    | [] => t

/-- Write the completions that wait, after a re-arm (R391). -/
def Tervon.flushCompletions (t : Tervon) (f : Nat) : Tervon := Tervon.flushSome t f (Tervon.fn t f).heldComp.length

/-- The job a command names. -/
def Tervon.job? (t : Tervon) (r : JobRef) : Option Job := t.jobs.find? fun j => decide (j.ref = r)
def Tervon.setJob (t : Tervon) (j : Job) : Tervon := { t with jobs := t.jobs.map fun k => if k.ref = j.ref then j else k }
def Tervon.dropJob (t : Tervon) (r : JobRef) : Tervon := { t with jobs := t.jobs.filter fun k => decide (k.ref ≠ r) }

/-- A command ring that was disabled is DISABLED once its last started job has completed (R445). -/
def Tervon.settleRing (t : Tervon) (f i : Nat) : Tervon :=
  let r := Tervon.ring t f i
  if r.draining && !(t.jobs.any fun j => decide (j.ref.fn = f) && decide (j.ref.ring = i)) then
    Tervon.setRing t f i { r with state := 0, cause := 0, draining := false }
  else t

/-- Completion slots reserved: jobs started and completions that wait (R381). -/
def Tervon.reserved (t : Tervon) (f : Nat) : Nat :=
  (t.jobs.filter fun j => decide (j.ref.fn = f) && j.started).length + (Tervon.fn t f).heldComp.length

/-- A completion slot can be reserved. -/
def Tervon.slotFree (t : Tervon) (f : Nat) : Bool :=
  let r := Tervon.ring t f 4
  decide (r.state = 1) && decide (Tervon.reserved t f < HostRing.free r)

/-- The jobs of a ring, oldest first. -/
def Tervon.ringJobs (t : Tervon) (f i : Nat) : List Job := t.jobs.filter fun j => decide (j.ref.fn = f) && decide (j.ref.ring = i)

/-- Check 6 of R379: a virtual function issues only its opcodes, for its partition and the DIDs of that partition's set; partition 0xFF is the
physical function's. -/
def Tervon.permitted (t : Tervon) (j : Job) : Bool :=
  match j.ref.fn with
  | 0 => true
  | n + 1 =>
    !pfOnly (Job.op j)
      && (match Job.partNamed j with
          | some p => decide (p = n)
          | none => true)
      && (match Job.didNamed j with
          | some d => PartSt.hasDid (Tervon.part t n) d
          | none => true)

/-- The status of the first failing check of R379, after a poisoned descriptor (R393). -/
def Tervon.checkStatus (t : Tervon) (j : Job) : Option Nat :=
  if j.poison then some 25
  else match Job.formStatus j with
    | some s => some s
    | none => if Job.partRangeOk j = false then some 3 else if Tervon.permitted t j then none else some 4

/-- Remove a job and post its completion (R383). -/
def Tervon.finish (t : Tervon) (j : Job) (status flags d0 d1 d2 : Nat) : Tervon :=
  Tervon.settleRing (Tervon.postCompletion (Tervon.dropJob t j.ref) j.ref.fn (completionBytes j status flags d0 d1 d2) (Job.quiet j)) j.ref.fn j.ref.ring

/-- A steward is declared hung and has not restarted: its duties wait (R209). -/
def Tervon.stewardHung (t : Tervon) (n : Nat) : Bool := t.pwr.hung.any fun h => decide (h.1 = n)

/-- The stewards whose duties a command's work belongs to (table "Steward duties"): 2 decodes the command rings. -/
def stewardsOf (op : Nat) : List Nat :=
  if op = 0x14 then [2, 0]
  else if [0x01, 0x02, 0x03, 0x04, 0x05, 0x12, 0x13].contains op then [2, 1]
  else if [0x09, 0x0A, 0x0B, 0x0C, 0x0D].contains op then [2, 3]
  else [2]

/-- The first job of a ring that has not started may start: in ring order, after the fence, with a completion slot, on a running ring, while the
stewards concerned are not hung, and not while the Tervon enters Cellar (R209, R378, R381, R425). -/
def Tervon.nextStart (t : Tervon) (f i : Nat) : Option Job :=
  let js := Tervon.ringJobs t f i
  match js.find? fun j => !j.started with
  | none => none
  | some j =>
    let first := match js with
      | k :: _ => decide (k.ref = j.ref)
      | [] => true
    if (Tervon.ring t f i).state = 1 ∧ (Tervon.ring t f i).draining = false ∧ Tervon.slotFree t f = true ∧ t.pwr.cellar = false
        ∧ t.pwr.entering = none ∧ (stewardsOf (Job.op j)).any (Tervon.stewardHung t) = false ∧ (Job.fence j = false ∨ first = true) then some j
    else none

/-- Start a job: the first check that fails completes it, and otherwise its input is read from host memory (R379, R381). -/
def Tervon.startJob (t : Tervon) (j : Job) : Tervon :=
  match Tervon.checkStatus t j with
  | some s => Tervon.finish t { j with started := true } s 0 0 0 0
  | none =>
    let t := Tervon.setJob t { j with started := true, startedAt := Tervon.now t }
    if Job.inLen j = 0 then t else Tervon.emit t (.hostRead j.ref.fn (Job.inAddr j) (Job.inLen j))

/-- Start every job of a ring that may start. -/
def Tervon.startRing (t : Tervon) (f i : Nat) : Nat → Tervon
  | 0 => t
  | n + 1 =>
    match Tervon.nextStart t f i with
    | some j => Tervon.startRing (Tervon.startJob t j) f i n
    | none => t

/-- Start every job of a function that may start (R381). -/
def Tervon.startJobs (t : Tervon) (f : Nat) : Tervon :=
  [0, 1, 2, 3].foldl (fun t i => Tervon.startRing t f i (Tervon.ringJobs t f i).length) t

/-- Complete a job; what its completion lets start, starts. -/
def Tervon.complete (t : Tervon) (j : Job) (status : Nat) (d0 : Nat := 0) (d1 : Nat := 0) (d2 : Nat := 0) (flags : Nat := 0) : Tervon :=
  Tervon.startJobs (Tervon.finish t j status flags d0 d1 d2) j.ref.fn

/-- Write a job's output (R378). -/
def Tervon.output (t : Tervon) (j : Job) (bs : List Byte) (poisoned : Bool := false) : Tervon :=
  if bs = [] then t else Tervon.emit t (.hostWrite j.ref.fn (Job.outAddr j) bs poisoned)

/-- Run a job that has started, carries the opcode and has its whole input. -/
def Tervon.withJob (t : Tervon) (r : JobRef) (op : Nat) (act : Job → Tervon → Tervon) : Tervon :=
  match Tervon.job? t r with
  | some j => if j.started = true ∧ Job.op j = op then act j t else t
  | none => t

/-- Run a job with its input: an input of another length than the descriptor's is no input of it. -/
def Tervon.withInput (t : Tervon) (r : JobRef) (op : Nat) (d : HostData) (act : Job → Tervon → Tervon) : Tervon :=
  Tervon.withJob t r op fun j t => if Job.inputOk j d then act j t else t

/-- The partition of a function, or 16 for the physical function. -/
def ownerOf (fn : Nat) : Nat := if fn = 0 then 16 else fn - 1

/-! ### Doorbells and ring states -/

/-- Stop a ring with a cause and signal vector 2 (R377). -/
def Tervon.stopRing (t : Tervon) (f i cause : Nat) : Tervon :=
  let r := Tervon.ring t f i
  if r.state = 1 then Tervon.signal (Tervon.setRing t f i { r with state := 2, cause := cause }) f 2 else t

/-- A doorbell on a ring: valid within `bound`, else the ring stops with BAD_DOORBELL (R376). The doorbell reads back the value written. -/
def Tervon.doorbell (t : Tervon) (f i : Nat) (w : Word) (bound : HostRing → Nat) : Tervon :=
  let r := Tervon.ring t f i
  let t := Tervon.setRing t f i { r with bell := w }
  if r.state ≠ 1 then t
  else if (w - r.tail).toNat ≤ bound r then Tervon.setRing t f i { r with bell := w, tail := w }
  else Tervon.stopRing t f i 2

/-- COMMAND_DOORBELL (R376): the bound is the free entries. -/
def Tervon.commandDoorbell (t : Tervon) (f i : Nat) (w : Word) : Tervon :=
  if f ≤ 16 ∧ i ≤ 3 then Tervon.doorbell t f i w fun r => HostRing.n r - (r.tail - r.head).toNat else t

/-- COMPLETION_DOORBELL (R376): freed slots take the completions that wait and let jobs start. -/
def Tervon.completionDoorbell (t : Tervon) (f : Nat) (w : Word) : Tervon :=
  if f ≤ 16 then Tervon.startJobs (Tervon.flushCompletions (Tervon.doorbell t f 4 w fun r => (r.head - r.tail).toNat) f) f else t

/-- RECORD_DOORBELL (R26, R376). -/
def Tervon.recordDoorbell (t : Tervon) (f : Nat) (w : Word) : Tervon :=
  if f ≤ 16 then Tervon.writeLoss (Tervon.doorbell t f 5 w fun r => (r.head - r.tail).toNat) f else t

/-- DESCRIPTOR_FETCH (R381): the next descriptor of a running ring. -/
def Tervon.descriptorFetch (t : Tervon) (f i : Nat) (res : FetchResult) : Tervon :=
  let r := Tervon.ring t f i
  let live := decide (f ≤ 16) && decide (i ≤ 3) && decide (r.state = 1) && !r.draining && (Tervon.fn t f).bme && decide (r.head ≠ r.tail)
    && !t.pwr.cellar && t.pwr.entering.isNone && !Tervon.stewardHung t 2
  let add (bs : List Byte) (poison : Bool) : Tervon :=
    let j : Job := { Job.reset with ref := ⟨f, i, r.head⟩, desc := padTo 64 bs, poison := poison }
    let t := Tervon.setRing t f i { r with head := r.head + 1 }
    Tervon.startJobs { t with jobs := t.jobs ++ [j] } f
  if !live then t
  else match res with
    | .read bs => add bs false
    | .poisoned bs => add bs true
    | .error => Tervon.stopRing t f i 3

/-- RING_ARM (R377, R445): a stopped ring runs again while Bus Master Enable is set; then held completions and the LOSS record are written
first (R391). -/
def Tervon.ringArm (t : Tervon) (f i : Nat) : Tervon :=
  let r := Tervon.ring t f i
  if f ≤ 16 ∧ i ≤ 5 ∧ r.state = 2 ∧ (Tervon.fn t f).bme = true then
    let t := Tervon.setRing t f i { r with state := 1, cause := 0 }
    Tervon.startJobs (Tervon.writeLoss (Tervon.flushCompletions t f) f) f
  else t

/-- RING_EN_WRITE (R445). -/
def Tervon.ringEn (t : Tervon) (f i : Nat) (en : Bool) : Tervon :=
  let x := Tervon.fn t f
  let r := HostFn.ring x i
  if 16 < f ∨ 5 < i then t
  else if en then
    if r.state = 0 then
      let t := Tervon.setFn t f (HostFn.setRing { x with recSeq := if i = 5 then 0 else x.recSeq } i
        { r with state := 1, cause := 0, head := 0, tail := 0, bell := 0, draining := false })
      if i = 5 then Tervon.writeLoss t f else t
    else t
  else if r.state = 0 then t
  else if i = 5 then Tervon.setRing t f 5 { r with state := 0, cause := 0 }
  else if i = 4 then
    if [0, 1, 2, 3].all fun k => decide ((HostFn.ring x k).state = 0) then Tervon.setRing t f 4 { r with state := 0, cause := 0 } else t
  else
    let t := { t with jobs := t.jobs.filter fun j => j.started || decide (j.ref.fn ≠ f) || decide (j.ref.ring ≠ i) }
    Tervon.settleRing (Tervon.setRing t f i { r with draining := true }) f i

end Sys2Proof.Machine
end

