-- ==== Sys2Proof/Machine/TvLink.lean ====
section
/-! DEFINITION. The Tervon's Elzor ports: positions on the torus, sending, receiving and the checks of received frames. -/

namespace Sys2Proof.Machine

def Tervon.port (t : Tervon) (k : Nat) : LinkPort := t.ports.getD k LinkPort.reset
def Tervon.setPort (t : Tervon) (k : Nat) (q : LinkPort) : Tervon := { t with ports := setAt t.ports k q }
/-- Put the result of a link operation into a port; the class in force when a failure begins is kept for its LOSS record (R27). -/
def Tervon.putLink (t : Tervon) (k : Nat) (r : LinkRes) : Tervon :=
  let fails := (Tervon.port t k).retrain.isNone && r.1.retrain.isSome
  let t := if fails then { t with tt.failCls := Cells.set 0 t.tt.failCls k (Tervon.tq t) } else t
  Tervon.emitAll (Tervon.setPort t k r.1) r.2
def Tervon.onPort (t : Tervon) (k : Nat) (f : LinkPort → LinkRes) : Tervon := Tervon.putLink t k (f (Tervon.port t k))
def Tervon.modPort (t : Tervon) (k : Nat) (f : LinkPort → LinkPort) : Tervon := Tervon.onPort t k fun q => (f q, [])
def Tervon.linkUp? (t : Tervon) (k : Nat) : Bool := LinkPort.up (Tervon.port t k)
def Tervon.ringEnd (t : Tervon) (n : Nat) : RingEnd := Cells.get RingEnd.reset t.rings n
def Tervon.setRingEnd (t : Tervon) (n : Nat) (v : RingEnd) : Tervon := { t with rings := Cells.set RingEnd.reset t.rings n v }
/-- TV_RING_CTL of a leaf port: enabled, and the ring length (R12, R441). -/
def Tervon.ringOn (t : Tervon) (n : Nat) : Bool := bit (Cells.get 0 t.boot.ringCtl n).toNat 0
def Tervon.ringLen (t : Tervon) (n : Nat) : Nat := bits (Cells.get 0 t.boot.ringCtl n).toNat 3 1 + 1
/-- Tervon B of its pair (R13). -/
def Tervon.isB (t : Tervon) : Bool := bit t.boot.pod.toNat 14
/-- The Tervon's position code on its rings (R11). -/
def Tervon.endCode (t : Tervon) : Nat := if Tervon.isB t then 15 else 14

/-! ### The torus -/

/-- The extents of the committed shape (R14). -/
def Tervon.shape (t : Tervon) : Nat × Nat :=
  match bits t.boot.pod.toNat 7 6 with
  | 0 => (4, 4)
  | 1 => (4, 8)
  | _ => (8, 8)

/-- A position takes no part: vacant, or failed and so treated as vacant (R15, R359). -/
def Tervon.absent (t : Tervon) (x y : Nat) : Bool :=
  let i := x + (Tervon.shape t).1 * y
  bit t.boot.vacant.toNat i || bit t.boot.failedNow.toNat i

/-- The position at the far end of a peer port 9 to 12: X+, X-, Y+, Y- (R14). -/
def Tervon.peerOf (t : Tervon) (x y k : Nat) : Nat × Nat :=
  let (X, Y) := Tervon.shape t
  match k with
  | 9 => ((x + 1) % X, y)
  | 10 => ((x + X - 1) % X, y)
  | 11 => (x, (y + 1) % Y)
  | _ => (x, (y + Y - 1) % Y)

/-- A port may train: the set-up is committed, a leaf port is in use and not held disabled, and a peer port leads to a present position (R12,
R13, R15, R430, R435). -/
def Tervon.portEnabled (t : Tervon) (k : Nat) : Bool :=
  Tervon.committed t &&
    (if k < 8 then Tervon.ringOn t k && !t.boot.designation && !([3, 4].contains (Tervon.ringEnd t k).disc)
     else if k = 8 then true
     else !Tervon.absent t (Tervon.peerOf t (Tervon.x t) (Tervon.y t) k).1 (Tervon.peerOf t (Tervon.x t) (Tervon.y t) k).2)

/-! ### Leases and roster entries as the ports need them -/

def Tervon.ent (t : Tervon) (i : Nat) : RosterEnt := Cells.get RosterEnt.reset t.ros.ents i
def Tervon.setEnt (t : Tervon) (i : Nat) (e : RosterEnt) : Tervon := { t with ros.ents := Cells.set RosterEnt.reset t.ros.ents i e }
def Tervon.lease (t : Tervon) (i : Nat) : TvLease := Cells.get TvLease.reset t.ros.leases i
def Tervon.setLease (t : Tervon) (i : Nat) (e : TvLease) : Tervon := { t with ros.leases := Cells.set TvLease.reset t.ros.leases i e }
/-- The key of a position: 8 x ring + position. -/
def posKey (ring pos : Nat) : Nat := 8 * ring + pos
/-- The key of the internal leaf's lease. -/
def ileafKey : Nat := 64

/-! ### Sending -/

/-- Queue a frame on a port. -/
def Tervon.send (t : Tervon) (k : Nat) (f : Frame) : Tervon := Tervon.modPort t k fun q => LinkPort.push q f

/-- Queue a frame to a ring position from the Tervon's own end. -/
def Tervon.sendLeaf (t : Tervon) (ring pos : Nat) (tag : Half) (p : Payload) : Tervon :=
  Tervon.send t ring (mkFrame pos (Tervon.endCode t) tag t.boot.did p)

/-- Put a frame out on the internal link, which has no lanes or shapers (R220). -/
def Tervon.sendInternal (t : Tervon) (tag : Half) (p : Payload) : Tervon :=
  let (q, f) := LinkPort.stampAlive t.ilink (mkFrame 0 (Tervon.endCode t) tag t.boot.did p)
  let e := Tervon.lease t ileafKey
  let h := { f.hdr with linkSeq := q.txSeq, epoch := if e.held then e.epoch else 0 }
  Tervon.emit { t with ilink := { q with txSeq := q.txSeq + 1 } } (.tx .internal false ⟨h, f.pay⟩)

/-- Send to the leaf of a key: a ring position or the internal leaf. -/
def Tervon.sendKey (t : Tervon) (key : Nat) (tag : Half) (p : Payload) : Tervon :=
  if key = ileafKey then Tervon.sendInternal t tag p else Tervon.sendLeaf t (key / 8) (key % 8) tag p

/-- The first usable port towards a coordinate, in the order of R250; `from'` is the port that the frame arrived on. -/
def Tervon.routePort (t : Tervon) (dx dy : Nat) (from' : Option Nat) : Option Nat :=
  let (X, Y) := Tervon.shape t
  let ex := (dx + X - Tervon.x t % X) % X
  let ey := (dy + Y - Tervon.y t % Y) % Y
  let px := if ex = 0 then [] else if ex ≤ X / 2 then [9] else [10]
  let py := if ey = 0 then [] else if ey ≤ Y / 2 then [11] else [12]
  let others := [9, 10, 11, 12].filter fun k => !px.contains k && !py.contains k
  (px ++ py ++ others).find? fun k => Tervon.linkUp? t k && Tervon.portEnabled t k && decide (from' ≠ some k)

/-- Send a payload to another Tervon as a ROUTED frame (R250, R252). -/
def Tervon.sendRouted (t : Tervon) (dx dy : Nat) (tag : Half) (p : Payload) (did : Did := t.boot.did) (fl : Byte := 0) : Tervon :=
  let key := 4 * (8 * dy + dx) + (Payload.cls p).toNat
  let a := Cells.get 0 t.routeTx key
  let f := mkFrame 0 0 tag did p
  let h := { f.hdr with alive := a, flags := (if a = 0 then 4 else 0) ||| fl }
  let t := { t with routeTx := Cells.set 0 t.routeTx key (a + 1) }
  match Tervon.routePort t dx dy none with
  | some k => Tervon.send t k (mkFrame 0 0 0 t.boot.did (.routed (BitVec.ofNat 3 dx) (BitVec.ofNat 3 dy) (BitVec.ofNat 3 (Tervon.x t))
      (BitVec.ofNat 3 (Tervon.y t)) 16 h (Payload.bytes p)))
  | none => t

/-- The buddy's coordinate: a position of the shape that is not the Tervon's own (log entry 31). -/
def Tervon.buddyXY (t : Tervon) : Nat × Nat :=
  let (X, Y) := Tervon.shape t
  let b := Config.buddyPlace (Tervon.x t) (Tervon.y t)
  let c := (b.1 % X, b.2 % Y)
  if c = (Tervon.x t, Tervon.y t) then ((Tervon.x t + 1) % X, Tervon.y t) else c

/-- Send to the buddy: on the buddy port when it is up, and as ROUTED otherwise (R159, R357). -/
def Tervon.sendBuddy (t : Tervon) (tag : Half) (flags : Byte) (p : Payload) : Tervon :=
  if Tervon.linkUp? t 8 then
    let f := mkFrame 0 (Tervon.endCode t) tag t.boot.did p
    Tervon.send t 8 ⟨{ f.hdr with flags := flags }, p⟩
  else Tervon.sendRouted t (Tervon.buddyXY t).1 (Tervon.buddyXY t).2 tag p t.boot.did flags

/-- What the Tervon fills in as it sends a frame: the epoch of the lease it holds of the leaf addressed (R137, R143). -/
def Tervon.fill (t : Tervon) (k : Nat) (h : Hdr) : Hdr :=
  if k < 8 ∧ h.dst.toNat < 8 then
    let e := Tervon.lease t (posKey k h.dst.toNat)
    { h with epoch := if e.held then e.epoch else 0 }
  else h

/-- FRAME_BOUNDARY_SCHEDULE on a Tervon port (R166). -/
def Tervon.schedule (t : Tervon) (k : Nat) : Tervon :=
  let q := Tervon.port t k
  let r := LinkPort.schedule (.tv k) q (Tervon.now t) (Tervon.fill t k)
  Tervon.putLink t k r.1

/-! ### Receiving -/

/-- The ring number and key of a reception port: a leaf port and the header's src, or the internal link. -/
def rxKey (rx : Rx) : Option Nat :=
  match rx.port with
  | .tv k => if k < 8 ∧ rx.hdr.src.toNat < 8 then some (posKey k rx.hdr.src.toNat) else none
  | .internal => some ileafKey
  | _ => none

/-- The port number in records: 0 to 12, and 13 for the internal link (log entry 26). -/
def rxPortNo (rx : Rx) : Nat :=
  match rx.port with
  | .tv k => k
  | _ => 13

/-- The Tervon's end of the port that a frame arrived on. -/
def Tervon.rxPort (t : Tervon) (rx : Rx) : Option LinkPort :=
  match rx.port with
  | .tv k => if k ≤ 12 then some (Tervon.port t k) else none
  | .internal => some t.ilink
  | _ => none

def Tervon.setRxPort (t : Tervon) (rx : Rx) (q : LinkPort) : Tervon :=
  match rx.port with
  | .tv k => Tervon.setPort t k q
  | .internal => { t with ilink := q }
  | _ => t

/-- Malformed under R140 at a Tervon: types 0x30 to 0x3D are reserved on ring ports alone (R144). -/
def Tervon.frameBad (rx : Rx) (p : Payload) : Bool :=
  let h := rx.hdr
  match rx.port with
  | .tv k =>
    if k < 8 then Machine.frameBad h p
    else decide (h.type ≠ Payload.code p) || (decide (h.cls ≠ Payload.cls p) && decide (h.type ≠ 0x3F)) || badPos h.dst || badPos h.src
      || decide (h.length.toNat ≠ Payload.len p) || !Payload.lenOk p h.length.toNat || Payload.fieldBad p
  | _ => Machine.frameBad h p

/-- TV_ROSTER_CTL.silent, ns. -/
def Tervon.silentNs (t : Tervon) : Nat := bits t.ros.ctl.toNat 15 0 * 1000000

/-- Raise a ROSTER_CONFLICT cause of a position unless it is raised already (R362). -/
def Tervon.conflict (t : Tervon) (key cause : Nat) (did : Did) (serial power : Nat) : Tervon :=
  let e := Tervon.ent t key
  if e.raised.contains cause then t
  else
    let t := Tervon.setEnt t key { e with raised := cause :: e.raised }
    Tervon.rosterEvent t 1 cause (key / 8) (key % 8) did serial power (Tervon.lease t key).epoch.toNat

/-- Note that a frame of a leaf arrived, by either end of the pair (R360, R362): an EMPTY position that is seen is a conflict, raised again
after it has been silent. -/
def Tervon.noteSeen (t : Tervon) (key : Nat) : Tervon :=
  let e := Tervon.ent t key
  let now := Tervon.now t
  let wasSilent := match e.seenAt with
    | some a => decide (a + Tervon.silentNs t < now)
    | none => true
  let raised := e.raised.filter fun c => decide (c ≠ 1) && (decide (c ≠ 2) || (decide (e.state = 0) && !wasSilent))
  let t := Tervon.setEnt t key { e with seenAt := some now, raised := raised }
  if e.state = 0 then Tervon.conflict t key 2 0 (Tervon.lease t key).serial.toNat 0 else t

/-- Note that a frame of a leaf or of the buddy arrived (R358, R360). -/
def Tervon.noteFrame (t : Tervon) (rx : Rx) : Tervon :=
  match rxKey rx with
  | some key => if key = ileafKey then t else Tervon.noteSeen t key
  | none =>
    match rx.port with
    | .tv 8 => { t with mir.lastFrame := some (Tervon.now t), mir.silent := false }
    | _ => t

/-- A frame arrives at a Tervon (a ring end also receives the far end's TIME_SYNC and TIME_FOLLOW, R142): link sequence, form, direction and alive count (R132, R139 to R141, R144); then its own effect. -/
def Tervon.frameIn (t : Tervon) (rx : Rx) (p : Payload) (act : Tervon → Tervon) : Tervon :=
  match Tervon.rxPort t rx with
  | none => t
  | some q =>
    let got : Option LinkRes := match rx.port with
      | .internal => some (q, [])
      | _ => LinkPort.acceptSeq rx.port q rx.hdr (Tervon.now t)
    match got with
    | none => t
    | some (q, os) =>
      let h := rx.hdr
      let t := Tervon.emitAll t os
      let q := LinkPort.grant q h.cls.toNat (credits h.length.toNat)
      if Tervon.frameBad rx p then Tervon.setRxPort t rx { q with malformed := satAdd32 q.malformed 1 }
      else
        let onRing := match rx.port with
          | .tv k => decide (k < 8)
          | _ => false
        if onRing && (decide (h.dst.toNat ≠ Tervon.endCode t) || !(fromLeafType h.type || decide (h.type = 0x3F) || decide (h.type.toNat < 3))) then
          Tervon.setRxPort t rx { q with misrouted := satAdd32 q.misrouted 1 }
        else
          let (q, ok) := LinkPort.checkAlive q h
          let t := Tervon.noteFrame (Tervon.setRxPort t rx q) rx
          if ok then act t else t

/-- The frame carries the epoch of the lease the Tervon holds of its leaf (R351). -/
def Tervon.epochOk (t : Tervon) (key : Nat) (h : Hdr) : Bool :=
  let e := Tervon.lease t key
  e.held && decide (e.epoch = h.epoch)

/-- Frames of classes 1 to 3 of a leaf: only under the lease epoch (R351); merged from an ADMITTED position or the internal leaf, and
otherwise given to `quarantine` (R360). `act` takes the position's key. -/
def Tervon.leafFrame (t : Tervon) (rx : Rx) (p : Payload) (act quarantine : Nat → Tervon → Tervon) : Tervon :=
  Tervon.frameIn t rx p fun t =>
    match rxKey rx with
    | none => t
    | some key =>
      if Tervon.epochOk t key rx.hdr = false then { t with ros.staleEpoch := satAdd32 t.ros.staleEpoch 1 }
      else if key = ileafKey ∨ (Tervon.ent t key).state = 1 then act key t
      else quarantine key t

/-- A quarantined frame is discarded and counted per position (R360). -/
def Tervon.quarantined (key : Nat) (t : Tervon) : Tervon :=
  let e := Tervon.ent t key
  Tervon.setEnt { t with ros.quarantined := satAdd32 t.ros.quarantined 1 } key { e with quarantined := satAdd32 e.quarantined 1 }

/-- The DID by which the Tervon knows the leaf of a key. -/
def Tervon.keyDid (t : Tervon) (key : Nat) : Did := if key = ileafKey then t.boot.ileafDid else (Tervon.ent t key).did

/-- The DID that the leaf of a key holds, as its last LEASE_GRANT gave it. -/
def Tervon.leafDid (t : Tervon) (key : Nat) : Did :=
  let e := Tervon.lease t key
  if e.known then e.grantDid else Tervon.keyDid t key

/-- The key of an admitted leaf's DID, or of the internal leaf (R20). -/
def Tervon.keyOf (t : Tervon) (d : Did) : Option Nat :=
  if d = t.boot.ileafDid ∧ d ≠ 0 then some ileafKey
  else (t.ros.ents.find? fun e => decide (e.2.did = d) && decide (e.2.did ≠ 0)).map Prod.fst

def Tervon.leafRec (t : Tervon) (d : Did) : LeafRec := Cells.get LeafRec.reset t.recs d.toNat
def Tervon.setLeafRec (t : Tervon) (d : Did) (r : LeafRec) : Tervon := { t with recs := Cells.set LeafRec.reset t.recs d.toNat r }

end Sys2Proof.Machine
end

