-- ==== Sys2Proof/Machine/TvEcc.lean ====
section
/-! DEFINITION. Protection of stored data on the Tervon: the code of R411, HBM words and their reports (R412, R413), scrub (R416), row repair
(R366) and the test registers (R417). -/

namespace Sys2Proof.Machine

/-! ### The code -/

/-- Set bits of a byte. -/
def weight8 (n : Nat) : Nat := ((List.range 8).filter fun i => bit n i).length

/-- The column of each data bit (R411). -/
def eccColumns : List Nat := ((List.range 256).filter fun n => decide (weight8 n = 3)) ++ [0x1F, 0x2F, 0x37, 0x3B, 0x3D, 0x3E, 0x4F, 0x57]

/-- The check byte of a word (R411). -/
def eccCheck (d : DWord) : Byte :=
  (List.range 64).foldl (fun c i => if d.getLsbD i then c ^^^ BitVec.ofNat 8 (eccColumns.getD i 0) else c) 0

/-- A word as stored, with its check byte. -/
def eccGood (d : DWord) : EccWord := ⟨d, eccCheck d⟩

/-- How a stored word reads (R411): its data, and 0 good, 1 corrected, 2 uncorrectable. -/
def EccWord.read (w : EccWord) : DWord × Nat :=
  let s := w.chk ^^^ eccCheck w.data
  if s = 0 then (w.data, 0)
  else if weight8 s.toNat = 1 then (w.data, 1)
  else match eccColumns.findIdx? fun c => decide (c = s.toNat) with
    | some i => (w.data ^^^ (1#64 <<< i), 1)
    | none => (w.data, 2)

/-- A word stored with poison (R415). -/
def eccPoison (d : DWord) : EccWord := ⟨d, eccCheck d ^^^ 0xFF⟩

/-! ### Reports -/

/-- A report of the Tervon's own hardware to its internal leaf, as a host report (R189, R413). -/
def Tervon.hostReport (t : Tervon) (unit sev locus : Nat) : Tervon :=
  Tervon.onIleaf t fun l => Leaf.raiseError l (Leaf.hostRecord l (if sev = 0 then 0x01 else 0x02) (BitVec.ofNat 16 unit) 0 (BitVec.ofNat 24 locus))

/-- A corrected or uncorrectable word is reported, at most 1,000 times per unit each second (R413). -/
def Tervon.eccReport (t : Tervon) (unit sev locus : Nat) : Tervon :=
  let sec := Tervon.now t / 1000000000
  let t := if t.ecc.rateSec = sec then t else { t with ecc := { t.ecc with rateSec := sec, rates := [] } }
  let n := Cells.get 0 t.ecc.rates unit
  let t := if sev = 0 then { t with ecc.corrected := satAdd32 t.ecc.corrected 1 } else { t with ecc.uncorrectable := satAdd32 t.ecc.uncorrectable 1 }
  if 1000 ≤ n then { t with ecc.excess := satAdd32 t.ecc.excess 1 }
  else Tervon.hostReport { t with ecc.rates := Cells.set 0 t.ecc.rates unit (n + 1) } unit sev locus

/-! ### HBM -/

/-- Stack, pseudo-channel and row of a byte address (R213; log entry 43). -/
def hbmPlace (a : Nat) : Nat × Nat × Nat := (a / 4096 % 6, a / 24576 % 32, a / 786432)

/-- The unit identifier of an HBM address (R222). -/
def hbmUnit (a : Nat) : Nat := 0x0500 + 32 * (hbmPlace a).1 + (hbmPlace a).2.1

/-- A row is due for repair after an uncorrectable error, or corrected errors at 2 distinct addresses (R366). -/
def Tervon.noteRow (t : Tervon) (a : Nat) (bad : Bool) : Tervon :=
  let (s, c, r) := hbmPlace a
  let e := (s, c, r, a)
  let t := if t.ecc.rowErrs.contains e then t else { t with ecc.rowErrs := e :: t.ecc.rowErrs }
  let here := t.ecc.rowErrs.filter fun x => decide (x.1 = s) && decide (x.2.1 = c) && decide (x.2.2.1 = r)
  if (bad ∨ 2 ≤ here.length) ∧ t.ecc.repairing.contains (s, c, r) = false ∧ t.ecc.hard.contains (s, c, r) = false then
    { t with ecc.repairing := t.ecc.repairing ++ [(s, c, r)] }
  else t

/-- One HBM word is read: a corrected one is written back corrected and reported; an uncorrectable one is reported and stays (R413). -/
def Tervon.hbmWord (t : Tervon) (a : Nat) (plain : DWord) : Tervon × DWord × Bool :=
  match Cells.get none t.ecc.hbm (a / 8) with
  | none => (t, plain, false)
  | some w =>
    let (d, st) := EccWord.read w
    match st with
    | 0 => (t, d, false)
    | 1 =>
      let t := { t with ecc.hbm := Cells.set none t.ecc.hbm (a / 8) (some (eccGood d)) }
      (Tervon.noteRow (Tervon.eccReport t (hbmUnit a) 0 (hbmPlace a).2.2) a false, d, false)
    | _ => (Tervon.noteRow (Tervon.eccReport t (hbmUnit a) 1 (hbmPlace a).2.2) a true, d, true)

/-- Read bytes of HBM from a multiple of 8: what they hold, and whether a 32-byte unit of them is poisoned (R412). `plain` is what the owner of the
area stored there last. -/
def Tervon.hbmBytes (t : Tervon) (a : Nat) (plain : List Byte) : Tervon × List Byte × Bool :=
  (chunks 8 plain).zipIdx.foldl (fun (acc : Tervon × List Byte × Bool) c =>
    let (t, d, p) := Tervon.hbmWord acc.1 (a + 8 * c.2) (BitVec.ofNat 64 (fromLe c.1))
    (t, acc.2.1 ++ le 8 d.toNat, acc.2.2 || p)) (t, [], false)

/-- A word of the area holds a raw state of its own. -/
def Tervon.hbmTouched (t : Tervon) (a n : Nat) : Bool := t.ecc.hbm.any fun e => decide (a / 8 ≤ e.1) && decide (e.1 < (a + n + 7) / 8)

/-- The owner of an area writes it: raw states there end. -/
def Tervon.hbmWritten (t : Tervon) (a n : Nat) : Tervon :=
  if Tervon.hbmTouched t a n then { t with ecc.hbm := Cells.dropKeys (fun k => decide (a / 8 ≤ k) && decide (k < (a + n + 7) / 8)) t.ecc.hbm } else t

/-! ### Contents of the areas that the spec lays out (R213) -/

/-- The 64 bytes of a stream entry (R230). -/
def StreamEnt.bytes (e : StreamEnt) : List Byte :=
  le 3 e.did.toNat ++ [e.kind.setWidth 8] ++ le 2 e.item.toNat ++ [e.flags, e.pset.setWidth 8] ++ le 8 e.last.toNat ++ le 4 e.seq.toNat ++ le 2 e.gaps.toNat
    ++ le 2 e.samples.toNat ++ le 8 e.mean.toNat ++ le 8 e.var'.toNat ++ le 4 e.up.toNat ++ le 4 e.down.toNat ++ le 8 e.min'.toNat ++ le 8 e.max'.toNat

/-- A stream entry from its 64 bytes. -/
def StreamEnt.parse (bs : List Byte) : StreamEnt :=
  { did := BitVec.ofNat 24 (field bs 0 3), kind := BitVec.ofNat 4 (field bs 3 1), item := BitVec.ofNat 16 (field bs 4 2),
    flags := BitVec.ofNat 8 (field bs 6 1), pset := BitVec.ofNat 4 (field bs 7 1), last := w64 (field bs 8 8), seq := w32 (field bs 16 4),
    gaps := BitVec.ofNat 16 (field bs 20 2), samples := BitVec.ofNat 16 (field bs 22 2), mean := w64 (field bs 24 8),
    var' := w64 (field bs 32 8), up := w32 (field bs 40 4), down := w32 (field bs 44 4), min' := w64 (field bs 48 8), max' := w64 (field bs 56 8) }

/-- The address of a stream entry (R230). -/
def streamAddr (i : Nat) : Nat := 0x4000000 + 64 * i

/-- The 72 bytes of a stored entry (R294). -/
def KEntry.bytes (e : KEntry) : List Byte := e.slots.flatMap (fun w => le 4 w.toNat) ++ zeros (64 - 4 * e.slots.length) ++ le 2 e.tree ++ zeros 2 ++ le 4 e.val.toNat

/-- The address of a golden entry (R213, R294). -/
def goldenAddr (p e : Nat) : Nat := 0x8000000 + 1048576 * p + 72 * e

/-- What an HBM word holds by its owner's last store; an area without a layout in the spec reads as zero (log entry 9). -/
def Tervon.hbmPlain (t : Tervon) (a : Nat) : DWord :=
  if a < 0x100000 then Cells.get 0 t.ros.route (a / 8)
  else if 0x4000000 ≤ a ∧ a < 0x8000000 then
    let i := (a - 0x4000000) / 64
    BitVec.ofNat 64 (field (StreamEnt.bytes (Cells.get StreamEnt.reset t.str.table i)) (a % 64) 8)
  else if 0x8000000 ≤ a ∧ a < 0xA400000 then
    let p := (a - 0x8000000) / 1048576
    let o := (a - 0x8000000) % 1048576
    let x := Cells.get KTile.reset t.ktiles p
    let two := KEntry.bytes (Cells.get KEntry.reset x.golden (o / 72)) ++ KEntry.bytes (Cells.get KEntry.reset x.golden (o / 72 + 1))
    BitVec.ofNat 64 (field two (o % 72) 8)
  else 0

/-- An HBM word as it stands, with its check byte. -/
def Tervon.hbmRaw (t : Tervon) (a : Nat) : EccWord :=
  match Cells.get none t.ecc.hbm (a / 8) with
  | some w => w
  | none => eccGood (Tervon.hbmPlain t a)

/-! ### Route table -/

/-- The route entry of a DID, unless its unit is poisoned (R415). -/
def Tervon.routeRead (t : Tervon) (d : Did) : Tervon × DWord :=
  let i := bits d.toNat 16 0
  if Tervon.hbmTouched t (8 * i) 8 then
    let (t, v, bad) := Tervon.hbmWord t (8 * i) (Cells.get 0 t.ros.route i)
    (t, if bad then 0 else v)
  else (t, Cells.get 0 t.ros.route i)

/-! ### Patrol scrub -/

/-- HBM_PATROL_SCRUB of the 32-byte unit at an address (R416). -/
def Tervon.scrubHbm (t : Tervon) (a : Nat) : Tervon :=
  let b := a / 32 * 32
  [0, 8, 16, 24].foldl (fun t o => (Tervon.hbmWord t (b + o) (Tervon.hbmPlain t (b + o))).1) t

/-- The unit of a global SRAM address (R212, R222; log entry 43). -/
def gsramUnit (a : Nat) : Nat := if a < 8388608 then 0x0400 else if a < 12582912 then 0x0401 else 0x0402

/-- The key of a tile SRAM word. -/
def tsramKey (tile a : Nat) : Nat := 1048576 * tile + a / 8

/-- An SRAM word as it stands. -/
def Tervon.sramRaw (t : Tervon) (target tile a : Nat) : EccWord :=
  if target = 1 then Cells.get EccWord.reset t.ecc.gsram (a / 8) else Cells.get EccWord.reset t.ecc.tsram (tsramKey tile a)

def Tervon.setSram (t : Tervon) (target tile a : Nat) (w : EccWord) : Tervon :=
  if target = 1 then { t with ecc.gsram := Cells.set EccWord.reset t.ecc.gsram (a / 8) w }
  else { t with ecc.tsram := Cells.set EccWord.reset t.ecc.tsram (tsramKey tile a) w }

/-- SRAM_PATROL_SCRUB of a word: global SRAM (1) or a physical tile's (2) (R413, R416). The words of other SRAMs are good: nothing writes
them raw. -/
def Tervon.scrubSram (t : Tervon) (target tile a : Nat) : Tervon :=
  if target ≠ 1 ∧ target ≠ 2 then t
  else
    let (d, st) := EccWord.read (Tervon.sramRaw t target tile a)
    let unit := if target = 1 then gsramUnit a else 0x0102 + 16 * tile
    match st with
    | 0 => t
    | 1 => Tervon.eccReport (Tervon.setSram t target tile a (eccGood d)) unit 0 (a / 8)
    | _ => Tervon.eccReport t unit 1 (a / 8)

/-! ### Row repair -/

/-- Words of a row that a raw state covers. -/
def inRow (s c r : Nat) (word : Nat) : Bool := decide (hbmPlace (8 * word) = (s, c, r))

/-- HBM_ROW_REPAIR_COMPLETE (R366): the data goes back, words that cannot be corrected with their poison; the row is recorded for hard repair.
Without a repair resource, its 4 KiB unit is remapped, or the Tervon says that it cannot be repaired (log entry 42). -/
def Tervon.rowRepaired (t : Tervon) (s c r : Nat) : Tervon :=
  if t.ecc.repairing.contains (s, c, r) = false then t
  else
    let back (w : EccWord) : EccWord :=
      let (d, st) := EccWord.read w
      if st = 2 then eccPoison d else eccGood d
    let hbm : Cells (Option EccWord) := t.ecc.hbm.map fun e => if inRow s c r e.1 then (e.1, Option.map back e.2) else e
    let t : Tervon := { t with ecc := { t.ecc with hbm := hbm, repairing := t.ecc.repairing.filter fun x => decide (x ≠ (s, c, r)), rowErrs := t.ecc.rowErrs.filter fun x => decide ((x.1, x.2.1, x.2.2.1) ≠ (s, c, r)) } }
    let used := (t.ecc.hard.filter fun x => decide (x.1 = s) && decide (x.2.1 = c)).length
    let base : Nat := (r * 32 + c) * 24576 + s * 4096
    if used < Config.repairRows s c then { t with ecc.hard := t.ecc.hard ++ [(s, c, r)] }
    else if base < 0x100000 ∨ (0x4000000 ≤ base ∧ base < 0x8000000) ∨ (0xC000000 ≤ base ∧ base < 0x10000000) ∨ 16384 ≤ t.ecc.remapped then
      Tervon.hostReport t (hbmUnit base) 1 r
    else { t with ecc.remapped := t.ecc.remapped + 1 }

/-! ### Test registers -/

/-- Every partition is empty (R215). -/
def Tervon.allEmpty (t : Tervon) : Bool :=
  (List.range 16).all fun p =>
    let x := Tervon.part t p
    decide (x.tiles = 0) && decide (x.quota = 0) && decide (x.hbm = 0) && decide (x.bw = 0) && x.minima.all (fun m => decide (m = 0)) && x.ranges.isEmpty

/-- The access names a word of the target (R417). -/
def eccAddrOk (target a : Nat) : Bool :=
  decide (a % 8 = 0) && decide (a < (match target with
    | 0 => 154618822656
    | 1 => 16777216
    | _ => 8388608))

/-- The access that a write of TV_ECC_TEST performs once its fields stand (R417). -/
def Tervon.eccAccess (t : Tervon) (write : Bool) : Tervon :=
  let v := t.ecc.test.toNat
  let target := bits v 2 1
  let tile := bits v 9 4
  let a := t.ecc.addr.toNat
  if eccAddrOk target a = false then { t with ecc.testIgnored := satAdd32 t.ecc.testIgnored 1 }
  else if write then
    let w : EccWord := ⟨t.ecc.data, BitVec.ofNat 8 (bits v 23 16)⟩
    if target = 0 then { t with ecc.hbm := Cells.set none t.ecc.hbm (a / 8) (some w) } else Tervon.setSram t target tile a w
  else
    let w := if target = 0 then Tervon.hbmRaw t a else Tervon.sramRaw t target tile a
    { t with ecc.data := w.data, ecc.test := (t.ecc.test &&& 0xFFFFFFFFFF00FFFF) ||| (w.chk.setWidth 64 <<< 16) }

/-- A write of TV_ECC_TEST with op 0 or 1 (R417): en, target and tile are checked, the fields take effect, and then op is performed while en
is 1. -/
def Tervon.eccTest (t : Tervon) (fn : Nat) (v : DWord) (write : Bool) : Tervon :=
  let n := v.toNat
  if fn ≠ 0 then t
  else if (bit n 0 = true ∧ Tervon.allEmpty t = false) ∨ bits n 2 1 = 3 ∨ 35 < bits n 9 4 then { t with ecc.testRefused := satAdd32 t.ecc.testRefused 1 }
  else
    let t := { t with ecc.test := v &&& 0xFF03F7 }
    if bit n 0 then Tervon.eccAccess t write else t

end Sys2Proof.Machine
end

