-- ==== Sys2Proof/Machine/TvPorts.lean ====
section
/-! DEFINITION. Events of a Tervon's ports: lanes, retraining and port down (R129 to R134), training, discovery (R430), the start of leases
(R347), the mirror mark (R355) and firing slots (R57). -/

namespace Sys2Proof.Machine

/-! ### Leases: when to acquire -/

def Tervon.preferred (t : Tervon) (key : Nat) : Bool := decide (key = ileafKey) || bit t.ros.lease.toNat (key / 8)
def Tervon.leaseDur (t : Tervon) : Nat := bits t.ros.lease.toNat 16 8
def Tervon.takeover (t : Tervon) : Nat := bits t.ros.lease.toNat 22 17 * 1000000
def Tervon.fenceHold (t : Tervon) : Nat := bits t.ros.lease.toNat 31 23 * 10000000
def Tervon.tmo (t : Tervon) : Nat := t.ros.req * 1000

/-- The fence hold-off of a position runs (R350). -/
def Tervon.fenced (t : Tervon) (key : Nat) : Bool :=
  match (Tervon.lease t key).fenceUntil with
  | some e => decide (Tervon.now t < e)
  | none => false

/-- Send a LEASE_REQ. A leaf that is not admitted is addressed by DID 0 (R146). -/
def Tervon.sendLease (t : Tervon) (key op : Nat) (did : Did) : Tervon :=
  let e := Tervon.lease t key
  let dur := if op < 2 then Tervon.leaseDur t else 0
  let ep : Half := if op = 1 ∨ op = 2 then e.epoch else 0
  Tervon.sendKey t key 0 (.leaseReq { op := BitVec.ofNat 8 op, duration := BitVec.ofNat 16 dur, epoch := ep, did := did })

/-- Acquire: the DID that the leaf last gave, or the roster's. -/
def Tervon.acquire (t : Tervon) (key : Nat) : Tervon :=
  Tervon.sendLease t key 0 (Tervon.leafDid t key)

/-- The leaf of a position has no holder, or is discovered: the preferred end acquires at once, the other after takeover ms (R347). -/
def Tervon.wantLease (t : Tervon) (key : Nat) : Tervon :=
  if Tervon.fenced t key then t
  else if Tervon.preferred t key then Tervon.acquire t key
  else Tervon.setLease t key { Tervon.lease t key with takeoverAt := some (Tervon.now t + Tervon.takeover t) }

/-! ### Mirroring mark -/

/-- Mark the Tervon unmirrored (R355): changes wait for the full resend. -/
def Tervon.markUnmirrored (t : Tervon) : Tervon :=
  let u := { t with mir.unmirrored := true, mir.resend := none, mir.dirty := [] }
  if t.mir.unmirrored then u else Tervon.rosterEvent u 2 0 0 0 0 0 0 0

/-- Unmirrored because the buddy is out of reach: no MIRROR_ACK is awaited (R355, log entry 58). -/
def Tervon.unmirror (t : Tervon) : Tervon := Tervon.markUnmirrored { t with mir.unacked := [] }

/-! ### Lanes and link failures -/

/-- A lane of this Tervon's hop of a ring changed: the hop's calibration reruns (R45). Hop 0 is end A's, hop L is end B's. -/
def Tervon.laneChanged (t : Tervon) (k : Nat) : Tervon :=
  if k < 8 then Tervon.setRingEnd t k { Tervon.ringEnd t k with rerun := some (if Tervon.isB t then Tervon.ringLen t k else 0) } else t

/-- LANE_READY on a Tervon port (R129). -/
def Tervon.laneReady (t : Tervon) (k lane : Nat) : Tervon :=
  let (r, moved) := LinkPort.laneReady (.tv k) (Tervon.port t k) lane (Tervon.now t)
  let t := Tervon.putLink t k r
  if moved then Tervon.laneChanged t k else t

/-- RETRAIN_COMPLETE on a Tervon port (R134). -/
def Tervon.retrained (t : Tervon) (k lane : Nat) : Tervon :=
  let (r, moved) := LinkPort.retrained (.tv k) (Tervon.port t k) (Quad.all 0) lane
  let t := Tervon.putLink t k r
  if moved then Tervon.laneChanged t k else t

/-- Frames that a port going down discards (R134). -/
def LinkPort.atRisk (q : LinkPort) : Nat := q.replay.length + q.own.c0.length + q.own.c1.length + q.own.c2.length + q.own.c3.length

/-- PORT_DOWN_TIMEOUT on a Tervon port (R134): the LOSS record of R25; a source behind the port loses its filter (R48); a buddy port down
makes the Tervon unmirrored (R355). -/
def Tervon.portDown (t : Tervon) (k : Nat) : Tervon :=
  let q := Tervon.port t k
  let now := Tervon.now t
  if LinkPort.downDue q now then
    let t := Tervon.setPort t k (LinkPort.goDown q now)
    let t := Tervon.record t 0 9 0 didNone (lossBody 1 k (satAt 0xFFFFFFFF (LinkPort.atRisk q)) q.failedAt now (Cells.get 0 t.tt.failCls k))
    let t := if 9 ≤ k then { t with time := TimeDom.setSource t.time (k - 9) { TimeDom.source t.time (k - 9) with filt := none } } else t
    if k = 8 then Tervon.unmirror t else t
  else t

/-! ### Training and discovery -/

/-- Discovery begins at this end of a ring (R430). -/
def Tervon.startDiscovery (t : Tervon) (k : Nat) : Tervon :=
  let len := Tervon.ringLen t k
  let e := Tervon.ringEnd t k
  let t := Tervon.setRingEnd t k { e with disc := 0, found := 0 }
  let id := if Tervon.isB t then 0xF100 + (len - 1) else 0xF000
  Tervon.emit t (.ctl (.tv k) (.probe (BitVec.ofNat 16 id) (BitVec.ofNat 8 len)))

/-- A port's link comes up; discovery runs on its ring (R430). -/
def Tervon.bringUp (t : Tervon) (k : Nat) : Tervon :=
  let t := Tervon.modPort t k fun q => LinkPort.bringUp q (Quad.all 0) (Tervon.now t)
  if k < 8 then Tervon.startDiscovery t k else t

/-- LINK_TRAINED on a Tervon port (R430, R435). -/
def Tervon.linkTrained (t : Tervon) (k : Nat) : Tervon :=
  if Tervon.portEnabled t k && LinkPort.mayTrain (Tervon.port t k) then Tervon.bringUp t k else t

/-- TRAINING_RETRY on a Tervon port (R134, R364). -/
def Tervon.trainingRetry (t : Tervon) (k : Nat) (ok : Bool) (lane : Nat) : Tervon :=
  if Tervon.portEnabled t k && LinkPort.retryDue (Tervon.port t k) (Tervon.now t) then
    if ok then Tervon.bringUp (Tervon.modPort t k fun q => (LinkPort.trained q lane).1) k
    else Tervon.modPort t k fun q => { LinkPort.trainFailed q lane with downAt := Tervon.now t }
  else t

/-- The leaves of a ring are discovered: calibration begins and each leaf is acquired (R43, R347, log entry 28). -/
def Tervon.ringComplete (t : Tervon) (k : Nat) : Tervon :=
  let len := Tervon.ringLen t k
  let e := Tervon.ringEnd t k
  let t := Tervon.setRingEnd t k { e with disc := 1, found := len, calRun := if t.boot.warm ∧ e.cal = true then none else some (Tervon.now t) }
  (List.range len).foldl (fun t p =>
    let key := posKey k p
    let l := Tervon.lease t key
    let t := Tervon.setLease t key { l with known := true, grantDid := if l.known then l.grantDid else Tervon.keyDid t key }
    if l.held then t else Tervon.wantLease t key) t

/-- A designation disagreement: no leaf port is enabled, and ROSTER_CONFLICT cause 7 is raised once (R13, R362). -/
def Tervon.designationFails (t : Tervon) (k : Nat) : Tervon :=
  let t := Tervon.setRingEnd t k { Tervon.ringEnd t k with disc := 4 }
  let t := { t with boot.designation := true }
  let t := (List.range 8).foldl (fun t i => Tervon.modPort t i fun q => if q.link = 0 then q else LinkPort.goDown q (Tervon.now t)) t
  if t.ros.conflicts.contains 7 then t
  else Tervon.rosterEvent { t with ros.conflicts := 7 :: t.ros.conflicts } 1 7 k 0 0 0 0 0

/-- PROBE at a Tervon: echoed; a discovery PROBE has the outcome of the table "Discovery outcomes" (R430). -/
def Tervon.probe (t : Tervon) (k : Nat) (id : Half) : Tervon :=
  let t := Tervon.emit t (.ctl (.tv k) (.probeEcho id))
  let n := id.toNat
  let down (t : Tervon) : Tervon := Tervon.modPort t k fun q => LinkPort.goDown q (Tervon.now t)
  let set (d f : Nat) (t : Tervon) : Tervon := Tervon.setRingEnd t k { Tervon.ringEnd t k with disc := d, found := f }
  if 8 ≤ k ∨ n < 0xF000 ∨ 0xF1FF < n then t
  else if Tervon.isB t then
    if 0xF100 ≤ n then Tervon.designationFails t k
    else
      let j := n - 0xF000
      if j = 0 then down (set 3 0 t)
      else if j = Tervon.ringLen t k then Tervon.ringComplete t k
      else if j ≤ 8 then set 2 j t
      else t
  else if 0xF100 ≤ n then down (set 3 0 t)
  else Tervon.designationFails t k

/-- PROBE_ECHO at a Tervon: a hop round trip (R43); the echo of end A's own discovery PROBE shows that its ring answers (log entry 28). -/
def Tervon.probeEcho (t : Tervon) (k : Nat) (id : Half) (trip : Nat) : Tervon :=
  if 8 ≤ k then t
  else
    let e := Tervon.ringEnd t k
    let t := Tervon.setRingEnd t k { e with hopTrip := Cells.set 0 e.hopTrip id.toNat trip }
    if Tervon.isB t = false ∧ id = 0xF000 ∧ e.disc = 0 then Tervon.ringComplete t k else t

/-! ### Appointments -/

def Tervon.slot (t : Tervon) (i : Nat) : Slot := Cells.get Slot.reset t.appts i
def Tervon.setSlot (t : Tervon) (i : Nat) (s : Slot) : Tervon := { t with appts := Cells.set Slot.reset t.appts i s }

/-- A slot of a Tervon whose appointment of this action is due fires (R57 to R59). -/
def Tervon.fire (t : Tervon) (i : Nat) (action : Byte) (act : Nat → Tervon → Tervon) : Tervon :=
  if slotFires t.appts i action (Tervon.now t) then
    let s := Tervon.slot t i
    act (Slot.arg s) (Tervon.setSlot t i (Slot.advance s false))
  else t

end Sys2Proof.Machine
end

