-- ==== Sys2Proof/Machine/TvReq.lean ====
section
/-! DEFINITION. How a Tervon resolves a DID (R20) and issues, retries and relays requests to leaves (R159 to R163). -/

namespace Sys2Proof.Machine

/-! ### Resolution -/

/-- Where a DID leads: a leaf of this Tervon by key, a pair elsewhere on the torus, or the status that fails (R20). -/
inductive Dest where
  | key (k : Nat)
  | torus (ax ay bx by' : Nat)
  | fails (status : Nat)
  deriving DecidableEq, Repr

/-- Resolution of a DID (R20); an entry in a poisoned unit is unrouted (R415). -/
def Tervon.resolve (t : Tervon) (d : Did) : Dest :=
  if d = t.boot.ileafDid ∧ d ≠ 0 then .key ileafKey
  else
    let v := (Tervon.routeRead t d).2.toNat
    let a := (bits v 16 14, bits v 19 17)
    let b := (bits v 22 20, bits v 25 23)
    let me := (Tervon.x t, Tervon.y t)
    if bit v 7 = false ∨ bits v 6 0 ≠ bits d.toNat 23 17 then .fails 7
    else if bits v 13 8 ≠ bits t.boot.pod.toNat 5 0 then .fails 8
    else if a = me ∨ b = me then .key (posKey (bits v 28 26) (bits v 31 29))
    else .torus a.1 a.2 b.1 b.2

/-- Send to a pair elsewhere: to its Tervon A, or to B when A's position is absent (log entry 29). -/
def Tervon.sendPair (t : Tervon) (ax ay bx by' : Nat) (tag : Half) (p : Payload) : Tervon :=
  if Tervon.absent t ax ay then Tervon.sendRouted t bx by' tag p else Tervon.sendRouted t ax ay tag p

/-! ### Requests -/

/-- The request is a write under R161. -/
def Payload.isWrite : Payload → Bool
  | .regWr .. | .appoint .. => true
  | _ => false

/-- Send a request from this Tervon's own end, or over the torus. -/
def Tervon.sendReq (t : Tervon) (r : TvReq) : Tervon :=
  if r.port = 13 then Tervon.sendInternal t r.tag r.pay
  else if r.port < 8 then Tervon.sendLeaf t r.port r.pos.toNat r.tag r.pay
  else match Tervon.resolve t r.did with
    | .torus ax ay bx b => Tervon.sendPair t ax ay bx b r.tag r.pay
    | .key k => Tervon.sendKey t k r.tag r.pay
    | .fails _ => t

/-- Writes outstanding towards a leaf (R161). -/
def Tervon.writesOut (t : Tervon) (d : Did) : Nat := (t.ros.reqs.filter fun r => decide (r.did = d) && Payload.isWrite r.pay && !r.held).length

/-- The tag of a new request: the write sequence towards the leaf for a write, and otherwise a tag that is not outstanding there (R159, R161). -/
def Tervon.newTag (t : Tervon) (key : Nat) (d : Did) (write : Bool) : Tervon × Half :=
  if write then
    let e := Tervon.lease t key
    (Tervon.setLease t key { e with writeSeq := e.writeSeq + 1 }, e.writeSeq)
  else
    let busy (g : Half) : Bool := t.ros.reqs.any fun r => decide (r.did = d) && decide (r.tag = g)
    let g := ((List.range 64).map fun i => t.ros.nextTag + BitVec.ofNat 16 i).find? fun g => !busy g
    let g := g.getD t.ros.nextTag
    ({ t with ros.nextTag := g + 1 }, g)

/-- The key under which write sequences towards a DID are kept: its position, or for a leaf of another pair 2^7 plus its DID. -/
def seqKey (dest : Dest) (d : Did) : Nat :=
  match dest with
  | .key k => k
  | _ => 128 + d.toNat

/-- Issue a request for a job, or for the Tervon itself. The DID has been resolved to `dest`. -/
def Tervon.issueTo (t : Tervon) (dest : Dest) (d : Did) (p : Payload) (job : Option JobRef) : Tervon :=
  let w := Payload.isWrite p
  let (t, tag) := Tervon.newTag t (seqKey dest d) d w
  let (port, pos) := match dest with
    | .key k => if k = ileafKey then (13, 0) else (k / 8, k % 8)
    | _ => (14, 0)
  let r : TvReq := { TvReq.reset with tag := tag, did := d, port := port, pos := BitVec.ofNat 4 pos, pay := p, job := job, at' := Tervon.now t, held := w && decide (16 ≤ Tervon.writesOut t d) }
  let t := { t with ros.reqs := t.ros.reqs ++ [r] }
  if r.held then t else Tervon.sendReq t r

/-- Issue a request to the leaf of a key. -/
def Tervon.issue (t : Tervon) (key : Nat) (p : Payload) (job : Option JobRef) : Tervon :=
  Tervon.issueTo t (.key key) (Tervon.leafDid t key) p job

/-- A REG_WR of words to the leaf of a key, for the Tervon itself. -/
def Tervon.writeLeaf (t : Tervon) (key off : Nat) (bs : List Byte) : Tervon :=
  Tervon.issue t key (.regWr (Tervon.leafDid t key) 0 (BitVec.ofNat 16 off) (BitVec.ofNat 16 bs.length) bs) none

/-- The outstanding request that an answer names: by its tag, and by the position or, from another pair, the DID of the leaf. -/
def Tervon.reqOf (t : Tervon) (tag : Half) (key : Option Nat) (d : Did) : Option TvReq :=
  t.ros.reqs.find? fun r => decide (r.tag = tag) && !r.held && (match key with
    | some k => if k = ileafKey then decide (r.port = 13) else decide (r.port = k / 8) && decide (r.pos.toNat = k % 8)
    | none => decide (r.did = d))

def sameReq (a b : TvReq) : Bool := decide (a.tag = b.tag) && decide (a.did = b.did) && decide (Payload.isWrite a.pay = Payload.isWrite b.pay)
def Tervon.setReq (t : Tervon) (r : TvReq) : Tervon := { t with ros.reqs := t.ros.reqs.map fun q => if sameReq q r then r else q }

/-- Send the writes that waited for room (R161). -/
def Tervon.releaseHeld (t : Tervon) (d : Did) : Tervon :=
  match t.ros.reqs.find? fun r => decide (r.did = d) && r.held with
  | some r =>
    if 16 ≤ Tervon.writesOut t d then t
    else
      let r' := { r with held := false, at' := Tervon.now t }
      Tervon.sendReq (Tervon.setReq t r') r'
  | none => t

/-- Take a request out; a write that waited takes its place. -/
def Tervon.endReq (t : Tervon) (r : TvReq) : Tervon :=
  Tervon.releaseHeld { t with ros.reqs := t.ros.reqs.filter fun q => !sameReq q r } r.did

/-- Requests outstanding for a job. -/
def Tervon.jobReqs (t : Tervon) (j : JobRef) : List TvReq := t.ros.reqs.filter fun r => decide (r.job = some j)

/-- Drop the requests of a job: their answers count as late (R159). -/
def Tervon.dropReqs (t : Tervon) (j : JobRef) : Tervon := { t with ros.reqs := t.ros.reqs.filter fun r => decide (r.job ≠ some j) }

/-! ### Relaying -/

/-- The key of the position that a relayed request addresses. -/
def relayKey (t : Tervon) (p : Payload) : Option Nat :=
  let of (d : Did) : Option Nat := match Tervon.resolve t d with
    | .key k => some k
    | _ => none
  match p with
  | .regRd d _ _ => of d
  | .regWr d _ _ _ _ => of d
  | .appoint d _ => of d
  | .verdict d _ _ => of d
  | .leaseReq q => of q.did
  | _ => none

/-- Relay a request into the ring from this end, with its originator's DID and tag (R143, R159). -/
def Tervon.relay (t : Tervon) (h : Hdr) (p : Payload) (back : Option (Nat × Nat)) : Tervon :=
  match relayKey t p with
  | some key =>
    if key = ileafKey then t
    else
      let f := mkFrame (key % 8) (Tervon.endCode t) h.tag h.srcDid p
      let fence := match p with
        | .leaseReq _ => true
        | _ => false
      let answered := match p with
        | .verdict .. => false
        | _ => true
      let t := if answered then { t with ros.relayed := ⟨h.tag, key, h.srcDid, fence, back⟩ :: t.ros.relayed } else t
      Tervon.send t (key / 8) ⟨{ f.hdr with flags := (h.flags &&& 2) ||| 1 }, p⟩
  | none => t

/-- Send an answer of a relayed request back to the Tervon that asked. -/
def Tervon.answerBack (t : Tervon) (tag : Half) (did : Did) (back : Option (Nat × Nat)) (p : Payload) : Tervon :=
  match back with
  | none =>
    let f := mkFrame 0 (Tervon.endCode t) tag did p
    Tervon.send t 8 ⟨{ f.hdr with flags := 1 }, p⟩
  | some (x, y) => Tervon.sendRouted t x y tag p did

/-- An answer that the leaf of a key sent for a relayed request goes back (R159, R160): true when it was one. -/
def Tervon.relayBack (t : Tervon) (h : Hdr) (key : Nat) (p : Payload) : Tervon × Bool :=
  match t.ros.relayed.find? fun e => decide (e.tag = h.tag) && decide (e.key = key) && !e.fence with
  | some r =>
    let t := { t with ros.relayed := t.ros.relayed.filter fun e => decide (e ≠ r) }
    (Tervon.answerBack t r.tag h.srcDid r.back p, true)
  | none => (t, false)

/-- FENCED reaches a relaying end: it goes back to the Tervon that asked for the fence (R159, R350). -/
def Tervon.relayFenced (t : Tervon) (h : Hdr) (key : Nat) (p : Payload) : Tervon :=
  let mine := t.ros.relayed.filter fun e => decide (e.key = key) && e.fence
  let t := { t with ros.relayed := t.ros.relayed.filter fun e => !(decide (e.key = key) && e.fence) }
  mine.foldl (fun t e => Tervon.answerBack t e.tag h.srcDid e.back p) t

end Sys2Proof.Machine
end

