-- ==== Sys2Proof/Machine/TvAbort.lean ====
section
/-! DEFINITION. Stopping jobs: ABORT (R385), Bus Master Enable (R391), function-level reset (R392). -/

namespace Sys2Proof.Machine

/-- Opcodes that run to their own completion once started (R385). -/
def indivisible (op : Nat) : Bool := [0x00, 0x03, 0x04, 0x05, 0x06, 0x07, 0x08, 0x09, 0x0B, 0x0C, 0x12, 0x13, 0x14, 0x15].contains op

/-- Abandon the lock of a leaf that a function's descriptor acquired (R394). -/
def Tervon.abandonLock (t : Tervon) (key : Nat) : Tervon :=
  let e := Tervon.lease t key
  let t := Tervon.setLease t key { e with lockBy := none }
  Tervon.issue t key (.regWr (Tervon.leafDid t key) 4 0 0 []) none

/-- Abandon every lock that the descriptors selected hold. -/
def Tervon.abandonLocks (t : Tervon) (own : Nat × Nat → Bool) : Tervon :=
  let held := t.ros.leases.filter fun e => match e.2.lockBy with
    | some b => own b
    | none => false
  held.foldl (fun t e => Tervon.abandonLock t e.1) t

/-- What a job holds besides its completion ends: requests, a streamed scoring and, for an image in progress, its lock. -/
def Tervon.clearJob (t : Tervon) (j : Job) : Tervon :=
  let t := Tervon.dropReqs t j.ref
  let t := { t with kruns := t.kruns.filter fun r => decide (r.job ≠ j.ref) }
  if Job.op j = 0x01 ∧ j.phase ≠ 0 then
    match Tervon.keyOf t (Job.did j) with
    | some k => if (Tervon.lease t k).lockBy = some (j.ref.fn, j.ref.ring) then Tervon.abandonLock t k else t
    | none => t
  else t

/-- Stop a running job with a status: its output contents are undefined (R385). -/
def Tervon.stopJob (t : Tervon) (j : Job) (status : Nat) : Tervon :=
  let t := Tervon.clearJob t j
  let n := if Job.op j = 0x02 ∨ Job.op j = 0x16 then 0 else Job.outSize j
  let t := if n = 0 then t else Tervon.emit t (.hostUndefined j.ref.fn (Job.outAddr j) n)
  Tervon.complete t j status j.d0 j.d1 0

/-- The index lies in [C - N, P) of a command ring (R385). -/
def HostRing.knows (r : HostRing) (i : Word) : Bool :=
  let lo := r.head - BitVec.ofNat 32 (HostRing.n r)
  decide ((i - lo).toNat < (r.tail - lo).toNat)

/-- ABORT (R385). -/
def Tervon.abort (j : Job) (t : Tervon) : Tervon :=
  let ring := Job.byte j 40
  let idx : Word := BitVec.ofNat 32 (Job.u32 j 44)
  if 3 < ring then Tervon.complete t j 3
  else if !HostRing.knows (Tervon.ring t j.ref.fn ring) idx then Tervon.complete t j 3
  else match Tervon.job? t ⟨j.ref.fn, ring, idx⟩ with
    | none => Tervon.complete t j 2
    | some k =>
      if Job.op k = 0x17 then Tervon.complete t j 3
      else if k.started = false then Tervon.complete (Tervon.finish t k 1 0 0 0 0) j 0
      else if indivisible (Job.op k) then Tervon.complete t j 2
      else Tervon.complete (Tervon.stopJob t k 1) j 0

/-- A started job still needs host memory (R391). -/
def Job.needsMemory (j : Job) : Bool :=
  j.started && ((decide (Job.inLen j ≠ 0) && decide (j.phase = 0)) || [0x02, 0x07, 0x0A, 0x0D, 0x0E, 0x0F, 0x10, 0x11].contains (Job.op j))

/-- BUS_MASTER_DISABLE (R391): rings in use stop, and jobs that need host memory complete MASTER_DISABLED in their reserved slots. -/
def Tervon.busMasterOff (t : Tervon) (f : Nat) : Tervon :=
  let x := Tervon.fn t f
  if 16 < f ∨ x.bme = false then t
  else
    let t := Tervon.setFn t f { x with bme := false }
    let stop (t : Tervon) (i : Nat) : Tervon :=
      let r := Tervon.ring t f i
      if r.state = 0 then t else Tervon.setRing t f i { r with state := 2, cause := 1 }
    let t := [0, 1, 2, 3, 4, 5].foldl stop t
    (t.jobs.filter fun j => decide (j.ref.fn = f) && Job.needsMemory j).foldl (fun t j => Tervon.stopJob t j 26) t

/-- FUNCTION_LEVEL_RESET (R392). -/
def Tervon.functionReset (t : Tervon) (f : Nat) : Tervon :=
  if 16 < f then t
  else
    let t := Tervon.abandonLocks t fun b => decide (b.1 = f)
    let mine := t.jobs.filter fun j => decide (j.ref.fn = f)
    let t := mine.foldl (fun t j => Tervon.clearJob t j) t
    let t := { t with jobs := t.jobs.filter fun j => decide (j.ref.fn ≠ f) }
    let x := Tervon.fn t f
    let reset (r : HostRing) : HostRing := { HostRing.reset with base := r.base, size := r.size }
    let rings := (List.range 6).foldl (fun m i => Cells.set HostRing.reset m i (reset (Cells.get HostRing.reset m i))) x.rings
    Tervon.setFn t f { x with rings := rings, bme := false, vecs := [], heldComp := [], heldWr := [], latch := [], noTiles := decide (f ≠ 0) }

end Sys2Proof.Machine
end

