-- ==== Sys2Proof/Machine/TvKale.lean ====
section
/-! DEFINITION. Kale on the Tervon: tiles and their associative memories, parity errors and spares (R293, R365, R416), loading and placement
(R284 to R286), scoring of resident ensembles (R291) and of streamed ones (R287). -/

namespace Sys2Proof.Machine

/-! ### Tiles -/

/-- The physical tile of a logical one; none when it is absent (R204). -/
def Tervon.phys (t : Tervon) (l : Nat) : Option Nat := (t.tiles.map[l]?).join

def Tervon.ktile (t : Tervon) (p : Nat) : KTile := Cells.get KTile.reset t.ktiles p
def Tervon.setKtile (t : Tervon) (p : Nat) (x : KTile) : Tervon := { t with ktiles := Cells.set KTile.reset t.ktiles p x }

/-- The logical tiles of a partition that are present and have been cleared for it (R204, R207). -/
def Tervon.usable (t : Tervon) (p : Nat) : List Nat :=
  (List.range 32).filter fun l => bit (Tervon.part t p).tiles.toNat l && (Tervon.phys t l).isSome && !t.tiles.clearing.contains l

/-- The tiles that a new job of a partition may use: none between a function-level reset and the next commit (R392). -/
def Tervon.workTiles (t : Tervon) (p : Nat) : List Nat := if (Tervon.fn t (p + 1)).noTiles then [] else Tervon.usable t p

def Tervon.ens (t : Tervon) (i : Nat) : Ensemble := Cells.get Ensemble.reset t.enss i
def Tervon.setEns (t : Tervon) (i : Nat) (e : Ensemble) : Tervon := { t with enss := Cells.set Ensemble.reset t.enss i e }

/-- The ensemble is loaded. -/
def Ensemble.loaded (e : Ensemble) : Bool := decide (e.image ≠ [])

/-- The unit of a tile's Kale memory (R222). -/
def kaleUnit (p : Nat) : Nat := 0x0103 + 16 * p

/-! ### Parity errors -/

/-- Trees of an ensemble that have an entry in a bank of a tile lose their place: they are scored in node form until the next placement
(R286, R365). -/
def Tervon.displace (t : Tervon) (gone : Nat × Nat × Nat → List Byte → Bool) : Tervon :=
  { t with enss := t.enss.map fun e =>
      if e.2.resident && e.2.place.any (fun q => gone q e.2.image) then
        (e.1, { e.2 with placing := true, place := e.2.place.filter fun q => !gone q e.2.image })
      else e }

/-- A placed tree has an entry in a bank. -/
def inBank (image : List Byte) (q : Nat × Nat × Nat) (b : Nat) : Bool :=
  let n := (kTree image q.1).leaves
  decide (q.2.2 / 128 ≤ b) && decide (b ≤ (q.2.2 + n - 1) / 128)

/-- An entry moves to a spare row of its bank; without one the bank is retired (R365). -/
def Tervon.spareRow (t : Tervon) (p e : Nat) : Tervon :=
  let x := Tervon.ktile t p
  let b := e / 128
  let x := { x with errors := x.errors.filter fun k => decide (k.1 ≠ e) }
  if Cells.get 0 x.spares b < 4 then Tervon.setKtile t p { x with spares := Cells.set 0 x.spares b (Cells.get 0 x.spares b + 1) }
  else if x.retired.contains b then Tervon.setKtile t p x
  else
    let keep := Cells.dropKeys (fun k => decide (k / 128 = b)) x.assoc
    let t := Tervon.setKtile t p { x with retired := x.retired ++ [b], assoc := keep, golden := Cells.dropKeys (fun k => decide (k / 128 = b)) x.golden }
    Tervon.displace t fun q image => decide (Tervon.phys t q.2.1 = some p) && inBank image q b

/-- A parity error of an entry is reported and remembered; three within 64 ticks move the entry (R293, R365). -/
def Tervon.parityError (t : Tervon) (p e sev : Nat) : Tervon :=
  let now := t.ileaf.led.header.op.toNat
  let t := Tervon.hostReport t (kaleUnit p) sev e
  let x := Tervon.ktile t p
  let x := { x with errors := (e, now) :: x.errors.filter fun k => decide (now ≤ k.2 + 64) }
  let t := Tervon.setKtile t p x
  if 3 ≤ (x.errors.filter fun k => decide (k.1 = e)).length then Tervon.spareRow t p e else t

/-- A tile's golden entry as HBM gives it, and whether it is poisoned. -/
def Tervon.goldenRead (t : Tervon) (p e : Nat) : Tervon × KEntry × Bool :=
  let g := Cells.get KEntry.reset (Tervon.ktile t p).golden e
  let a := goldenAddr p e
  if Tervon.hbmTouched t a 72 then
    let (t, bs, bad) := Tervon.hbmBytes t a (KEntry.bytes g)
    (t, { g with slots := (List.range 16).map fun j => w32 (field bs (4 * j) 4), tree := field bs 64 2, val := w32 (field bs 68 4) }, bad)
  else (t, g, false)

/-- A search or a compare found a parity error in an entry: it is rewritten from the golden copy, unless that is poisoned (R293). -/
def Tervon.healEntry (t : Tervon) (p e : Nat) : Tervon :=
  let (t, g, bad) := Tervon.goldenRead t p e
  let x := Tervon.ktile t p
  if bad then Tervon.parityError (Tervon.setKtile t p { x with assoc := Cells.modify KEntry.reset x.assoc e fun k => { k with bad := true } }) p e 1
  else Tervon.parityError (Tervon.setKtile t p { x with assoc := Cells.set KEntry.reset x.assoc e { g with bad := false } }) p e 0

/-- Before an ensemble is searched, the entries with wrong parity in the banks of its trees are rewritten (R293). -/
def Tervon.healFor (t : Tervon) (en : Ensemble) : Tervon :=
  en.place.foldl (fun t q =>
    match Tervon.phys t q.2.1 with
    | none => t
    | some p =>
      let bad := ((Tervon.ktile t p).assoc.filter fun e => e.2.bad && inBank en.image q (e.1 / 128)).map Prod.fst
      bad.foldl (fun t e => Tervon.healEntry t p e) t) t

/-- KALE_SCRUB_COMPARE (R416): the next entry of a tile against its golden copy. -/
def Tervon.kaleScrub (t : Tervon) (l : Nat) : Tervon :=
  match Tervon.phys t l with
  | none => t
  | some p =>
    let x := Tervon.ktile t p
    let e := x.scrub
    let t := Tervon.setKtile t p { x with scrub := (e + 1) % 8192 }
    match x.assoc.find? fun k => decide (k.1 = e) with
    | none => t
    | some (_, cur) =>
      let (t, g, bad) := Tervon.goldenRead t p e
      if bad = false ∧ (cur.bad = true ∨ cur.slots ≠ g.slots ∨ cur.tree ≠ g.tree ∨ cur.val ≠ g.val) then Tervon.healEntry t p e else t

/-! ### Placement -/

/-- A bank that may hold resident entries. -/
def KTile.bankOk (x : KTile) (streamed : Bool) (b : Nat) : Bool := !x.retired.contains b && (decide (b < 48) || !streamed) && decide (b < 64)

/-- Entries free for resident trees. -/
def KTile.freeEntries (x : KTile) (streamed : Bool) : Nat :=
  128 * ((List.range 64).filter (KTile.bankOk x streamed)).length - (x.assoc.filter fun e => KTile.bankOk x streamed (e.1 / 128)).length

/-- The lowest place for a tree of `n` entries: consecutive free entries in at most 4 banks (R284). -/
def KTile.placeFor (x : KTile) (streamed : Bool) (n : Nat) : Option Nat :=
  let used := Cells.keys x.assoc
  (List.range 8192).find? fun e => decide (e + n ≤ 8192) && decide ((e + n - 1) / 128 - e / 128 ≤ 3)
    && (List.range n).all fun i => KTile.bankOk x streamed ((e + i) / 128) && !used.contains (e + i)

/-- Write a tree's entries into a tile and its golden copy (R285). -/
def Tervon.writeTree (t : Tervon) (id : Nat) (image : List Byte) (g l p at' : Nat) : Tervon :=
  let es := (kImageEntries image g).zipIdx
  let x := Tervon.ktile t p
  let put (m : Cells KEntry) : Cells KEntry :=
    es.foldl (fun m e => Cells.set KEntry.reset m (at' + e.2) { ens := id, slots := e.1.1, tree := g, val := e.1.2, bad := false }) m
  let t := Tervon.setKtile t p { x with assoc := put x.assoc, golden := put x.golden }
  let t := Tervon.hbmWritten t (goldenAddr p at') (72 * es.length)
  Tervon.setEns t id { Tervon.ens t id with place := (Tervon.ens t id).place ++ [(g, l, at')] }

/-- Deal a tree to the present tile with the most free entries, the lowest number among equals (R285). -/
def Tervon.dealTree (t : Tervon) (id : Nat) (image : List Byte) (tiles : List Nat) (streamed : Bool) (g : Nat) : Option Tervon :=
  let free (l : Nat) : Nat := match Tervon.phys t l with
    | some p => KTile.freeEntries (Tervon.ktile t p) streamed
    | none => 0
  let best := tiles.foldl (fun (b : Option Nat) l => match b with
    | none => some l
    | some k => if free k < free l then some l else b) none
  match best with
  | none => none
  | some l => match Tervon.phys t l with
    | none => none
    | some p => match KTile.placeFor (Tervon.ktile t p) streamed (kTree image g).leaves with
      | some e => some (Tervon.writeTree t id image g l p e)
      | none => none

/-- The entry-form trees of an image, ascending. -/
def kEntryTrees (image : List Byte) : List Nat := (List.range (kTrees image)).filter fun g => !(kTree image g).nodeOnly

/-- Take an ensemble's entries out of every tile. -/
def Tervon.clearEntries (t : Tervon) (id : Nat) : Tervon :=
  { t with ktiles := t.ktiles.foldl (fun m e =>
      let keep (c : Cells KEntry) : Cells KEntry := c.filter fun k => decide (k.2.ens ≠ id)
      Cells.set KTile.reset m e.1 { e.2 with assoc := keep e.2.assoc, golden := keep e.2.golden }) [] }

/-- The partition holds a streamed ensemble other than `id` (R287). -/
def Tervon.streams? (t : Tervon) (p id : Nat) : Bool := t.enss.any fun e => decide (e.1 ≠ id) && decide (e.2.part = p) && !e.2.resident

/-- Place every entry-form tree, or none. -/
def Tervon.placeAll (t : Tervon) (id p : Nat) (image : List Byte) : Option Tervon :=
  let tiles := Tervon.usable t p
  let streamed := Tervon.streams? t p id
  (kEntryTrees image).foldl (fun (a : Option Tervon) g => a.bind fun t => Tervon.dealTree t id image tiles streamed g) (some t)

/-- Bytes of a partition's HBM capacity that ensembles and models take. -/
def Tervon.hbmUsed (t : Tervon) (p skip : Nat) : Nat :=
  ((t.enss.filter fun e => decide (e.2.part = p) && decide (e.1 ≠ skip)).map fun e => e.2.image.length).sum
    + ((t.assay.models.filter fun m => decide (m.part = p)).map fun m => m.image.length).sum

/-- Resident entries stand in banks 48 to 63 of a partition's tiles (R287). -/
def Tervon.windowsBlocked (t : Tervon) (p : Nat) : Bool :=
  (Tervon.usable t p).any fun l => match Tervon.phys t l with
    | some q => (Tervon.ktile t q).assoc.any fun e => decide (6144 ≤ e.1)
    | none => false

/-- KALE_LOAD (R285, R294, R295). -/
def Tervon.kaleLoad (x : HostData) (j : Job) (t : Tervon) : Tervon :=
  let id := Job.u16 j 40
  let p := Job.byte j 42
  let old := Tervon.ens t id
  if kaleImageOk x.bytes = false ∨ field x.bytes 6 2 ≠ id then Tervon.complete t j 3
  else if Ensemble.loaded old = true ∧ old.fn ≠ j.ref.fn then Tervon.complete t j 18
  else if (Tervon.usable t p).isEmpty then Tervon.complete t j 17
  else if 1073741824 * (Tervon.part t p).hbm < Tervon.hbmUsed t p id + x.bytes.length then Tervon.complete t j 19
  else
    let e : Ensemble := { Ensemble.reset with fn := j.ref.fn, part := p, image := x.bytes, resident := true, poisoned := x.poisoned }
    let t1 := Tervon.setEns (Tervon.clearEntries t id) id e
    match Tervon.placeAll t1 id p x.bytes with
    | some t2 => Tervon.complete t2 j 0 0
    | none =>
      if Tervon.streams? t1 p id = false ∧ Tervon.windowsBlocked t1 p = true then Tervon.complete t j 19
      else Tervon.complete (Tervon.setEns t1 id { e with resident := false }) j 0 1

/-- KALE_LOAD with op 1 (R285): an ensemble of another function is not its to unload (log entry 44). -/
def Tervon.kaleUnload (j : Job) (t : Tervon) : Tervon :=
  let id := Job.u16 j 40
  let old := Tervon.ens t id
  if Ensemble.loaded old = false then Tervon.complete t j 28
  else if old.fn ≠ j.ref.fn then Tervon.complete t j 18
  else Tervon.complete (Tervon.setEns (Tervon.clearEntries t id) id Ensemble.reset) j 0

/-- KALE_PLACEMENT_COMPLETE (R286): the ensemble is placed again from its image over the tiles that remain, or becomes streamed. -/
def Tervon.placementDone (t : Tervon) (fn id : Nat) : Tervon :=
  let e := Tervon.ens t id
  if e.placing = false ∨ e.fn ≠ fn then t
  else
    let t1 := Tervon.setEns (Tervon.clearEntries t id) id { e with placing := false, place := [] }
    match Tervon.placeAll t1 id e.part e.image with
    | some t2 => t2
    | none => Tervon.setEns t1 id { e with placing := false, place := [], resident := false }

/-! ### Scoring -/

/-- One tree for one sample on a resident ensemble: searched where its entries are sound, else walked (R286, R290, R293). -/
def Tervon.residentTree (t : Tervon) (id : Nat) (en : Ensemble) (s : List Byte) (g : Nat) : KOutcome × Bool :=
  let walk := (kNodeForm en.image s g, true)
  match en.place.find? fun q => decide (q.1 = g) with
  | none => walk
  | some q => match Tervon.phys t q.2.1 with
    | none => walk
    | some p =>
      let es := (Tervon.ktile t p).assoc
      let bank := es.filter fun e => inBank en.image q (e.1 / 128)
      if bank.any fun e => e.2.bad then walk
      else (kSearch en.image s g ((bank.filter fun e => decide (e.2.ens = id) && decide (e.2.tree = g)).map fun e => (e.2.slots, e.2.val)), false)

/-- One tree under a form (R290): automatic, node form, or both compared; the Bool says that they differ. -/
def treeForm (form : Nat) (image s : List Byte) (g : Nat) (entry : KOutcome × Bool) : KOutcome × Bool × Bool :=
  match form with
  | 1 => (kNodeForm image s g, true, false)
  | 2 =>
    if entry.2 then (entry.1, true, false)
    else if kNodeForm image s g = entry.1 then (entry.1, true, false)
    else (.inr 4, true, true)
  | _ => (entry.1, entry.2, false)

/-- A MISMATCH raises a record against the Kale memory of the tree's tile, the tree as locus (R290). -/
def Tervon.reportTrees (t : Tervon) (l : Nat) (gs : List Nat) : Tervon :=
  match Tervon.phys t l with
  | some p => gs.foldl (fun t g => Tervon.hostReport t (kaleUnit p) 1 g) t
  | none => t

/-- The sum of a sample over all trees of a resident ensemble, and the trees that disagree. -/
def Tervon.residentSum (t : Tervon) (id form : Nat) (en : Ensemble) (s : List Byte) : KSum × List Nat :=
  (List.range (kTrees en.image)).foldl (fun (a : KSum × List Nat) g =>
    let r := treeForm form en.image s g (Tervon.residentTree t id en s g)
    (KSum.add a.1 r.1 r.2.1, if r.2.2 then a.2 ++ [g] else a.2)) ((0, 0, false), [])

/-- A sum of a poisoned sample, or by a poisoned image, is POISONED (R274, R293). -/
def KSum.poison (x : KSum) (p : Bool) : KSum := if p then (x.1, 1, x.2.2) else x

/-- Score a sample on a loaded ensemble that is resident; the new state and its sum. -/
def Tervon.scoreResident (t : Tervon) (id form : Nat) (en : Ensemble) (s : List Byte) (bad : Bool) : Tervon × KSum :=
  let (x, differ) := Tervon.residentSum t id form en s
  let t := differ.foldl (fun t g => match en.place.find? fun q => decide (q.1 = g) with
    | some q => Tervon.reportTrees t q.2.1 [g]
    | none => t) t
  (t, KSum.poison x (bad || en.poisoned))

/-- Samples of a job's input. -/
def kSamples (bs : List Byte) : List (List Byte) := chunks 272 bs

/-- Cut the entry-form trees into contiguous ranges of nearly equal entry count, one per tile (R287). -/
def kRanges (image : List Byte) (tiles : List Nat) : List (Nat × List Nat) :=
  let gs := kEntryTrees image
  let total := (gs.map fun g => (kTree image g).leaves).sum
  let k := tiles.length
  let tagged := (gs.foldl (fun (a : Nat × List (Nat × Nat)) g =>
    (a.1 + (kTree image g).leaves, a.2 ++ [(if total = 0 then 0 else min (k - 1) (a.1 * k / total), g)])) (0, [])).2
  tiles.zipIdx.map fun e => (e.1, (tagged.filter fun q => decide (q.1 = e.2)).map Prod.snd)

/-- Whole trees up to 1,024 entries, taken from the front of a range (R287). -/
def kPack (image : List Byte) : Nat → List Nat → List Nat × List Nat
  | _, [] => ([], [])
  | room, g :: r =>
    let n := (kTree image g).leaves
    if n ≤ room then
      let (a, b) := kPack image (room - n) r
      (g :: a, b)
    else ([], g :: r)

/-- Begin a batch (R287): the trees that need no window are walked, and each tile loads its first window. -/
def Tervon.kaleBatch (t : Tervon) (r : KaleRun) : KaleRun :=
  let batch := r.samples.take 1024
  let noEntry := if r.form = 1 then List.range (kTrees r.image) else (List.range (kTrees r.image)).filter fun g => (kTree r.image g).nodeOnly
  let sums := batch.map fun s => noEntry.foldl (fun (a : KSum) g => KSum.add a (kNodeForm r.image s g) true) ((0, 0, false) : KSum)
  let wins := if r.form = 1 then [] else (kRanges r.image (Tervon.usable t (Tervon.ens t r.ens).part)).filterMap fun e =>
    let (a, b) := kPack r.image 1024 e.2
    if a = [] then none else some { tile := e.1, todo := b, load := a, win := 0 }
  { r with sums := sums, wins := wins }

/-- Finish the batches that need no more windows; `fuel` bounds the batches. The job completes after the last. -/
def Tervon.kaleAdvance (t : Tervon) (r : KaleRun) : Nat → Tervon
  | 0 => t
  | fuel + 1 =>
    let others := t.kruns.filter fun k => decide (k.job ≠ r.job)
    if r.wins ≠ [] then { t with kruns := others ++ [r] }
    else
      let batch := r.samples.take 1024
      let done := (batch.zip r.sums).flatMap fun e => kResult r.image e.1 (KSum.poison e.2 (r.bad || r.poison))
      let r : KaleRun := { r with result := r.result ++ done, samples := r.samples.drop 1024 }
      if r.samples = [] then
        let t := { t with kruns := others }
        match Tervon.job? t r.job with
        | some j => Tervon.complete (Tervon.output t j r.result) j 0 (r.result.length / 16) j.d1
        | none => t
      else Tervon.kaleAdvance t (Tervon.kaleBatch t r) fuel

/-- KALE_SCORE (R273, R290, R291). -/
def Tervon.kaleScore (x : HostData) (j : Job) (t : Tervon) : Tervon :=
  let id := Job.u16 j 40
  let form := Job.byte j 42
  let n := x.bytes.length / 272
  let en := Tervon.ens t id
  if j.phase ≠ 0 then t
  else if x.bytes.length % 272 ≠ 0 ∨ n = 0 ∨ 65536 < n ∨ 2 < form then Tervon.complete t j 3
  else if Job.outSize j < 16 * n then Tervon.complete t j 5
  else if Ensemble.loaded en = false then Tervon.complete t j 28
  else if j.ref.fn ≠ 0 ∧ j.ref.fn ≠ en.fn ∧ j.ref.fn ≠ en.part + 1 then Tervon.complete t j 4
  else if (Tervon.workTiles t en.part).isEmpty then Tervon.complete t j 17
  else
    let ss := kSamples x.bytes
    let oor := (ss.map (kOutOfRange en.image)).sum
    if en.resident then
      let t := Tervon.healFor t en
      let en := Tervon.ens t id
      let (t, out) := ss.foldl (fun (a : Tervon × List Byte) s =>
        let (t, sum) := Tervon.scoreResident a.1 id form en s x.poisoned
        (t, a.2 ++ kResult en.image s sum)) (t, [])
      Tervon.complete (Tervon.output t j out) j 0 n oor
    else
      let t := Tervon.setJob t { j with phase := 1, d1 := oor }
      let r : KaleRun := { KaleRun.reset with job := j.ref, ens := id, image := en.image, form := form, samples := ss, bad := x.poisoned, poison := en.poisoned }
      Tervon.kaleAdvance t (Tervon.kaleBatch t r) 65

/-- Search a batch against the trees of a window (R287); the trees that disagree under form 2. -/
def KaleRun.search (r : KaleRun) (gs : List Nat) : KaleRun × List Nat :=
  let one (s : List Byte) (a : KSum × List Nat) (g : Nat) : KSum × List Nat :=
    let o := treeForm r.form r.image s g (kSearch r.image s g (kImageEntries r.image g), false)
    (KSum.add a.1 o.1 o.2.1, if o.2.2 then a.2 ++ [g] else a.2)
  let all := (r.samples.take 1024).zip r.sums |>.map fun e => gs.foldl (one e.1) ((e.2, []) : KSum × List Nat)
  ({ r with sums := all.map Prod.fst }, all.flatMap Prod.snd)

/-- KALE_WINDOW_LOADED on a tile (R287): the loaded window is searched, and the other window loads the next trees. -/
def Tervon.windowLoaded (t : Tervon) (l : Nat) : Tervon :=
  match t.kruns.find? fun r => r.wins.any fun w => decide (w.tile = l) with
  | none => t
  | some r =>
    match r.wins.find? fun w => decide (w.tile = l) with
    | none => t
    | some w =>
      let (r, differ) := KaleRun.search r w.load
      let t := Tervon.reportTrees t l differ
      let (a, b) := kPack r.image 1024 w.todo
      let rest := r.wins.erase w
      let wins := if a = [] then rest else { w with todo := b, load := a, win := 1 - w.win } :: rest
      Tervon.kaleAdvance t { r with wins := wins } 65

/-- A tile is lost to its partition: trees placed there are walked until they are placed again (R286), and the windows of streamed scorings
move to a tile that remains, or are walked when none does. -/
def Tervon.kaleTileLost (t : Tervon) (part l : Nat) : Tervon :=
  let t := Tervon.displace t fun q _ => decide (q.2.1 = l)
  let left := (Tervon.usable t part).filter fun k => decide (k ≠ l)
  let hit := t.kruns.filter fun r => r.wins.any fun w => decide (w.tile = l)
  hit.foldl (fun t r =>
    match left with
    | k :: _ => { t with kruns := t.kruns.map fun q => if q.job = r.job then { q with wins := q.wins.map fun w => if w.tile = l then { w with tile := k } else w } else q }
    | [] =>
      let gs := r.wins.flatMap fun w => if w.tile = l then w.load ++ w.todo else []
      let sums := (r.samples.take 1024).zip r.sums |>.map fun e => gs.foldl (fun (a : KSum) g => KSum.add a (kNodeForm r.image e.1 g) true) e.2
      Tervon.kaleAdvance t { r with sums := sums, wins := r.wins.filter fun w => decide (w.tile ≠ l) } 65) t

/-- The score of one sample on an ensemble as it stands, for Gleaner (R263, R295): a streamed one is scored from its image. -/
def Tervon.kaleOne (t : Tervon) (id : Nat) (s : List Byte) : Tervon × Option Int :=
  let en := Tervon.ens t id
  if en.resident then
    let t := Tervon.healFor t en
    let en := Tervon.ens t id
    let (t, x) := Tervon.scoreResident t id 0 en s false
    (t, if x.2.1 = 0 then some (kScore en.image x.1).1 else none)
  else
    let x := (List.range (kTrees en.image)).foldl (fun (a : KSum) g =>
      if (kTree en.image g).nodeOnly then KSum.add a (kNodeForm en.image s g) true
      else KSum.add a (kSearch en.image s g (kImageEntries en.image g)) false) ((0, 0, false) : KSum)
    let x := KSum.poison x en.poisoned
    (t, if x.2.1 = 0 then some (kScore en.image x.1).1 else none)

end Sys2Proof.Machine
end

