-- ==== Sys2Proof/Machine/TvCall.lean ====
section
/-! DEFINITION. Gleaner's calls (R262, R264 to R266) and the end of a suspect (R268). -/

namespace Sys2Proof.Machine

/-- Gleaner evaluates classes and posts calls (TV_GLN_CTL.en). -/
def Tervon.glnOn (t : Tervon) : Bool := t.gln.ctl.getLsbD 0

/-- The mode in force at an instant (R340, R341). -/
def Tervon.modeAt (t : Tervon) (i : Nat) : Bool := if t.det.start.toNat ≤ i then t.det.det else t.det.prev

/-- The 60 bytes of a call before its check, from its fields in the order of the table "Call body" (R265): the numbers behind the DID are kind, call ID,
flags, quality and cause, class, reduction and index. -/
def callBytes (instant : Nat) (did : Did) (kind : Nat) (id : Word) (flags qc cls red index : Nat) (tail : List Byte) : List Byte :=
  le 8 instant ++ le 3 did.toNat ++ [BitVec.ofNat 8 kind] ++ le 4 id.toNat ++ [BitVec.ofNat 8 flags, BitVec.ofNat 8 qc, BitVec.ofNat 8 cls, BitVec.ofNat 8 red]
    ++ le 4 index ++ padTo 36 tail

/-- Value, median, MAD, deviation and the counts of leaves of a call (R265). -/
def callValues (value : Int) (med mad : Nat) (dev : Int) (leavesIn leavesOut : Nat) : List Byte :=
  le 8 (intBits 64 value) ++ le 8 med ++ le 8 mad ++ le 4 (intBits 32 dev) ++ le 2 leavesIn ++ le 2 leavesOut

/-- The next call ID, and its use (R264). -/
def Tervon.newCall (t : Tervon) : Tervon × Word :=
  let n := t.gln.calls
  ({ t with gln.calls := if n = 2 ^ 26 - 1 then 1 else n + 1 }, w32 (Tervon.y t * 2 ^ 29 + Tervon.x t * 2 ^ 26 + n))

/-- The write of a call to one subscriber (R266). -/
def Tervon.postSub (bs : List Byte) (t : Tervon) (i : Nat) : Tervon :=
  let s := Cells.get 0 t.gln.subs i
  if s.getLsbD 0 = false then t
  else if (Tervon.fn t 0).bme then Tervon.emit t (.hostWrite 0 (s.toNat / 64 * 64) bs false)
  else { t with gln.postDrop := satAdd32 t.gln.postDrop 1 }

/-- Post a call of 60 bytes and its check (R266): ALERT or RETRACT on the rings that its DID chooses, and every enabled subscriber. `flags` are
the call's own: ND in bit 0 and PARTIAL in bit 2, which the record header repeats (R389). -/
def Tervon.post (t : Tervon) (did : Did) (kind flags : Nat) (body : List Byte) : Tervon :=
  let bs := body ++ le 4 (crc32c body).toNat
  let t := Tervon.recordDid t (if kind = 3 then 3 else 2) (2 * b2n (bit flags 0) + 8 * b2n (bit flags 2)) did bs
  (List.range 8).foldl (Tervon.postSub bs) t

/-- DRIFT_CALL (R262): a stream's report. -/
def Tervon.drift (t : Tervon) (idx : Nat) (did : Did) (instant : Nat) (down nd : Bool) (mean : Int) : Tervon :=
  if Tervon.glnOn t = false then t
  else
    let (t, id) := Tervon.newCall t
    let flags := b2n nd + 16 * b2n down
    Tervon.post t did 4 flags (callBytes instant did 4 id flags (Tervon.tq t).toNat 255 255 idx (callValues mean 0 0 0 0 0))

/-- Withdraw the outstanding suspects selected, with a cause (R268, R270). -/
def Tervon.retract (t : Tervon) (cause : Nat) (which : Suspect → Bool) : Tervon :=
  let mine := t.gln.suspects.filter fun s => s.open' && which s
  let t := { t with gln.suspects := t.gln.suspects.filter fun s => !(s.open' && which s) }
  mine.foldl (fun t s =>
    let t := { t with gln.retracts := satAdd32 t.gln.retracts 1 }
    Tervon.post t s.did 3 1 (callBytes s.instant s.did 3 s.call 1 ((Tervon.tq t).toNat + 16 * cause) s.cls s.red 0 [])) t

end Sys2Proof.Machine
end

