-- ==== Sys2Proof/Machine/TvJobs.lean ====
section
/-! DEFINITION. Jobs that reach leaf registers and slots: LEAF_REG_READ, LEAF_REG_WRITE, SNAPSHOT_NOW, APPOINT, LEAF_CFG_APPLY and LEDGER_READ, from
their first request to their completion (R156 to R158, R382, R386, R394, R395, R464). -/

namespace Sys2Proof.Machine

/-- The completion status of a REG_RSP status; 256 stands for a request that failed (R159, R384). -/
def rspStatus (st : Nat) : Nat :=
  match st with
  | 0 => 0
  | 1 | 3 => 13
  | 2 => 10
  | 4 => 11
  | 5 => 12
  | 6 => 14
  | _ => 9

/-- Status byte for the detail of a completion. -/
def rspDetail (st : Nat) : Nat := if st < 256 then st else 0

/-- Run a job's first step against its target leaf; the read of the route table reports what it finds (R413). -/
def Tervon.toLeaf (t : Tervon) (j : Job) (act : Dest → Tervon → Tervon) : Tervon :=
  let d := Tervon.resolve t (Job.did j)
  let t := if Job.did j = t.boot.ileafDid then t else (Tervon.routeRead t (Job.did j)).1
  match d with
  | .fails s => Tervon.complete t j s
  | d => act d t

/-- Send one request of a job and note its step. -/
def Tervon.jobSend (t : Tervon) (j : Job) (phase : Nat) (d : Dest) (p : Payload) : Tervon :=
  Tervon.issueTo (Tervon.setJob t { j with phase := phase }) d (Job.did j) p (some j.ref)

/-! ### Register access -/

/-- LEAF_REG_READ (R382). -/
def Tervon.leafRead (j : Job) (t : Tervon) : Tervon :=
  if j.phase ≠ 0 then t
  else if (decide (Job.u16 j 40 % 4 = 0) && decide (Job.u16 j 42 % 4 = 0) && decide (4 ≤ Job.u16 j 42) && decide (Job.u16 j 42 ≤ 512)
      && decide (Job.u16 j 40 + Job.u16 j 42 ≤ 65536)) = false then Tervon.complete t j 3
  else Tervon.toLeaf t j fun d t => Tervon.jobSend t j 1 d (.regRd (Job.did j) (BitVec.ofNat 16 (Job.u16 j 40)) (BitVec.ofNat 16 (Job.u16 j 42)))

/-- The lock that a lock op needs, seen from this Tervon (R395): the status that refuses it. -/
def Tervon.lockRefused (t : Tervon) (d : Dest) (j : Job) (op : Nat) : Option Nat :=
  match d with
  | .key k =>
    match op, (Tervon.lease t k).lockBy with
    | 0, _ => none
    | 1, some b => if b = (j.ref.fn, j.ref.ring) then none else some 11
    | 1, none => none
    | _, some b => if b = (j.ref.fn, j.ref.ring) then none else some 12
    | _, none => some 12
  | _ => none

/-- Note the ring whose descriptor owns a leaf's lock. -/
def Tervon.noteLock (t : Tervon) (d : Dest) (v : Option (Nat × Nat)) : Tervon :=
  match d with
  | .key k => Tervon.setLease t k { Tervon.lease t k with lockBy := v }
  | _ => t

/-- LEAF_REG_WRITE (R156, R382, R395). -/
def Tervon.leafWrite (x : HostData) (j : Job) (t : Tervon) : Tervon :=
  let op := Job.byte j 42
  let n := Job.inLen j
  if j.phase ≠ 0 then t
  else if Job.u16 j 40 % 4 ≠ 0 ∨ n % 4 ≠ 0 ∨ 512 < n ∨ 65536 < Job.u16 j 40 + n then Tervon.complete t j 3
  else if x.poisoned then Tervon.complete t j 25
  else Tervon.toLeaf t j fun d t =>
    match Tervon.lockRefused t d j op with
    | some s => Tervon.complete t j s
    | none =>
      let t := if op = 1 then Tervon.noteLock t d (some (j.ref.fn, j.ref.ring)) else t
      Tervon.jobSend t j 1 d (.regWr (Job.did j) (BitVec.ofNat 8 op) (BitVec.ofNat 16 (Job.u16 j 40)) (BitVec.ofNat 16 n) x.bytes)

/-- The lock after a LEAF_REG_WRITE's answer: a failed acquire holds none, and a commit or abandon frees it (R394). -/
def Tervon.lockAnswer (t : Tervon) (j : Job) (st : Nat) : Tervon :=
  let op := Job.byte j 42
  if (op = 1 ∧ st ≠ 0) ∨ op = 3 ∨ op = 4 then Tervon.noteLock t (Tervon.resolve t (Job.did j)) none else t

/-- SNAPSHOT_NOW (R464): the leaf's LF_SNAP_NOW is written. -/
def Tervon.snapNow (j : Job) (t : Tervon) : Tervon :=
  if j.phase ≠ 0 then t
  else if 15 < Job.byte j 40 then Tervon.complete t j 3
  else Tervon.toLeaf t j fun d t => Tervon.jobSend t j 1 d (.regWr (Job.did j) 0 0x1A8 4 (le 4 (Job.byte j 40)))

/-! ### Appointments -/

/-- The Tervon stores or refuses an appointment of its own (R55, R56): the status. -/
def Tervon.appointSelf (t : Tervon) (a : Appointment) : Tervon × Nat :=
  let n := a.slot.toNat
  let s := Tervon.slot t n
  let st := apptStatus false (Tervon.tq t) (Tervon.now t) s a
  (if st = 0 then Tervon.setSlot t n (Slot.accept s a) else t, st)

/-- Count the answer of one target of an APPOINT to all (R382): accepted in bits [15:0], not accepted in [31:16], and the first other status. -/
def Job.countAppoint (j : Job) (st : Option Nat) : Job :=
  match st with
  | some 0 => { j with d0 := j.d0 + 1 }
  | some s => { j with d0 := j.d0 + 65536, d1 := if j.d1 = 0 then s else j.d1 }
  | none => { j with d0 := j.d0 + 65536 }

/-- The keys of the admitted leaves whose lease the Tervon holds. -/
def Tervon.admittedHeld (t : Tervon) : List Nat := (List.range 64).filter fun k => decide ((Tervon.ent t k).state = 1) && (Tervon.lease t k).held

/-- APPOINT (R56, R158, R382). -/
def Tervon.appoint (j : Job) (t : Tervon) : Tervon :=
  let a := Appointment.parse (slice j.desc 40 24)
  if j.phase ≠ 0 then t
  else if Job.did j = 0 then
    let (t, st) := Tervon.appointSelf t a
    Tervon.complete t j 0 st
  else if Job.did j = didAll then
    let (t, st) := Tervon.appointSelf t a
    let keys := Tervon.admittedHeld t
    let j := { Job.countAppoint j (some st) with phase := 1, waiting := keys.length }
    if keys.isEmpty then Tervon.complete t j 0 j.d0 j.d1
    else keys.foldl (fun t k => Tervon.issue t k (.appoint didAll a) (some j.ref)) (Tervon.setJob t j)
  else Tervon.toLeaf t j fun d t => Tervon.jobSend t j 1 d (.appoint (Job.did j) a)

/-! ### Configuration images -/

/-- The entries of an image with their byte offsets in it; none when one runs over the end or breaks R156 or the set-up area (R386). -/
def cfgEntries (bs : List Byte) : Nat → Nat → Option (List (Nat × Nat × List Byte))
  | 0, at' => if bs.length = at' then some [] else none
  | n + 1, at' =>
    let off := field bs at' 2
    let cnt := field bs (at' + 2) 2
    if at' + 4 + cnt ≤ bs.length ∧ off % 4 = 0 ∧ cnt % 4 = 0 ∧ 4 ≤ cnt ∧ cnt ≤ 512 ∧ off + cnt ≤ 0x6800 then
      match cfgEntries bs n (at' + 4 + cnt) with
      | some r => some ((at', off, slice bs (at' + 4) cnt) :: r)
      | none => none
    else none

/-- A leaf configuration image (R386): its host-die type and its entries. -/
def cfgImage (bs : List Byte) : Option (Nat × List (Nat × Nat × List Byte)) :=
  let n := field bs 6 2
  let sum := crc32c (bs.take 12 ++ bs.drop 16)
  if 16 ≤ bs.length ∧ field bs 0 4 = 0x4643464C ∧ field bs 4 1 = 1 ∧ field bs 5 1 = 0 ∧ 1 ≤ n ∧ n ≤ 4096 ∧ field bs 10 2 = 0 ∧ field bs 12 4 = sum.toNat then
    match cfgEntries bs n 16 with
    | some es => some (field bs 8 2, es)
    | none => none
  else none

/-- LEAF_CFG_APPLY (R386): the image is checked before any frame is sent, and the leaf's host-die type is read. -/
def Tervon.cfgStart (x : HostData) (j : Job) (t : Tervon) : Tervon :=
  if j.phase ≠ 0 then t
  else if x.poisoned then Tervon.complete t j 25
  else match cfgImage x.bytes with
    | none => Tervon.complete t j 3
    | some _ => Tervon.toLeaf t j fun d t => Tervon.jobSend t { j with input := x.bytes } 1 d (.regRd (Job.did j) 0 16)

/-- End a configuration job that failed: abandon, and complete (R386). -/
def Tervon.cfgFail (t : Tervon) (j : Job) (d : Dest) (status st at' : Nat) : Tervon :=
  let t := Tervon.noteLock t d none
  let t := if j.phase < 2 then t else Tervon.issueTo t d (Job.did j) (.regWr (Job.did j) 4 0 0 []) none
  Tervon.complete t j status (rspDetail st) at'

/-- The next step of a configuration job after an answer (R386): 1 the type, 2 acquire, 3 + i entry i, then commit. -/
def Tervon.cfgStep (t : Tervon) (j : Job) (st : Nat) (data : List Byte) : Tervon :=
  let d := Tervon.resolve t (Job.did j)
  let send (t : Tervon) (ph : Nat) (op off : Nat) (bs : List Byte) : Tervon :=
    Tervon.jobSend t j ph d (.regWr (Job.did j) (BitVec.ofNat 8 op) (BitVec.ofNat 16 off) (BitVec.ofNat 16 bs.length) bs)
  match cfgImage j.input with
  | none => t
  | some (typ, es) =>
    let n := es.length
    let failing := match es[j.phase - 3]? with
      | some e => if 3 ≤ j.phase then e.1 else 0
      | none => 0
    if st ≠ 0 then Tervon.cfgFail t j d (if j.phase = 3 + n ∧ st = 1 then 15 else rspStatus st) st failing
    else if j.phase = 1 then
      if field data 8 2 ≠ typ then Tervon.complete t j 15
      else match Tervon.lockRefused t d j 1 with
        | some s => Tervon.complete t j s
        | none => send (Tervon.noteLock t d (some (j.ref.fn, j.ref.ring))) 2 1 0 []
    else if j.phase = 3 + n then Tervon.complete (Tervon.noteLock t d none) j 0
    else
      match es[j.phase - 2]? with
      | some (_, off, bs) => send t (j.phase + 1) 2 off bs
      | none => send t (3 + n) 3 0 []

/-! ### Ledger pages -/

/-- Read one page: LF_LDG_CMD takes op read (R177). -/
def Tervon.ledgerPage (t : Tervon) (j : Job) : Tervon :=
  Tervon.jobSend t j 1 (Tervon.resolve t (Job.did j)) (.regWr (Job.did j) 0 0x184 4 (le 4 (Job.u16 j 40 + j.waiting + 4096)))

/-- LEDGER_READ (R177, R382). -/
def Tervon.ledgerStart (j : Job) (t : Tervon) : Tervon :=
  let n := Job.u16 j 42
  if j.phase ≠ 0 then t
  else if n = 0 ∨ 4096 < Job.u16 j 40 + n then Tervon.complete t j 3
  else Tervon.toLeaf t j fun _ t => Tervon.ledgerPage t j

/-- The next step of a LEDGER_READ: the command, its status until it is not busy, then the buffer in two parts. `waiting` counts the pages
read. -/
def Tervon.ledgerStep (t : Tervon) (j : Job) (st : Nat) (data : List Byte) : Tervon :=
  let d := Tervon.resolve t (Job.did j)
  let rd (j : Job) (ph off n : Nat) : Tervon := Tervon.jobSend t j ph d (.regRd (Job.did j) (BitVec.ofNat 16 off) (BitVec.ofNat 16 n))
  if st ≠ 0 then Tervon.complete t j (rspStatus st) j.d0
  else match j.phase with
    | 1 => rd j 2 0x190 4
    | 2 =>
      let v := fromLe data
      if bit v 4 then rd j 2 0x190 4
      else rd { j with d0 := j.d0 + (if bits v 3 0 = 1 then 1 else 0) } 3 0x1580 272
    | _ =>
      let j := { j with result := j.result ++ data, waiting := j.waiting + 1 }
      if j.waiting = Job.u16 j 42 then Tervon.complete (Tervon.output t j j.result) j 0 j.d0
      else Tervon.ledgerPage t j

/-! ### Answers -/

/-- One target of an APPOINT to all answered, or failed. -/
def Tervon.appointAnswer (t : Tervon) (j : Job) (st : Option Nat) : Tervon :=
  let j := { Job.countAppoint j st with waiting := j.waiting - 1 }
  if j.waiting = 0 then Tervon.complete t j 0 j.d0 j.d1 else Tervon.setJob t j

/-- A job's request was answered with a REG_RSP status, or failed (256). -/
def Tervon.jobAnswer (t : Tervon) (j : Job) (st : Nat) (dup : Bool) (data : List Byte) : Tervon :=
  match Job.op j with
  | 0x01 => Tervon.cfgStep t j st data
  | 0x02 => if st = 0 then Tervon.complete (Tervon.output t j data) j 0 else Tervon.complete t j (rspStatus st) (rspDetail st)
  | 0x03 => Tervon.complete (Tervon.lockAnswer t j st) j (rspStatus st) (rspDetail st) (b2n dup)
  | 0x04 =>
    if Job.did j = didAll then Tervon.appointAnswer t j (if st = 0 then some (fromLe (data.take 1)) else none)
    else if st = 0 then Tervon.complete t j 0 (fromLe (data.take 1))
    else Tervon.complete t j (rspStatus st)
  | 0x05 =>
    if st ≠ 0 then Tervon.complete t j (rspStatus st)
    else if field data 4 1 = 0 then Tervon.complete t j 0 (field data 0 4)
    else Tervon.complete t j 16
  | 0x11 => Tervon.ledgerStep t j st data
  | _ => t

end Sys2Proof.Machine
end

