-- ==== Sys2Proof/Machine/TvLarder.lean ====
section
/-! DEFINITION. The Larder (R396 to R402): pools, allocation, shared buffers and the free ring cache. -/

namespace Sys2Proof.Machine

/-- Buffer sizes of the pools (TV_LARDER_CTL). -/
def poolSize (k : Nat) : Nat := [512, 8192, 131072, 2097152, 33554432].getD k 0
/-- The Larder region, GiB. -/
def larderGiB (ctl : DWord) : Nat := bits ctl.toNat 5 0
/-- The share of a pool, in 1/32 of the region. -/
def larderShare (ctl : DWord) (k : Nat) : Nat :=
  match k with
  | 0 => bits ctl.toNat 11 8
  | 1 => bits ctl.toNat 17 12
  | 2 => bits ctl.toNat 23 18
  | 3 => bits ctl.toNat 29 24
  | 4 => bits ctl.toNat 35 30
  | _ => 0
/-- Buffers of a pool (R396). -/
def Tervon.poolCount (t : Tervon) (k : Nat) : Nat := larderShare t.boot.larderCtl k * larderGiB t.boot.larderCtl * 1073741824 / 32 / poolSize k
/-- The set-up checks of R396. -/
def larderOk (ctl : DWord) : Bool :=
  decide (1 ≤ larderGiB ctl) && decide (larderGiB ctl ≤ 32) && decide (larderShare ctl 0 ≤ 8)
    && decide (larderShare ctl 0 + larderShare ctl 1 + larderShare ctl 2 + larderShare ctl 3 + larderShare ctl 4 = 32)
/-- The pool in a handle (R397). -/
def handlePool (h : Nat) : Nat := bits h 30 28
/-- A handle (R397). -/
def mkHandle (pool idx : Nat) : Nat := pool * 268435456 + idx

/-- Buffers of a pool in use. -/
def LarderSt.inPool (l : LarderSt) (k : Nat) : List (Nat × Buf) := l.bufs.filter fun e => decide (handlePool e.1 = k)
/-- Handles of a pool that are not free: in use, or withdrawn. -/
def LarderSt.taken (l : LarderSt) (k : Nat) : List Nat :=
  ((LarderSt.inPool l k).map Prod.fst) ++ l.withdrawn.filter fun h => decide (handlePool h = k) && !(l.bufs.any fun e => decide (e.1 = h))
/-- Free buffers of a pool. -/
def Tervon.poolFree (t : Tervon) (k : Nat) : Nat := Tervon.poolCount t k - (LarderSt.taken t.lard k).length
/-- Buffers that an owner holds in a pool. -/
def LarderSt.heldBy (l : LarderSt) (k q : Nat) : Nat := ((LarderSt.inPool l k).filter fun e => decide (e.2.owner = q)).length
/-- An owner's minimum in a pool (R398). -/
def Tervon.larderMin (t : Tervon) (q k : Nat) : Nat := if q < 16 then (Tervon.part t q).minima.getD k 0 else 0
/-- What a pool owes to the other owners (R398). -/
def Tervon.owed (t : Tervon) (k p : Nat) : Nat :=
  (((List.range 16).filter fun q => decide (q ≠ p)).map fun q => Tervon.larderMin t q k - LarderSt.heldBy t.lard k q).sum
/-- The pool of a request (R398). -/
def poolFor (n : Nat) : Option Nat := (List.range 5).find? fun k => decide (n ≤ poolSize k)

/-- One index leaves the on-chip cache (R399); an empty cache is refilled first. -/
def Tervon.cacheTake (t : Tervon) (k : Nat) : Tervon :=
  let c := Cells.get 0 t.lard.cached k
  let c := if c = 0 then min 128 (Tervon.poolFree t k) else c
  { t with lard.cached := Cells.set 0 t.lard.cached k (c - 1) }

/-- One index enters the on-chip cache (R399); a full cache is drained first. -/
def Tervon.cachePut (t : Tervon) (k : Nat) : Tervon :=
  let c := Cells.get 0 t.lard.cached k
  let c := if 512 ≤ c then c - 128 else c
  { t with lard.cached := Cells.set 0 t.lard.cached k (c + 1) }

/-- LARDER_FREE_RING_REFILL (R399): 128 indexes move between the free ring and the cache. -/
def Tervon.larderRefill (t : Tervon) (k : Nat) : Tervon :=
  let c := Cells.get 0 t.lard.cached k
  let ring := Tervon.poolFree t k - c
  if 4 < k then t
  else if c < 128 then { t with lard.cached := Cells.set 0 t.lard.cached k (c + min 128 ring) }
  else if 448 < c then { t with lard.cached := Cells.set 0 t.lard.cached k (c - 128) }
  else t

/-- Take a buffer for `owner`, or refuse and count (R398). The index handed out is the lowest free one (log entry 32). -/
def Tervon.larderAlloc (t : Tervon) (n owner : Nat) : Tervon × Option Nat :=
  match poolFor n with
  | none => (t, none)
  | some k =>
    let free := Tervon.poolFree t k
    if 1 ≤ n ∧ 1 ≤ free ∧ (LarderSt.heldBy t.lard k owner < Tervon.larderMin t owner k ∨ Tervon.owed t k owner + 1 ≤ free) then
      let taken := LarderSt.taken t.lard k
      let idx := ((List.range (taken.length + 1)).find? fun i => !taken.contains (mkHandle k i)).getD 0
      let h := mkHandle k idx
      let t := Tervon.cacheTake t k
      ({ t with lard.bufs := Cells.insert t.lard.bufs h { Buf.reset with owner := owner } }, some h)
    else ({ t with lard.refused := Cells.modify 0 t.lard.refused k fun c => satAdd32 c 1 }, none)

def Tervon.buf? (t : Tervon) (h : Nat) : Option Buf := (t.lard.bufs.find? fun e => decide (e.1 = h)).map Prod.snd

/-- The bytes stored of a dump (R384). -/
def storedPayload (p : Payload) : List Byte :=
  let bs := Payload.bytes p
  le 2 bs.length ++ zeros 2 ++ bs

/-- Share a buffer, at most once (R401). -/
def Tervon.larderShareBuf (t : Tervon) (h final : Nat) (holders : List Nat) : Tervon :=
  match Tervon.buf? t h with
  | some b => if b.final.isSome then t else { t with lard.bufs := Cells.insert t.lard.bufs h { b with final := some final, holders := holders } }
  | none => t

/-- Losses that a port has counted so far: a dump's frames-lost bit compares them (R125). -/
def Tervon.lossMark (t : Tervon) (port : Nat) : Nat :=
  let q := if port < 13 then Tervon.port t port else t.ilink
  q.aliveGap.toNat + q.downDiscards.toNat

/-- The body of DUMP_READY (R390): `bs` is the summary of the END frame. -/
def dumpReady (d : TvDump) (status : Nat) (lost : Bool) (bs : List Byte) : List Byte :=
  le 4 d.id.toNat ++ le 4 d.bytes.length ++ slice bs 0 8 ++ [BitVec.ofNat 8 (field bs 8 1), BitVec.ofNat 8 (b2n (bit (field bs 9 1) 4) + 2 * b2n (decide (status = 6)) + 4 * b2n lost)]
    ++ zeros 2 ++ slice bs 16 4 ++ zeros 8

/-- Store a DUMP payload in its dump (R125, R400); the END frame completes it, shares its buffer and writes DUMP_READY (R384). -/
def Tervon.dumpPut (t : Tervon) (d : TvDump) (status : Byte) (bs : List Byte) (p : Payload) : Tervon :=
  let keep (d : TvDump) : Tervon := { t with lard.dumps := t.lard.dumps.map fun e => if e.handle = d.handle ∧ e.gone = false then d else e }
  let all := d.bytes ++ storedPayload p
  if status = 5 ∨ status = 6 then
    let d := { d with bytes := all, complete := true }
    let t := Tervon.larderShareBuf (keep d) d.handle 0 ((Tervon.recordFns t d.did).filter fun f => decide (f ≠ 0))
    Tervon.recordDid t 0x0A 0 d.did (dumpReady d status.toNat (decide (Tervon.lossMark t d.port ≠ d.lossMark)) bs)
  else if 33554432 - 2052 < all.length then
    let t := keep { d with full := true }
    { t with lard.dumpTrunc := satAdd32 t.lard.dumpTrunc 1 }
  else keep { d with bytes := all }

/-- A DUMP payload of a leaf (R400): its dump's first frame takes a buffer; false while none is granted. -/
def Tervon.dumpTake (t : Tervon) (port : Nat) (did : Did) (p : Payload) : Tervon × Bool :=
  match p with
  | .dump id _ _ status _ bs =>
    match t.lard.dumps.find? fun d => decide (d.did = did) && decide (d.id = id) && !d.complete && !d.gone with
    | some d => (Tervon.dumpPut t d status bs p, true)
    | none =>
      let (t, h) := Tervon.larderAlloc t 33554432 16
      match h with
      | none => (t, false)
      | some h =>
        let d : TvDump := { TvDump.reset with did := did, id := id, handle := h, port := port, lossMark := Tervon.lossMark t port }
        (Tervon.dumpPut { t with lard.dumps := t.lard.dumps ++ [d] } d status bs p, true)
  | _ => (t, true)

/-- Withhold the class 3 credits of a leaf port, or grant them again (R400). -/
def Tervon.hold3 (t : Tervon) (port : Nat) (b : Bool) : Tervon :=
  let f (q : LinkPort) : LinkPort := LinkPort.ungrip { q with withheld3 := b }
  if port < 13 then Tervon.modPort t port f else { t with ilink := f t.ilink }

/-- A DUMP frame arrives: behind frames that wait it waits too (R400). -/
def Tervon.dumpArrive (t : Tervon) (port : Nat) (did : Did) (p : Payload) : Tervon :=
  let hold (t : Tervon) : Tervon := Tervon.hold3 { t with lard.waiting := t.lard.waiting ++ [(port, did, p)] } port true
  if t.lard.waiting.any fun w => decide (w.1 = port) then hold t
  else
    let (t, ok) := Tervon.dumpTake t port did p
    if ok then t else hold t

/-- A dump buffer returned: frames that waited are stored, and ports without one waiting grant class 3 credits again (R400). -/
def Tervon.dumpRetry (t : Tervon) : Nat → Tervon
  | 0 => t
  | n + 1 =>
    match t.lard.waiting with
    | [] => t
    | (port, did, p) :: rest =>
      let (t, ok) := Tervon.dumpTake t port did p
      if ok then
        let t := { t with lard.waiting := rest }
        Tervon.dumpRetry (if rest.any fun w => decide (w.1 = port) then t else Tervon.hold3 t port false) n
      else t

/-- A buffer returns to its free ring; a withdrawn one stays out of it (R399, R415). -/
def Tervon.larderReturn (t : Tervon) (h : Nat) : Tervon :=
  let t := { t with lard.bufs := Cells.erase t.lard.bufs h, lard.dumps := t.lard.dumps.map fun d => if d.handle = h then { d with gone := true } else d }
  let t := if t.lard.withdrawn.contains h then t else Tervon.cachePut t (handlePool h)
  Tervon.dumpRetry t t.lard.waiting.length

/-- A drop of a shared buffer (R401). -/
def Tervon.larderDrop (t : Tervon) (h f : Nat) : Tervon :=
  match Tervon.buf? t h with
  | none => t
  | some b =>
    if b.holders.contains f then
      let b := { b with holders := b.holders.filter fun g => decide (g ≠ f) }
      if b.holders.isEmpty && b.freed then Tervon.larderReturn t h else { t with lard.bufs := Cells.insert t.lard.bufs h b }
    else { t with lard.strayDrops := satAdd32 t.lard.strayDrops 1 }

/-- A free of a shared buffer (R401, R402); the Bool says that the caller may free it. -/
def Tervon.larderFree (t : Tervon) (h f : Nat) : Tervon × Bool :=
  match Tervon.buf? t h with
  | none => (t, true)
  | some b =>
    if b.final ≠ some f then (t, false)
    else if b.holders.isEmpty then (Tervon.larderReturn t h, true)
    else ({ t with lard.bufs := Cells.insert t.lard.bufs h { b with freed := true } }, true)

/-- Release a buffer that was never shared. -/
def Tervon.larderRelease (t : Tervon) (h : Option Nat) : Tervon :=
  match h with
  | some h => if (Tervon.buf? t h).isSome then Tervon.larderReturn t h else t
  | none => t

/-- Withdraw a buffer until the next cold start (R415): a free one, and one in use, leave the free ring. -/
def Tervon.larderWithdraw (t : Tervon) (h : Nat) : Tervon :=
  if t.lard.withdrawn.contains h then t
  else { t with lard.withdrawn := t.lard.withdrawn ++ [h], lard.withdrawnCnt := satAdd32 t.lard.withdrawnCnt 1 }

/-- DUMP_FETCH (R379, R384, R401): data, then drop, then free. -/
def Tervon.dumpFetch (j : Job) (t : Tervon) : Tervon :=
  let f := j.ref.fn
  let holds (d : TvDump) : Bool := match Tervon.buf? t d.handle with
    | some b => b.holders.contains f || decide (b.final = some f)
    | none => false
  match t.lard.dumps.find? fun d => decide (d.did = Job.did j) && decide (d.id.toNat = Job.u32 j 40) && d.complete && !d.gone with
  | none => Tervon.complete t j 28
  | some d =>
    let drop := bit (Job.byte j 48) 0
    let free := bit (Job.byte j 48) 1
    let bs := (d.bytes.drop (Job.u32 j 44)).take (Job.outSize j)
    let left := d.bytes.length - Job.u32 j 44 - bs.length
    if !holds d then
      if free then Tervon.complete t j 27
      else if drop then Tervon.complete (Tervon.larderDrop t d.handle f) j 0
      else Tervon.complete t j 28
    else
      let t := Tervon.output t j bs
      let t := if drop then Tervon.larderDrop t d.handle f else t
      if free then
        let (t, ok) := Tervon.larderFree t d.handle f
        if ok then Tervon.complete t j 0 bs.length left else Tervon.complete t j 27
      else Tervon.complete t j 0 bs.length left

end Sys2Proof.Machine
end

