-- ==== Sys2Proof/Machine/TvRoster.lean ====
section
/-! DEFINITION. Leases as a Tervon keeps them (R347 to R351), the identity checks (R361), the roster and its operations (R360 to R363), and the
warm roster (R369, R370). -/

namespace Sys2Proof.Machine

/-! ### Mirrored items and the warm roster -/

/-- The same item in another state (R353). -/
def MirrorItem.same : MirrorItem → MirrorItem → Bool
  | .stream i _, .stream j _ => decide (i = j)
  | .image d s k _ _ _, .image d' s' k' _ _ _ => decide (d = d') && decide (s = s') && decide (k = k')
  | .lease d _ _, .lease d' _ _ => decide (d = d')
  | _, _ => false

/-- An item changed: it is sent once in the next mirror period, with its latest value (R353). -/
def Tervon.touch (t : Tervon) (i : MirrorItem) : Tervon :=
  if t.mir.unmirrored && t.mir.resend.isNone then t
  else
    let since := if t.mir.dirty = [] then Tervon.now t else t.mir.dirtySince
    { t with mir.dirty := (t.mir.dirty.filter fun k => !MirrorItem.same k i) ++ [i], mir.dirtySince := since }

/-- The warm roster changed (R369). -/
def Tervon.markWarm (t : Tervon) : Tervon :=
  { t with warm.hbmDirty := some (t.warm.hbmDirty.getD (Tervon.now t)), warm.norDirty := some (t.warm.norDirty.getD (Tervon.now t)) }

/-- The 192 bytes of a roster entry (R360). -/
def Tervon.entBytes (t : Tervon) (key : Nat) : List Byte :=
  let e := Tervon.ent t key
  let seen := match e.seenAt with
    | some a => decide (Tervon.now t ≤ a + Tervon.silentNs t)
    | none => false
  [BitVec.ofNat 8 e.state, BitVec.ofNat 8 (b2n seen + 2 * b2n e.attested), BitVec.ofNat 8 (key / 8), BitVec.ofNat 8 (key % 8)] ++ le 3 e.did.toNat ++ [0]
    ++ padTo 16 e.ident ++ le 4 e.power.toNat ++ le 4 e.opTime.toNat ++ padTo 96 e.key ++ le 8 e.changed ++ zeros 56

/-- The warm roster as it stands. -/
def Tervon.warmNow (t : Tervon) : WarmCopy :=
  { ents := t.ros.ents, route := t.ros.route,
    consts := t.rings.foldl (fun m e => Cells.set [] m e.1 e.2.consts) [] }

/-- The roster digest (R369): CRC-64/XZ of the image, the pod number and the coordinate. -/
def Tervon.digestOf (t : Tervon) (w : WarmCopy) : DWord :=
  let ents := w.ents.map fun e => (e.1, e.2.state, e.2.did, e.2.ident, e.2.power, e.2.opTime, e.2.key)
  let bs := ents.map fun e => (e.1, [BitVec.ofNat 8 e.2.1] ++ le 3 e.2.2.1.toNat ++ padTo 16 e.2.2.2.1 ++ le 4 e.2.2.2.2.1.toNat ++ le 4 e.2.2.2.2.2.1.toNat ++ padTo 96 e.2.2.2.2.2.2)
  crc64 (Config.warmImage bs w.route w.consts ++ [BitVec.ofNat 8 (bits t.boot.pod.toNat 5 0), BitVec.ofNat 8 (Tervon.x t), BitVec.ofNat 8 (Tervon.y t)])

/-- WARM_ROSTER_HBM_UPDATE (R369). -/
def Tervon.warmHbm (t : Tervon) : Tervon :=
  if t.warm.hbmDirty.isNone then t
  else
    let w := Tervon.warmNow t
    { t with warm.hbmDirty := none, warm.hbmCopy := some w, warm.digest := Tervon.digestOf t w }

/-- WARM_ROSTER_NOR_UPDATE (R369): the older of the two copies is replaced. -/
def Tervon.warmNor (t : Tervon) : Tervon :=
  if t.warm.norDirty.isNone then t
  else
    let gen := match t.warm.nor with
      | e :: _ => e.1 + 1
      | [] => 1
    let w := Tervon.warmNow t
    { t with warm.norDirty := none, warm.nor := ((gen, w) :: t.warm.nor).take 2, warm.digest := Tervon.digestOf t w }

/-! ### Budgets -/

/-- The rate of a class that a Tervon assigns to each leaf of a ring of `len` leaves at the reset refill period: the sum over the ring's leaves
and classes stays within 95 % of 6,250 bytes per µs (R167; log entry 34). -/
def budgetRate (len cls : Nat) : Nat := 1 + Config.budget len cls % (5937 / (3 * len))

/-- Assign the budgets of a position: classes 1 to 3 when ADMITTED, class 1 alone otherwise (R167, R360). -/
def Tervon.assignBudgets (t : Tervon) (key : Nat) : Tervon :=
  if key = ileafKey then t
  else
    let e := Tervon.ent t key
    let len := Tervon.ringLen t (key / 8)
    let word (c : Nat) : List Byte := le 4 (0xFFFF0000 + (if c = 1 ∨ e.state = 1 then budgetRate len c else 0))
    let bs := word 1 ++ word 2 ++ word 3
    let t := Tervon.setLease t key { Tervon.lease t key with budgets := true }
    Tervon.writeLeaf (Tervon.writeLeaf t key 0x84 bs) key 0x94 bs

/-! ### States and conflicts -/

/-- Change a management state (R360): the time, the record of kind 5, and the warm roster. -/
def Tervon.setState (t : Tervon) (key state : Nat) : Tervon :=
  let e := Tervon.ent t key
  if e.state = state then t
  else
    let t := Tervon.setEnt t key { e with state := state, changed := Tervon.now t }
    Tervon.markWarm (Tervon.rosterEvent t 5 state (key / 8) (key % 8) e.did 0 0 0)

/-- A check of R361 failed: an ADMITTED position becomes SUSPECT and the cause is raised (R362). A position that is EMPTY does not change. -/
def Tervon.suspect (t : Tervon) (key cause serial power : Nat) : Tervon :=
  let e := Tervon.ent t key
  if e.state = 0 then t
  else Tervon.assignBudgets (Tervon.conflict (Tervon.setState t key 2) key cause e.did serial power) key

/-! ### Losing and gaining a lease -/

/-- Discard the incomplete captures of a leaf whose lease is lost (R25, R305). -/
def Tervon.dropCaptures (t : Tervon) (key : Nat) (did : Did) : Tervon :=
  let gone := t.assay.caps.filter fun c => decide (c.did = did) && c.fullAt.isNone && !c.done
  match gone with
  | [] => t
  | _ =>
    let first := gone.foldl (fun m c => min m c.descAt) (Tervon.now t)
    let t := gone.foldl (fun t c => Tervon.larderRelease t c.handle) t
    let keep := t.assay.caps.filter fun c => !(decide (c.did = did) && c.fullAt.isNone && !c.done)
    let t := { t with assay.caps := keep, assay.discarded := satAdd32 t.assay.discarded gone.length }
    Tervon.recordDid t 9 0 did (lossBody 5 (key / 8) gone.length first (Tervon.now t) (Tervon.tq t))

/-- The lease of a position is no longer held (R305, R348): its leaf's suspects are retracted (R268). -/
def Tervon.loseLease (t : Tervon) (key : Nat) : Tervon :=
  let e := Tervon.lease t key
  if e.held = false then t
  else
    let t := Tervon.setLease t key { e with held := false, lostAt := Tervon.now t, renewAt := none, attestBy := none, budgets := false, lockBy := none }
    let d := Tervon.keyDid t key
    let t := Tervon.setLeafRec t d { Tervon.leafRec t d with asm := [] }
    Tervon.dropCaptures (Tervon.retract t 2 fun s => decide (s.did = d)) key d

/-- The lease item of a position as it is mirrored (R353). -/
def Tervon.leaseItem (t : Tervon) (key : Nat) : MirrorItem :=
  let e := Tervon.lease t key
  .lease e.grantDid e.epoch (BitVec.ofNat 64 e.expiry)

/-- Start the attestation of a new holder: a fresh nonce goes to the leaf (R202, R361). -/
def Tervon.startAttest (t : Tervon) (key : Nat) : Tervon :=
  let nonce := (List.range 48).map fun i => Config.nonceByte t.free i
  let t := { t with free := t.free + 1 }
  let t := Tervon.setLease t key { Tervon.lease t key with nonce := nonce, attestBy := some (Tervon.now t + 10000000), decided := false }
  Tervon.writeLeaf t key 0x1700 nonce

/-- The serial in a roster entry (R360). -/
def RosterEnt.serial (e : RosterEnt) : Nat := field e.ident 8 8

/-- After a warm start the restored path constants are written without ring closure (R370). -/
def Tervon.warmPath (t : Tervon) (key : Nat) : Tervon :=
  let e := Tervon.ringEnd t (key / 8)
  match e.consts[key % 8]? with
  | some c =>
    if t.boot.warm ∧ e.cal = true then
      Tervon.writeLeaf t key 0x34 (le 4 (BitVec.ofInt 32 c.1).toNat ++ le 4 (BitVec.ofInt 32 c.2).toNat)
    else t
  | none => t

/-- GRANTED as the new holder: check 1 of R361, then the nonce. Where check 1 fails it has decided the outcome, and the attestation only keeps
the identity for admission (R361, R363; log entry 84). A buddy that mirrored a lease of a leaf that is not ADMITTED here disagrees
(R362, log entry 36). -/
def Tervon.gained (t : Tervon) (key : Nat) : Tervon :=
  if key = ileafKey then t
  else
    let t := Tervon.warmPath t key
    let e := Tervon.ent t key
    let l := Tervon.lease t key
    let t := Tervon.setEnt t key { e with attested := false }
    let t := if e.state ≠ 1 ∧ l.grantDid ≠ 0 ∧ (t.mir.leases.any fun m => decide (m.1 = l.grantDid.toNat)) = true then Tervon.conflict t key 8 l.grantDid l.serial.toNat 0 else t
    if e.state = 1 ∧ l.serial.toNat ≠ RosterEnt.serial e then
      let t := Tervon.startAttest (Tervon.suspect t key 3 l.serial.toNat 0) key
      Tervon.setLease t key { Tervon.lease t key with decided := true }
    else Tervon.startAttest t key

/-- Fence requests of a key complete (R350). -/
def Tervon.fenceDone (t : Tervon) (key : Nat) : Tervon :=
  let mine := t.ros.reqs.filter fun r => (match r.pay with
      | .leaseReq _ => true
      | _ => false) && decide (posKey r.port r.pos.toNat = key)
  if mine = [] then t
  else
    let t := Tervon.setLease t key { Tervon.lease t key with fenceUntil := some (Tervon.now t + Tervon.fenceHold t) }
    mine.foldl (fun t r =>
      let t := Tervon.endReq t r
      match r.job with
      | some j => match Tervon.job? t j with
        | some k => Tervon.complete t k 0
        | none => t
      | none => t) t

/-- LEASE_GRANT at a ring end, or from the internal leaf (R347, R348, R350, R361). -/
def Tervon.leaseGrant (key : Nat) (h : Hdr) (p : LeaseGrantP) (t : Tervon) : Tervon :=
  let e := Tervon.lease t key
  let now := Tervon.now t
  let me := decide (p.holder.toNat = Tervon.endCode t)
  let e := { e with known := true, grantDid := p.did, serial := p.serial }
  match p.result.toNat with
  | 0 =>
    if me then
      let t := Tervon.loseLease t key
      let t := Tervon.setLease t key { e with held := true, epoch := p.epoch, expiry := p.expiry.toNat, granted := now, epochAt := now, dur := p.duration.toNat, refused := false, renewAt := none, takeoverAt := none, budgets := false, lockBy := none }
      Tervon.gained (Tervon.touch t (Tervon.leaseItem t key)) key
    else Tervon.loseLease (Tervon.setLease t key { e with takeoverAt := none }) key
  | 1 =>
    if me ∧ e.held then
      let t := Tervon.setLease t key { e with epoch := p.epoch, expiry := p.expiry.toNat, granted := now, dur := p.duration.toNat, refused := false, renewAt := none }
      Tervon.touch t (Tervon.leaseItem t key)
    else Tervon.setLease t key e
  | 2 => if p.holder = 0xFF then Tervon.wantLease (Tervon.setLease t key e) key else Tervon.setLease t key e
  | 3 =>
    let t := Tervon.setLease t key { e with refused := true, renewAt := none }
    if p.holder = 0xFF then Tervon.wantLease (Tervon.loseLease t key) key else t
  | _ =>
    let t := Tervon.loseLease (Tervon.setLease t key e) key
    let t := if p.result = 5 then Tervon.relayFenced (Tervon.fenceDone t key) h key (.leaseGrant p) else t
    Tervon.wantLease t key

/-- A LEASE_GRANT that comes from the buddy answers a fence sent through it (R350). -/
def Tervon.grantRelayed (h : Hdr) (p : LeaseGrantP) (t : Tervon) : Tervon :=
  if p.result ≠ 5 then t
  else match t.ros.reqs.find? fun r => decide (r.tag = h.tag) && (match r.pay with
      | .leaseReq _ => true
      | _ => false) with
    | some r => Tervon.fenceDone t (posKey r.port r.pos.toNat)
    | none => t

/-- The key of a ring and a position, or of the internal leaf, that a command names. -/
def keyNamed (ring pos : Nat) : Option Nat := if ring < 8 ∧ pos < 8 then some (posKey ring pos) else if ring = 8 ∧ pos = 0 then some ileafKey else none

def Tervon.atKey (t : Tervon) (ring pos : Nat) (act : Nat → Tervon → Tervon) : Tervon :=
  match keyNamed ring pos with
  | some k => act k t
  | none => t

/-- TAKEOVER_DELAY_EXPIRY (R347). -/
def Tervon.takeoverEnds (key : Nat) (t : Tervon) : Tervon :=
  let e := Tervon.lease t key
  match e.takeoverAt with
  | some a =>
    if a ≤ Tervon.now t ∧ Tervon.stewardHung t 1 = false then
      let t := Tervon.setLease t key { e with takeoverAt := none }
      if Tervon.fenced t key then t else Tervon.acquire t key
    else t
  | none => t

/-- LEASE_RENEW_DUE (R348). -/
def Tervon.renewDue (key : Nat) (t : Tervon) : Tervon :=
  let e := Tervon.lease t key
  let now := Tervon.now t
  let due := match e.renewAt with
    | none => decide (e.granted + e.dur * 500000 ≤ now)
    | some r => decide (r + Tervon.tmo t ≤ now)
  if e.held && due && !e.refused && !Tervon.stewardHung t 1 && decide (now < e.expiry) then
    Tervon.sendLease (Tervon.setLease t key { e with renewAt := some now }) key 1 (Tervon.leafDid t key)
  else t

/-- LEASE_LOST_LOCAL (R348). -/
def Tervon.lostLocal (key : Nat) (t : Tervon) : Tervon :=
  let e := Tervon.lease t key
  if e.held && decide (e.expiry ≤ Tervon.now t) then Tervon.loseLease t key else t

/-- FENCE_HOLD_EXPIRY (R350). -/
def Tervon.fenceHoldEnds (key : Nat) (t : Tervon) : Tervon :=
  let e := Tervon.lease t key
  match e.fenceUntil with
  | some a => if a ≤ Tervon.now t then Tervon.setLease t key { e with fenceUntil := none } else t
  | none => t

/-! ### Attestation -/

/-- The message that a leaf signs, as its holder forms it (R202). -/
def attMessageOf (nonce : List Byte) (a : AttestAnswer) (epoch : Half) : List Byte :=
  nonce ++ padTo 16 a.identity ++ le 8 a.serial.toNat ++ le 4 a.powerCount.toNat ++ le 4 a.opTime.toNat ++ le 3 a.did.toNat ++ [0] ++ le 2 epoch.toNat ++ zeros 2

/-- The identity digest of an answer, in the layout of roster entry bytes 8 to 23 (R200, R360). -/
def AttestAnswer.digest (a : AttestAnswer) : List Byte := slice a.identity 1 6 ++ zeros 2 ++ le 8 a.serial.toNat

/-- Checks 2 to 4 of R361: the cause of the first that fails. -/
def Tervon.attestFails (t : Tervon) (key : Nat) (a : AttestAnswer) : Option Nat :=
  let e := Tervon.ent t key
  let l := Tervon.lease t key
  let pub := if e.state = 1 then e.key else a.publicKey
  if Config.ecdsaVerify pub (attMessageOf l.nonce a l.epoch) a.signature = false then some 5
  else if AttestAnswer.digest a ≠ padTo 16 e.ident then some 3
  else if a.did ≠ e.did then some 6
  else if a.powerCount.toNat < e.power.toNat then some 4
  else none

/-- A new holder that holds an image fetches the snapshots that follow it (R98; log entry 38). -/
def Tervon.refetchFrom (t : Tervon) (key : Nat) : Tervon :=
  let d := Tervon.keyDid t key
  let r := Tervon.leafRec t d
  match r.last with
  | some q => Tervon.writeLeaf (Tervon.setLeafRec t d { r with refetch := [(q + 1, 1)] }) key 0x168 (le 4 (q + 1).toNat)
  | none => t

/-- ATTESTATION_CHECK (R361): the signature was read, or 10 ms have passed. -/
def Tervon.attestation (answer : Option AttestAnswer) (key : Nat) (t : Tervon) : Tervon :=
  let l := Tervon.lease t key
  if Tervon.stewardHung t 1 then t else
  match l.attestBy with
  | none => t
  | some by' =>
    let late := decide (by' ≤ Tervon.now t)
    match answer with
    | none =>
      if late = false then t
      else
        let t := Tervon.setLease t key { l with attestBy := none }
        if l.decided then t else Tervon.suspect t key 5 0 0
    | some a =>
      let t := Tervon.setLease t key { l with attestBy := none }
      if late then (if l.decided then t else Tervon.suspect t key 5 a.serial.toNat a.powerCount.toNat)
      else
        let e := Tervon.ent t key
        let t := Tervon.setEnt t key { e with observed := some a }
        if e.state = 0 then Tervon.assignBudgets t key
        else if l.decided then t
        else match Tervon.attestFails t key a with
          | some c => Tervon.suspect t key c a.serial.toNat a.powerCount.toNat
          | none =>
            let e := Tervon.ent t key
            let t := Tervon.setEnt t key { e with power := a.powerCount, opTime := a.opTime, attested := true }
            Tervon.refetchFrom (Tervon.assignBudgets (Tervon.markWarm t) key) key

/-! ### Roster operations -/

/-- The ring is enabled and the position on it (R363). -/
def Tervon.placeOk (t : Tervon) (ring pos : Nat) : Bool := decide (ring < 8) && Tervon.ringOn t ring && decide (pos < Tervon.ringLen t ring)

/-- The route entry of a position's leaf (R19, log entry 31). -/
def Tervon.routeEntry (t : Tervon) (did : Did) (ring pos : Nat) : DWord :=
  let me := (Tervon.x t, Tervon.y t)
  let bd := Tervon.buddyXY t
  let a := if Tervon.isB t then bd else me
  let b := if Tervon.isB t then me else bd
  BitVec.ofNat 64 (bits did.toNat 23 17 + 128 + bits t.boot.pod.toNat 5 0 * 2 ^ 8 + a.1 * 2 ^ 14 + a.2 * 2 ^ 17 + b.1 * 2 ^ 20 + b.2 * 2 ^ 23 + ring * 2 ^ 26 + pos * 2 ^ 29)

/-- Neither coordinate of the pair is vacant (R19). -/
def Tervon.pairPresent (t : Tervon) : Bool :=
  let bd := Tervon.buddyXY t
  let X := (Tervon.shape t).1
  !bit t.boot.vacant.toNat (Tervon.x t + X * Tervon.y t) && !bit t.boot.vacant.toNat (bd.1 + X * bd.2)

/-- Write a route entry. -/
def Tervon.setRoute (t : Tervon) (did : Did) (v : DWord) : Tervon := { t with ros.route := Cells.set 0 t.ros.route (bits did.toNat 16 0) v }

/-- The route entry is written and the operation completes (R19, R21). -/
def Tervon.admitEnd (t : Tervon) (j : Job) (status : Nat) : Tervon :=
  let t := Tervon.setRoute t (Job.did j) (Tervon.routeEntry t (Job.did j) (Job.byte j 40) (Job.byte j 41))
  Tervon.complete (Tervon.markWarm t) j status

/-- Ops 0 and 1 of ROSTER_ADMIT (R363): the entry is written; the holder writes LF_DID. -/
def Tervon.enterRoster (t : Tervon) (j : Job) (ident key : List Byte) (power opTime : Word) : Tervon :=
  let ring := Job.byte j 40
  let pos := Job.byte j 41
  let k := posKey ring pos
  let e := Tervon.ent t k
  let t := Tervon.setEnt t k { e with did := Job.did j, ident := ident, key := key, power := power, opTime := opTime, raised := e.raised.filter fun c => decide (c = 1) }
  let t := Tervon.setState t k 1
  let l := Tervon.lease t k
  let t := Tervon.setLease t k { l with fenceUntil := none }
  let t := Tervon.setRingEnd t ring { Tervon.ringEnd t ring with calRun := some (Tervon.now t) }
  if l.held then
    let t := Tervon.setJob t { j with phase := 1 }
    Tervon.issue t k (.regWr (Tervon.leafDid t k) 0 0x18 4 (le 4 (Job.did j).toNat)) (some j.ref)
  else Tervon.admitEnd t j 0

/-- The checks of ROSTER_ADMIT ops 0 and 1 on the operands (R17, R19, R363). -/
def Tervon.admitOk (t : Tervon) (j : Job) : Bool :=
  Tervon.placeOk t (Job.byte j 40) (Job.byte j 41) && decide (Job.did j ≠ 0) && Tervon.pairPresent t

/-- ROSTER_ADMIT_GIVEN (R363). -/
def Tervon.admitGiven (x : HostData) (j : Job) (t : Tervon) : Tervon :=
  if j.phase ≠ 0 then t
  else if Tervon.admitOk t j = false then Tervon.complete t j 3
  else if x.poisoned then Tervon.complete t j 25
  else Tervon.enterRoster t j (slice x.bytes 0 16) (slice x.bytes 16 96) 0 0

/-- ROSTER_ADMIT_OBSERVED (R363). -/
def Tervon.admitObserved (j : Job) (t : Tervon) : Tervon :=
  if j.phase ≠ 0 then t
  else if Tervon.admitOk t j = false then Tervon.complete t j 3
  else match (Tervon.ent t (posKey (Job.byte j 40) (Job.byte j 41))).observed with
    | some a => Tervon.enterRoster t j (AttestAnswer.digest a) a.publicKey a.powerCount a.opTime
    | none => Tervon.complete t j 20

/-- ROSTER_FENCE (R350): LEASE_REQ fence from the Tervon's own end. -/
def Tervon.fence (j : Job) (t : Tervon) : Tervon :=
  if j.phase ≠ 0 then t
  else if Tervon.placeOk t (Job.byte j 40) (Job.byte j 41) = false then Tervon.complete t j 3
  else
    let k := posKey (Job.byte j 40) (Job.byte j 41)
    let t := Tervon.setJob t { j with phase := 1 }
    Tervon.issue t k (.leaseReq { op := 3, duration := 0, epoch := 0, did := Tervon.leafDid t k }) (some j.ref)

/-- ROSTER_RETIRE (R363). -/
def Tervon.retire (j : Job) (t : Tervon) : Tervon :=
  if j.phase ≠ 0 then t
  else if Tervon.placeOk t (Job.byte j 40) (Job.byte j 41) = false then Tervon.complete t j 3
  else
    let k := posKey (Job.byte j 40) (Job.byte j 41)
    let e := Tervon.ent t k
    let t := Tervon.setState t k 0
    let t := if e.did = 0 then t else Tervon.setRoute t e.did 0
    let now := if e.state = 0 then e.changed else Tervon.now t
    let t := Tervon.setEnt t k { RosterEnt.reset with changed := now, seenAt := e.seenAt, observed := e.observed, quarantined := e.quarantined, raised := e.raised.filter fun c => decide (c = 2) }
    let t := Tervon.markWarm t
    if (Tervon.lease t k).held then
      Tervon.issue (Tervon.setJob t { j with phase := 1 }) k (.regWr (Tervon.leafDid t k) 0 0x18 4 (zeros 4)) (some j.ref)
    else Tervon.complete t j 0

/-- The answer to a roster operation's write of LF_DID (R363): then the identity checks run for an admission. -/
def Tervon.rosterAnswer (t : Tervon) (j : Job) (st : Nat) : Tervon :=
  let k := posKey (Job.byte j 40) (Job.byte j 41)
  if Job.op j = 0x12 then
    if Job.byte j 42 = 2 then Tervon.complete t j 9
    else
      let t := if st = 0 then Tervon.startAttest (Tervon.setLease t k { Tervon.lease t k with grantDid := Job.did j }) k else t
      Tervon.admitEnd t j (rspStatus st)
  else
    let t := if st = 0 then Tervon.setLease t k { Tervon.lease t k with grantDid := 0 } else t
    Tervon.complete t j (rspStatus st)

/-- ROSTER_SILENT_TIMEOUT (R360, R362). -/
def Tervon.rosterSilent (key : Nat) (t : Tervon) : Tervon :=
  let e := Tervon.ent t key
  if key ≠ ileafKey ∧ e.state = 1 ∧ e.seenAt.getD e.changed + Tervon.silentNs t ≤ Tervon.now t then Tervon.conflict t key 1 e.did 0 0 else t

end Sys2Proof.Machine
end

