-- ==== Sys2Proof/Machine/TvAssay.lean ====
section
/-! DEFINITION. The Assayer of a Tervon: model stores and policies (R309, R311), captures and batches (R310, R312), the steps of R313, verdicts
and where they go (R314 to R320), and ASSAY_SUBMIT (R382). -/

namespace Sys2Proof.Machine

/-! ### Model stores and policies -/

/-- The entry of a store with a key. -/
def Tervon.model? (t : Tervon) (p : Nat) (id : Word) (dig : DWord) : Option ModelEnt :=
  t.assay.models.find? fun m => decide (m.part = p) && decide (m.id = id) && decide (m.digest = dig)

def Tervon.dropModel (t : Tervon) (p : Nat) (id : Word) (dig : DWord) : Tervon :=
  { t with assay.models := t.assay.models.filter fun m => !(decide (m.part = p) && decide (m.id = id) && decide (m.digest = dig)) }

/-- ASSAY_MODEL_LOAD (R309). -/
def Tervon.modelLoad (x : HostData) (j : Job) (t : Tervon) : Tervon :=
  let p := Job.byte j 44
  let m := x.bytes
  if modelOk m = false ∨ (aModel m).toNat ≠ Job.u32 j 40 then Tervon.complete t j 3
  else
    let old := Tervon.model? t p (aModel m) (aDigest m)
    let other := match old with
      | some e => decide (e.fn ≠ j.ref.fn)
      | none => false
    let freed := match old with
      | some e => e.image.length
      | none => 0
    if other then Tervon.complete t j 18
    else if (old.isNone && decide (4096 ≤ t.assay.models.length)) || decide (1073741824 * (Tervon.part t p).hbm + freed < Tervon.hbmUsed t p 65536 + m.length) then Tervon.complete t j 19
    else
      let e : ModelEnt := { fn := j.ref.fn, part := p, id := aModel m, digest := aDigest m, image := m, poisoned := x.poisoned }
      let t := Tervon.dropModel t p (aModel m) (aDigest m)
      Tervon.complete { t with assay.models := t.assay.models ++ [e] } j 0

/-- ASSAY_MODEL_LOAD of length 0 (R309): a key that another function holds is not unloaded. -/
def Tervon.modelUnload (j : Job) (t : Tervon) : Tervon :=
  let p := Job.byte j 44
  let id := w32 (Job.u32 j 40)
  let dig := w64 (Job.u64 j 48)
  match Tervon.model? t p id dig with
  | none => Tervon.complete t j 28
  | some e => if e.fn ≠ j.ref.fn then Tervon.complete t j 18 else Tervon.complete (Tervon.dropModel t p id dig) j 0

def Tervon.policy (t : Tervon) (p : Nat) : Policy := Cells.get Policy.reset t.assay.policies p

/-- ASSAY_POLICY (R311): partition 0xFF is the physical function's own policy. -/
def Tervon.assayPolicy (j : Job) (t : Tervon) : Tervon :=
  let p := if Job.byte j 40 = 0xFF then 16 else Job.byte j 40
  let (w, b, q, f, r) := (Job.u16 j 42, Job.u16 j 44, Job.u16 j 46, Job.byte j 48, Job.byte j 49)
  if w = 0 ∨ 1000 < w ∨ b = 0 ∨ 256 < b ∨ q = 0 ∨ 10 * w < q ∨ 1 < f ∨ 1 < r then Tervon.complete t j 3
  else
    let v : Policy := { window := w, batch := b, batchWait := q, fetch := decide (f = 1), reportMatch := decide (r = 1) }
    Tervon.complete { t with assay.policies := Cells.set Policy.reset t.assay.policies p v } j 0

/-! ### The capture record (R301) -/

def capN (h : List Byte) : Nat := field h 5 1
def capLen (h : List Byte) : Nat := field h 44 4
def capModel (h : List Byte) : Word := w32 (field h 8 4)
def capDigest (h : List Byte) : DWord := w64 (field h 16 8)
/-- Where the input begins in a record. -/
def capInputAt (h : List Byte) : Nat := (64 + 16 * capN h + 63) / 64 * 64
/-- Entry `k`: digest, op, unit and retained. -/
def capEntry (h : List Byte) (k : Nat) : Nat × Nat × Nat × Nat :=
  let o := 64 + 16 * k
  (field h o 8, field h (o + 8) 2, field h (o + 10) 2, field h (o + 12) 4)

/-- The hash of R299 falls below the threshold of the capture's k. -/
def capSampled (h : List Byte) : Bool :=
  decide ((crc32c (slice h 32 8 ++ slice h 24 8 ++ slice h 40 2)).toNat < 2 ^ (32 - bits (field h 6 1) 4 0))

/-- The header and its checkpoint entries keep R301, and every op lies in the program (R313 step 3). -/
def capOk (h m : List Byte) : Bool :=
  let n := capN h
  decide (64 ≤ h.length) && decide (field h 0 4 = 0x50414341) && decide (field h 4 1 = 1) && decide (n ≤ 64) && decide (bits (field h 6 1) 4 0 ≤ 24)
    && decide (1 ≤ capLen h) && decide (capLen h ≤ 16777216) && decide (64 + 16 * n ≤ h.length)
    && (List.range n).all (fun k => decide ((capEntry h k).2.1 < aOps m))
    && (List.range (n - 1)).all (fun k => decide ((capEntry h k).2.1 < (capEntry h (k + 1)).2.1))

/-! ### Verdicts (R313, R316, R317) -/

/-- The fields of a verdict that come from the capture. -/
def verdictOf (h : List Byte) (did : Did) (id : Word) (mode : Bool) (verdict reason : Nat) : VerdictRec :=
  { verdict := BitVec.ofNat 8 verdict, reason := BitVec.ofNat 8 reason, flags := BitVec.ofNat 8 (b2n (decide (verdict = 4)) + 4 * b2n mode), quality := 0,
    checkpoint := 0xFFFF, operation := 0, unit := if verdict = 2 then BitVec.ofNat 16 (field h 42 2) else 0xFFFF,
    stage := BitVec.ofNat 16 (field h 40 2), capture := id, step := w64 (field h 24 8), firstElem := 0xFFFFFFFF, differing := 0xFFFFFFFF,
    ulp := 0xFFFFFFFF, modelId := capModel h, modelDig := capDigest h, time := 0, did := did }

/-- The first checkpoint whose digest differs, the output counted as checkpoint n (R313 step 6). -/
def firstDiffers (h m : List Byte) (outs : List Tensor) : Option Nat :=
  let dig (k : Nat) : Nat := match outs[k]? with
    | some x => (crc64 x.bytes).toNat
    | none => 0
  let n := capN h
  (List.range (n + 1)).find? fun k => if k < n then decide (dig (capEntry h k).2.1 ≠ (capEntry h k).1) else decide (dig (field m 44 2) ≠ field h 56 8)

/-- The op whose output checkpoint `k` is. -/
def capOpOf (h m : List Byte) (k : Nat) : Nat := if k < capN h then (capEntry h k).2.1 else field m 44 2

/-- The steps of R313 on a capture that was delivered: the verdict and, for a MISMATCH, the Assayer's output at its checkpoint. -/
def assaySteps (h input : List Byte) (inputPoison : Bool) (model : Option ModelEnt) (tiles : Bool) (did : Did) (id : Word) (mode : Bool) : VerdictRec × Option Tensor :=
  let v (verdict reason : Nat) : VerdictRec := verdictOf h did id mode verdict reason
  match model with
  | none => (v 3 1, none)
  | some e =>
    let m := e.image
    if capSampled h = false then (v 3 5, none)
    else if capOk h m = false then (v 3 4, none)
    else if (crc64 input).toNat ≠ field h 48 8 then (v 2 0, none)
    else if tiles = false then (v 3 7, none)
    else if e.poisoned || inputPoison then (v 3 3, none)
    else match runStage m input with
      | none => (v 3 2, none)
      | some outs =>
        match firstDiffers h m outs with
        | none => (v 0 0, none)
        | some k =>
          let op := capOpOf h m k
          let unit := if k < capN h then (capEntry h k).2.2.1 else field h 12 2
          ({ v 1 0 with checkpoint := BitVec.ofNat 16 k, operation := BitVec.ofNat 16 (aOp m op).code, unit := BitVec.ofNat 16 unit, flags := BitVec.ofNat 8 (2 + 4 * b2n mode) }, outs[op]?)

/-- The element fields of a MISMATCH from the die's output (R318). -/
def VerdictRec.compare (r : VerdictRec) (ours : Tensor) (theirs : List Byte) : VerdictRec :=
  let (first, n, ulp) := compareOutputs ours { ours with bytes := theirs }
  { r with flags := r.flags &&& 0xFD, firstElem := w32 first, differing := w32 n, ulp := w32 ulp }

/-! ### Commitment (R314, R319, R320) -/

/-- The owner of a capture's counts: its partition, or 16 the physical function when none was chosen. -/
def TvCap.owner (c : TvCap) : Nat := c.part.getD 16
def Tervon.assayCount (t : Tervon) (owner word : Nat) : Tervon := { t with assay.stat := Cells.modify 0 t.assay.stat (8 * owner + word) fun n => satAdd32 n 1 }

/-- Send a verdict to its leaf: on the ring from this end, or through the buddy from the other end (R155, R319). -/
def Tervon.sendVerdict (t : Tervon) (did : Did) (id : Word) (r : VerdictRec) : Tervon :=
  let p : Payload := .verdict did id r
  let tag : Half := id.setWidth 16
  match Tervon.keyOf t did with
  | none => t
  | some key =>
    let e := Tervon.leafRec t did
    let t := Tervon.setLeafRec t did { e with sent := ((tag, p) :: e.sent.filter fun v => decide (v.1 ≠ tag)).take 64 }
    if key = ileafKey ∨ Tervon.linkUp? t (key / 8) = true then Tervon.sendKey t key tag p else Tervon.sendBuddy t tag 0 p

/-- The rings that take a verdict record (R219, R320). -/
def Tervon.verdictFns (t : Tervon) (did : Did) (r : VerdictRec) : List Nat :=
  if r.verdict = 0 then
    ((Tervon.partsOf t did).filter fun p => (Tervon.policy t p).reportMatch).map (· + 1) ++ (if (Tervon.policy t 16).reportMatch then [0] else [])
  else Tervon.recordFns t did

/-- Commit a capture's verdict (R314): it goes to the leaf and the record rings, and the capture's buffer is released. A capture whose
recomputation still runs is kept until that ends. -/
def Tervon.commitVerdict (t : Tervon) (c : TvCap) (r : VerdictRec) (keep : Bool) : Tervon :=
  let r := { r with quality := (Tervon.tq t).setWidth 8, time := BitVec.ofNat 64 (Tervon.now t) }
  let nd := if r.flags.getLsbD 0 then 2 else 0
  let t := Tervon.larderRelease (Tervon.larderRelease t c.handle) c.fetchBuf
  let mine (k : TvCap) : Bool := decide (k.did = c.did) && decide (k.id = c.id)
  let caps := if keep then t.assay.caps.map fun k => if mine k then { k with done := true, handle := none, fetchBuf := none, got := [], pending := none, fetching := none } else k
    else t.assay.caps.filter fun k => !mine k
  let t := Tervon.sendVerdict { t with assay.caps := caps } c.did c.id r
  let bs := VerdictRec.body r
  let bs := bs ++ le 4 (crc32c bs).toNat
  let t := (Tervon.verdictFns t c.did r).foldl (fun t f => Tervon.record t f 4 nd c.did bs) t
  Tervon.assayCount t (TvCap.owner c) r.verdict.toNat

def Tervon.cap? (t : Tervon) (did : Did) (id : Word) : Option TvCap := t.assay.caps.find? fun c => decide (c.did = did) && decide (c.id = id)
def Tervon.setCap (t : Tervon) (c : TvCap) : Tervon :=
  { t with assay.caps := t.assay.caps.map fun k => if k.did = c.did ∧ k.id = c.id then c else k }

/-- The window of a capture, ns: its partition's policy, or the default where none was chosen (R311, R312; log entry 51). -/
def Tervon.capWindow (t : Tervon) (c : TvCap) : Nat := (match c.part with
  | some p => (Tervon.policy t p).window
  | none => Policy.reset.window) * 1000000

/-! ### Captures and batches -/

/-- The complete captures of a key that wait for a batch, oldest first. -/
def Tervon.batchOf (t : Tervon) (p : Nat) (id : Word) (dig : DWord) : List TvCap :=
  t.assay.caps.filter fun c => c.fullAt.isSome && !c.running && !c.done && decide (c.part = some p) && decide (capModel c.hdr = id) && decide (capDigest c.hdr = dig)

/-- Start a batch (BATCH_START, R312): it runs against the store's entry as it stands and under the mode in force (R309, R341). -/
def Tervon.startBatch (t : Tervon) (cs : List TvCap) : Tervon :=
  if Tervon.stewardHung t 3 then t else
  cs.foldl (fun t c => Tervon.setCap t { c with running := true, mode := t.det.det, model := c.part.bind fun p => Tervon.model? t p (capModel c.hdr) (capDigest c.hdr) }) t

/-- A capture is complete (R312): without a partition it is unassayable with reason 1 (R310), and a batch that is full starts. -/
def Tervon.capComplete (t : Tervon) (c : TvCap) : Tervon :=
  let t := Tervon.setCap t { c with fullAt := some (Tervon.now t) }
  match c.part with
  | none => Tervon.commitVerdict t c (verdictOf c.hdr c.did c.id t.det.det 3 1) false
  | some p =>
    let b := Tervon.batchOf t p (capModel c.hdr) (capDigest c.hdr)
    if (Tervon.policy t p).batch ≤ b.length then Tervon.startBatch t (b.take (Tervon.policy t p).batch) else t

/-- CAPTURE_DESC (R305, R310, R400): zero bytes announced mark a skip, which gets its verdict at once. -/
def Tervon.captureDesc (port : Nat) (pos : BitVec 4) (id total : Word) (hdr : List Byte) (key : Nat) (t : Tervon) : Tervon :=
  let did := Tervon.keyDid t key
  match (Tervon.cap? t did id).filter fun c => c.fullAt.isSome || c.done with
  | some _ => t
  | none =>
    let t := match Tervon.cap? t did id with
      | some c => Tervon.larderRelease { t with assay.caps := t.assay.caps.filter fun k => !(decide (k.did = did) && decide (k.id = id)) } c.handle
      | none => t
    let part := (Tervon.partsOf t did).find? fun p => (Tervon.model? t p (capModel hdr) (capDigest hdr)).isSome
    let c : TvCap := { TvCap.reset with did := did, id := id, port := port, pos := pos, hdr := hdr, total := total.toNat, descAt := Tervon.now t, part := part }
    if total = 0 then Tervon.commitVerdict t c (verdictOf hdr did id t.det.det 3 6) false
    else match part with
      | none => { t with assay.caps := t.assay.caps ++ [c] }
      | some p =>
        let (t, h) := Tervon.larderAlloc t ((64 + 16 * capN hdr + 63) / 64 * 64 + total.toNat) p
        { t with assay.caps := t.assay.caps ++ [{ c with handle := h, dropped := h.isNone }] }

/-- Bytes of a capture received from an offset on, in the order of the frames. -/
def TvCap.bytesFrom (c : TvCap) (off : Nat) : List Byte :=
  (c.got.foldl (fun (bs : List Byte) p => if p.1 = off + bs.length then bs ++ p.2 else bs) [])

/-- CAPTURE_DATA (R308, R312): input bytes, or a retained output beyond the input while its fetch runs. -/
def Tervon.captureData (id offset : Word) (bs : List Byte) (key : Nat) (t : Tervon) : Tervon :=
  match Tervon.cap? t (Tervon.keyDid t key) id with
  | none => t
  | some c =>
    if c.done then t
    else if c.total ≤ offset.toNat then
      if c.fetching.isSome then Tervon.setCap t { c with got := c.got ++ [(offset.toNat, bs)] } else t
    else if c.dropped || c.fullAt.isSome then t
    else
      let c := { c with got := c.got ++ [(offset.toNat, bs)] }
      let t := Tervon.setCap t c
      if c.total ≤ (c.bytesFrom 0).length then Tervon.capComplete t c else t

/-- BATCH_WAIT_EXPIRY (R312). -/
def Tervon.batchWait (t : Tervon) (p : Nat) (id : Word) (dig : DWord) : Tervon :=
  let b := Tervon.batchOf t p id dig
  if b.any fun c => decide (c.fullAt.getD 0 + (Tervon.policy t p).batchWait * 100000 ≤ Tervon.now t) then Tervon.startBatch t (b.take (Tervon.policy t p).batch) else t

/-- Fetch the retained output of a MISMATCH, or none: fetch is 0, the checkpoint is not retained, or no buffer is granted (R313, R400). -/
def Tervon.fetchRetained (t : Tervon) (c : TvCap) (r : VerdictRec) (ours : Tensor) : Tervon × Bool :=
  let p := c.part.getD 0
  let k := r.checkpoint.toNat
  let ret := (capEntry c.hdr k).2.2.2
  match Tervon.keyOf t c.did with
  | none => (t, false)
  | some key =>
    if (Tervon.policy t p).fetch = false ∨ capN c.hdr ≤ k ∨ ret = 0 ∨ (Tervon.lease t key).held = false then (t, false)
    else
      let (t, h) := Tervon.larderAlloc t ours.bytes.length p
      match h with
      | none => (t, false)
      | some _ =>
        let off := 64 * ret - capInputAt c.hdr
        let t := Tervon.setCap t { c with fetchBuf := h, fetching := some (k, off, ours.bytes), pending := some r }
        (Tervon.writeLeaf t key 0x118 (le 8 (c.id.toNat + 4294967296 * k)), true)

/-- RECOMPUTE_COMPLETE (R313 to R315): canonical order gives every verdict. A result after the window is late. -/
def Tervon.recomputed (did : Did) (id : Word) (t : Tervon) : Tervon :=
  match Tervon.cap? t did id with
  | none => t
  | some c =>
    if c.running = false ∨ c.fetching.isSome = true then t
    else if c.done then
      Tervon.assayCount { t with assay.caps := t.assay.caps.filter fun k => !(decide (k.did = did) && decide (k.id = id)) } (TvCap.owner c) 5
    else
      let p := c.part.getD 0
      let (r, ours) := assaySteps c.hdr ((c.bytesFrom 0).take c.total) false c.model (!(Tervon.workTiles t p).isEmpty) did id c.mode
      match ours with
      | none => Tervon.commitVerdict t c r false
      | some x =>
        let (t, waits) := Tervon.fetchRetained t c r x
        if waits then t else Tervon.commitVerdict t c r false

/-- RETAINED_FETCH_COMPLETE (R313, R318). -/
def Tervon.retainedFetched (did : Did) (id : Word) (t : Tervon) : Tervon :=
  match Tervon.cap? t did id with
  | none => t
  | some c =>
    match c.fetching, c.pending, c.model with
    | some (k, off, ours), some r, some m =>
      let theirs := c.bytesFrom off
      if theirs.length < ours.length then t
      else
        let o := aOp m.image (capOpOf c.hdr m.image k)
        let n := match aInput m.image ((c.bytesFrom 0).take c.total) with
          | some x => x.dims.getD 0 0
          | none => 0
        let dims := match o.dims with
          | 0 :: ds => n :: ds
          | ds => ds
        Tervon.commitVerdict t c (VerdictRec.compare r ⟨o.fmt, dims, ours⟩ (theirs.take ours.length)) false
    | _, _, _ => t

/-- CAPTURE_WINDOW_EXPIRY (R312 to R314): TIMEOUT, or a MISMATCH whose fetch has not completed. -/
def Tervon.captureWindow (did : Did) (id : Word) (t : Tervon) : Tervon :=
  match Tervon.cap? t did id with
  | none => t
  | some c =>
    let from' := c.fullAt.getD c.descAt
    if c.done = true ∨ Tervon.now t < from' + Tervon.capWindow t c then t
    else match c.pending with
      | some r => Tervon.commitVerdict t c r false
      | none =>
        let mode := if c.running then c.mode else t.det.det
        Tervon.commitVerdict t c (verdictOf c.hdr did id mode 4 (if c.fullAt.isSome then 2 else 1)) c.running

/-! ### ASSAY_SUBMIT -/

/-- ASSAY_SUBMIT (R313, R382): the record as supplied, its retained outputs with it; the verdict goes to the output buffer alone. -/
def Tervon.assaySubmit (x : HostData) (j : Job) (t : Tervon) : Tervon :=
  let p := Job.byte j 40
  let h := x.bytes.take (64 + 16 * capN x.bytes)
  let at' := capInputAt h
  let input := slice x.bytes at' (capLen h)
  let id := w32 (Job.tag j)
  let model := Tervon.model? t p (capModel h) (capDigest h)
  let (r, ours) :=
    if model.isSome ∧ capSampled h = true ∧ input.length < capLen h then (verdictOf h 0 id t.det.det 3 4, none)
    else assaySteps h input x.poisoned model (!(Tervon.workTiles t p).isEmpty) 0 id t.det.det
  let r := match ours with
    | none => r
    | some y =>
      let k := r.checkpoint.toNat
      let ret := (capEntry h k).2.2.2
      let theirs := slice x.bytes (64 * ret) y.bytes.length
      if (Tervon.policy t p).fetch = false ∨ capN h ≤ k ∨ ret = 0 ∨ theirs.length < y.bytes.length then r else VerdictRec.compare r y theirs
  let r := { r with quality := (Tervon.tq t).setWidth 8, time := BitVec.ofNat 64 (Tervon.now t) }
  let bs := VerdictRec.body r
  Tervon.complete (Tervon.output t j (bs ++ le 4 (crc32c bs).toNat)) j 0 r.verdict.toNat

end Sys2Proof.Machine
end

