-- ==== Sys2Proof/Machine/TvCooper.lean ====
section
/-! DEFINITION. Cooper (R403 to R406). The streams themselves are those of published standards, which the spec cites (log entry 10). -/

namespace Sys2Proof.Machine

/-- The operands of the table "Compression operands". -/
def cooperOk (fmt level block : Nat) : Bool :=
  decide (fmt ≤ 3) && decide (level ≤ (if fmt = 3 then 19 else 9)) && (decide (block = 0) || (decide (4096 ≤ block) && decide (block ≤ 16777216)))

/-- Level 0 means 6, or 3 for Zstandard (R404). -/
def cooperLevel (fmt level : Nat) : Nat := if level = 0 then (if fmt = 3 then 3 else 6) else level

/-- A job that fails with its output buffer undefined (R379, R405, R406). -/
def Tervon.cooperFail (t : Tervon) (j : Job) (status d0 d1 : Nat) : Tervon :=
  let t := if Job.outSize j = 0 then t else Tervon.emit t (.hostUndefined j.ref.fn (Job.outAddr j) (Job.outSize j))
  Tervon.complete t j status d0 d1

/-- COOPER_COMPRESS (R404, R405): poisoned data is consumed with no output (R415). -/
def Tervon.compress (x : HostData) (j : Job) (t : Tervon) : Tervon :=
  let (fmt, level, block) := (Job.byte j 40, Job.byte j 41, Job.u32 j 42)
  if cooperOk fmt level block = false then Tervon.complete t j 3
  else if x.poisoned then Tervon.complete t j 25
  else
    let out := Config.compress fmt (cooperLevel fmt level) block x.bytes
    if Job.outSize j < out.length then Tervon.cooperFail t j 6 0 0
    else
      let good := match Config.decompress fmt out with
        | .ok y => decide (y = x.bytes)
        | .error _ => false
      if good then Tervon.complete (Tervon.output t j out) j 0 out.length
      else Tervon.cooperFail (Tervon.hostReport t (0x0800 + Config.cooperEngine j.ref.fn j.ref.idx.toNat % 4) 1 j.ref.idx.toNat) j 23 0 0

/-- COOPER_DECOMPRESS (R406). -/
def Tervon.decompress (x : HostData) (j : Job) (t : Tervon) : Tervon :=
  let fmt := Job.byte j 40
  if 4 < fmt then Tervon.complete t j 3
  else if x.poisoned then Tervon.complete t j 25
  else match Config.decompress fmt x.bytes with
    | .ok y => if Job.outSize j < y.length then Tervon.cooperFail t j 6 0 0 else Tervon.complete (Tervon.output t j y) j 0 y.length
    | .error off =>
      let n := Config.decodedBefore fmt x.bytes
      if Job.outSize j < n then Tervon.cooperFail t j 6 0 0 else Tervon.cooperFail t j 24 n off

end Sys2Proof.Machine
end

