-- ==== Sys2Proof/Machine/TvRecord.lean ====
section
/-! DEFINITION. Health records, trace and dumps of leaves at their holder (R115, R117, R125, R153, R360, R400). -/

namespace Sys2Proof.Machine

/-- A health record is written to the record rings (R219); one that says the ends of a ring disagree also gives a TIME_EVENT (R47, R390;
log entry 41). -/
def Tervon.healthOne (key : Nat) (quarantined : Bool) (t : Tervon) (r : HealthRec) : Tervon :=
  let t := if quarantined then Tervon.record t 0 1 4 r.did (HealthRec.bytes r) else Tervon.recordDid t 1 0 r.did (HealthRec.bytes r)
  if r.cls = 0x1C ∧ bits r.detail.toNat 7 0 = 1 ∧ quarantined = false ∧ key ≠ ileafKey then Tervon.timeEvent t 1 (key / 8) (key % 8) (Tervon.tq t).toNat 0 0 0 r.did else t

/-- HEALTH_FRAME (R153): a quarantined position's records go to the physical function's ring, flagged (R360). -/
def Tervon.healthFrame (recs : List HealthRec) (quarantined : Bool) (key : Nat) (t : Tervon) : Tervon := recs.foldl (Tervon.healthOne key quarantined) t

/-- A TRACE_CHUNK record (R390). -/
def Tervon.traceChunk (t : Tervon) (did : Did) (core : Nat) (loss : Bool) (offset : Nat) (bs : List Byte) : Tervon :=
  let plain (t : Tervon) : Tervon := Tervon.recordDid t 0x0B 0 did ([BitVec.ofNat 8 core, BitVec.ofNat 8 (b2n loss), 0, 0] ++ le 4 offset ++ le 4 bs.length ++ zeros 4 ++ bs)
  if loss then plain t
  else
    let (t, h) := Tervon.larderAlloc t 8192 16
    match h with
    | none => plain t
    | some _ =>
      let t := Tervon.larderRelease t h
      let f := Config.traceFormat % 4
      let z := Config.compress f (cooperLevel f 0) 0 bs
      if 2048 < z.length then plain t
      else Tervon.recordDid t 0x0B 0 did ([BitVec.ofNat 8 core, 2, BitVec.ofNat 8 f, 0] ++ le 4 offset ++ le 4 bs.length ++ zeros 4 ++ z)

/-- TRACE_FRAME (R115): an offset other than the one expected is a gap; offset 0 begins a stream (log entry 54). -/
def Tervon.traceFrame (core : BitVec 3) (offset : Word) (bs : List Byte) (port : Nat) (key : Nat) (t : Tervon) : Tervon :=
  let did := Tervon.keyDid t key
  let r := Tervon.leafRec t did
  let c := core.toNat
  let gap := match r.traceOff.find? fun e => decide (e.1 = c) with
    | some (_, x) => if x = offset ∨ offset = 0 then none else some (offset - x).toNat
    | none => none
  let t := Tervon.setLeafRec t did { r with traceOff := Cells.insert r.traceOff c (offset + BitVec.ofNat 32 bs.length) }
  let now := Tervon.now t
  let t := match gap with
    | some n => Tervon.recordDid t 9 0 did (lossBody 3 port n now now (Tervon.tq t))
    | none => t
  Tervon.traceChunk t did c false offset.toNat bs

/-- TRACE_LOSS_FRAME (R117). -/
def Tervon.traceLoss (bs : List Byte) (key : Nat) (t : Tervon) : Tervon :=
  let did := Tervon.keyDid t key
  let c := bits (field bs 0 1) 2 0
  Tervon.traceChunk t did c true (Cells.get 0 (Tervon.leafRec t did).traceOff c).toNat bs

/-- DUMP_FRAME (R125, R400). -/
def Tervon.dumpFrame (port : Nat) (p : Payload) (key : Nat) (t : Tervon) : Tervon := Tervon.dumpArrive t port (Tervon.keyDid t key) p

end Sys2Proof.Machine
end

