-- ==== Sys2Proof/Machine/ExecAssay.lean ====
section
/-! DEFINITION. Captures and the Assayer (R296 to R322), Cooper (R403 to R406), and the health, trace and dump frames of leaves: one meaning per
command. -/

namespace Sys2Proof.Machine

/-- CAPTURE_DESC (R310). -/
def execCaptureDesc (rx : Rx) (id total frames : Word) (hdr : List Byte) (s : State) : Res :=
  tvStep (fun t => Tervon.leafFrame t rx (.captureDesc id total frames hdr) (Tervon.captureDesc (rxPortNo rx) rx.hdr.src id total hdr) Tervon.quarantined) s

/-- CAPTURE_DATA (R312). -/
def execCaptureData (rx : Rx) (id offset : Word) (bytes : List Byte) (s : State) : Res :=
  tvStep (fun t => Tervon.leafFrame t rx (.captureData id offset bytes) (Tervon.captureData id offset bytes) Tervon.quarantined) s

/-- CAPTURE_WINDOW_EXPIRY (R314). -/
def execCaptureWindowExpiry (did : Did) (id : Word) (s : State) : Res := tvStep (Tervon.captureWindow did id) s

/-- BATCH_WAIT_EXPIRY (R312). -/
def execBatchWaitExpiry (partition : Nat) (model : Word) (digest : DWord) (s : State) : Res :=
  tvStep (fun t => Tervon.batchWait t partition model digest) s

/-- RECOMPUTE_COMPLETE (R313). -/
def execRecomputeComplete (did : Did) (id : Word) (s : State) : Res := tvStep (Tervon.recomputed did id) s

/-- RETAINED_FETCH_COMPLETE (R313). -/
def execRetainedFetchComplete (did : Did) (id : Word) (s : State) : Res := tvStep (Tervon.retainedFetched did id) s

/-- ASSAY_MODEL_LOAD (R309). -/
def execAssayModelLoad (job : JobRef) (input : HostData) (s : State) : Res :=
  tvStep (fun t => Tervon.withInput t job 0x0B input fun j t => if Job.inLen j = 0 then t else Tervon.modelLoad input j t) s

/-- ASSAY_MODEL_UNLOAD: a load of length 0 (R309). -/
def execAssayModelUnload (job : JobRef) (s : State) : Res :=
  tvStep (fun t => Tervon.withJob t job 0x0B fun j t => if Job.inLen j = 0 then Tervon.modelUnload j t else t) s

/-- ASSAY_POLICY (R311). -/
def execAssayPolicy (job : JobRef) (s : State) : Res := tvStep (fun t => Tervon.withJob t job 0x0C Tervon.assayPolicy) s

/-- ASSAY_SUBMIT (R313, R382). -/
def execAssaySubmit (job : JobRef) (input : HostData) (s : State) : Res :=
  tvStep (fun t => Tervon.withInput t job 0x0D input (Tervon.assaySubmit input)) s

/-- COOPER_COMPRESS (R404). -/
def execCooperCompress (job : JobRef) (input : HostData) (s : State) : Res :=
  tvStep (fun t => Tervon.withInput t job 0x0E input (Tervon.compress input)) s

/-- COOPER_DECOMPRESS (R406). -/
def execCooperDecompress (job : JobRef) (input : HostData) (s : State) : Res :=
  tvStep (fun t => Tervon.withInput t job 0x0F input (Tervon.decompress input)) s

/-- HEALTH_FRAME (R153). -/
def execHealthFrame (rx : Rx) (recs : List HealthRec) (s : State) : Res :=
  tvStep (fun t => Tervon.leafFrame t rx (.health recs) (Tervon.healthFrame recs false) (Tervon.healthFrame recs true)) s

/-- TRACE_FRAME (R115). -/
def execTraceFrame (rx : Rx) (core : BitVec 3) (offset : Word) (bytes : List Byte) (s : State) : Res :=
  tvStep (fun t => Tervon.leafFrame t rx (.trace core offset bytes) (Tervon.traceFrame core offset bytes (rxPortNo rx)) Tervon.quarantined) s

/-- TRACE_LOSS_FRAME (R117). -/
def execTraceLossFrame (rx : Rx) (bytes : List Byte) (s : State) : Res :=
  tvStep (fun t => Tervon.leafFrame t rx (.traceLoss bytes) (Tervon.traceLoss bytes) Tervon.quarantined) s

/-- DUMP_FRAME (R125). -/
def execDumpFrame (rx : Rx) (id : Word) (entry : Half) (kind status : Byte) (address : DWord) (bytes : List Byte) (s : State) : Res :=
  let p : Payload := .dump id entry kind status address bytes
  tvStep (fun t => Tervon.leafFrame t rx p (Tervon.dumpFrame (rxPortNo rx) p) Tervon.quarantined) s

end Sys2Proof.Machine
end

