-- ==== Sys2Proof/Machine/ExecCount.lean ====
section
/-! DEFINITION. Counting, histograms, timing pairs, sensors, snapshots and appointed snapshots of a leaf: one meaning per command. -/

namespace Sys2Proof.Machine

/-- STATION_CLOCK_EDGE (R64 to R66): the station samples its lines and slot states into its pre-counters. -/
def execStationClockEdge (who : LeafId) (stn : Nat) (lines : DWord) (slotVld : Bool) (slots : Half) (s : State) : Res :=
  leafStep who (fun l => Leaf.stationEdge l stn lines slotVld slots) s

/-- STATION_ENTRY_DRAIN (R67): the oldest queue entry is applied. -/
def execStationEntryDrain (who : LeafId) (stn : Nat) (s : State) : Res :=
  leafStep who (fun l => Leaf.drainEntry l stn) s

/-- STATION_FREEZE_EDGE (R93): the station copies its pre-counters to a drain bank. -/
def execStationFreezeEdge (who : LeafId) (stn : Nat) (s : State) : Res :=
  leafStep who (fun l => Leaf.freezeEdge l stn) s

/-- FREEZE_ACK_TIMESTAMP (R93): the freeze edge time is the acknowledge time less the ack delay. -/
def execFreezeAckTimestamp (who : LeafId) (stn : Nat) (at' : Stamp) (s : State) : Res :=
  leafStep who (fun l => Leaf.freezeAck l stn at') s

/-- FREEZE_MARKER_APPLIED (R93): the station’s counters freeze. -/
def execFreezeMarkerApplied (who : LeafId) (stn : Nat) (s : State) : Res :=
  leafStep who (fun l => Leaf.markerApplied l stn) s

/-- HISTOGRAM_FREEZE (R94). -/
def execHistogramFreeze (who : LeafId) (s : State) : Res :=
  leafStep who Leaf.histFreeze s

/-- STATION_STALL_TIMEOUT (R95). -/
def execStationStallTimeout (who : LeafId) (stn : Nat) (s : State) : Res :=
  leafStep who (fun l => Leaf.stallTimeout l stn) s

/-- SNAPSHOT_COMPLETE (R97). -/
def execSnapshotComplete (who : LeafId) (s : State) : Res :=
  leafStep who Leaf.snapshotComplete s

/-- SNAP_ACK_WRITE (R98): LF_SNAP_ACK. -/
def execSnapAckWrite (who : LeafId) (by' : Requester) (did : Did) (q : Word) (s : State) : Res :=
  leafStep who (fun l => Leaf.writeBy l by' did 0x164 [q]) s

/-- SNAP_RESEND_WRITE (R98): LF_SNAP_RESEND. -/
def execSnapResendWrite (who : LeafId) (by' : Requester) (did : Did) (q : Word) (s : State) : Res :=
  leafStep who (fun l => Leaf.writeBy l by' did 0x168 [q]) s

/-- SNAP_NOW_WRITE (R464): LF_SNAP_NOW. -/
def execSnapNowWrite (who : LeafId) (by' : Requester) (did : Did) (v : Word) (s : State) : Res :=
  leafStep who (fun l => Leaf.writeBy l by' did 0x1A8 [v]) s

/-- VALUE_PORT_WRITE (R82): through the leaf host port. -/
def execValuePortWrite (who : LeafId) (id : BitVec 4) (hist : Byte) (data : WriteData) (s : State) : Res :=
  leafStep who (fun l => Leaf.writeDataBy l (.host id) l.ring.did (0x7000 + 8 * hist.toNat) data) s

/-- HISTOGRAM_SAMPLE_APPLY (R85). -/
def execHistogramSampleApply (who : LeafId) (s : State) : Res :=
  leafStep who Leaf.applySample s

/-- TIMING_START_EDGE (R83). -/
def execTimingStartEdge (who : LeafId) (pair : BitVec 5) (at' : Stamp) (s : State) : Res :=
  leafStep who (fun l => Leaf.timingStart l pair.toNat (Stamp.t16 at')) s

/-- TIMING_STOP_EDGE (R83). -/
def execTimingStopEdge (who : LeafId) (pair : BitVec 5) (at' : Stamp) (s : State) : Res :=
  leafStep who (fun l => Leaf.timingStop l pair.toNat (Stamp.t16 at')) s

/-- SUPPLY_MARGIN_READING (R463). -/
def execSupplyMarginReading (who : LeafId) (samples : List SupplySample) (s : State) : Res :=
  leafStep who (fun l => Leaf.supply l samples) s

/-- DROOP_BEGIN (R88). -/
def execDroopBegin (who : LeafId) (site : Nat) (at' : Stamp) (s : State) : Res :=
  leafStep who (fun l => Leaf.droopBegin l site at') s

/-- DROOP_END (R88). -/
def execDroopEnd (who : LeafId) (site : Nat) (at' : Stamp) (s : State) : Res :=
  leafStep who (fun l => Leaf.droopEnd l site at') s

end Sys2Proof.Machine
end

