-- ==== Sys2Proof/Machine/TvStream.lean ====
section
/-! DEFINITION. Streams on the Tervon: entries and their cache (R212, R230), the update of R232, aging (R237 to R239), and the commands on streams
(R225, R226, R240 to R242). -/

namespace Sys2Proof.Machine

/-! ### Entries -/

def StreamEnt.flag (e : StreamEnt) (i : Nat) : Bool := e.flags.getLsbD i
def StreamEnt.setFlag (e : StreamEnt) (i : Nat) (b : Bool) : StreamEnt :=
  { e with flags := if b then e.flags ||| (1#8 <<< i) else e.flags &&& ~~~(1#8 <<< i) }
def StreamEnt.defined (e : StreamEnt) : Bool := StreamEnt.flag e 0
def StreamEnt.primed (e : StreamEnt) : Bool := StreamEnt.flag e 1
def StreamEnt.nd (e : StreamEnt) : Bool := StreamEnt.flag e 3
/-- Add to the gap count, saturating at 65,535 (R230). -/
def StreamEnt.addGaps (e : StreamEnt) (n : Nat) : StreamEnt := { e with gaps := satAdd16 e.gaps n }
/-- An entry without its state: bytes 8 to 63 zero except gaps, and unprimed (R230, R237). -/
def StreamEnt.cleared (e : StreamEnt) : StreamEnt :=
  StreamEnt.setFlag { e with last := 0, seq := 0, samples := 0, mean := 0, var' := 0, up := 0, down := 0, min' := 0, max' := 0 } 1 false
/-- An entry whose state was poisoned restarts unprimed, with REBORN and gaps 1 (R415). -/
def StreamEnt.restart (e : StreamEnt) : StreamEnt := { StreamEnt.setFlag (StreamEnt.cleared e) 2 true with gaps := 1 }

/-! ### Owners and parameter sets -/

/-- The partition that owns a stream's block (R226). -/
def Tervon.streamOwner (t : Tervon) (i : Nat) : Option Nat := (List.range 16).find? fun p => (Tervon.part t p).blocks.contains (i / 65536)

/-- A function owns a stream index: its partition's blocks, or for the physical function the blocks of no partition (R226). -/
def Tervon.ownsStream (t : Tervon) (fn i : Nat) : Bool :=
  match Tervon.streamOwner t i with
  | some p => decide (fn = p + 1)
  | none => decide (fn = 0)

/-- TV_STREAM_PSET at reset (R231). -/
def psetDefault : BitVec 128 := BitVec.ofNat 128 (3 + 8 * 2 ^ 16 + 0x8000 * 2 ^ 32 + 0x50000 * 2 ^ 64 + 10000 * 2 ^ 96)

/-- The parameter set of a stream (R231). -/
def Tervon.psetOf (t : Tervon) (i : Nat) (e : StreamEnt) : Nat :=
  let n := match Tervon.streamOwner t i with
    | some p => 16 * p + e.pset.toNat
    | none => e.pset.toNat
  (Cells.get psetDefault t.str.psets n).toNat

/-! ### The cache (R212) -/

/-- The stream table with the lines of the cache laid over it. -/
def Tervon.streamView (t : Tervon) : Cells StreamEnt :=
  (t.str.cache.flatMap Prod.snd).foldl (fun m c => Cells.insert m c.idx c.ent) t.str.table

/-- Read an entry from HBM; a poisoned one restarts (R415). -/
def Tervon.streamLoad (t : Tervon) (i : Nat) : Tervon × StreamEnt × Bool :=
  let e := Cells.get StreamEnt.reset t.str.table i
  if Tervon.hbmTouched t (streamAddr i) 64 then
    let (t, bs, bad) := Tervon.hbmBytes t (streamAddr i) (StreamEnt.bytes e)
    if bad then (t, StreamEnt.restart e, true) else (t, StreamEnt.parse bs, false)
  else (t, e, false)

/-- Write a line back to HBM. -/
def Tervon.writeBack (t : Tervon) (c : CacheLine) : Tervon :=
  if c.dirty then Tervon.hbmWritten { t with str.table := Cells.set StreamEnt.reset t.str.table c.idx c.ent } (streamAddr c.idx) 64 else t

/-- Bring an entry to the head of its set. -/
def Tervon.streamGet (t : Tervon) (i : Nat) : Tervon × StreamEnt :=
  let put (t : Tervon) (ls : List CacheLine) : Tervon := { t with str.cache := Cells.set [] t.str.cache (i % 8192) ls }
  let ls := Cells.get [] t.str.cache (i % 8192)
  match ls.find? fun c => decide (c.idx = i) with
  | some c => (put t (c :: ls.filter fun k => decide (k.idx ≠ i)), c.ent)
  | none =>
    let (t, e, bad) := Tervon.streamLoad t i
    let t := (ls.drop 15).foldl Tervon.writeBack t
    (put t (⟨i, e, bad⟩ :: ls.take 15), e)

/-- Store an entry that `streamGet` brought in. -/
def Tervon.streamPut (t : Tervon) (i : Nat) (e : StreamEnt) : Tervon :=
  let ls := Cells.get [] t.str.cache (i % 8192)
  { t with str.cache := Cells.set [] t.str.cache (i % 8192) (⟨i, e, true⟩ :: ls.filter fun k => decide (k.idx ≠ i)) }

/-- An entry of a ring leaf whose lease is held is mirrored (R353). -/
def Tervon.mirrorStream (t : Tervon) (i : Nat) (e : StreamEnt) : Tervon :=
  match Tervon.keyOf t e.did with
  | some k => if k ≠ ileafKey ∧ (Tervon.lease t k).held = true then Tervon.touch t (.stream (BitVec.ofNat 20 i) (StreamEnt.bytes e)) else t
  | none => t

def Tervon.streamKeep (t : Tervon) (i : Nat) (e : StreamEnt) : Tervon := Tervon.mirrorStream (Tervon.streamPut t i e) i e

/-! ### Records -/

/-- STREAM_AGED (R242, R390). -/
def Tervon.streamAged (t : Tervon) (i : Nat) (e : StreamEnt) (cause : Nat) (nd : Bool) : Tervon :=
  let owner := (Tervon.streamOwner t i).getD 255
  Tervon.recordDid t 6 (2 * b2n (nd || StreamEnt.nd e)) e.did
    (le 4 i ++ [BitVec.ofNat 8 owner, BitVec.ofNat 8 cause] ++ zeros 2 ++ le 8 (Tervon.now t) ++ StreamEnt.bytes e)

/-! ### Update (R232) -/

/-- Clamp to a signed width. -/
def satS (w : Nat) (x : Int) : Int := if x < -(2 ^ (w - 1) : Int) then -(2 ^ (w - 1) : Int) else if (2 ^ (w - 1) : Int) ≤ x then (2 ^ (w - 1) : Int) - 1 else x
/-- Clamp to an unsigned width. -/
def satU (w : Nat) (x : Int) : Int := if x < 0 then 0 else if (2 ^ w : Int) ≤ x then (2 ^ w : Int) - 1 else x

/-- The arithmetic of a sample on a primed entry: the entry, and whether each direction reports (R232). -/
def StreamEnt.advance (e : StreamEnt) (ps : Nat) (x : Int) : StreamEnt × Bool × Bool :=
  let ash : Int := 2 ^ bits ps 3 0
  let csh : Int := 2 ^ bits ps 9 4
  let warm := bits ps 31 16
  let k : Int := bits ps 63 32
  let h : Int := bits ps 95 64
  let d0 := x - e.mean.toInt
  let d := satS 64 d0
  let m0 := e.mean.toInt + d / ash
  let mean := satS 64 m0
  let q0 := d * d / 65536
  let d2 := satU 64 q0
  let v0 := (e.var'.toNat : Int) + d2 / ash
  let v1 := satU 64 v0
  let v2 := v1 - v1 / ash
  let run := decide (warm ≤ e.samples.toNat)
  let z0 := d / csh
  let z := satS 32 z0
  let u0 := (e.up.toNat : Int) + z - k
  let n0 := (e.down.toNat : Int) - z - k
  let u := if run then satU 32 u0 else e.up.toNat
  let n := if run then satU 32 n0 else e.down.toNat
  let rUp := run && decide (h ≤ u)
  let rDown := run && decide (h ≤ n)
  let acted := decide (d ≠ d0) || decide (mean ≠ m0) || decide (d2 ≠ q0) || decide (v1 ≠ v0)
    || (run && (decide (z ≠ z0) || decide ((2 ^ 32 : Int) ≤ u0) || decide ((2 ^ 32 : Int) ≤ n0)))
  let e := { e with mean := BitVec.ofInt 64 mean, var' := BitVec.ofInt 64 v2, up := BitVec.ofInt 32 (if rUp then 0 else u), down := BitVec.ofInt 32 (if rDown then 0 else n),
                    min' := if x < e.min'.toInt then BitVec.ofInt 64 x else e.min', max' := if e.max'.toInt < x then BitVec.ofInt 64 x else e.max',
                    samples := satAdd16 e.samples 1 }
  let e := if acted then StreamEnt.setFlag e 6 true else e
  let e := if rUp then StreamEnt.setFlag e 4 true else e
  (if rDown then StreamEnt.setFlag e 5 true else e, rUp, rDown)

/-- Prime an entry with a sample (R232); one whose stream was evicted by aging is reborn (R239). -/
def StreamEnt.prime (e : StreamEnt) (x : Int) (reborn : Bool) : StreamEnt :=
  let v := BitVec.ofInt 64 x
  let e := { e with mean := v, var' := 0, up := 0, down := 0, min' := v, max' := v, samples := 1 }
  let e := StreamEnt.setFlag (StreamEnt.setFlag e 1 true) 3 false
  if reborn then StreamEnt.addGaps (StreamEnt.setFlag e 2 true) 1 else e

/-- A report of R233. -/
def Tervon.report (t : Tervon) (i : Nat) (e : StreamEnt) (at' : Nat) (down : Bool) : Tervon :=
  Tervon.drift t i e.did at' down (StreamEnt.nd e) e.mean.toInt

/-- Apply one sample to a stream (R232, R233). `gaps` counts the losses that the sample follows. The ND of a report is that of the entry after
the update. -/
def Tervon.streamUpdate (t : Tervon) (did : Did) (s : StreamSample) (at' : Nat) (q : Word) (gaps : Nat) : Tervon :=
  let (t, e) := Tervon.streamGet t s.idx
  if StreamEnt.defined e = false ∨ e.did ≠ did ∨ e.kind.toNat ≠ s.kind ∨ e.item.toNat ≠ s.item then { t with str.undef := satAdd32 t.str.undef 1 }
  else if StreamEnt.primed e = true ∧ serialLt e.seq q = false then { t with str.stale := satAdd32 t.str.stale 1 }
  else
    let late := Tervon.leafRec t did
    let owed := ((late.gapped.filter fun g => decide (g.1 = s.idx)).map Prod.snd).sum
    let t := if owed = 0 then t else Tervon.setLeafRec t did { late with gapped := late.gapped.filter fun g => decide (g.1 ≠ s.idx) }
    let e := StreamEnt.addGaps e (gaps + owed)
    let reborn := t.str.evicted.contains s.idx
    let (e, up, down) := if StreamEnt.primed e then StreamEnt.advance e (Tervon.psetOf t s.idx e) s.x else (StreamEnt.prime e s.x reborn, false, false)
    let e := { e with last := BitVec.ofNat 64 at', seq := q }
    let e := if s.clamped then StreamEnt.setFlag e 6 true else e
    let e := if Tervon.modeAt t at' then e else StreamEnt.setFlag e 3 true
    let t := { t with str.evicted := t.str.evicted.filter fun i => decide (i ≠ s.idx) }
    let t := Tervon.streamKeep t s.idx e
    let t := if up then Tervon.report t s.idx e at' false else t
    if down then Tervon.report t s.idx e at' true else t

/-- The streams of a die's counters (R228). -/
def Tervon.counterStreams (t : Tervon) (did : Did) (items : List Nat) : List Nat :=
  ((Tervon.streamView t).filter fun e => StreamEnt.defined e.2 && decide (e.2.did = did) && decide (e.2.kind.toNat ≤ 1) && items.contains e.2.item.toNat).map Prod.fst

/-- The streams of a reassigned counter go out and restart (R228, R242). -/
def Tervon.streamReassign (t : Tervon) (i : Nat) : Tervon :=
  let (t, e) := Tervon.streamGet t i
  Tervon.streamKeep (Tervon.streamAged t i e 3 false) i (StreamEnt.cleared e)

/-- Apply the samples of a Tally (R229, R234, R236). -/
def Tervon.applySamples (t : Tervon) (h : HeldTally) : Tervon :=
  let t := h.samples.foldl (fun t s => Tervon.streamUpdate t h.did s h.instant h.seq (b2n h.lost)) t
  if h.reassigned = [] then t else (Tervon.counterStreams t h.did h.reassigned).foldl Tervon.streamReassign t

/-- Tallies in ascending order of instant. -/
def insertHeld (h : HeldTally) : List HeldTally → List HeldTally
  | [] => [h]
  | k :: r => if h.instant < k.instant then h :: k :: r else k :: insertHeld h r

/-- A late Tally passes its streams over (R236). -/
def Tervon.passOver (t : Tervon) (h : HeldTally) : Tervon :=
  let t := { t with str.late := satAdd32 t.str.late 1 }
  h.samples.foldl (fun t s =>
    let (t, e) := Tervon.streamGet t s.idx
    let r := Tervon.leafRec t h.did
    Tervon.streamKeep (Tervon.setLeafRec t h.did { r with gapped := r.gapped ++ [(s.idx, 1)] }) s.idx (StreamEnt.setFlag e 3 true)) t

/-! ### Aging -/

/-- The Tervon ages the streams of the leaves whose lease it holds, and of its internal leaf (R356). -/
def Tervon.agesFor (t : Tervon) (d : Did) : Bool :=
  match Tervon.keyOf t d with
  | some k => decide (k = ileafKey) || (Tervon.lease t k).held
  | none => false

/-- The visit of the sweep to one entry (R237, R239). -/
def Tervon.sweepOne (base : Nat) (off : Bool) (t : Tervon) (i : Nat) : Tervon :=
  let (t, e) := Tervon.streamGet t i
  let age := bits (Tervon.psetOf t i e) 111 96 * 1000000
  if StreamEnt.defined e = true ∧ StreamEnt.primed e = true ∧ age ≠ 0 ∧ e.last.toNat + age < base ∧ Tervon.agesFor t e.did = true then
    let t := Tervon.streamAged t i e 0 off
    Tervon.streamKeep { t with str.evicted := i :: t.str.evicted.filter fun k => decide (k ≠ i) } i (StreamEnt.cleared e)
  else t

/-- Visit every defined entry. `base` is the Tervon's time, or M (R237). -/
def Tervon.sweep (t : Tervon) (base : Nat) (off : Bool) : Tervon :=
  ((Tervon.streamView t).filter fun e => StreamEnt.primed e.2).foldl (fun t e => Tervon.sweepOne base off t e.1) t

/-- STREAM_AGING_SWEEP: while the mode is off, at least once every 100 ms (R237). -/
def Tervon.agingSweep (t : Tervon) : Tervon :=
  if t.det.det then t else Tervon.sweep { t with str.sweepAt := Tervon.now t } (Tervon.now t) true

/-! ### Commands -/

/-- Values of the item index of a kind (table "Stream kinds"). -/
def kindItems (kind : Nat) : Nat :=
  match kind with
  | 0 | 1 => 4096
  | 2 | 3 | 4 | 5 | 6 => 256
  | _ => 0

/-- The DID is routed to this Tervon's pair, or is the internal leaf's (R225). -/
def Tervon.streamDid (t : Tervon) (d : Did) : Tervon × Bool :=
  if d = t.boot.ileafDid ∧ d ≠ 0 then (t, true)
  else
    let (t, w) := Tervon.routeRead t d
    let v := w.toNat
    let me := (Tervon.x t, Tervon.y t)
    (t, bit v 7 && decide (bits v 6 0 = bits d.toNat 23 17) && decide (bits v 13 8 = bits t.boot.pod.toNat 5 0)
      && (decide ((bits v 16 14, bits v 19 17) = me) || decide ((bits v 22 20, bits v 25 23) = me)))

/-- The streams of a DID, over all partitions. -/
def Tervon.streamsOf (t : Tervon) (d : Did) : List (Nat × StreamEnt) := (Tervon.streamView t).filter fun e => StreamEnt.defined e.2 && decide (e.2.did = d)

/-- STREAM_DEFINE op 0 (R225, R226, R242). -/
def Tervon.streamDefine (j : Job) (t : Tervon) : Tervon :=
  let i := bits (Job.u32 j 40) 19 0
  let kind := Job.byte j 45
  let item := Job.u16 j 46
  let (t, known) := Tervon.streamDid t (Job.did j)
  let (t, e) := Tervon.streamGet t i
  let again := StreamEnt.defined e && decide (e.did = Job.did j)
  if known = false then Tervon.complete t j 7
  else if kindItems kind ≤ item then Tervon.complete t j 3
  else if again = false ∧ 8192 ≤ (Tervon.streamsOf t (Job.did j)).length then Tervon.complete t j 19
  else if Tervon.ownsStream t j.ref.fn i = false then Tervon.complete t j 3
  else
    let t := if StreamEnt.defined e then Tervon.streamAged t i e 4 false else t
    let n : StreamEnt := { StreamEnt.reset with did := Job.did j, kind := BitVec.ofNat 4 kind, item := BitVec.ofNat 16 item, flags := 1, pset := BitVec.ofNat 4 (Job.byte j 48) }
    let t := { t with str.evicted := t.str.evicted.filter fun k => decide (k ≠ i) }
    Tervon.complete (Tervon.streamKeep t i n) j 0

/-- STREAM_DEFINE op 1 (R242). -/
def Tervon.streamRemove (j : Job) (t : Tervon) : Tervon :=
  let i := bits (Job.u32 j 40) 19 0
  let (t, e) := Tervon.streamGet t i
  if Tervon.ownsStream t j.ref.fn i = false then Tervon.complete t j 3
  else if StreamEnt.defined e = false then Tervon.complete t j 28
  else
    let t := Tervon.streamAged t i e 2 false
    let t := { t with str.evicted := t.str.evicted.filter fun k => decide (k ≠ i) }
    Tervon.complete (Tervon.streamPut t i StreamEnt.reset) j 0

/-- STREAM_DEFINE op 2 (R242): the key and owner of the copy match the entry. The copy is the 64-byte entry of a checkpoint record. -/
def Tervon.streamRestore (x : HostData) (j : Job) (t : Tervon) : Tervon :=
  let i := bits (Job.u32 j 40) 19 0
  let (t, e) := Tervon.streamGet t i
  let c := StreamEnt.parse x.bytes
  if Tervon.ownsStream t j.ref.fn i = false then Tervon.complete t j 3
  else if StreamEnt.defined e = false then Tervon.complete t j 28
  else if x.poisoned then Tervon.complete t j 25
  else if c.did ≠ e.did ∨ c.kind ≠ e.kind ∨ c.item ≠ e.item ∨ StreamEnt.defined c = false ∨ field x.bytes 6 1 ≥ 128 ∨ field x.bytes 7 1 ≥ 16 then Tervon.complete t j 3
  else Tervon.complete (Tervon.streamKeep t i (StreamEnt.addGaps c 1)) j 0

/-- STREAM_QUERY (R240). -/
def Tervon.streamQuery (j : Job) (t : Tervon) : Tervon :=
  let i := bits (Job.u32 j 40) 19 0
  let (t, e) := Tervon.streamGet t i
  if j.ref.fn ≠ 0 ∧ Tervon.ownsStream t j.ref.fn i = false then Tervon.complete t j 3
  else if StreamEnt.defined e = false then Tervon.complete t j 28
  else
    let t := Tervon.output t j (StreamEnt.bytes e)
    let t := if bit (Job.byte j 44) 0 then Tervon.streamPut t i (StreamEnt.setFlag (StreamEnt.setFlag e 4 false) 5 false) else t
    Tervon.complete t j 0 0 0 0 (2 * b2n (StreamEnt.nd e))

/-- Copy the entries of a CHECKPOINT from the next index on, while the function's record ring has a quarter of its entries free (R241). -/
def Tervon.copyFrom (ref : JobRef) (t : Tervon) : List Nat → Tervon
  | [] =>
    match Tervon.job? t ref with
    | some j => Tervon.complete t j 0 j.d0 j.d1 (fromLe j.result)
    | none => t
  | i :: rest =>
    match Tervon.job? t ref with
    | none => t
    | some j =>
      let r := Tervon.ring t ref.fn 5
      if 4 * HostRing.free r < HostRing.n r then Tervon.setJob t { j with waiting := i }
      else
        let (t, e) := Tervon.streamGet t i
        if StreamEnt.defined e then
          let now := Tervon.now t
          let t := Tervon.streamAged t i e 1 false
          Tervon.copyFrom ref (Tervon.setJob t { j with d0 := j.d0 + 1, d1 := if j.d0 = 0 then now else j.d1, result := le 8 now }) rest
        else Tervon.copyFrom ref t rest

/-- Go on with a CHECKPOINT (R241); `waiting` holds its next index. -/
def Tervon.checkpointOn (ref : JobRef) (t : Tervon) : Tervon :=
  match Tervon.job? t ref with
  | none => t
  | some j =>
    let lo := j.waiting
    let hi := Job.u32 j 40 + Job.u32 j 44
    let mine := ((Tervon.streamView t).filter fun e => decide (lo ≤ e.1) && decide (e.1 < hi) && StreamEnt.defined e.2 && Tervon.ownsStream t ref.fn e.1).map Prod.fst
    Tervon.copyFrom ref t mine

/-- CHECKPOINT (R241). -/
def Tervon.checkpoint (j : Job) (t : Tervon) : Tervon :=
  if j.phase ≠ 0 then t
  else if 1048576 < Job.u32 j 40 + Job.u32 j 44 ∨ Job.u32 j 44 = 0 ∨ 1048576 ≤ Job.u32 j 40 then Tervon.complete t j 3
  else Tervon.checkpointOn j.ref (Tervon.setJob t { j with phase := 1, waiting := Job.u32 j 40 })

/-- Room in a function's record ring lets its paused checkpoints go on (R241). -/
def Tervon.resumeCheckpoints (t : Tervon) (f : Nat) : Tervon :=
  (t.jobs.filter fun j => decide (j.ref.fn = f) && decide (Job.op j = 0x16) && decide (j.phase = 1)).foldl (fun t j => Tervon.checkpointOn j.ref t) t

end Sys2Proof.Machine
end

