-- ==== Sys2Proof/Machine/TvTiles.lean ====
section
/-! DEFINITION. Tiles and partitions: Tinker's spares (R204, R364), PARTITION_COMMIT (R215 to R217, R226, R387) and clearing (R207). -/

namespace Sys2Proof.Machine

/-! ### Spares -/

/-- The spare of a quadrant (R203). -/
def spareOf (q : Nat) : Nat := 9 * q + 8

/-- A spare that is neither dead, mapped, under test nor about to join. -/
def Tervon.spareFree (t : Tervon) (s : Nat) : Bool :=
  !t.tiles.dead.contains s && !t.tiles.map.contains (some s) && !(t.tiles.testing.any fun e => decide (e.2 = s)) && !(t.tiles.joining.any fun e => decide (e.2.1 = s))

/-- The spare for a logical tile: of its quadrant, or else the lowest-numbered free one (R204). -/
def Tervon.pickSpare (t : Tervon) (l : Nat) : Option Nat := ([spareOf (l / 8), 8, 17, 26, 35]).find? fun s => Tervon.spareFree t s

/-- A change of the tile map is reported against the tile's unit, the logical tile as locus (R204; log entry 56). -/
def Tervon.mapReport (t : Tervon) (p l : Nat) : Tervon := Tervon.hostReport t (0x0100 + 16 * p) 0 l

/-- Begin the test of a spare for an absent logical tile, when one is free (R364). -/
def Tervon.testSpare (t : Tervon) (l : Nat) : Tervon :=
  match Tervon.pickSpare t l with
  | some s => { t with tiles.testing := t.tiles.testing ++ [(l, s)] }
  | none => t

/-- The partition that holds a logical tile. -/
def Tervon.partOfTile (t : Tervon) (l : Nat) : Option Nat := (List.range 16).find? fun p => bit (Tervon.part t p).tiles.toNat l

/-- TILE_RETIRE (R364): the tile stops, its logical tile is absent, Kale placement follows R286 and a spare is tested. -/
def Tervon.retireTile (t : Tervon) (p : Nat) : Tervon :=
  let t := { t with tiles.dead := t.tiles.dead ++ [p] }
  match t.tiles.map.findIdx? fun m => decide (m = some p) with
  | none => t
  | some l =>
    let t := { t with tiles.map := setAt t.tiles.map l none }
    let t := match Tervon.partOfTile t l with
      | some q => Tervon.kaleTileLost t q l
      | none => t
    Tervon.testSpare (Tervon.mapReport t p l) l

/-- Physical tiles whose unit in the internal leaf's history has reached class fence requested (R364). -/
def Tervon.doomed (t : Tervon) : List Nat :=
  ((t.ileaf.led.units.filter fun u => decide (u.cls = 4) && decide (0x0100 ≤ u.unit.toNat) && decide (u.unit.toNat < 0x0340)).map fun u => (u.unit.toNat - 0x0100) / 16).dedup.filter
    fun p => !t.tiles.dead.contains p

/-- Retire the tiles whose units have reached fence requested. -/
def Tervon.retireCheck (t : Tervon) : Tervon := (Tervon.doomed t).foldl Tervon.retireTile t

/-- SPARE_TILE_BIST_COMPLETE (R364): a spare that passes joins at an epoch mark; one that fails is dead, and another is tried. -/
def Tervon.spareTested (t : Tervon) (s : Nat) (pass : Bool) : Tervon :=
  match t.tiles.testing.find? fun e => decide (e.2 = s) with
  | none => t
  | some (l, _) =>
    let t := { t with tiles.testing := t.tiles.testing.filter fun e => decide (e.2 ≠ s) }
    if pass then { t with tiles.joining := t.tiles.joining ++ [(l, s, Tervon.now t)] }
    else Tervon.testSpare { t with tiles.dead := t.tiles.dead ++ [s] } l

/-- An epoch mark: spares whose load completed at least 1 ms before its instant join, and so does TV_POD_FAILED; a replacement Tervon
stays failed until its bulk load has completed (R359, R367, R368). -/
def Tervon.epochMark (t : Tervon) (instant : Nat) : Tervon :=
  let ready := t.tiles.joining.filter fun e => decide (e.2.2 + 1000000 ≤ instant)
  let t := { t with tiles.joining := t.tiles.joining.filter fun e => !decide (e.2.2 + 1000000 ≤ instant) }
  let t := ready.foldl (fun t e => Tervon.mapReport { t with tiles.map := setAt t.tiles.map e.1 (some e.2.1) } e.2.1 e.1) t
  let own := Tervon.x t + (Tervon.shape t).1 * Tervon.y t
  let waits := bit t.boot.failedNow.toNat own && (match t.mir.loadedAt with
    | some l => decide (instant < l + 1000000)
    | none => decide (t.mir.load ≠ []))
  if t.boot.failedAt + 1000000 ≤ instant then { t with boot.failedNow := if waits then t.boot.failed ||| (1#64 <<< own) else t.boot.failed } else t

/-- Map each logical tile whose physical tile failed BIST at a start to a spare, or leave it absent (R204). -/
def Tervon.mapFailed (t : Tervon) (failed : List Nat) : Tervon :=
  let t := { t with tiles.dead := (t.tiles.dead ++ failed.filter fun p => decide (p < 36)).dedup }
  (List.range 32).foldl (fun t l =>
    match Tervon.phys t l with
    | some p =>
      if t.tiles.dead.contains p then
        let s := Tervon.pickSpare { t with tiles.map := setAt t.tiles.map l none } l
        { t with tiles.map := setAt t.tiles.map l s }
      else t
    | none => t) t

/-! ### Partitions -/

/-- A configuration (R387). -/
def partParse (bs : List Byte) : PartSt :=
  { PartSt.reset with tiles := w32 (field bs 0 4), quota := field bs 4 1, hbm := field bs 6 2, bw := field bs 8 2,
                      minima := (List.range 5).map fun k => field bs (12 + 4 * k) 4,
                      ranges := (List.range (field bs 10 2)).map fun i => (BitVec.ofNat 24 (field bs (64 + 8 * i) 3), BitVec.ofNat 24 (field bs (68 + 8 * i) 3)) }

/-- Check 1 of R216. -/
def Tervon.partRanges (t : Tervon) (c : PartSt) : Bool :=
  decide (c.quota ≤ 16) && decide (c.hbm ≤ 140) && decide (c.bw ≤ 576) && decide (c.ranges.length ≤ 64)
    && (List.range 5).all (fun k => decide (c.minima.getD k 0 ≤ Tervon.poolCount t k))
    && c.ranges.all fun r => decide (r.1.toNat ≤ r.2.toNat) && decide (r.1 ≠ 0) && decide (r.2 ≠ didAll)

/-- Tiles of a mask. -/
def tileList (w : Word) : List Nat := (List.range 32).filter fun l => bit w.toNat l

/-- A tile that another partition holds, or has not yet freed (log entry 55). -/
def Tervon.tileTaken (t : Tervon) (p l : Nat) : Bool :=
  (List.range 16).any fun q => decide (q ≠ p) && (bit (Tervon.part t q).tiles.toNat l || (Tervon.part t q).draining.contains l)

/-- The first resource whose sum over all partitions passes its limit, numbered in the table's order from 1 (R216 check 4). -/
def Tervon.partSums (t : Tervon) (p : Nat) (c : PartSt) : Option Nat :=
  let sum (f : PartSt → Nat) : Nat := f c + (((List.range 16).filter fun q => decide (q ≠ p)).map fun q => f (Tervon.part t q)).sum
  if 16 < sum (·.quota) then some 2
  else if 140 - larderGiB t.boot.larderCtl < sum (·.hbm) then some 3
  else if 576 < sum (·.bw) then some 4
  else if (List.range 5).any fun k => decide (Tervon.poolCount t k < sum fun q => q.minima.getD k 0) then some 5
  else none

/-- A block of the stream table holds a defined stream. -/
def Tervon.blockUsed (t : Tervon) (b : Nat) : Bool := (Tervon.streamView t).any fun e => decide (e.1 / 65536 = b) && StreamEnt.defined e.2

/-- Blocks that no partition owns and that hold no defined stream (R226). -/
def Tervon.freeBlocks (t : Tervon) : List Nat := (List.range 16).filter fun b => (Tervon.streamOwner t (65536 * b)).isNone && !Tervon.blockUsed t b

/-- The quota in use: the blocks up to the highest-numbered one that holds a defined stream (R226). -/
def Tervon.quotaUsed (t : Tervon) (p : Nat) : Nat :=
  let bs := (Tervon.part t p).blocks
  match (bs.filter (Tervon.blockUsed t)).getLast? with
  | some b => (bs.filter fun k => decide (k ≤ b)).length
  | none => 0

/-- Check 5 of R216, with the free blocks of R226: the resource that fails. -/
def Tervon.partUsed (t : Tervon) (p : Nat) (c : PartSt) : Option Nat :=
  let old := Tervon.part t p
  if c.quota < Tervon.quotaUsed t p ∨ (Tervon.freeBlocks t).length < c.quota - old.blocks.length then some 2
  else if 1073741824 * c.hbm < Tervon.hbmUsed t p 65536 then some 3
  else none

/-- Ascending order of a few numbers below 16. -/
def ascending (l : List Nat) : List Nat := (List.range 16).filter fun b => l.contains b

/-- A streamed scoring still works on a tile. -/
def Tervon.tileBusy (t : Tervon) (l : Nat) : Bool := t.kruns.any fun r => r.wins.any fun w => decide (w.tile = l)

/-- A removed tile is free: its memories are clear. -/
def Tervon.freeTile (t : Tervon) (l : Nat) : Tervon :=
  (List.range 16).foldl (fun t p => let x := Tervon.part t p
    if x.draining.contains l then Tervon.setPart t p { x with draining := x.draining.filter fun k => decide (k ≠ l) } else t) { t with tiles.clearing := t.tiles.clearing.filter fun k => decide (k ≠ l) }

/-- Removed tiles without a job begin to clear (R207); an absent tile has nothing to clear. Commits whose tiles are free and whose placements have
ended complete (R217, R286). -/
def Tervon.partSettle (t : Tervon) (p : Nat) : Tervon :=
  let idle := (Tervon.part t p).draining.filter fun l => !Tervon.tileBusy t l && !t.tiles.clearing.contains l
  let t := idle.foldl (fun t l => if (Tervon.phys t l).isSome then { t with tiles.clearing := t.tiles.clearing ++ [l] } else Tervon.freeTile t l) t
  let x := Tervon.part t p
  if x.draining.isEmpty && !(t.enss.any fun e => decide (e.2.part = p) && e.2.placing) then
    let t := Tervon.setPart t p { x with drainBy := none, commitJobs := [] }
    x.commitJobs.foldl (fun t r =>
      match Tervon.job? t r with
      | some j => Tervon.complete (Tervon.setFn t (p + 1) { Tervon.fn t (p + 1) with noTiles := false }) j 0
      | none => t) t
  else t

/-- Settle every partition. -/
def Tervon.partsSettle (t : Tervon) : Tervon := (List.range 16).foldl Tervon.partSettle t

/-- A commit that passes its checks takes effect (R217, R226, R286). -/
def Tervon.partApply (t : Tervon) (p : Nat) (c : PartSt) (j : Job) : Tervon :=
  let old := Tervon.part t p
  let blocks := if c.quota ≤ old.blocks.length then old.blocks.take c.quota
    else ascending (old.blocks ++ (Tervon.freeBlocks t).take (c.quota - old.blocks.length))
  let gone := tileList (old.tiles &&& ~~~c.tiles)
  let kept := old.draining.filter fun l => !bit c.tiles.toNat l
  let x : PartSt := { c with blocks := blocks, draining := kept ++ gone.filter fun l => !kept.contains l,
                             drainBy := if gone = [] then old.drainBy else some (Tervon.now t + 100000000), commitJobs := old.commitJobs ++ [j.ref] }
  let t := Tervon.setPart t p x
  let t := gone.foldl (fun t l => Tervon.displace t fun q _ => decide (q.2.1 = l)) t
  Tervon.partSettle (Tervon.setJob t { j with phase := 1 }) p

/-- PARTITION_COMMIT (R216, R387). -/
def Tervon.partCommit (input : HostData) (j : Job) (t : Tervon) : Tervon :=
  let p := Job.byte j 40
  let bs := input.bytes
  let c := partParse bs
  let old := Tervon.part t p
  if j.phase ≠ 0 then t
  else if input.poisoned then Tervon.complete t j 25
  else if bs.length < 64 ∨ bs.length ≠ 64 + 8 * field bs 10 2 ∨ Tervon.partRanges t c = false then Tervon.complete t j 3
  else if (tileList (c.tiles &&& ~~~old.tiles)).any fun l => (Tervon.phys t l).isNone then Tervon.complete t j 17
  else if (tileList c.tiles).any fun l => Tervon.tileTaken t p l then Tervon.complete t j 18
  else match Tervon.partSums t p c with
    | some n => Tervon.complete t j 19 n
    | none =>
      match Tervon.partUsed t p c with
      | some n => Tervon.complete t j 19 n
      | none => Tervon.partApply t p c j

/-- PARTITION_DRAIN_TIMEOUT (R217): jobs still on removed tiles complete ABORTED. -/
def Tervon.partDrain (t : Tervon) (p : Nat) : Tervon :=
  let x := Tervon.part t p
  match x.drainBy with
  | none => t
  | some e =>
    if Tervon.now t < e then t
    else
      let late := t.kruns.filter fun r => r.wins.any fun w => x.draining.contains w.tile
      let t := late.foldl (fun t r => match Tervon.job? t r.job with
        | some j => Tervon.stopJob t j 1
        | none => t) (Tervon.setPart t p { x with drainBy := none })
      Tervon.partsSettle t

/-- TILE_CLEAR_COMPLETE (R207). -/
def Tervon.tileCleared (t : Tervon) (l : Nat) : Tervon :=
  if t.tiles.clearing.contains l = false then t
  else
    let t := match Tervon.phys t l with
      | some p =>
        let x := Tervon.ktile t p
        let t := Tervon.setKtile t p { x with assoc := [], golden := [], scrub := 0 }
        { t with ecc.tsram := Cells.dropKeys (fun k => decide (k / 1048576 = p)) t.ecc.tsram }
      | none => t
    Tervon.partsSettle (Tervon.freeTile t l)

/-- A next state with the Tervon changed, its tiles checked and its commits settled. -/
def tvStepR (f : Tervon → Tervon) (s : State) : Res := tvStep (fun t => Tervon.partsSettle (Tervon.retireCheck (f t))) s

/-- A next state with a leaf changed; a class of the internal leaf may retire a tile. -/
def leafStepR (who : LeafId) (f : Leaf → Leaf) (s : State) : Res :=
  match who with
  | .ring => leafStep .ring f s
  | .internal => tvStepR (fun t => Tervon.onIleaf t f) s

end Sys2Proof.Machine
end

