-- ==== Sys2Proof/Machine/ExecHealth.lean ====
section
/-! DEFINITION. Health store, guardband port, Ledger, attestation, check-value engines and sequencer of a leaf: one meaning per command. -/

namespace Sys2Proof.Machine

/-- HEALTH_STORE_ADMIT (R188). -/
def execHealthStoreAdmit (who : LeafId) (s : State) : Res :=
  leafStep who Leaf.admitHeld s

/-- GUARDBAND_REQUEST_START (R195). -/
def execGuardbandRequestStart (who : LeafId) (s : State) : Res :=
  leafStep who Leaf.gbStart s

/-- GUARDBAND_ACK (R195). -/
def execGuardbandAck (who : LeafId) (res : BitVec 2) (s : State) : Res :=
  leafStepR who (fun l => Leaf.gbAck l res) s

/-- GUARDBAND_ACK_LOW (R195). -/
def execGuardbandAckLow (who : LeafId) (s : State) : Res :=
  leafStep who Leaf.gbAckLow s

/-- GUARDBAND_TIMEOUT (R195). -/
def execGuardbandTimeout (who : LeafId) (s : State) : Res :=
  leafStepR who Leaf.gbTimeout s

/-- GUARDBAND_CONFLICT (R198). -/
def execGuardbandConflict (who : LeafId) (group : Byte) (s : State) : Res :=
  leafStepR who (fun l => Leaf.gbConflict l group) s

/-- CONFLICT_REQUEST_LOW (R195). -/
def execConflictRequestLow (who : LeafId) (s : State) : Res :=
  leafStep who Leaf.gbConflictLow s

/-- GUARDBAND_PORT_RESET (R196). -/
def execGuardbandPortReset (who : LeafId) (s : State) : Res :=
  leafStepR who Leaf.gbPortReset s

/-- GB_ACCEPT_WRITE (R199): LF_GB_ACCEPT. -/
def execGbAcceptWrite (who : LeafId) (by' : Requester) (data : WriteData) (s : State) : Res :=
  leafStep who (fun l => Leaf.writeDataBy l by' l.ring.did 0x188 data) s

/-- ERR_RPT_WRITE (R189): LF_ERR_RPT. -/
def execErrRptWrite (who : LeafId) (by' : Requester) (data : WriteData) (s : State) : Res :=
  leafStepR who (fun l => Leaf.writeDataBy l by' l.ring.did 0x108 data) s

/-- PAGE_WRITE_START (R170). -/
def execPageWriteStart (who : LeafId) (s : State) : Res :=
  leafStep who Leaf.pageStart s

/-- PAGE_WRITE_COMPLETE (R182). -/
def execPageWriteComplete (who : LeafId) (verified : Bool) (s : State) : Res :=
  leafStep who (fun l => Leaf.pageComplete l verified) s

/-- VNV_SAG (R180). -/
def execVnvSag (who : LeafId) (below160 : Bool) (chunk : Nat) (s : State) : Res :=
  leafStep who (fun l => Leaf.vnvSag l below160 chunk) s

/-- VNV_RESUME (R180). -/
def execVnvResume (who : LeafId) (s : State) : Res :=
  leafStep who Leaf.vnvResume s

/-- OPERATING_TIME_TICK (R176). -/
def execOperatingTimeTick (who : LeafId) (s : State) : Res :=
  leafStep who Leaf.opTick s

/-- LDG_READ_PAGE (R177): LF_LDG_CMD op 1. -/
def execLdgReadPage (who : LeafId) (by' : Requester) (page : BitVec 12) (s : State) : Res :=
  leafStep who (fun l => Leaf.writeBy l by' l.ring.did 0x184 [w32 (0x1000 + page.toNat)]) s

/-- LDG_PROGRAM_PAGE (R177): LF_LDG_CMD op 2. -/
def execLdgProgramPage (who : LeafId) (by' : Requester) (page : BitVec 12) (s : State) : Res :=
  leafStep who (fun l => Leaf.writeBy l by' l.ring.did 0x184 [w32 (0x2000 + page.toNat)]) s

/-- ATT_NONCE_WRITE (R202): a word of LF_ATT_NONCE. -/
def execAttNonceWrite (who : LeafId) (by' : Requester) (word : BitVec 4) (v : Word) (s : State) : Res :=
  leafStep who (fun l => if word.toNat < 12 then Leaf.writeBy l by' l.ring.did (0x1700 + 4 * word.toNat) [v] else l) s

/-- ATTESTATION_SIGNED (R202). -/
def execAttestationSigned (who : LeafId) (s : State) : Res :=
  leafStep who Leaf.attSigned s

/-- CV_START (R410): LF_CV_START. -/
def execCvStart (who : LeafId) (by' : Requester) (e : BitVec 2) (s : State) : Res :=
  leafStep who (fun l => Leaf.writeBy l by' l.ring.did (0x1504 + 32 * e.toNat) [0]) s

/-- CV_FEED (R409): LF_CV_FEED. -/
def execCvFeed (who : LeafId) (by' : Requester) (e : BitVec 2) (data : FeedData) (s : State) : Res :=
  leafStep who (fun l => Leaf.feedBy l by' e.toNat data) s

/-- CV_RESULT_READ (R410): a 64-bit read of LF_CV_RES. -/
def execCvResultRead (who : LeafId) (by' : Requester) (e : BitVec 2) (s : State) : Res :=
  leafStep who (fun l => Leaf.read64By l by' (0x1510 + 32 * e.toNat)) s

/-- CV_SAVE (R410): a 64-bit read of LF_CV_VAL. -/
def execCvSave (who : LeafId) (by' : Requester) (e : BitVec 2) (s : State) : Res :=
  leafStep who (fun l => Leaf.read64By l by' (0x1518 + 32 * e.toNat)) s

/-- CV_RESTORE (R410): a 64-bit write of LF_CV_VAL; polynomial 2 takes alive through LF_CV_ALIVE. -/
def execCvRestore (who : LeafId) (by' : Requester) (e : BitVec 2) (v : DWord) (alive : Byte) (s : State) : Res :=
  leafStep who (fun l => Leaf.cvRestoreBy l by' e.toNat v alive) s

/-- CV_CTL_WRITE (R410): LF_CV_CTL. -/
def execCvCtlWrite (who : LeafId) (by' : Requester) (e : BitVec 2) (v : Word) (s : State) : Res :=
  leafStep who (fun l => Leaf.writeBy l by' l.ring.did (0x1500 + 32 * e.toNat) [v]) s

/-- SEQ_RESTART_CURRENT (R427): LF_SEQ_CTL.restart 0b01. -/
def execSeqRestartCurrent (who : LeafId) (by' : Requester) (s : State) : Res :=
  leafStep who (fun l => Leaf.writeBy l by' l.ring.did 0x13C [1]) s

/-- SEQ_RESTART_OTHER (R427): LF_SEQ_CTL.restart 0b10. -/
def execSeqRestartOther (who : LeafId) (by' : Requester) (s : State) : Res :=
  leafStep who (fun l => Leaf.writeBy l by' l.ring.did 0x13C [2]) s

/-- SEQUENCER_WATCHDOG (R426). -/
def execSequencerWatchdog (who : LeafId) (s : State) : Res :=
  leafStep who Leaf.seqWatchdog s

/-- SEQUENCER_BOOT (R427). -/
def execSequencerBoot (who : LeafId) (s : State) : Res :=
  leafStep who Leaf.seqBoot s

end Sys2Proof.Machine
end

