-- ==== Sys2Proof/Machine/ExecHost.lean ====
section
/-! DEFINITION. The host rings (R371 to R392): one meaning per command. -/

namespace Sys2Proof.Machine

/-- COMMAND_DOORBELL (R376). -/
def execCommandDoorbell (fn ring : Nat) (w : Word) (s : State) : Res := tvStep (fun t => Tervon.commandDoorbell t fn ring w) s

/-- COMPLETION_DOORBELL (R376). -/
def execCompletionDoorbell (fn : Nat) (w : Word) (s : State) : Res := tvStep (fun t => Tervon.completionDoorbell t fn w) s

/-- RECORD_DOORBELL (R26, R376). -/
def execRecordDoorbell (fn : Nat) (w : Word) (s : State) : Res := tvStep (fun t => Tervon.resumeCheckpoints (Tervon.recordDoorbell t fn w) fn) s

/-- DESCRIPTOR_FETCH (R377, R381, R393). -/
def execDescriptorFetch (fn ring : Nat) (r : FetchResult) (s : State) : Res := tvStep (fun t => Tervon.descriptorFetch t fn ring r) s

/-- MSIX_COALESCE_EXPIRY (R373). -/
def execMsixCoalesceExpiry (fn vector : Nat) (s : State) : Res := tvStep (fun t => Tervon.coalesceExpiry t fn vector) s

/-- RING_EN_WRITE (R445). -/
def execRingEnWrite (fn ring : Nat) (en : Bool) (s : State) : Res := tvStep (fun t => Tervon.ringEn t fn ring en) s

/-- RING_ARM (R377, R391). -/
def execRingArm (fn ring : Nat) (s : State) : Res := tvStep (fun t => Tervon.ringArm t fn ring) s

/-- NOP (R382). -/
def execNop (job : JobRef) (s : State) : Res := tvStep (fun t => Tervon.withJob t job 0x00 fun j t => Tervon.complete t j 0) s

/-- ABORT (R385). -/
def execAbort (job : JobRef) (s : State) : Res := tvStepR (fun t => Tervon.withJob t job 0x17 Tervon.abort) s

/-- BUS_MASTER_DISABLE (R391). -/
def execBusMasterDisable (fn : Nat) (s : State) : Res := tvStepR (fun t => Tervon.busMasterOff t fn) s

/-- FUNCTION_LEVEL_RESET (R392). -/
def execFunctionLevelReset (fn : Nat) (s : State) : Res := tvStepR (fun t => Tervon.functionReset t fn) s

end Sys2Proof.Machine
end

