-- ==== Sys2Proof/Machine/ExecKale.lean ====
section
/-! DEFINITION. Kale (R273 to R296) and the stored-data protection (R411 to R417, R366): one meaning per command. -/

namespace Sys2Proof.Machine

/-- KALE_LOAD op 0 (R285). -/
def execKaleLoad (job : JobRef) (input : HostData) (s : State) : Res :=
  tvStep (fun t => Tervon.withInput t job 0x09 input fun j t => if Job.byte j 43 = 0 then Tervon.kaleLoad input j t else t) s

/-- KALE_UNLOAD: op 1 (R285). -/
def execKaleUnload (job : JobRef) (s : State) : Res :=
  tvStep (fun t => Tervon.withJob t job 0x09 fun j t => if Job.byte j 43 = 1 then Tervon.kaleUnload j t else t) s

/-- KALE_SCORE (R291). -/
def execKaleScore (job : JobRef) (input : HostData) (s : State) : Res :=
  tvStepR (fun t => Tervon.withInput t job 0x0A input (Tervon.kaleScore input)) s

/-- KALE_WINDOW_LOADED (R287). -/
def execKaleWindowLoaded (tile : Nat) (s : State) : Res := tvStepR (fun t => Tervon.windowLoaded t tile) s

/-- KALE_PLACEMENT_COMPLETE (R286). -/
def execKalePlacementComplete (fn : Nat) (ens : Half) (s : State) : Res := tvStepR (fun t => Tervon.placementDone t fn ens.toNat) s

/-- KALE_SCRUB_COMPARE (R416). -/
def execKaleScrubCompare (tile : Nat) (s : State) : Res := tvStepR (fun t => Tervon.kaleScrub t tile) s

/-- SRAM_PATROL_SCRUB (R416). -/
def execSramPatrolScrub (r : ScrubRead) (s : State) : Res := tvStepR (fun t => Tervon.scrubSram t r.target r.tile r.addr) s

/-- HBM_PATROL_SCRUB (R416). -/
def execHbmPatrolScrub (addr : Nat) (s : State) : Res := tvStepR (fun t => Tervon.scrubHbm t addr) s

/-- HBM_ROW_REPAIR_COMPLETE (R366). -/
def execHbmRowRepairComplete (stack channel row : Nat) (s : State) : Res := tvStep (fun t => Tervon.rowRepaired t stack channel row) s

/-- ECC_TEST_READ (R417). -/
def execEccTestRead (fn : Nat) (v : DWord) (s : State) : Res := tvStepR (fun t => Tervon.eccTest t fn v false) s

/-- ECC_TEST_WRITE (R417). -/
def execEccTestWrite (fn : Nat) (v : DWord) (s : State) : Res := tvStep (fun t => Tervon.eccTest t fn v true) s

end Sys2Proof.Machine
end

