-- ==== Sys2Proof/Machine/ExecLeaf.lean ====
section
/-! DEFINITION. Leases, register frames, captures, power and resets at a leaf: one meaning per command. -/

namespace Sys2Proof.Machine

/-- APPOINT_FRAME (R158). -/
def execAppointFrame (who : LeafId) (rx : Rx) (did : Did) (a : Appointment) (s : State) : Res :=
  leafStep who (fun l => Leaf.appointFrame l rx did a) s

/-- LEASE_ACQUIRE (R147). -/
def execLeaseAcquire (who : LeafId) (rx : Rx) (p : LeaseReqP) (s : State) : Res :=
  leafStep who (fun l => Leaf.leaseFrame l rx { p with op := 0 } fun l => Leaf.acquire l rx.hdr { p with op := 0 }) s

/-- LEASE_RENEW (R147). -/
def execLeaseRenew (who : LeafId) (rx : Rx) (p : LeaseReqP) (s : State) : Res :=
  leafStep who (fun l => Leaf.leaseFrame l rx { p with op := 1 } fun l => Leaf.renew l rx.hdr { p with op := 1 }) s

/-- LEASE_RELEASE (R147). -/
def execLeaseRelease (who : LeafId) (rx : Rx) (p : LeaseReqP) (s : State) : Res :=
  leafStep who (fun l => Leaf.leaseFrame l rx { p with op := 2 } fun l => Leaf.releaseLease l rx.hdr { p with op := 2 }) s

/-- LEASE_FENCE (R147). -/
def execLeaseFence (who : LeafId) (rx : Rx) (p : LeaseReqP) (s : State) : Res :=
  leafStep who (fun l => Leaf.leaseFrame l rx { p with op := 3 } Leaf.fence) s

/-- LEASE_EXPIRY (R147). -/
def execLeaseExpiry (who : LeafId) (s : State) : Res :=
  leafStep who Leaf.leaseExpiry s

/-- REG_RD (R156). -/
def execRegRd (who : LeafId) (rx : Rx) (did : Did) (off : Half) (count : Half) (s : State) : Res :=
  leafStep who (fun l => Leaf.regRdFrame l rx did off count) s

/-- REG_WR (R156, R161): a plain REG_WR. -/
def execRegWr (who : LeafId) (rx : Rx) (did : Did) (off : Half) (count : Half) (data : List Byte) (s : State) : Res :=
  leafStep who (fun l => Leaf.regWrFrame l rx did 0 off count data) s

/-- LOCK_ACQUIRE (R394): by lock op 1 or LF_LOCK op 1. -/
def execLockAcquire (who : LeafId) (by' : Requester) (did : Did) (s : State) : Res :=
  leafStep who (fun l => Leaf.lockOpBy l by' did 1) s

/-- LOCKED_WRITE (R394). -/
def execLockedWrite (who : LeafId) (by' : Requester) (did : Did) (off : Half) (data : List Byte) (s : State) : Res :=
  leafStep who (fun l => Leaf.lockedWriteBy l by' did off data) s

/-- LOCK_COMMIT (R394): by lock op 3 or LF_LOCK op 3. -/
def execLockCommit (who : LeafId) (by' : Requester) (did : Did) (s : State) : Res :=
  leafStep who (fun l => Leaf.lockOpBy l by' did 3) s

/-- LOCK_ABANDON (R394): by lock op 4 or LF_LOCK op 4. -/
def execLockAbandon (who : LeafId) (by' : Requester) (did : Did) (s : State) : Res :=
  leafStep who (fun l => Leaf.lockOpBy l by' did 4) s

/-- LOCK_TIMEOUT (R395). -/
def execLockTimeout (who : LeafId) (s : State) : Res :=
  leafStep who Leaf.lockTimeout s

/-- VERDICT_FRAME (R319). -/
def execVerdictFrame (who : LeafId) (rx : Rx) (did : Did) (capture : Word) (r : VerdictRec) (s : State) : Res :=
  leafStep who (fun l => Leaf.verdictFrame l rx did capture r) s

/-- CAP_POST_WRITE (R303): LF_CAP_POST. -/
def execCapPostWrite (who : LeafId) (id : BitVec 4) (data : WriteData) (s : State) : Res :=
  leafStep who (fun l => Leaf.writeDataBy l (.host id) l.ring.did 0x110 data) s

/-- CAPTURE_PROCESS (R304). -/
def execCaptureProcess (who : LeafId) (s : State) : Res :=
  leafStep who Leaf.drivePulls s

/-- CAPTURE_PULL_TIMEOUT (R304). -/
def execCapturePullTimeout (who : LeafId) (s : State) : Res :=
  leafStep who Leaf.pullTimeout s

/-- CAPTURE_HOLD_EXPIRY (R307). -/
def execCaptureHoldExpiry (who : LeafId) (id : Word) (s : State) : Res :=
  leafStep who (fun l => Leaf.capHold l id) s

/-- CAP_FETCH_WRITE (R308): LF_CAP_FETCH. -/
def execCapFetchWrite (who : LeafId) (by' : Requester) (did : Did) (data : WriteData) (s : State) : Res :=
  leafStep who (fun l => Leaf.writeDataBy l by' did 0x118 data) s

/-- STEP_WRITE (R300): LF_STEP. -/
def execStepWrite (who : LeafId) (by' : Requester) (data : WriteData) (s : State) : Res :=
  leafStep who (fun l => Leaf.writeDataBy l by' l.ring.did 0x100 data) s

/-- SAMPLING_RATE (R300) at a leaf; on a Tervon it acts on the internal leaf. -/
def execSamplingRate (who : Part) (slot : Nat) (s : State) : Res :=
  match who with
  | .leaf w => leafStep w (fun l => Leaf.fire l slot 4 fun a l => Leaf.setRate l (bits a 4 0)) s
  | .tervon => tvStep (fun t => Tervon.fire t slot 4 fun a t => Tervon.onIleaf t fun l => Leaf.setRate l (bits a 4 0)) s

/-- CELLAR_COMMIT (R420). -/
def execCellarCommit (who : LeafId) (s : State) : Res :=
  leafStep who Leaf.cellarCommit s

/-- LEAF_WAKE_START (R422). -/
def execLeafWakeStart (who : LeafId) (s : State) : Res :=
  leafStep who Leaf.wakeStart s

/-- HD_LC_GOOD (R422). -/
def execHdLcGood (who : LeafId) (s : State) : Res :=
  leafStep who Leaf.lcGood s

/-- LEAF_WAKE_COMPLETE (R422). -/
def execLeafWakeComplete (who : LeafId) (s : State) : Res :=
  leafStep who Leaf.wakeComplete s

/-- VDD_LC_LOSS (R423). -/
def execVddLcLoss (who : LeafId) (s : State) : Res :=
  leafStep who Leaf.lcLoss s

/-- RETENTION_LOSS (R424). -/
def execRetentionLoss (who : LeafId) (s : State) : Res :=
  leafStep who Leaf.retention s

/-- LEAF_CORE_RESET (R426). -/
def execLeafCoreReset (who : LeafId) (s : State) : Res :=
  leafStep who Leaf.coreResetPin s

/-- HOST_PORT_RESET (R449). -/
def execHostPortReset (who : LeafId) (s : State) : Res :=
  leafStep who Leaf.hostPortReset s

/-- HOST_PORT_RESET_RELEASE (R449). -/
def execHostPortResetRelease (who : LeafId) (s : State) : Res :=
  leafStep who Leaf.hostPortRelease s

/-- STATION_RESET (R451). -/
def execStationReset (who : LeafId) (stn : Nat) (s : State) : Res :=
  leafStep who (fun l => Leaf.stationReset l stn) s

/-- TRACE_PORT_RESET (R451). -/
def execTracePortReset (who : LeafId) (port : BitVec 3) (s : State) : Res :=
  leafStep who (fun l => Leaf.tracePortReset l port.toNat) s

/-- WAKE_PHRASE (R164). -/
def execWakePhrase (who : LeafId) (s : State) : Res :=
  leafStep who Leaf.wakePhrase s

/-- PORT_LATENCY_MEASURE (R46) at the ring leaf. -/
def execPortLatencyMeasure (lat : PortLatency) (s : State) : Res :=
  leafStep .ring (fun l => Leaf.portLatency l lat) s

end Sys2Proof.Machine
end

