-- ==== Sys2Proof/Machine/TvRed.lean ====
section
/-! DEFINITION. Pod reductions: operators (R244), the tree (R247), local contributions (R245, R246), partials and results (R248, R249) and the
commands on definitions (R243). -/

namespace Sys2Proof.Machine

/-! ### Operators -/

/-- The operators of R244. -/
inductive RedOp where
  | sum64
  | sum96
  | satsum40
  | min
  | max
  deriving DecidableEq, Repr

/-- Bytes of an element. -/
def RedOp.size : RedOp → Nat
  | .sum64 | .satsum40 => 8
  | .sum96 => 12
  | .min | .max => 20

/-- The empty value of an operator. -/
def RedOp.empty : RedOp → List Byte
  | .min => List.replicate 16 255 ++ zeros 4
  | .max => zeros 8 ++ List.replicate 8 255 ++ zeros 4
  | o => zeros (RedOp.size o)

/-- Value, time and DID of an extreme. -/
def extOf (bs : List Byte) : Nat × Nat × Nat := (field bs 0 8, field bs 8 8, field bs 16 3)

/-- The bytes of an extreme. -/
def extBytes (value time : Nat) (did : Did) : List Byte := le 8 value ++ le 8 time ++ le 3 did.toNat ++ [0]

/-- An extreme comes before another one: value by `lt`, then the least time, then the least DID. -/
def extBefore (lt : Nat → Nat → Bool) (a b : Nat × Nat × Nat) : Bool :=
  lt a.1 b.1 || (decide (a.1 = b.1) && (decide (a.2.1 < b.2.1) || (decide (a.2.1 = b.2.1) && decide (a.2.2 < b.2.2))))

/-- Combine two elements (R244). -/
def RedOp.combine (o : RedOp) (a b : List Byte) : List Byte :=
  match o with
  | .sum64 => le 8 (fromLe a + fromLe b)
  | .sum96 => le 12 (fromLe a + fromLe b)
  | .satsum40 =>
    let s := bits (fromLe a) 39 0 + bits (fromLe b) 39 0
    let sat := bit (fromLe a) 63 || bit (fromLe b) 63 || decide (2 ^ 40 - 1 < s)
    le 8 (Nat.min s (2 ^ 40 - 1) + (if sat then 2 ^ 63 else 0))
  | .min => if extBefore (fun x y => decide (x < y)) (extOf b) (extOf a) then b else a
  | .max => if extBefore (fun x y => decide (y < x)) (extOf b) (extOf a) then b else a

/-- The elements of a source, in table order (R243). -/
def redOps (source : Nat) : List RedOp :=
  match source with
  | 0 => List.replicate 64 .satsum40 ++ [.sum64, .sum96, .min, .max]
  | 1 => [.sum64, .min, .max]
  | 2 => [.sum64, .sum64, .sum64, .sum64]
  | 3 => [.sum64]
  | _ => []

/-- Bytes of a source's elements. -/
def redSize (source : Nat) : Nat := ((redOps source).map RedOp.size).sum

/-- Combine the elements of two contributions. -/
def combineElems : List RedOp → List Byte → List Byte → List Byte
  | [], _, _ => []
  | o :: r, a, b =>
    let n := RedOp.size o
    RedOp.combine o (a.take n) (b.take n) ++ combineElems r (a.drop n) (b.drop n)

/-- The elements of no contribution. -/
def emptyElems (source : Nat) : List Byte := (redOps source).flatMap RedOp.empty

/-! ### Definitions -/

def RedDef.id (d : RedDef) : Nat := field d.bytes 0 1
def RedDef.source (d : RedDef) : Nat := field d.bytes 2 1
def RedDef.kind (d : RedDef) : Nat := field d.bytes 3 1
def RedDef.item (d : RedDef) : Nat := field d.bytes 4 2
def RedDef.dieType (d : RedDef) : Nat := field d.bytes 6 2
def RedDef.filtered (d : RedDef) : Bool := bit (field d.bytes 8 1) 0
def RedDef.reportX (d : RedDef) : Nat := bits (field d.bytes 9 1) 2 0
def RedDef.reportY (d : RedDef) : Nat := bits (field d.bytes 9 1) 5 3
/-- The digest of a definition under a root (R243). -/
def RedDef.digest (d : RedDef) (root : Nat) : Word := crc32c (BitVec.ofNat 8 d.fn :: d.bytes ++ [BitVec.ofNat 8 root])

def Tervon.redDef? (t : Tervon) (id : Nat) : Option RedDef := (t.red.defs.find? fun e => decide (e.1 = id)).map Prod.snd

/-! ### The tree (R247) -/

/-- The neighbours of a position in port order X-, X+, Y-, Y+. -/
def Tervon.neighbours (t : Tervon) (v : Nat × Nat) : List (Nat × Nat) := [10, 9, 12, 11].map fun k => Tervon.peerOf t v.1 v.2 k

/-- The present positions. -/
def Tervon.positions (t : Tervon) : List (Nat × Nat) :=
  let (X, Y) := Tervon.shape t
  ((List.range (X * Y)).map fun i => (i % X, i / X)).filter fun v => !Tervon.absent t v.1 v.2

/-- Distances from the root, one more peer hop at each turn; `n` bounds the turns. -/
def Tervon.spread (t : Tervon) : Nat → Nat → List ((Nat × Nat) × Nat) → List ((Nat × Nat) × Nat)
  | 0, _, seen => seen
  | n + 1, d, seen =>
    let near := (seen.filter fun e => decide (e.2 = d)).map Prod.fst
    let new := (Tervon.positions t).filter fun v => !(seen.any fun e => decide (e.1 = v)) && (Tervon.neighbours t v).any near.contains
    if new = [] then seen else Tervon.spread t n (d + 1) (seen ++ new.map fun v => (v, d + 1))

/-- dist of R247, for every position that the root reaches. -/
def Tervon.distances (t : Tervon) (root : Nat) : List ((Nat × Nat) × Nat) :=
  let r := (bits root 2 0, bits root 5 3)
  if (Tervon.positions t).contains r then Tervon.spread t 64 0 [(r, 0)] else []

def distOf (ds : List ((Nat × Nat) × Nat)) (v : Nat × Nat) : Option Nat := (ds.find? fun e => decide (e.1 = v)).map Prod.snd

/-- The depth D (R247). -/
def depthOf (ds : List ((Nat × Nat) × Nat)) : Nat := ds.foldl (fun m e => Nat.max m e.2) 0

/-- The parent of a position (R247). -/
def Tervon.parentOf (t : Tervon) (ds : List ((Nat × Nat) × Nat)) (v : Nat × Nat) : Option (Nat × Nat) :=
  match distOf ds v with
  | some (n + 1) => (Tervon.neighbours t v).find? fun u => decide (distOf ds u = some n)
  | _ => none

/-- The children of a position. -/
def Tervon.childrenOf (t : Tervon) (ds : List ((Nat × Nat) × Nat)) (v : Nat × Nat) : List (Nat × Nat) :=
  (ds.map Prod.fst).filter fun u => decide (Tervon.parentOf t ds u = some v)

/-- Tervons of a position's subtree; `n` bounds the levels. -/
def Tervon.subtree (t : Tervon) (ds : List ((Nat × Nat) × Nat)) : Nat → Nat × Nat → Nat
  | 0, _ => 1
  | n + 1, v => 1 + ((Tervon.childrenOf t ds v).map fun u => Tervon.subtree t ds n u).sum

/-- The coordinate of this Tervon. -/
def Tervon.me (t : Tervon) : Nat × Nat := (Tervon.x t, Tervon.y t)

/-! ### Times -/

/-- Instants older than the longest close (R256) are forgotten (log entry 40). -/
def keepNs : Nat := 65535000

def Tervon.localWait (t : Tervon) : Nat := bits t.red.ctl.toNat 15 6 * 1000
def Tervon.hopWait (t : Tervon) : Nat := bits t.red.ctl.toNat 23 16 * 1000
/-- T0 of R246. -/
def Tervon.t0 (t : Tervon) (i : Nat) : Nat := i + (if Tervon.modeAt t i then t.str.lag * 1000 else Tervon.localWait t)

/-! ### Leaves that contribute (R245) -/

/-- The leaves whose lease the Tervon held at an instant: admitted ring leaves, and the internal leaf (R255). -/
def Tervon.heldLeaves (t : Tervon) (i : Nat) : List Nat :=
  (List.range 65).filter fun k =>
    let e := Tervon.lease t k
    (decide (k = ileafKey) || decide ((Tervon.ent t k).state = 1)) && decide (e.epochAt ≤ i) && (e.held || decide (i < e.lostAt))

/-- The host-die type of a leaf: of the internal leaf's fuses, or as the leaf was last attested (R200). -/
def Tervon.leafType (t : Tervon) (key : Nat) : Option Nat :=
  if key = ileafKey then some (field t.ileaf.fuses.identity 8 2) else (Tervon.ent t key).observed.map fun a => field a.identity 8 2

/-- A leaf is one of those that a reduction takes: the host-die type and the DID set of its function's partition (R245). -/
def Tervon.redTakes (t : Tervon) (d : RedDef) (key : Nat) : Bool :=
  (!d.filtered || decide (Tervon.leafType t key = some (RedDef.dieType d)))
    && (match d.fn with
        | 0 => true
        | n + 1 => PartSt.hasDid (Tervon.part t n) (Tervon.keyDid t key))

def Tervon.dieTally? (t : Tervon) (did : Did) (i : Nat) : Option DieTally := t.red.tallies.find? fun d => decide (d.did = did) && decide (d.instant = i)

/-- The change of an item, where the image gave one. -/
def changeOf (m : Cells Nat) (k : Nat) : Option Nat := (m.find? fun e => decide (e.1 = k)).map Prod.snd

/-- The elements that a leaf's Tally gives a reduction (R244, R245); none when its image gave no change. A bin is saturated when the leaf's own
bin holds 2^40 - 1 (R81). -/
def DieTally.elems (d : DieTally) (r : RedDef) : Option (List Byte) :=
  let it := RedDef.item r
  match RedDef.source r with
  | 0 => match d.hists.find? fun e => decide (e.1 = it) with
    | some (_, v) =>
      let ext := if v.getD 64 0 = 0 then RedOp.empty .min ++ RedOp.empty .max
        else extBytes (v.getD 66 0) (v.getD 67 0) d.did ++ extBytes (v.getD 68 0) (v.getD 69 0) d.did
      some ((v.take 64).flatMap (le 8) ++ le 8 (v.getD 64 0) ++ le 12 (v.getD 65 0) ++ ext)
    | none => none
  | 1 => (changeOf d.counters it).map fun c => le 8 c ++ extBytes c d.instant d.did ++ extBytes c d.instant d.did
  | 2 =>
    let cs := (List.range 4).map fun q => changeOf d.slots (4 * it + q)
    if cs.all Option.isSome then some (cs.flatMap fun c => le 8 (c.getD 0)) else none
  | _ => (changeOf d.stations it).map (le 8)

/-- A leaf's contribution to a reduction of an instant (R245). -/
def Tervon.leafElems (t : Tervon) (r : RedDef) (i key : Nat) : Option (List Byte) :=
  match Tervon.dieTally? t (Tervon.keyDid t key) i with
  | some d => if d.epochOk = true ∧ d.kind = RedDef.kind r then DieTally.elems d r else none
  | none => none

/-! ### Partials (R253) -/

/-- PARTIAL is set when any leaf or Tervon is missing, and ND with it (R253). -/
def ReduceP.seal (p : ReduceP) (force : Bool) : ReduceP :=
  if force ∨ p.leavesOut ≠ 0 ∨ p.tvOut ≠ 0 then { p with flags := p.flags ||| 3 } else p

/-- Combine two partials: elements by their operators, flags by OR, counts by addition (R253). -/
def ReduceP.merge (source : Nat) (a b : ReduceP) : ReduceP :=
  { a with flags := a.flags ||| b.flags, leavesIn := satAdd16 a.leavesIn b.leavesIn.toNat, leavesOut := satAdd16 a.leavesOut b.leavesOut.toNat,
           tvIn := satAdd8 a.tvIn b.tvIn.toNat, tvOut := satAdd8 a.tvOut b.tvOut.toNat, elems := combineElems (redOps source) a.elems b.elems }

/-- The Tervon's own contribution (R245, R246). -/
def Tervon.ownPart (t : Tervon) (d : RedDef) (i root : Nat) : ReduceP :=
  let keys := (Tervon.heldLeaves t i).filter (Tervon.redTakes t d)
  let got := keys.filterMap (Tervon.leafElems t d i)
  { instant := BitVec.ofNat 64 i, id := BitVec.ofNat 8 (RedDef.id d), flags := 0, digest := RedDef.digest d root, leavesIn := BitVec.ofNat 16 got.length,
    leavesOut := BitVec.ofNat 16 (keys.length - got.length), tvIn := 1, tvOut := 0,
    elems := got.foldl (fun a b => combineElems (redOps (RedDef.source d)) a b) (emptyElems (RedDef.source d)) }

/-! ### Runs -/

def Tervon.runOf (t : Tervon) (i id : Nat) : Option RedRun := t.red.runs.find? fun r => decide (r.instant = i) && decide (r.id = id)
def Tervon.setRun (t : Tervon) (r : RedRun) : Tervon :=
  { t with red.runs := t.red.runs.map fun k => if k.instant = r.instant ∧ k.id = r.id then r else k }

/-- A run is over: its result is held or lost, or its instant was abandoned. -/
def RedRun.over (r : RedRun) : Bool := r.result.isSome || r.lost || r.dropped

/-- The instants in flight, oldest first. -/
def Tervon.instants (t : Tervon) : List Nat := Cells.keys ((t.red.runs.filter fun r => !RedRun.over r).foldl (fun (m : Cells Unit) r => Cells.insert m r.instant ()) [])

/-- What a run sends upward: its own contribution and the partials that agree; the others and the missing children count with their subtrees
(R248). -/
def Tervon.gather (t : Tervon) (d : RedDef) (ds : List ((Nat × Nat) × Nat)) (r : RedRun) : ReduceP :=
  let own := r.own.getD (Tervon.ownPart t d r.instant r.root)
  let kids := Tervon.childrenOf t ds (Tervon.me t)
  let good := r.parts.filter fun p => decide (p.2.2.digest = RedDef.digest d r.root)
  let sum := good.foldl (fun a p => ReduceP.merge (RedDef.source d) a p.2.2) own
  let out := ((kids.filter fun v => !(good.any fun p => decide ((p.1, p.2.1) = v))).map fun v => Tervon.subtree t ds 64 v).sum
  let sum := { sum with tvOut := satAdd8 sum.tvOut out }
  let sum := if good.length = r.parts.length then sum else { sum with flags := sum.flags ||| 4 }
  ReduceP.seal sum r.dropped

/-- Send a frame to a neighbour: on its port, or as ROUTED while the link is down (R248). -/
def Tervon.sendPeer (t : Tervon) (v : Nat × Nat) (p : Payload) : Tervon :=
  match [10, 9, 12, 11].find? fun k => decide (Tervon.peerOf t (Tervon.x t) (Tervon.y t) k = v) && Tervon.linkUp? t k with
  | some k => Tervon.send t k (mkFrame 0 0 0 t.boot.did p)
  | none => Tervon.sendRouted t v.1 v.2 0 p

/-- A result is held: it goes to the children, and the report Tervon writes TALLY_SUMMARY (R248, R249). -/
def Tervon.takeResult (t : Tervon) (r : RedRun) (p : ReduceP) : Tervon :=
  let p := if r.dropped then { p with flags := p.flags ||| 3 } else p
  let t := Tervon.setRun t { r with result := some p }
  let ds := Tervon.distances t r.root
  let t := (Tervon.childrenOf t ds (Tervon.me t)).foldl (fun t v => Tervon.sendPeer t v (.reduceResult p)) t
  match Tervon.redDef? t r.id with
  | some d =>
    if (RedDef.reportX d, RedDef.reportY d) = Tervon.me t then
      Tervon.record t d.fn 5 (2 * b2n (p.flags.getLsbD 1) + 8 * b2n (p.flags.getLsbD 0)) didNone (ReduceP.bytes p)
    else t
  | none => t

/-- Send a run's partial upward when it is complete, or at once when `force` (R248). -/
def Tervon.trySend (t : Tervon) (i id : Nat) (force : Bool) : Tervon :=
  match Tervon.runOf t i id, Tervon.redDef? t id with
  | some r, some d =>
    let ds := Tervon.distances t r.root
    let kids := Tervon.childrenOf t ds (Tervon.me t)
    let ready := r.own.isSome && kids.all fun v => r.parts.any fun p => decide ((p.1, p.2.1) = v)
    if r.sent || !(ready || force) || (distOf ds (Tervon.me t)).isNone then t
    else
      let p := Tervon.gather t d ds r
      let r := { r with sent := true, own := some (r.own.getD (Tervon.ownPart t d i r.root)) }
      let t := Tervon.setRun t r
      match Tervon.parentOf t ds (Tervon.me t) with
      | some v => Tervon.sendPeer t v (.reducePart p)
      | none => Tervon.takeResult t r p
  | _, _ => t

/-- Form the own contributions of an instant (R246). -/
def Tervon.formOwn (t : Tervon) (i : Nat) : Tervon :=
  (t.red.runs.filter fun r => decide (r.instant = i) && r.own.isNone && !RedRun.over r).foldl (fun t r =>
    match Tervon.redDef? t r.id with
    | some d => Tervon.trySend (Tervon.setRun t { r with own := some (Tervon.ownPart t d i r.root) }) i r.id false
    | none => t) t

/-- Abandon an instant: what it holds is sent with PARTIAL (R249). -/
def Tervon.abandonInstant (t : Tervon) (i : Nat) : Tervon :=
  let ids := (t.red.runs.filter fun r => decide (r.instant = i) && !RedRun.over r).map RedRun.id
  let t := { t with red.runs := t.red.runs.map fun r => if r.instant = i ∧ RedRun.over r = false then { r with dropped := true } else r }
  ids.foldl (fun t id => Tervon.trySend t i id true) t

/-- Start a run (R246, R249); a 17th instant abandons the oldest. -/
def Tervon.startRun (t : Tervon) (i id : Nat) : Tervon :=
  if (Tervon.runOf t i id).isSome ∨ i + keepNs < Tervon.now t ∨ (Tervon.redDef? t id).isNone then t
  else
    let same := t.red.runs.find? fun r => decide (r.instant = i)
    let live := Tervon.instants t
    let t := if live.contains i = false ∧ 16 ≤ live.length then (live.take 1).foldl Tervon.abandonInstant t else t
    let root := match same with
      | some r => r.root
      | none => bits t.red.ctl.toNat 5 0
    { t with red.runs := t.red.runs ++ [{ RedRun.reset with instant := i, id := id, root := root, mode := Tervon.modeAt t i }] }

/-- Start every reduction of a snapshot kind for an instant. -/
def Tervon.startKind (t : Tervon) (i kind : Nat) : Tervon :=
  (t.red.defs.filter fun e => decide (RedDef.kind e.2 = kind)).foldl (fun t e => Tervon.startRun t i e.1) t

/-- Every held leaf's Tally of an instant is complete (R246). -/
def Tervon.allComplete (t : Tervon) (i : Nat) : Bool := (Tervon.heldLeaves t i).all fun k => (Tervon.dieTally? t (Tervon.keyDid t k) i).isSome

/-- A complete Tally joins the reductions of its instant (R245, R246). -/
def Tervon.redTally (t : Tervon) (d : DieTally) : Tervon :=
  let now := Tervon.now t
  let keep := t.red.tallies.filter fun k => decide (now ≤ k.instant + keepNs) && !(decide (k.did = d.did) && decide (k.instant = d.instant))
  let t := { t with red.tallies := d :: keep, red.runs := t.red.runs.filter fun r => decide (now ≤ r.instant + keepNs) || !RedRun.over r }
  let t := Tervon.startKind t d.instant d.kind
  if Tervon.allComplete t d.instant then Tervon.formOwn t d.instant else t

/-- REDUCE_LOCAL_WAIT_EXPIRY (R246): in mode off. An instant of which nothing has come is a full snapshot's (log entry 40). -/
def Tervon.localWaitEnds (t : Tervon) (i : Nat) : Tervon :=
  if Tervon.modeAt t i = true ∨ Tervon.now t < i + Tervon.localWait t then t
  else
    let t := if t.red.runs.any fun r => decide (r.instant = i) then t else Tervon.startKind t i 0
    Tervon.formOwn t i

/-- REDUCE_PART_DEADLINE (R248). -/
def Tervon.partDeadline (t : Tervon) (i : Nat) : Tervon :=
  let due (r : RedRun) : Bool :=
    let ds := Tervon.distances t r.root
    match distOf ds (Tervon.me t) with
    | some n => decide (Tervon.t0 t i + (depthOf ds - n) * Tervon.hopWait t ≤ Tervon.now t)
    | none => false
  let ids := (t.red.runs.filter fun r => decide (r.instant = i) && !r.sent && !RedRun.over r && due r).map RedRun.id
  if ids = [] then t else ids.foldl (fun t id => Tervon.trySend t i id true) (Tervon.formOwn t i)

/-- The element bytes that a reduction's frame must carry (R253). -/
def Tervon.elemsOk (t : Tervon) (p : ReduceP) : Bool :=
  match Tervon.redDef? t p.id.toNat with
  | some d => decide (p.elems.length = redSize (RedDef.source d))
  | none => [572, 48, 32, 8].contains p.elems.length

/-- REDUCE_PART from a position (R248): combined, late, or of another digest. -/
def Tervon.reducePart (from' : Nat × Nat) (p : ReduceP) (t : Tervon) : Tervon :=
  let i := p.instant.toNat
  let id := p.id.toNat
  let t := Tervon.startRun t i id
  let late (t : Tervon) : Tervon := { t with str.redLate := satAdd32 t.str.redLate 1 }
  match Tervon.runOf t i id with
  | none => late t
  | some r =>
    let kids := Tervon.childrenOf t (Tervon.distances t r.root) (Tervon.me t)
    if r.sent || RedRun.over r then late t
    else if kids.contains from' = false ∨ (r.parts.any fun k => decide ((k.1, k.2.1) = from')) = true then t
    else Tervon.trySend (Tervon.setRun t { r with parts := r.parts ++ [(from'.1, from'.2, p)] }) i id false

/-- REDUCE_RESULT from a position (R248): true when it is the result of a run that waited for it. -/
def Tervon.reduceResult (from' : Nat × Nat) (p : ReduceP) (t : Tervon) : Tervon × Bool :=
  let i := p.instant.toNat
  let id := p.id.toNat
  let t := Tervon.startRun t i id
  match Tervon.runOf t i id with
  | none => (t, false)
  | some r =>
    if r.result.isSome || r.lost || decide (Tervon.parentOf t (Tervon.distances t r.root) (Tervon.me t) ≠ some from') then (t, false)
    else (Tervon.takeResult t r p, true)

/-- The results of an instant that are lost now (R249): their IDs. -/
def Tervon.lostNow (t : Tervon) (i : Nat) : List Nat :=
  let due (r : RedRun) : Bool := decide (Tervon.t0 t i + 2 * depthOf (Tervon.distances t r.root) * Tervon.hopWait t + 100000 ≤ Tervon.now t)
  (t.red.runs.filter fun r => decide (r.instant = i) && r.result.isNone && !r.lost && due r).map RedRun.id

/-- Count a result lost; the report Tervon writes LOSS in place of the TALLY_SUMMARY (R249). -/
def Tervon.loseResult (i : Nat) (t : Tervon) (id : Nat) : Tervon :=
  match Tervon.runOf t i id with
  | none => t
  | some r =>
    let t := { Tervon.setRun t { r with lost := true } with red.lostCount := satAdd32 t.red.lostCount 1 }
    match Tervon.redDef? t id with
    | some d => if (RedDef.reportX d, RedDef.reportY d) = Tervon.me t then Tervon.record t d.fn 9 0 didNone (lossBody 4 0 1 i i (Tervon.tq t)) else t
    | none => t

/-! ### Commands -/

/-- Values of the item index of a source. -/
def sourceItems (source : Nat) : Nat :=
  match source with
  | 0 | 3 => 256
  | 1 => 4096
  | 2 => 64
  | _ => 0

/-- REDUCE_DEFINE op 0 (R243). -/
def Tervon.reduceDefine (j : Job) (t : Tervon) : Tervon :=
  let b := slice j.desc 40 10
  let b := setAt b 1 0
  let b := if bit (Job.byte j 48) 0 then b else setAt (setAt b 6 0) 7 0
  let d : RedDef := { fn := j.ref.fn, bytes := b }
  let (X, Y) := Tervon.shape t
  if sourceItems (RedDef.source d) ≤ RedDef.item d ∨ 15 < RedDef.kind d ∨ X ≤ RedDef.reportX d ∨ Y ≤ RedDef.reportY d
      ∨ Tervon.absent t (RedDef.reportX d) (RedDef.reportY d) = true then Tervon.complete t j 3
  else Tervon.complete { t with red.defs := Cells.insert t.red.defs (RedDef.id d) d } j 0 (RedDef.digest d (bits t.red.ctl.toNat 5 0)).toNat

/-- REDUCE_DEFINE op 1 (R243). -/
def Tervon.reduceRemove (j : Job) (t : Tervon) : Tervon :=
  let id := Job.byte j 40
  Tervon.complete { t with red.defs := Cells.erase t.red.defs id, red.runs := t.red.runs.filter fun r => decide (r.id ≠ id) } j 0

end Sys2Proof.Machine
end

