-- ==== Sys2Proof/Machine/TvGln.lean ====
section
/-! DEFINITION. Gleaner: metric classes (R256, R257), median and MAD (R258, R259), dies (R260, R261), outliers (R263) and early calls (R268, R269,
R271). -/

namespace Sys2Proof.Machine

/-! ### Classes -/

/-- TV_GLN_CLASS at reset (R256). -/
def classDefault : BitVec 128 := BitVec.ofNat 128 (16 * 2 ^ 16 + 0x30000 * 2 ^ 32 + 50 * 2 ^ 96 + 1000 * 2 ^ 112)

def Tervon.glnClass (t : Tervon) (c : Nat) : BitVec 128 := Cells.get classDefault t.gln.classes c
def clsType (v : BitVec 128) : Nat := bits v.toNat 1 0
def clsStat (v : BitVec 128) : Nat := bits v.toNat 3 2
def clsRed (v : BitVec 128) : Nat := bits v.toNat 15 8
def clsMin (v : BitVec 128) : Nat := bits v.toNat 31 16
def clsK (v : BitVec 128) : Nat := bits v.toNat 63 32
def clsFloor (v : BitVec 128) : Nat := bits v.toNat 95 64
def clsEarly (v : BitVec 128) : Nat := bits v.toNat 111 96 * 1000
def clsClose (v : BitVec 128) : Nat := bits v.toNat 127 112 * 1000

/-! ### Median and MAD -/

/-- The interval of a bin (R258). -/
def binEdges (s b lo hi : Nat) : Rat × Rat :=
  let l : Int := s + b / 4
  let m : Int := b % 4
  if b = 0 then ((lo : Rat), 5 * pow2 (s - 2))
  else if b = 63 then (7 * pow2 (s + 13), if pow2 (s + 16) < hi + 1 then ((hi + 1 : Nat) : Rat) else pow2 (s + 16))
  else (((4 + m : Int) : Rat) * pow2 (l - 2), ((5 + m : Int) : Rat) * pow2 (l - 2))

/-- The cumulative count F at a value (R258): the bins below it count whole, its own in proportion, and the edges of a bin that holds nothing play no
part. -/
def cumulative (ns : List Nat) (s lo hi : Nat) (x : Rat) : Rat :=
  (ns.zipIdx.map fun e =>
    let g := binEdges s e.2 lo hi
    if e.1 = 0 then 0
    else if g.2 ≤ x then (e.1 : Rat)
    else if x < g.1 then 0
    else (e.1 : Rat) * (x - g.1) / (g.2 - g.1)).sum

/-- The least number below 2^n that satisfies a monotone test, by bisection; 2^n - 1 where none does. -/
def leastBelow (p : Nat → Bool) : Nat → Nat → Nat
  | 0, base => base
  | n + 1, base => if p (base + 2 ^ n - 1) then leastBelow p n base else leastBelow p n (base + 2 ^ n)

/-- A multiple of 2^-16. -/
def q16 (n : Nat) : Rat := (n : Rat) / 65536

/-- The median (R259). -/
def medianOf (ns : List Nat) (s lo hi : Nat) : Nat :=
  let c : Rat := (ns.sum : Nat)
  leastBelow (fun n => decide (c / 2 ≤ cumulative ns s lo hi (q16 n))) 82 0

/-- The MAD (R259). -/
def madOf (ns : List Nat) (s lo hi med : Nat) : Nat :=
  let c : Rat := (ns.sum : Nat)
  leastBelow (fun d => decide (c / 2 ≤ cumulative ns s lo hi (q16 med + q16 d) - cumulative ns s lo hi (q16 med - q16 d))) 82 0

/-! ### A die's value (R260) -/

/-- The value of a die, Q48.16; none when its Tally has no sample. -/
def DieTally.value (d : DieTally) (h stat : Nat) : Option Nat :=
  match d.hists.find? fun e => decide (e.1 = h) with
  | some (_, v) =>
    if v.getD 64 0 = 0 then none
    else match stat with
      | 0 => some (v.getD 65 0 * 65536 / v.getD 64 0)
      | 1 => some (v.getD 68 0 * 65536)
      | _ => some (v.getD 66 0 * 65536)
  | none => none

/-- The deviation z (R260). -/
def deviation (v med mad : Nat) : Int :=
  if mad = 0 then (if v = med then 0 else if med < v then 0x7FFFFFFF else -0x80000000)
  else clampInt (-0x80000000) 0x7FFFFFFF (((v : Int) - med) * 65536 / mad)

/-- A straggler (R261): `v - med >= k x MAD` and `v - med >= floor x 2^16`, exactly; k has 16 fraction bits. -/
def straggles (v med mad : Nat) (cfg : BitVec 128) : Bool :=
  decide ((clsK cfg : Int) * mad ≤ ((v : Int) - med) * 65536) && decide ((clsFloor cfg : Int) * 65536 ≤ (v : Int) - med)

/-! ### Statistics of a class (R257) -/

def Tervon.glnStat? (t : Tervon) (c i : Nat) : Option GlnStat := t.gln.stats.find? fun s => decide (s.cls = c) && decide (s.instant = i)

/-- What a class makes of a result, or of none (R257). -/
def Tervon.classStat (t : Tervon) (c i : Nat) (p : Option ReduceP) : GlnStat :=
  let cfg := Tervon.glnClass t c
  let base : GlnStat := { GlnStat.reset with cls := c, instant := i, cfg := cfg, skipped := true }
  match Tervon.redDef? t (clsRed cfg), p with
  | some d, some p =>
    let base : GlnStat := { base with nd := p.flags.getLsbD 1, partial' := p.flags.getLsbD 0, leavesIn := p.leavesIn.toNat, leavesOut := p.leavesOut.toNat }
    let raw := (List.range 64).map fun b => field p.elems (8 * b) 8
    let ns := raw.map fun w => bits w 39 0
    let lo := extOf (slice p.elems 532 20)
    let hi := extOf (slice p.elems 552 20)
    if RedDef.source d ≠ 0 ∨ p.flags.getLsbD 2 = true ∨ (raw.any fun w => bit w 63) = true ∨ ns.sum < clsMin cfg ∨ 2 ^ 47 ≤ hi.1
        ∨ lo = (2 ^ 64 - 1, 2 ^ 64 - 1, 0) then base
    else
      let s := Config.histShift (RedDef.item d) % 49
      let med := medianOf ns s lo.1 hi.1
      { base with skipped := false, med := med, mad := madOf ns s lo.1 hi.1 med }
  | _, _ => base

/-- Keep a class's statistics; a skipped one is counted (R257). -/
def Tervon.keepStat (t : Tervon) (s : GlnStat) : Tervon :=
  let t := { t with gln.stats := t.gln.stats ++ [s] }
  if s.skipped then { t with gln.skipped := satAdd32 t.gln.skipped 1 } else t

/-- The classes that are on. -/
def Tervon.classesOn (t : Tervon) : List Nat := (List.range 64).filter fun c => decide (clsType (Tervon.glnClass t c) = 1) || decide (clsType (Tervon.glnClass t c) = 2)

/-- A die is judged for a class: it is one that the class's reduction takes (R255). -/
def Tervon.judged (t : Tervon) (c key : Nat) : Bool :=
  match Tervon.redDef? t (clsRed (Tervon.glnClass t c)) with
  | some d => Tervon.redTakes t d key
  | none => false

/-! ### Evaluation of a die -/

/-- Evaluation of a die for a class whose statistics are held (R260, R261, R268, R269, R271). -/
def Tervon.evalDie (t : Tervon) (d : DieTally) (s : GlnStat) : Tervon :=
  let k := (s.cls, s.instant, d.did.toNat)
  if t.gln.evaluated.contains k then t
  else
    let late := if Tervon.modeAt t d.instant then !d.applied else decide (d.instant + clsClose s.cfg ≤ d.at')
    let t := { t with gln.evaluated := k :: t.gln.evaluated }
    let feat (t : Tervon) (z : Option Int) : Tervon :=
      { t with gln.feats := { GlnFeat.reset with instant := s.instant, cls := s.cls, did := d.did, dev := z, nd := s.nd } :: t.gln.feats }
    if late then feat { t with gln.late := satAdd32 t.gln.late 1 } none
    else if s.skipped then feat t none
    else match (match Tervon.redDef? t (clsRed s.cfg) with
        | some r => DieTally.value d (RedDef.item r) (clsStat s.cfg)
        | none => none) with
      | none => feat t none
      | some v =>
        let z := deviation v s.med s.mad
        let t := feat t (some z)
        if clsType s.cfg = 2 ∧ straggles v s.med s.mad s.cfg = true then
          let (t, id) := Tervon.newCall t
          let flags := b2n s.nd + 4 * b2n s.partial'
          Tervon.post t d.did 2 flags (callBytes s.instant d.did 2 id flags (Tervon.tq t).toNat s.cls (clsRed s.cfg) 0
            (callValues v s.med s.mad z s.leavesIn s.leavesOut))
        else t

/-- The dies that an instant judges now: contributed under the lease epoch of the instant (R255). -/
def Tervon.evalInstant (t : Tervon) (i : Nat) : Tervon :=
  if Tervon.modeAt t i = true ∧ t.str.wm < i then t
  else
    let keys := Tervon.heldLeaves t i
    (t.gln.stats.filter fun s => decide (s.instant = i)).foldl (fun t s =>
      keys.foldl (fun t key =>
        match Tervon.dieTally? t (Tervon.keyDid t key) i with
        | some d => if d.epochOk && Tervon.judged t s.cls key then Tervon.evalDie t d s else t
        | none => t) t) t

/-! ### Outliers (R263) -/

/-- A sample record of a feature vector (R273). -/
def featSample (fs : List (Option Int)) : List Byte :=
  let mask := fs.zipIdx.foldl (fun m e => if e.1.isNone then m + 2 ^ e.2 else m) 0
  le 8 mask ++ zeros 8 ++ padTo 256 (fs.flatMap fun z => le 4 (intBits 32 (z.getD 0)))

def Tervon.glnSkip (t : Tervon) : Tervon := { t with gln.skipped := satAdd32 t.gln.skipped 1 }

/-- Score one die of an instant and post OUTLIER (R263, R265). -/
def Tervon.outlier (t : Tervon) (i : Nat) (did : Did) : Tervon :=
  let ctl := t.gln.ctl.toNat
  let part := bits ctl 7 4
  let id := bits ctl 23 8
  let thr := (BitVec.ofNat 32 (bits ctl 63 32)).toInt
  let t := { t with gln.scored := (i, did.toNat) :: t.gln.scored }
  let of (c : Nat) : Option GlnFeat := t.gln.feats.find? fun f => decide (f.instant = i) && decide (f.cls = c) && decide (f.did = did)
  let fs := ((List.range 64).filter fun c => t.gln.feat.getLsbD c).map of
  let en := Tervon.ens t id
  if Ensemble.loaded en = false ∨ (en.fn ≠ 0 ∧ en.fn ≠ part + 1) ∨ (Tervon.usable t part).isEmpty = true then Tervon.glnSkip t
  else
    let (t, score) := Tervon.kaleOne t id (featSample (fs.map fun f => f.bind GlnFeat.dev))
    match score with
    | none => Tervon.glnSkip t
    | some v =>
      if thr ≤ v then
        let nd := fs.any fun f => match f with
          | some g => g.dev.isSome && g.nd
          | none => false
        let (t, call) := Tervon.newCall t
        Tervon.post t did 5 (b2n nd) (callBytes i did 5 call (b2n nd) (Tervon.tq t).toNat 255 255 id (callValues v 0 0 0 0 0))
      else t

/-- Every class that an instant evaluates has been evaluated or skipped: those that are on, and whose reduction takes the instant's snapshot
kind. -/
def Tervon.classesDone (t : Tervon) (i kind : Nat) : Bool :=
  (Tervon.classesOn t).all fun c => (Tervon.glnStat? t c i).isSome || (match Tervon.redDef? t (clsRed (Tervon.glnClass t c)) with
    | some d => decide (RedDef.kind d ≠ kind)
    | none => false)

/-- Build the outlier vectors of an instant, once every class has been evaluated, for the dies whose Tally is complete (R263, log entry 48). -/
def Tervon.outliers (t : Tervon) (i : Nat) : Tervon :=
  if t.gln.ctl.getLsbD 2 = false ∨ Tervon.glnOn t = false ∨ (Tervon.modeAt t i = true ∧ t.str.wm < i) then t
  else (Tervon.heldLeaves t i).foldl (fun t key =>
    match Tervon.dieTally? t (Tervon.keyDid t key) i with
    | some d => if d.epochOk && Tervon.classesDone t i d.kind && !t.gln.scored.contains (i, d.did.toNat) then Tervon.outlier t i d.did else t
    | none => t) t

/-- Forget the instants that no event can reach any more (log entry 40). -/
def Tervon.glnPrune (t : Tervon) : Tervon :=
  let live (i : Nat) : Bool := decide (Tervon.now t ≤ i + keepNs)
  { t with gln := { t.gln with stats := t.gln.stats.filter fun s => live s.instant, feats := t.gln.feats.filter fun f => live f.instant, evaluated := t.gln.evaluated.filter fun k => live k.2.1, scored := t.gln.scored.filter fun k => live k.1, earlyDone := t.gln.earlyDone.filter fun k => live k.2, suspects := t.gln.suspects.filter fun s => s.open' || live s.instant } }

/-- GLEANER_EVALUATE: a result, or its loss, reaches the classes of its reduction (R257, R263, R271). A class whose reduction is undefined is
skipped with the first result of the instant. -/
def Tervon.glnResult (t : Tervon) (i id : Nat) (p : Option ReduceP) : Tervon :=
  if Tervon.glnOn t = false then t
  else
    let t := Tervon.glnPrune t
    let mine := (Tervon.classesOn t).filter fun c =>
      (Tervon.glnStat? t c i).isNone && (decide (clsRed (Tervon.glnClass t c) = id) || (Tervon.redDef? t (clsRed (Tervon.glnClass t c))).isNone)
    let t := mine.foldl (fun t c => Tervon.keepStat t (Tervon.classStat t c i (if clsRed (Tervon.glnClass t c) = id then p else none))) t
    Tervon.outliers (Tervon.evalInstant t i) i

/-- Hand every new result, and every loss, to Gleaner (R249). -/
def Tervon.handResults (t : Tervon) : Tervon :=
  (t.red.runs.filter fun r => (r.result.isSome || r.lost) && !r.told).foldl (fun t r => Tervon.glnResult (Tervon.setRun t { r with told := true }) r.instant r.id r.result) t

/-- A complete Tally reaches Gleaner: SUSPECT_TALLY_COMPLETE and evaluation (R268, R269). -/
def Tervon.glnTally (t : Tervon) (d : DieTally) : Tervon :=
  let before (s : Suspect) : Bool := decide (Tervon.now t < s.instant + clsClose (Tervon.glnClass t s.cls))
  let t := Tervon.retract t 1 fun s => decide (s.did = d.did) && decide (s.instant = d.instant) && before s
  if Tervon.glnOn t then Tervon.outliers (Tervon.evalInstant t d.instant) d.instant else t

/-- M reached the instants up to it (R271). -/
def Tervon.glnWatermark (t : Tervon) : Tervon :=
  if Tervon.glnOn t = false then t
  else
    let is := Cells.keys ((t.gln.stats.filter fun s => decide (s.instant ≤ t.str.wm) && Tervon.modeAt t s.instant).foldl (fun (m : Cells Unit) s => Cells.insert m s.instant ()) [])
    is.foldl (fun t i => Tervon.outliers (Tervon.evalInstant t i) i) t

/-! ### Early calls (R268) -/

/-- The snapshot kind of a class's reduction. -/
def Tervon.classKind (t : Tervon) (c : Nat) : Option Nat := (Tervon.redDef? t (clsRed (Tervon.glnClass t c))).map RedDef.kind

/-- EARLY_WAIT_EXPIRY (R268). -/
def Tervon.earlyWait (t : Tervon) (c i : Nat) : Tervon :=
  let cfg := Tervon.glnClass t c
  if 63 < c ∨ clsType cfg ≠ 2 ∨ Tervon.glnOn t = false ∨ t.gln.ctl.getLsbD 1 = false ∨ Tervon.modeAt t i = true ∨ t.det.det = true ∨ (Tervon.classKind t c).isNone
      ∨ Tervon.now t < i + clsEarly cfg ∨ i + keepNs < Tervon.now t ∨ t.gln.earlyDone.contains (c, i) = true then t
  else
    let t := { t with gln.earlyDone := (c, i) :: t.gln.earlyDone }
    ((Tervon.heldLeaves t i).filter fun key => (Tervon.lease t key).held && Tervon.judged t c key).foldl (fun t key =>
      let did := Tervon.keyDid t key
      if (Tervon.dieTally? t did i).isSome then t
      else
        let (t, id) := Tervon.newCall t
        let s : Suspect := { Suspect.reset with did := did, cls := c, instant := i, call := id, red := clsRed cfg, open' := true }
        let t := { t with gln.suspects := t.gln.suspects ++ [s] }
        Tervon.post t did 1 1 (callBytes i did 1 id 1 (Tervon.tq t).toNat c s.red 0 [])) t

/-- CLOSE_EXPIRY (R268): an outstanding suspect is confirmed as a silent straggler. -/
def Tervon.closeEnds (t : Tervon) (c i : Nat) : Tervon :=
  if Tervon.now t < i + clsClose (Tervon.glnClass t c) then t
  else
    let mine := t.gln.suspects.filter fun s => s.open' && decide (s.cls = c) && decide (s.instant = i)
    let t := { t with gln.suspects := t.gln.suspects.map fun s => if s.open' && decide (s.cls = c) && decide (s.instant = i) then { s with open' := false } else s }
    mine.foldl (fun t s =>
      let t := { t with gln.confirms := satAdd32 t.gln.confirms 1 }
      let x := (Tervon.glnStat? t c i).getD GlnStat.reset
      let flags := 11 + 4 * b2n x.partial'
      Tervon.post t s.did 2 flags (callBytes i s.did 2 s.call flags (Tervon.tq t).toNat c s.red 0 (callValues 0 x.med x.mad 0 x.leavesIn x.leavesOut))) t

end Sys2Proof.Machine
end

