-- ==== Sys2Proof/Machine/TvTally.lean ====
section
/-! DEFINITION. Reception of a Tally (R149 to R152), leaf images and samples (R228, R229, R234), and the watermark (R235, R236). -/

namespace Sys2Proof.Machine

/-! ### The stream of a Tally (R101, R102, R150) -/

/-- The changes of one group: those whose bitmap bit is set, each within its width. -/
def unGroup (bm : Nat) : Nat → List Nat → List Byte → Option (List Nat × List Byte)
  | _, [], bs => some ([], bs)
  | i, w :: ws, bs =>
    if bit bm i then
      match unleb128 ((w + 6) / 7) bs with
      | some (v, r) =>
        if v < 2 ^ w then
          match unGroup bm (i + 1) ws r with
          | some (vs, r') => some (v :: vs, r')
          | none => none
        else none
      | none => none
    else match unGroup bm (i + 1) ws bs with
      | some (vs, r') => some (0 :: vs, r')
      | none => none

/-- Changes in groups of 8, of the widths given; the bitmap bits beyond the end of a group are 0 (R101; log entry 75). -/
def unChanges : List (List Nat) → List Byte → Option (List Nat × List Byte)
  | [], bs => some ([], bs)
  | g :: gs, bs =>
    match bs with
    | [] => none
    | b :: r =>
      if 2 ^ g.length ≤ b.toNat then none
      else match unGroup b.toNat 0 g r with
        | some (vs, r') => match unChanges gs r' with
          | some (ws, r'') => some (vs ++ ws, r'')
          | none => none
        | none => none

/-- The widths of `n` changes, in groups. -/
def widths (n w : Nat) : List (List Nat) := chunks 8 (List.replicate n w)

/-- The record of a histogram in a Tally: saturation flags, extremes with their times, and the changes of sample count and sum. -/
structure HistVals where
  min   : Nat
  minAt : Nat
  max   : Nat
  maxAt : Nat
  count : Nat
  sum   : Nat
  deriving DecidableEq, Repr

/-- The contents of a Tally stream: changes by item, counter marks, slot fractions and histogram records. -/
structure TallyVals where
  counters : List (Nat × Nat)
  marks    : List (Nat × Nat)
  slots    : List (Nat × Nat)
  fracs    : List (Nat × Bool × List Nat)
  stations : List (Nat × Nat)
  hists    : List (Nat × HistVals)
  deriving DecidableEq, Repr

/-- Fixed records of `n` bytes. -/
def fixedRecs (n k : Nat) (bs : List Byte) : Option (List (List Byte) × List Byte) :=
  if n * k ≤ bs.length then some ((List.range k).map fun i => slice bs (n * i) n, bs.drop (n * k)) else none

/-- The histogram section, to the end of the stream. -/
def unHists : Nat → List Byte → Option (List (Nat × HistVals))
  | 0, bs => if bs = [] then some [] else none
  | n + 1, bs =>
    if bs = [] then some []
    else if bs.length < 41 then none
    else match unChanges [[64, 96]] (bs.drop 40) with
      | some (cs, r) => match unHists n r with
        | some hs => some ((field bs 0 1, ⟨field bs 8 8, field bs 16 8, field bs 24 8, field bs 32 8, cs.getD 0 0, cs.getD 1 0⟩) :: hs)
        | none => none
      | none => none

/-- A mark of a counter: 1 reassigned, 2 failed, 3 poisoned; the others are reserved (R150). -/
def markOk (m : List Byte) : Bool := decide (1 ≤ bits (fromLe m) 15 12) && decide (bits (fromLe m) 15 12 ≤ 3)

/-- Decode the stream of a Tally (R150); none when it is malformed (R5, R102): a full one lists every counter. -/
def tallyParse (kind : Nat) (bs : List Byte) : Option TallyVals :=
  let c := field bs 0 2
  let listed := if kind = 0 then List.range c else (List.range c).map fun i => field bs (2 + 2 * i) 2
  let r := bs.drop (2 + if kind = 0 then 0 else 2 * c)
  if kind = 0 ∧ c ≠ 4096 then none
  else match unChanges (widths c 64) r with
  | none => none
  | some (cs, r) => match fixedRecs 2 (field r 0 2) (r.drop 2) with
    | none => none
    | some (ms, r) =>
      let e := field r 0 1
      if ms.all markOk = false then none
      else match unChanges (widths (4 * e) 64) (r.drop 1) with
      | none => none
      | some (ss, r) => match fixedRecs 10 e r with
        | none => none
        | some (fs, r) =>
          let s := field r 0 2
          match unChanges (widths s 32) (r.drop 2) with
          | none => none
          | some (os, r) => match fixedRecs 12 s r with
            | none => none
            | some (st, r) => match (if kind = 0 then unHists 257 r else if r = [] then some [] else none) with
              | none => none
              | some hs => some
                { counters := listed.zip cs,
                  marks := ms.map fun m => (bits (fromLe m) 11 0, bits (fromLe m) 15 12),
                  slots := (fs.flatMap fun f => (List.range 4).map fun q => 4 * field f 0 1 + q).zip ss,
                  fracs := fs.map fun f => (field f 0 1, bit (field f 1 1) 0, (List.range 4).map fun q => field f (2 + 2 * q) 2),
                  stations := (st.map fun x => field x 0 1).zip os,
                  hists := hs }

/-! ### Absolute values -/

/-- Widths of the sections of an image: counter, slot counter, station, sample count, sum. -/
def sectBits (s : Nat) : Nat := [64, 64, 32, 64, 96].getD s 64

/-- The items of a Tally by section, as changes. -/
def TallyVals.items (v : TallyVals) : List (Nat × Nat × Nat) :=
  (v.counters.map fun e => (0, e.1, e.2)) ++ (v.slots.map fun e => (1, e.1, e.2)) ++ (v.stations.map fun e => (2, e.1, e.2))
    ++ (v.hists.map fun e => (3, e.1, e.2.count)) ++ v.hists.map fun e => (4, e.1, e.2.sum)

/-- The absolute values of a Tally's items against its reference (R101). -/
def absolutes (ref : RefVals) (v : TallyVals) : List (Nat × Nat × Nat) :=
  v.items.map fun e => (e.1, e.2.1, (Cells.get 0 (ref.sects.getD e.1 []) e.2.1 + e.2.2) % 2 ^ sectBits e.1)

/-- The absolute bins of a Tally's histograms against its reference (R151). -/
def absoluteBins (ref : RefVals) (v : TallyVals) (hs : List (Nat × List Nat)) : List (Nat × List Nat) :=
  v.hists.map fun e =>
    let old := Cells.get (List.replicate 64 0) ref.bins e.1
    let ch := match hs.find? fun h => decide (h.1 = e.1) with
      | some h => h.2
      | none => List.replicate 64 0
    (e.1, (old.zip ch).map fun p => (p.1 + p.2) % 2 ^ 40)

/-- The reference that a full Tally's values can be. -/
def refOf (seq : Word) (abs : List (Nat × Nat × Nat)) (bins : List (Nat × List Nat)) : RefVals :=
  { seq := seq,
    sects := (List.range 5).map fun s => (abs.filter fun e => decide (e.1 = s)).foldl (fun m e => Cells.set 0 m e.2.1 e.2.2) [],
    bins := bins.foldl (fun m e => Cells.insert m e.1 e.2) [] }

/-! ### Images and samples (R228) -/

/-- Counters that give no sample: marked failed or poisoned. -/
def TallyVals.dead (v : TallyVals) : List Nat := (v.marks.filter fun m => decide (m.2 = 2) || decide (m.2 = 3)).map Prod.fst

def LeafRec.item? (r : LeafRec) (s k : Nat) : Option ImgItem := ((r.image.getD s []).find? fun e => decide (e.1 = k)).map Prod.snd

/-- The changes of a Tally against an image that is held: section, item, change and interval. -/
def imageChanges (r : LeafRec) (at' : Nat) (abs : List (Nat × Nat × Nat)) : List (Nat × Nat × Nat × Nat) :=
  abs.filterMap fun e => match LeafRec.item? r e.1 e.2.1 with
    | some i => if i.at' < at' then some (e.1, e.2.1, (e.2.2 + 2 ^ sectBits e.1 - i.val) % 2 ^ sectBits e.1, at' - i.at') else none
    | none => none

/-- The change and interval of an item. -/
def changeAt (cs : List (Nat × Nat × Nat × Nat)) (s k : Nat) : Option (Nat × Nat) :=
  (cs.find? fun c => decide (c.1 = s) && decide (c.2.1 = k)).map fun c => (c.2.2.1, c.2.2.2)

/-- The sample of a stream (table "Stream kinds"), before its clamp. `cnt` gives the sample-count change that kinds 4 and 5 test. -/
def sampleOf (v : TallyVals) (cs : List (Nat × Nat × Nat × Nat)) (cnt : Nat → Option Nat) (kind item : Nat) : Option Int :=
  match kind with
  | 0 => (changeAt cs 0 item).bind fun c => if c.2 = 0 then none else some ((c.1 * 65536 * 1000 / c.2 : Nat) : Int)
  | 1 => (changeAt cs 0 item).map fun c => ((c.1 * 65536 : Nat) : Int)
  | 2 => match v.fracs.find? fun f => decide (f.1 = item / 4) with
    | some f => if f.2.1 then none else some ((f.2.2.getD (item % 4) 0 : Nat) : Int)
    | none => none
  | 3 => match changeAt cs 3 item, changeAt cs 4 item with
    | some c, some s => if c.1 = 0 then none else some ((s.1 * 65536 / c.1 : Nat) : Int)
    | _, _ => none
  | 4 => match v.hists.find? fun h => decide (h.1 = item), cnt item with
    | some h, some n => if n = 0 then none else some ((h.2.min * 65536 : Nat) : Int)
    | _, _ => none
  | 5 => match v.hists.find? fun h => decide (h.1 = item), cnt item with
    | some h, some n => if n = 0 then none else some ((h.2.max * 65536 : Nat) : Int)
    | _, _ => none
  | 6 => (changeAt cs 2 item).map fun c => ((c.1 * 65536 : Nat) : Int)
  | _ => none

/-- The samples of a Tally for the streams of its die. -/
def Tervon.samplesOf (t : Tervon) (d : Did) (f : Nat → Nat → Option Int) : List StreamSample :=
  (Tervon.streamsOf t d).filterMap fun e => match f e.2.kind.toNat e.2.item.toNat with
    | some x => some { idx := e.1, kind := e.2.kind.toNat, item := e.2.item.toNat, x := satS 64 x, clamped := decide (satS 64 x ≠ x) }
    | none => none

/-- An image takes items. -/
def putItems (image : List (Cells ImgItem)) (abs : List (Nat × Nat × Nat)) (at' : Nat) (seq : Word) : List (Cells ImgItem) :=
  abs.foldl (fun im e =>
    let m := im.getD e.1 []
    match m.find? fun k => decide (k.1 = e.2.1) with
    | some (_, i) => if at' < i.at' then im else setAt im e.1 (Cells.insert m e.2.1 ⟨e.2.2, at', seq⟩)
    | none => setAt im e.1 (Cells.insert m e.2.1 ⟨e.2.2, at', seq⟩)) image

/-- Items changed together: each is sent once in the next mirror period (R353). -/
def Tervon.touchImage (t : Tervon) (d : Did) (items : List (Nat × Nat × Nat)) (at' : Nat) (seq : Word) : Tervon :=
  if (t.mir.unmirrored && t.mir.resend.isNone) ∨ items = [] then t
  else
    let keys := items.map fun e => (e.1, e.2.1)
    let keep := t.mir.dirty.filter fun k => match k with
      | .image d' s i _ _ _ => !(decide (d' = d) && keys.contains (s.toNat, i.toNat))
      | _ => true
    let new := items.map fun e => MirrorItem.image d (BitVec.ofNat 8 e.1) (BitVec.ofNat 16 e.2.1) (BitVec.ofNat 96 e.2.2) (BitVec.ofNat 64 at') seq
    { t with mir.dirty := keep ++ new, mir.dirtySince := if t.mir.dirty = [] then Tervon.now t else t.mir.dirtySince }

/-- The bins of a histogram's interval as reduction elements: the change, and bit 63 where the leaf's bin holds 2^40 - 1 (R81, R244). -/
def binElems (new old : List Nat) : List Nat :=
  (new.zip old).map fun p => (p.1 + 2 ^ 40 - p.2) % 2 ^ 40 + (if p.1 = 2 ^ 40 - 1 then 2 ^ 63 else 0)

/-- What a Tally gives to reductions and Gleaner (R245). -/
def dieTallyOf (d : Did) (at' kind : Nat) (epochOk applied : Bool) (now : Nat) (v : TallyVals) (cs : List (Nat × Nat × Nat × Nat)) (bins : List (Nat × List Nat)) : DieTally :=
  let sect (s : Nat) : Cells Nat := (cs.filter fun c => decide (c.1 = s)).map fun c => (c.2.1, c.2.2.1)
  { did := d, instant := at', kind := kind, epochOk := epochOk, applied := applied, at' := now, counters := sect 0, slots := sect 1, stations := sect 2,
    hists := v.hists.filterMap fun h => match bins.find? fun b => decide (b.1 = h.1), changeAt cs 3 h.1, changeAt cs 4 h.1 with
      | some b, some c, some s => some (h.1, b.2 ++ [c.1, s.1, h.2.min, h.2.minAt, h.2.max, h.2.maxAt])
      | _, _, _ => none }

/-! ### The watermark -/

/-- M advances to an instant (R235, R236): the samples that waited apply, the aging sweep runs, and the reductions and classes of mode on go on. -/
def Tervon.wmAdvance (t : Tervon) (i : Nat) : Tervon :=
  if i ≤ t.str.wm then t
  else
    let due := t.str.waiting.filter fun h => decide (h.instant ≤ i)
    let t := { t with str.wm := i, str.waiting := t.str.waiting.filter fun h => !decide (h.instant ≤ i) }
    let t := due.foldl Tervon.applySamples t
    let t := if Tervon.modeAt t i then Tervon.sweep t i false else t
    let is := (Tervon.instants t).filter fun k => decide (k ≤ i) && Tervon.modeAt t k
    Tervon.handResults (Tervon.glnWatermark (is.foldl Tervon.formOwn t))

/-- Every admitted leaf whose lease is held, the internal leaf among them, has given its Tally of an instant, or marked it missing (R235, R255;
log entry 81). -/
def Tervon.wmSettled (t : Tervon) (i : Nat) : Bool :=
  (Tervon.admittedHeld t ++ (if (Tervon.lease t ileafKey).held then [ileafKey] else [])).all fun k => (Tervon.leafRec t (Tervon.keyDid t k)).done.contains i

/-- A leaf has settled an instant. -/
def Tervon.settle (t : Tervon) (d : Did) (i : Nat) : Tervon :=
  let r := Tervon.leafRec t d
  let t := Tervon.setLeafRec t d { r with done := (i :: r.done.filter fun k => decide (k ≠ i)).take 64 }
  if Tervon.wmSettled t i then Tervon.wmAdvance t i else t

/-- WATERMARK_LAG_EXPIRY (R235). -/
def Tervon.wmLag (t : Tervon) (i : Nat) : Tervon := if i + t.str.lag * 1000 ≤ Tervon.now t then Tervon.wmAdvance t i else t

/-! ### Frames -/

/-- TALLY_FRAME (R149): its first frame starts the reception anew. -/
def Tervon.tallyFrame (key : Nat) (epoch : Half) (port : Nat) (h : TallyHdr) (bs : List Byte) (t : Tervon) : Tervon :=
  let d := Tervon.keyDid t key
  let r := Tervon.leafRec t d
  let fresh : Asm := { Asm.reset with seq := h.seq, kind := h.kind, flags := h.flags, refSeq := h.refSeq, port := port, epoch := epoch }
  let a := if h.index = 0 then fresh else (r.asm.find? fun a => decide (a.seq = h.seq)).getD fresh
  let a := { a with parts := a.parts ++ [(h.offset.toNat, bs)], count := a.count + 1 }
  Tervon.setLeafRec t d { r with asm := (r.asm.filter fun k => decide (k.seq ≠ h.seq)) ++ [a] }

/-- HIST_FRAME (R151). -/
def Tervon.histFrame (key : Nat) (h : HistHdr) (bs : List Byte) (t : Tervon) : Tervon :=
  let d := Tervon.keyDid t key
  let r := Tervon.leafRec t d
  match r.asm.find? fun a => decide (a.seq = h.seq) with
  | some a => Tervon.setLeafRec t d { r with asm := (r.asm.filter fun k => decide (k.seq ≠ h.seq)) ++ [{ a with hists := a.hists ++ [(h.histogram.toNat, h.absolute, bs)] }] }
  | none => t

/-- The stream of a reception, in order of offset (R149). -/
def Asm.stream (a : Asm) (n : Nat) : List Byte :=
  (a.parts.foldl (fun (bs : List Byte) p => if p.1 = bs.length then bs ++ p.2 else bs) []).take n

/-- The changes of a reception's HIST frames; none when one is malformed (R102, R151). -/
def Asm.bins (a : Asm) : Option (List (Nat × List Nat)) :=
  a.hists.foldl (fun (m : Option (List (Nat × List Nat))) h => match m, unChanges (widths 64 40) h.2.2 with
    | some l, some (cs, []) => some (l ++ [(h.1, cs)])
    | _, _ => none) (some [])

/-- A Tally that holds, decoded: its values, its reference and the changes of its bins. -/
def LeafRec.accept (r : LeafRec) (a : Asm) (p : TallyEndP) : Option (TallyVals × RefVals × List (Nat × List Nat)) :=
  let bs := Asm.stream a p.streamBytes.toNat
  if a.count ≠ p.tallyFrames.toNat ∨ a.hists.length ≠ p.histFrames.toNat ∨ bs.length ≠ p.streamBytes.toNat ∨ crc32c bs ≠ p.streamCrc then none
  else
    let ref := if p.flags.getLsbD 0 then some RefVals.reset else r.refs.find? fun k => decide (k.seq = p.refSeq)
    match tallyParse p.kind.toNat bs, ref, Asm.bins a with
    | some v, some x, some hs => some (v, x, hs)
    | _, _, _ => none

/-- The serial of a leaf as its last LEASE_GRANT gave it (R228). -/
def Tervon.leafSerial (t : Tervon) (key : Nat) : DWord := (Tervon.lease t key).serial

/-- A Tally is complete (R228, R229, R234, R236, R245). -/
def Tervon.tallyComplete (t : Tervon) (key : Nat) (p : TallyEndP) (epoch : Half) (v : TallyVals) (ref : RefVals) (hs : List (Nat × List Nat)) : Tervon :=
  let d := Tervon.keyDid t key
  let r := Tervon.leafRec t d
  let i := p.instant.toNat
  let disc := p.flags.getLsbD 1
  let full := decide (p.kind = 0)
  let serial := Tervon.leafSerial t key
  let held := decide (r.primed = some serial)
  let abs := absolutes ref v
  let bins := absoluteBins ref v hs
  let live := abs.filter fun e => !(decide (e.1 = 0) && v.dead.contains e.2.1)
  let stale := match r.last with
    | some q => held && !serialLt q p.seq
    | none => false
  let cs := if held && !disc && !stale then imageChanges r i live else []
  let oldBins := if held && !disc && !stale then r.bins else []
  let ivl := bins.filterMap fun b => (oldBins.find? fun o => decide (o.1 = b.1)).map fun o => (b.1, binElems b.2 o.2)
  let cnt (h : Nat) : Option Nat := if disc then (abs.find? fun e => decide (e.1 = 3) && decide (e.2.1 = h)).map fun e => e.2.2 else (changeAt cs 3 h).map Prod.fst
  let ss := if stale then [] else Tervon.samplesOf t d (sampleOf v cs cnt)
  let lost := disc || (match r.last with
    | some q => decide (p.seq ≠ q + 1)
    | none => false)
  let refs := if full then refOf p.seq abs bins :: (if p.flags.getLsbD 0 then r.refs.take 8 else r.refs.filter fun k => serialLe p.refSeq k.seq) else r.refs
  let others := if disc then ((Tervon.streamsOf t d).filter fun e => !(ss.any fun s => decide (s.idx = e.1))).map fun e => (e.1, 1) else []
  let base := if held && !disc then r.image else LeafRec.reset.image
  let r' := { r with image := putItems base live i p.seq, primed := some serial,
                     bins := if full && !stale then bins.foldl (fun m b => Cells.insert m b.1 b.2) oldBins else r.bins,
                     refs := refs, last := some (match r.last with
                       | some q => if stale then q else p.seq
                       | none => p.seq), gapped := r.gapped ++ others }
  let t := Tervon.setLeafRec t d r'
  let t := if key = ileafKey then t else Tervon.touchImage t d live i p.seq
  let on := Tervon.modeAt t i
  let late := on && decide (i ≤ t.str.wm)
  let h : HeldTally := { did := d, instant := i, seq := p.seq, lost := lost, samples := ss, reassigned := (v.marks.filter fun m => decide (m.2 = 1)).map Prod.fst }
  let t := if stale then { t with str.stale := satAdd32 t.str.stale (Tervon.samplesOf t d fun k n => sampleOf v (live.map fun e => (e.1, e.2.1, 1, 1)) (fun _ => some 1) k n).length }
    else if late then Tervon.passOver t h
    else if on then { t with str.waiting := insertHeld h t.str.waiting }
    else Tervon.applySamples t h
  let e := Tervon.lease t key
  let dt := dieTallyOf d i p.kind.toNat (e.held && decide (e.epoch = epoch) && decide (e.epochAt ≤ i)) (!late && !stale) (Tervon.now t) v cs ivl
  Tervon.settle (Tervon.handResults (Tervon.glnTally (Tervon.redTally t dt) dt)) d i

/-- A new holder goes on to the next snapshot that it fetches again, at most the 4 that a leaf holds (R97, R98; log entry 38). -/
def Tervon.refetchNext (t : Tervon) (key : Nat) (q : Word) : Tervon :=
  let d := Tervon.keyDid t key
  let r := Tervon.leafRec t d
  match r.refetch with
  | [(k, n)] =>
    if k ≠ q then t
    else if 4 ≤ n then Tervon.setLeafRec t d { r with refetch := [] }
    else Tervon.writeLeaf (Tervon.setLeafRec t d { r with refetch := [(q + 1, n + 1)] }) key 0x168 (le 4 (q + 1).toNat)
  | _ => t

/-- TALLY_END_FRAME (R152, R234): a missing instant, a re-fetch, or a complete Tally, which is acknowledged. -/
def Tervon.tallyEnd (key : Nat) (epoch : Half) (p : TallyEndP) (t : Tervon) : Tervon :=
  let d := Tervon.keyDid t key
  if p.flags.getLsbD 2 then Tervon.settle t d p.instant.toNat
  else
    let r := Tervon.leafRec t d
    let a := r.asm.find? fun a => decide (a.seq = p.seq)
    let r := { r with asm := r.asm.filter fun k => decide (k.seq ≠ p.seq) }
    let t := Tervon.setLeafRec t d r
    match a.bind fun a => LeafRec.accept r a p with
    | some (v, ref, hs) =>
      let t := Tervon.writeLeaf t key 0x164 (le 4 p.seq.toNat)
      Tervon.refetchNext (Tervon.tallyComplete t key p epoch v ref hs) key p.seq
    | none => Tervon.writeLeaf t key 0x168 (le 4 p.seq.toNat)

end Sys2Proof.Machine
end

