-- ==== Sys2Proof/Machine/TvTime.lean ====
section
/-! DEFINITION. Time on the Tervon: the root and its inputs (R33 to R38), distribution over the peer ports (R39, R40, R462), ring calibration
(R43 to R45), TIME_ADJUST (R388) and software PTP (R60, R61). -/

namespace Sys2Proof.Machine

def Tervon.src (t : Tervon) (k : Nat) : Source := TimeDom.source t.time k
def Tervon.setSrc (t : Tervon) (k : Nat) (s : Source) : Tervon := { t with time := TimeDom.setSource t.time k s }

/-- A change of the Tervon's class is reported (R390, TIME_EVENT kind 5). -/
def Tervon.noteClass (t : Tervon) : Tervon :=
  let c := Tervon.tq t
  if c = t.tt.lastClass then t else Tervon.timeEvent { t with tt.lastClass := c } 5 0 0 c.toNat 0 0 0

/-! ### Acting as master -/

/-- The hop count that the Tervon sends: 0 from the root, and otherwise 1 more than the last accepted (R39). -/
def Tervon.hopOut (t : Tervon) : Byte := if TimeDom.isRoot t.time then 0 else (t.tt.hop.getD 0) + 1

/-- The right to act as master on a peer port (R462). -/
def Tervon.peerMaster (t : Tervon) : Bool := t.time.everSet && (TimeDom.isRoot t.time || t.tt.hop.isSome)

/-- A lane constant of a peer port's lowest active lane, in ps or 0.01 ps/°C (R40, TV_LANE_CONST). -/
def Tervon.laneWord (t : Tervon) (k : Nat) : Word := Cells.get 0 t.tt.laneConst (3 * (k - 9) + LinkPort.activeLane (Tervon.port t k))
def Tervon.laneA0 (t : Tervon) (k : Nat) : Half := (Tervon.laneWord t k).setWidth 16

/-- One exchange as master on a port: TIME_SYNC and TIME_FOLLOW (R142, R145, R462). -/
def Tervon.startExchange (t : Tervon) (k : Nat) : Tervon :=
  let key := if k < 8 then 16 + k else k - 9
  let s := Tervon.src t key
  let t := Tervon.setSrc t key { s with txSeq := s.txSeq + 1 }
  let dst := if k < 8 then (if Tervon.isB t then 14 else 15) else 0
  let now := TimeDom.stamp t.time
  let me := if k < 8 then Tervon.endCode t else 0
  let y := Payload.timeSync { origin := now.ns, seq := s.txSeq, tq := Tervon.tq t, hop := Tervon.hopOut t }
  let f := Payload.timeFollow { t1 := now, seq := s.txSeq, corr := 0, a0 := if k < 8 then 0 else Tervon.laneA0 t k }
  Tervon.send (Tervon.send t k (mkFrame dst me 0 t.boot.did y)) k (mkFrame dst me 0 t.boot.did f)

/-- The return to the primary port at an exchange period (R39). -/
def Tervon.switchBack (t : Tervon) : Tervon :=
  let p := TimeDom.primary t.time
  if t.time.steerSecondary && Tervon.linkUp? t (9 + p) && decide (64 ≤ (Tervon.src t p).goodRun) then { t with time.steerSecondary := false } else t

/-- EXCHANGE_PERIOD at a boundary of 125 µs of the Tervon's own time (R39, R462). -/
def Tervon.exchangePeriod (t : Tervon) : Tervon :=
  let n := Tervon.now t / 125000
  if n ≤ t.time.lastPeriod then t
  else
    let t := Tervon.switchBack { t with time.lastPeriod := n }
    if !t.time.everSet then t
    else
      let go (t : Tervon) (k : Nat) : Tervon := if Tervon.linkUp? t k then Tervon.startExchange t k else t
      let t := (List.range 8).foldl go t
      if Tervon.peerMaster t then [9, 10, 11, 12].foldl go t else t

/-! ### Steering from a peer -/

/-- A peer port that this Tervon exchanges with as the steering part (R39): the source number, or none. -/
def Tervon.upstream (t : Tervon) (rx : Rx) : Option Nat :=
  match rx.port with
  | .tv k =>
    if 9 ≤ k ∧ TimeDom.isRoot t.time = false ∧ (k - 9 = TimeDom.primary t.time ∨ k - 9 = TimeDom.secondary t.time) then some (k - 9) else none
  | _ => none

/-- A hop count of 15 or more is rejected, counted, and reported once per port until an exchange is accepted (R39). -/
def Tervon.rejectHop (t : Tervon) (k : Nat) : Tervon :=
  let told := (Tervon.src t k).hopRejected
  let t := { t with time := TimeDom.discard t.time k false }
  if told then t
  else
    let t := Tervon.setSrc t k { Tervon.src t k with hopRejected := true }
    Tervon.timeEvent t 2 (9 + k) 0 (Tervon.tq t).toNat 0 0 0

/-- TIME_SYNC at a Tervon (R39, R142). -/
def Tervon.timeSync (t : Tervon) (rx : Rx) (p : TimeSyncP) (t2 : Stamp) : Tervon :=
  match Tervon.upstream t rx with
  | some k =>
    if 15 ≤ p.hop.toNat then Tervon.rejectHop t k
    else Tervon.setSrc t k { Tervon.src t k with sync := some (p, t2, 0), follow := none, t3 := none, hit := Rx.spoiled rx }
  | none => t

/-- TIME_FOLLOW at a Tervon: t1 is held and one TIME_DELAY_REQ goes back (R462). -/
def Tervon.timeFollow (t : Tervon) (rx : Rx) (p : TimeFollowP) (t3 : Stamp) : Tervon :=
  match Tervon.upstream t rx with
  | some k =>
    let s := Tervon.src t k
    match s.sync with
    | some (y, _, _) =>
      if y.seq = p.seq then
        let t := Tervon.setSrc t k { s with follow := some p, t3 := some t3, reqSeq := s.seq, seq := s.seq + 1, hit := s.hit || Rx.spoiled rx }
        Tervon.send t (9 + k) (mkFrame 0 0 0 t.boot.did (.delayReq { seq := s.seq, corr := 0 }))
      else t
    | none => t
  | none => t

/-- TIME_DELAY_REQ at a Tervon: the master answers (R145, R462). -/
def Tervon.timeDelayReq (t : Tervon) (rx : Rx) (p : DelayReqP) (t4 : Stamp) : Tervon :=
  let r (pos : Byte) : Payload := .delayResp { t4 := t4, seq := p.seq, pos := pos, tq := Tervon.tq t, corr := p.corr, did := rx.hdr.srcDid }
  match rx.port with
  | .tv k =>
    if k < 8 then
      if t.time.everSet then Tervon.sendLeaf t k rx.hdr.src.toNat 0 (r (rx.hdr.src.setWidth 8)) else t
    else if 9 ≤ k ∧ Tervon.peerMaster t = true then Tervon.send t k (mkFrame 0 0 0 t.boot.did (r 0xFF))
    else t
  | _ => t

/-- The asymmetry of a peer port, ns (R40): c and a0 in ps, a1 in 0.01 ps/°C, the temperature in 1/16 °C (R86). -/
def Tervon.asymmetry (t : Tervon) (k : Nat) (a0Far : Half) (temp : Int) : Rat :=
  let w := Tervon.laneWord t (9 + k)
  let c : Rat := (Cells.get 0 t.tt.asym k).toInt
  let a0 : Rat := (Tervon.laneA0 t (9 + k)).toInt
  let a1 : Rat := ((w >>> 16).setWidth 16 : Half).toInt
  (c + (a0 - (a0Far.toInt : Rat)) / 2 + a1 * ((temp : Rat) / 16 - 25) / 100) / 1000

/-- The exchange that a TIME_DELAY_RESP completes: delay, offset and the TIME_SYNC. -/
def Tervon.exchange (t : Tervon) (k : Nat) (p : DelayRespP) (temp : Int) : Option (Rat × Rat × TimeSyncP) :=
  let s := Tervon.src t k
  match s.sync, s.follow, s.t3 with
  | some (y, t2, _), some f, some t3 =>
    if p.seq = s.reqSeq then
      let v := exchangeValues (Stamp.rat f.t1) (Stamp.rat t2) (Stamp.rat t3) (Stamp.rat p.t4) (corrRat f.corr) (corrRat p.corr)
      some (v.1, v.2 + Tervon.asymmetry t k f.a0 temp, y)
    else none
  | _, _, _ => none

/-- An accepted exchange with the port that the Tervon steers from: its class and hop count, and one servo update (R32, R39, R49). -/
def Tervon.steer (t : Tervon) (k : Nat) (off : Rat) (y : TimeSyncP) : Tervon :=
  if k = TimeDom.steerPort t.time then
    let up := Config.roundUp t.free
    let t := { t with free := t.free + 1, tt.hop := some y.hop, time.srcCls := y.tq }
    { t with time := TimeDom.servo t.time (1 / 4) up off }
  else t

/-- TIME_DELAY_RESP at a Tervon (R39, R47 to R49, R52). -/
def Tervon.timeDelayResp (t : Tervon) (rx : Rx) (p : DelayRespP) (temp : Int) : Tervon :=
  match Tervon.upstream t rx with
  | some k =>
    match Tervon.exchange t k p temp with
    | none => t
    | some (delay, off, y) =>
      let s := Tervon.src t k
      if s.hit || Rx.spoiled rx then { t with time := TimeDom.discard t.time k true }
      else if !Source.delayOk s delay then { t with time := TimeDom.discard t.time k false }
      else if TimeDom.holdoverRejects t.time y.tq off then { t with time := TimeDom.discard t.time k false }
      else Tervon.steer { t with time := TimeDom.accept t.time k off delay y.tq y.hop } k off y
  | none => t

/-- HOLDOVER_TIMEOUT: a root enters holdover under R33 and R35 alone. -/
def Tervon.holdoverTimeout (t : Tervon) : Tervon := if TimeDom.isRoot t.time then t else { t with time := TimeDom.holdoverTimeout t.time }

/-- PRIMARY_LINK_FAIL (R39): frequency and phase move to the secondary port, in holdover until a good exchange there. -/
def Tervon.primaryFail (t : Tervon) : Tervon :=
  let p := TimeDom.primary t.time
  if TimeDom.isRoot t.time || Tervon.linkUp? t (9 + p) then t
  else
    let t := Tervon.setSrc t p { Tervon.src t p with goodRun := 0 }
    if t.time.steerSecondary then t else { t with time := TimeDom.enterHoldover { t.time with steerSecondary := true } }

/-! ### The root -/

/-- Set the count to a whole second at an instant of the present time: a step, and time becomes valid (R34, R37). -/
def Tervon.setSecond (t : Tervon) (sec : DWord) (atNs : Rat) : Tervon :=
  let d := (sec.toNat : Rat) * 1000000000 - atNs
  { t with time := { TimeDom.stepBy t.time d with valid := true, root := { t.time.root with second := none } } }

/-- Both building inputs are qualified: holdover ends (R33, R52). -/
def TimeDom.requalify (d : TimeDom) : TimeDom := if d.root.ref10M && d.root.pps && d.valid then TimeDom.leaveHoldover d else d

/-- The root takes building input. -/
def Tervon.building (t : Tervon) : Bool := decide (TimeDom.src t.time = 1)

/-- Distance of an instant from the nearest whole second, ns. -/
def fromSecond (x : Rat) : Rat := x - ((roundEven (x / 1000000000) : Int) : Rat) * 1000000000

/-- PPS_IN_EDGE (R33, R34, R37). -/
def Tervon.ppsEdge (t : Tervon) (s : Stamp) : Tervon :=
  let r := t.time.root
  if Tervon.building t = false then t
  else if t.time.everSet ∧ 100 < |fromSecond (Stamp.rat s)| then { t with time.root := { r with ppsRejected := satAdd32 r.ppsRejected 1 } }
  else
    let t := { t with time.root := { r with pps := true, lastPps := Tervon.now t } }
    match r.second with
    | some sec =>
      if r.ref10M ∧ t.time.valid = false then
        let t := Tervon.setSecond t sec (Stamp.rat s)
        { t with time := TimeDom.requalify { t.time with root.lastPps := Tervon.now t } }
      else { t with time := TimeDom.requalify t.time }
    | none => { t with time := TimeDom.requalify t.time }

/-- REF10M_QUALIFIED (R33). -/
def Tervon.refGood (t : Tervon) : Tervon :=
  if Tervon.building t then { t with time := TimeDom.requalify { t.time with root.ref10M := true } } else t

/-- REF10M_DISQUALIFY (R33). -/
def Tervon.refBad (t : Tervon) : Tervon :=
  if Tervon.building t && t.time.root.ref10M then { t with time := TimeDom.enterHoldover { t.time with root.ref10M := false } } else t

/-- PPS_DISQUALIFY: three seconds without an accepted edge (R33). -/
def Tervon.ppsLost (t : Tervon) : Tervon :=
  if Tervon.building t && t.time.root.pps && decide (t.time.root.lastPps + 3000000000 ≤ Tervon.now t) then
    { t with time := TimeDom.enterHoldover { t.time with root.pps := false } }
  else t

/-- STEER_EXPIRY (R35): holdover counts from the end of the declared period. -/
def Tervon.steerExpiry (t : Tervon) : Tervon :=
  let r := t.time.root
  if TimeDom.src t.time = 2 ∧ r.steerCls.isSome ∧ r.steerUntil ≤ Tervon.now t ∧ t.time.holdover.isNone then
    let d := TimeDom.enterHoldover t.time
    { t with time := { d with holdover := some r.steerUntil } }
  else t

/-- PPS_OUT_EDGE (R38). -/
def Tervon.ppsOut (t : Tervon) : Tervon :=
  let s := Tervon.now t / 1000000000
  if s ≤ t.time.lastPpsOut then t
  else
    let c := Tervon.tq t
    let t := { t with time.lastPpsOut := s }
    if TimeDom.ppsOutEn t.time && decide (c ≠ 0) && decide (c ≠ 7) then Tervon.emit t (.pps s) else t

/-- A steer takes effect (R35, R50): the frequency is in parts of one. -/
def TimeDom.applySteer (d : TimeDom) (off : Rat) (freq : Option Rat) (cls : BitVec 4) (interval : Nat) : TimeDom :=
  let d := TimeDom.leaveHoldover (TimeDom.adjust d off freq)
  { d with root := { d.root with steerCls := some cls, steerUntil := TimeDom.ns d + 2 * interval * 1000000, kept := none } }

/-- TIME_ADJUST_SET_SECOND (R34, R36, R37, R51, R388). -/
def Tervon.adjustSecond (j : Job) (t : Tervon) : Tervon :=
  let sec : DWord := BitVec.ofNat 64 (Job.u64 j 48)
  if TimeDom.isRoot t.time = false then Tervon.complete t j 22
  else if t.time.valid then Tervon.complete t j 21
  else if Tervon.building t then Tervon.complete { t with time.root.second := some sec } j 0
  else
    let t := Tervon.setSecond t sec (TimeDom.ns t.time : Rat)
    let t := match t.time.root.kept with
      | some (off, f, c, i) => { t with time := TimeDom.applySteer t.time off f c i }
      | none => t
    Tervon.complete t j 0

/-- TIME_ADJUST_STEER (R35, R37, R388). -/
def Tervon.adjustSteer (j : Job) (t : Tervon) : Tervon :=
  let cls := Job.byte j 41
  let iv := Job.u32 j 44
  let off : Rat := ((BitVec.ofNat 64 (Job.u64 j 48)).toInt : Rat) / 65536
  let fr : Option Rat := if Job.byte j 60 % 2 = 1 then some (((BitVec.ofNat 32 (Job.u32 j 56)).toInt : Rat) / 65536 / 1000000) else none
  if (cls ≠ 3 ∧ cls ≠ 4) ∨ iv = 0 ∨ 64000 < iv then Tervon.complete t j 3
  else if TimeDom.src t.time ≠ 2 then Tervon.complete t j 22
  else if t.time.valid then Tervon.complete { t with time := TimeDom.applySteer t.time off fr (BitVec.ofNat 4 cls) iv } j 0
  else Tervon.complete { t with time.root.kept := some (off, fr, BitVec.ofNat 4 cls, iv) } j 0

/-- TIME_ADJUST_SEND_PTP (R60, R388): the message leaves unaltered. -/
def Tervon.adjustPtp (d : HostData) (j : Job) (t : Tervon) : Tervon :=
  let port := Job.byte j 41
  if 3 < port then Tervon.complete t j 3
  else if d.poisoned then Tervon.complete t j 25
  else Tervon.complete (Tervon.emit t (.ptp (9 + port) d.bytes)) j 0

/-! ### Software PTP -/

/-- SOFTWARE_PTP_TRANSMIT (R60). -/
def Tervon.ptpSent (t : Tervon) (id : Half) (port : BitVec 2) (s : Stamp) : Tervon :=
  if 32 ≤ t.tt.txq.length then { t with tt.txqDropped := satAdd32 t.tt.txqDropped 1 }
  else { t with tt.txq := t.tt.txq ++ [(id, port, Tervon.tq t, s)] }

/-- SOFTWARE_PTP_RECEIVE (R60). -/
def Tervon.ptpGot (t : Tervon) (id : Half) (port : BitVec 2) (s : Stamp) : Tervon :=
  Tervon.timeEvent t 4 (9 + port.toNat) 0 (Tervon.tq t).toNat id.toNat s.ns.toNat s.frac.toNat

/-- PTP_TXQ_ENTRY_READ: the oldest entry is latched (R442). -/
def Tervon.ptpLatch (t : Tervon) : Tervon := { t with tt.txqLatch := t.tt.txq.head? }

/-- PTP_TXQ_POP (R61, R442): the latched copy must show a valid entry. -/
def Tervon.ptpPop (t : Tervon) : Tervon := if t.tt.txqLatch.isSome then { t with tt.txq := t.tt.txq.drop 1, tt.txqLatch := none } else t

/-- The four ENTRY registers (R61). -/
def Tervon.ptpEntry (t : Tervon) : List Byte :=
  match t.tt.txqLatch with
  | some (id, p, c, s) => le 2 id.toNat ++ [BitVec.ofNat 8 (p.toNat + 4 * c.toNat), 0x80] ++ le 2 s.frac.toNat ++ le 8 s.ns.toNat ++ zeros 2
  | none => zeros 16

/-! ### Ring calibration -/

/-- The Tervon is pod-locked. -/
def Tervon.podLocked (t : Tervon) : Bool := decide (1 ≤ (Tervon.tq t).toNat) && decide ((Tervon.tq t).toNat ≤ 4)

/-- The buddy's last BUDDY_STATE says that it is pod-locked (R357). -/
def Tervon.buddyLocked (t : Tervon) : Bool :=
  match t.mir.buddy with
  | some b => b.flags.getLsbD 2
  | none => false

/-- Sums of the hop asymmetries up to each position and beyond it (R41): A_path and B_path. -/
def pathConstants (len : Nat) (hops : List Int) : List (Int × Int) :=
  (List.range len).map fun p => ((hops.take (p + 1)).sum, (hops.drop (p + 1)).sum)

/-- Write the path constants of one position into its leaf (R43). -/
def Tervon.writePath (t : Tervon) (ring pos : Nat) (c : Int × Int) : Tervon :=
  Tervon.writeLeaf t (posKey ring pos) 0x34 (le 4 (BitVec.ofInt 32 c.1).toNat ++ le 4 (BitVec.ofInt 32 c.2).toNat)

/-- Write the constants of every position of a ring. -/
def Tervon.writePaths (t : Tervon) (ring : Nat) : Tervon :=
  (List.range (Tervon.ringLen t ring)).foldl (fun t p => Tervon.writePath t ring p ((Tervon.ringEnd t ring).consts.getD p (0, 0))) t

/-- Mean of the differences of two lists, less the difference of the ends' own offsets: S_meas (R43). -/
def measuredTotal (d : CalData) (n : Nat) : Rat :=
  let a : Rat := ((d.thetaA.take n).sum : Int)
  let b : Rat := ((d.thetaB.take n).sum : Int)
  (a - b) / (n : Rat) - ((d.ownA - d.ownB : Int) : Rat)

/-- The hop asymmetries (R43): the PMA part of each hop and its share of the residual by channel delay. -/
def hopAsymmetries (d : CalData) (rho : Rat) (n : Nat) (up : Bool) : List Int :=
  let sumC : Rat := ((d.chan.take (n + 1)).sum : Nat)
  (List.range (n + 1)).map fun h =>
    let c : Rat := (d.chan.getD h 0 : Nat)
    let q : Rat := (d.asymPma.getD h 0 : Int) + (if sumC = 0 then 0 else rho * c / sumC)
    quantise up (q / 65536)

/-- The measurements that a calibration uses: end B's come in its CAL_REPORT when Tervon A calibrates (R43). -/
def Tervon.calData (t : Tervon) (ring : Nat) (d : CalData) : CalData :=
  match (Tervon.ringEnd t ring).report with
  | some r =>
    if Tervon.isB t then d
    else { d with thetaB := r.thetaB.map fun v => v.toInt, ownB := r.ownOffset.toInt,
                  chan := setAt d.chan (Tervon.ringLen t ring) r.channel.toInt.toNat }
  | none => d

/-- End B's measurements for Tervon A (R43, R357). -/
def calReportOf (ring len : Nat) (d : CalData) (n : Nat) : Payload :=
  .calReport { ring := BitVec.ofNat 8 ring, leaves := BitVec.ofNat 8 len, exchanges := BitVec.ofNat 32 n, ownOffset := BitVec.ofInt 64 d.ownB,
               channel := BitVec.ofNat 64 (d.chan.getD len 0), thetaB := d.thetaB.map fun v => BitVec.ofInt 64 v }

/-- RING_CALIBRATION_COMPLETE (R43, R44): Tervon B reports to a Tervon A that is pod-locked; the calibrating end forms the constants and writes
them, or fails. Times are in 2^-16 ns; 4 ns are 262,144. -/
def Tervon.calibrated (t : Tervon) (ring : Nat) (d : CalData) : Tervon :=
  let e := Tervon.ringEnd t ring
  let len := Tervon.ringLen t ring
  if 8 ≤ ring ∨ e.calRun.isNone ∨ Tervon.stewardHung t 1 = true then t
  else if Tervon.isB t ∧ Tervon.buddyLocked t then
    Tervon.sendBuddy (Tervon.setRingEnd t ring { e with calRun := none }) 0 0 (calReportOf ring len d 1024)
  else if Tervon.podLocked t = false then t
  else
    let d := Tervon.calData t ring d
    let rho := measuredTotal d len - (((d.asymPma.take (len + 1)).sum : Int) : Rat)
    let up := Config.roundUp t.free
    let t := { t with free := t.free + 1 }
    let r := quantise up (rho / 65536)
    let e := { e with calRun := none, report := none, rho := r }
    if 262144 < |rho| then Tervon.timeEvent (Tervon.setRingEnd t ring e) 3 ring 0 (Tervon.tq t).toNat 0 (intBits 64 r) 0
    else
      let hops := hopAsymmetries d rho len up
      let t := Tervon.setRingEnd t ring { e with cal := true, hops := hops, consts := pathConstants len hops }
      Tervon.writePaths { t with warm.hbmDirty := some (t.warm.hbmDirty.getD (Tervon.now t)), warm.norDirty := some (t.warm.norDirty.getD (Tervon.now t)) } ring

/-- CALIBRATION_RERUN (R45): the whole change of the residual goes to the hop whose lane changed. -/
def Tervon.calRerun (t : Tervon) (ring hop : Nat) (d : CalData) : Tervon :=
  let e := Tervon.ringEnd t ring
  let len := Tervon.ringLen t ring
  if 8 ≤ ring ∨ e.cal = false ∨ len < hop ∨ Tervon.stewardHung t 1 = true then t
  else if Tervon.isB t ∧ Tervon.buddyLocked t then
    Tervon.sendBuddy (Tervon.setRingEnd t ring { e with rerun := none }) 0 0 (calReportOf ring len d 256)
  else if Tervon.podLocked t = false then t
  else
    let d := Tervon.calData t ring d
    let rho := measuredTotal d len - (((d.asymPma.take (len + 1)).sum : Int) : Rat)
    let up := Config.roundUp t.free
    let t := { t with free := t.free + 1 }
    let r := quantise up (rho / 65536)
    if 262144 < |rho| then
      Tervon.timeEvent (Tervon.setRingEnd t ring { e with rerun := none, report := none, rho := r }) 3 ring 0 (Tervon.tq t).toNat 0 (intBits 64 r) 0
    else
      let hops := setAt e.hops hop (e.hops.getD hop 0 + (r - e.rho))
      let t := Tervon.setRingEnd t ring { e with rerun := none, report := none, rho := r, hops := hops, consts := pathConstants len hops }
      Tervon.writePaths { t with warm.hbmDirty := some (t.warm.hbmDirty.getD (Tervon.now t)), warm.norDirty := some (t.warm.norDirty.getD (Tervon.now t)) } ring

/-- CAL_REPORT (R43). -/
def Tervon.calReport (t : Tervon) (p : CalReportP) : Tervon :=
  let ring := p.ring.toNat
  if 8 ≤ ring ∨ Tervon.isB t then t else Tervon.setRingEnd t ring { Tervon.ringEnd t ring with report := some p }

end Sys2Proof.Machine
end

