-- ==== Sys2Proof/Machine/TvMirror.lean ====
section
/-! DEFINITION. Mirroring to the buddy (R353 to R355), BUDDY_STATE (R357, R358) and the bulk load of a replacement Tervon (R368). -/

namespace Sys2Proof.Machine

/-! ### Settings and conditions -/

/-- TV_ROSTER_CTL.mirror, ns. -/
def Tervon.mirrorNs (t : Tervon) : Nat := bits t.ros.ctl.toNat 31 16 * 1000
/-- TV_ROSTER_CTL.lag_lim, ns. -/
def Tervon.lagLimNs (t : Tervon) : Nat := bits t.ros.ctl.toNat 47 32 * 1000000

/-- Own time of the oldest change that no MIRROR_ACK covers (R354). -/
def Tervon.oldestChange (t : Tervon) : Option Nat :=
  ((t.mir.unacked.map Prod.snd) ++ (if t.mir.dirty = [] then [] else [t.mir.dirtySince])).min?

/-- The mirror lag has passed a time (R354). -/
def Tervon.lagOver (t : Tervon) (lim : Nat) : Bool :=
  match Tervon.oldestChange t with
  | some a => decide (a + lim < Tervon.now t)
  | none => false

/-- The last BUDDY_STATE is at most 1 ms old (R355). -/
def Tervon.buddyHeard (t : Tervon) : Bool := decide (Tervon.now t ≤ t.mir.lastState.getD 0 + 1000000)

/-- A sequence that another covers, in the wrapping order. -/
def covers (top s : Word) : Bool := decide ((top - s).toNat < 0x80000000)

/-! ### Sending -/

/-- Items per MIRROR frame: 28 on the buddy port, 27 in a ROUTED frame (R357). -/
def Tervon.mirrorChunk (t : Tervon) : Nat := if Tervon.linkUp? t 8 then 28 else 27

/-- Send one MIRROR frame; `since` is the time of its oldest change. -/
def Tervon.sendMirror (since : Nat) (t : Tervon) (items : List MirrorItem) : Tervon :=
  let s := t.mir.seq
  Tervon.sendBuddy { t with mir.seq := s + 1, mir.unacked := t.mir.unacked ++ [(s, since)] } 0 0 (.mirror s items)

/-- Send items in as many MIRROR frames as they need (R353). -/
def Tervon.sendMirrors (t : Tervon) (since : Nat) (items : List MirrorItem) : Tervon :=
  (chunks (Tervon.mirrorChunk t) items).foldl (Tervon.sendMirror since) t

/-- MIRROR_PERIOD (R353): the changed items go out; an unmirrored Tervon sends none (R355). -/
def Tervon.mirrorPeriod (t : Tervon) : Tervon :=
  if Tervon.committed t = false ∨ t.pwr.cellar = true ∨ Tervon.now t < t.mir.lastPeriod + Tervon.mirrorNs t then t
  else
    let t := { t with mir.lastPeriod := Tervon.now t }
    if t.mir.unmirrored ∨ Tervon.absent t (Tervon.x t) (Tervon.y t) = true then t
    else
      let items := t.mir.dirty
      Tervon.sendMirrors { t with mir.dirty := [] } t.mir.dirtySince items

/-! ### The full resend -/

/-- Ring positions whose leases the Tervon holds, by key (R348). -/
def Tervon.heldKeys (t : Tervon) : List Nat := (List.range 64).filter fun k => (Tervon.lease t k).held

/-- The items of a leaf's image (R228). -/
def LeafRec.items (r : LeafRec) (d : Did) : List MirrorItem :=
  (List.range 5).flatMap fun s => (r.image.getD s []).map fun e =>
    .image d (BitVec.ofNat 8 s) (BitVec.ofNat 16 e.1) (BitVec.ofNat 96 e.2.val) (BitVec.ofNat 64 e.2.at') e.2.seq

/-- Every item of every lease held on a ring (R353, R355). -/
def Tervon.allItems (t : Tervon) : List MirrorItem :=
  let keys := Tervon.heldKeys t
  let dids := keys.map (Tervon.keyDid t)
  (keys.map (Tervon.leaseItem t)) ++ (dids.flatMap fun d => LeafRec.items (Tervon.leafRec t d) d)
    ++ ((Tervon.streamView t).filter fun e => StreamEnt.defined e.2 && dids.contains e.2.did).map fun e => .stream (BitVec.ofNat 20 e.1) (StreamEnt.bytes e.2)

/-- The mark is cleared and MIRRORED raised (R355). -/
def Tervon.mirrored (t : Tervon) : Tervon := Tervon.rosterEvent { t with mir.unmirrored := false, mir.resend := none } 3 0 0 0 0 0 0 0

/-- When the cause of the mark has ended, every item of every lease held is sent (R355). -/
def Tervon.remirror (t : Tervon) : Tervon :=
  if t.mir.unmirrored = false ∨ t.mir.resend.isSome ∨ Tervon.linkUp? t 8 = false ∨ Tervon.buddyHeard t = false ∨ Tervon.lagOver t (Tervon.lagLimNs t) = true then t
  else
    match Tervon.allItems t with
    | [] => Tervon.mirrored t
    | items =>
      let t := Tervon.sendMirrors t (Tervon.now t) items
      { t with mir.resend := some (t.mir.seq - 1) }

/-! ### Receiving -/

/-- The Tervon holds the lease of a leaf (R353). -/
def Tervon.holdsDid (t : Tervon) (d : Did) : Bool :=
  match Tervon.keyOf t d with
  | some k => (Tervon.lease t k).held
  | none => false

/-- The leaf that an item belongs to. -/
def MirrorItem.owner : MirrorItem → Did
  | .stream _ e => (StreamEnt.parse (padTo 64 e)).did
  | .image d _ _ _ _ _ => d
  | .lease d _ _ => d

/-- One item of a leaf image (R228, R353). -/
def Tervon.applyImage (t : Tervon) (d : Did) (sect item value instant : Nat) (seq : Word) : Tervon :=
  let r := Tervon.leafRec t d
  let serial : DWord := match Tervon.keyOf t d with
    | some k => BitVec.ofNat 64 (RosterEnt.serial (Tervon.ent t k))
    | none => 0
  if 5 ≤ sect then t
  else Tervon.setLeafRec t d { r with image := putItems r.image [(sect, item, value)] instant seq, primed := some serial, last := some seq }

/-- Apply a mirrored item: stream entries go to the same indexes of the own table (R227, R353). -/
def Tervon.applyItem (t : Tervon) (i : MirrorItem) : Tervon :=
  if Tervon.holdsDid t (MirrorItem.owner i) then { t with mir.discarded := t.mir.discarded + 1 }
  else match i with
    | .stream idx e => Tervon.streamPut (Tervon.streamGet t idx.toNat).1 idx.toNat (StreamEnt.parse (padTo 64 e))
    | .image d sect item v inst seq => Tervon.applyImage t d sect.toNat item.toNat v.toNat inst.toNat seq
    | .lease d ep ex => { t with mir.leases := Cells.insert t.mir.leases d.toNat (ep.toNat, ex.toNat) }

/-- MIRROR (R353). -/
def Tervon.mirrorIn (seq : Word) (items : List MirrorItem) (t : Tervon) : Tervon :=
  let t := items.foldl Tervon.applyItem t
  let t := { t with mir.applied := some seq }
  Tervon.sendBuddy t 0 0 (.mirrorAck seq t.mir.discarded)

/-- MIRROR_ACK (R354, R355). -/
def Tervon.mirrorAcked (seq : Word) (t : Tervon) : Tervon :=
  let t := { t with mir.unacked := t.mir.unacked.filter fun e => !covers seq e.1 }
  match t.mir.resend with
  | some s => if covers seq s then Tervon.mirrored t else t
  | none => Tervon.remirror t

/-- MIRROR_LAG_LIMIT (R355). -/
def Tervon.mirrorLag (t : Tervon) : Tervon :=
  if (t.mir.unmirrored && t.mir.resend.isNone) || !Tervon.lagOver t (Tervon.lagLimNs t) then t else Tervon.markUnmirrored t

/-! ### BUDDY_STATE -/

/-- The state that the Tervon sends (R357). -/
def Tervon.ownState (t : Tervon) : BuddyStateP :=
  { time := BitVec.ofNat 64 (Tervon.now t), did := t.boot.did,
    flags := BitVec.ofNat 8 (b2n t.mir.unmirrored + 2 * b2n (Tervon.lagOver t 1000000) + 4 * b2n (Tervon.podLocked t)),
    lastSent := t.mir.seq - 1, lastApp := t.mir.applied.getD 0,
    leases := BitVec.ofNat 64 ((Tervon.heldKeys t).map (2 ^ ·)).sum }

/-- BUDDY_STATE_PERIOD (R357). -/
def Tervon.buddyPeriod (t : Tervon) : Tervon :=
  if Tervon.committed t = false ∨ Tervon.now t < t.mir.lastSent + 100000 then t
  else Tervon.sendBuddy { t with mir.lastSent := Tervon.now t } 0 0 (.buddyState (Tervon.ownState t))

/-- BUDDY_STATE (R355). -/
def Tervon.buddyIn (p : BuddyStateP) (t : Tervon) : Tervon :=
  Tervon.remirror { t with mir.lastState := some (Tervon.now t), mir.buddy := some p }

/-- BUDDY_STATE_ABSENT (R355). -/
def Tervon.buddyAbsent (t : Tervon) : Tervon :=
  if Tervon.committed t = false ∨ Tervon.buddyHeard t = true ∨ (t.mir.unmirrored && t.mir.resend.isNone) = true then t else Tervon.unmirror t

/-- BUDDY_SILENT (R358). -/
def Tervon.buddyQuiet (t : Tervon) : Tervon :=
  if Tervon.committed t = false ∨ t.mir.silent = true ∨ Tervon.now t ≤ t.mir.lastFrame.getD 0 + 1000000 then t
  else Tervon.rosterEvent { t with mir.silent := true } 4 0 0 0 0 0 0 0

/-- A pair frame acts when it comes from the buddy: by the buddy port, or ROUTED from the buddy's coordinate (R357). -/
def pairFrame (rx : Rx) (act : Tervon → Tervon) (t : Tervon) : Tervon :=
  match rx.port with
  | .tv 8 => act t
  | _ => t

/-! ### Bulk load (R368) -/

/-- STATE_LOAD: a chunk of a section is stored. -/
def Tervon.stateLoad (sect offset : Nat) (data : List Byte) (t : Tervon) : Tervon :=
  if 5 ≤ sect then t
  else { t with mir.loadedAt := none, mir.load := (t.mir.load.filter fun c => !(decide (c.1 = sect) && decide (c.2.1 = offset))) ++ [(sect, offset, data)] }

/-- Insert a chunk in the order of offsets. -/
def putChunk (c : Nat × List Byte) : List (Nat × List Byte) → List (Nat × List Byte)
  | [] => [c]
  | d :: ds => if c.1 < d.1 then c :: d :: ds else d :: putChunk c ds

/-- The chunks of a section by offset. -/
def Tervon.loadChunks (t : Tervon) (sect : Nat) : List (Nat × List Byte) :=
  ((t.mir.load.filter fun c => decide (c.1 = sect)).map Prod.snd).foldl (fun l c => putChunk c l) []

/-- The bytes of a section. -/
def Tervon.loadBytes (t : Tervon) (sect : Nat) : List Byte := (Tervon.loadChunks t sect).flatMap Prod.snd

/-- Records of a size that a chunk holds, each with its index in the section. -/
def chunkRecords (size : Nat) (c : Nat × List Byte) : List (Nat × List Byte) :=
  ((chunks size c.2).zipIdx).map fun e => (c.1 / size + e.2, e.1)

/-- The section's bytes joined where chunks follow each other: runs of consecutive bytes with their offsets. -/
def Tervon.loadRuns (t : Tervon) (sect : Nat) : List (Nat × List Byte) :=
  (Tervon.loadChunks t sect).foldl (fun acc c =>
    match acc.getLast? with
    | some r => if r.1 + r.2.length = c.1 then acc.dropLast ++ [(r.1, r.2 ++ c.2)] else acc ++ [c]
    | none => [c]) []

/-- A roster entry from its 192 bytes (R360). -/
def RosterEnt.parse (bs : List Byte) : RosterEnt :=
  let orNone (l : List Byte) : List Byte := if l.all (fun b => decide (b = 0)) then [] else l
  { RosterEnt.reset with state := field bs 0 1, attested := bit (field bs 1 1) 1, did := BitVec.ofNat 24 (field bs 4 3),
                         ident := orNone ((bs.drop 8).take 16), power := w32 (field bs 24 4), opTime := w32 (field bs 28 4),
                         key := orNone ((bs.drop 32).take 96), changed := field bs 128 8 }

/-- The sections loaded take effect: the route table in entries of 8 bytes, the roster in entries of 192 bytes, the stream table in entries of 64
bytes, each at its index; the calibration constants and the leaf images as the sender laid them out (log entry 57). -/
def Tervon.loadApply (t : Tervon) : Tervon :=
  let t := ((Tervon.loadRuns t 0).flatMap (chunkRecords 8)).foldl (fun t e => { t with ros.route := Cells.set 0 t.ros.route e.1 (w64 (field e.2 0 8)) }) t
  let t := ((Tervon.loadRuns t 1).flatMap (chunkRecords 192)).foldl (fun t e => if e.1 < 64 then Tervon.setEnt t e.1 (RosterEnt.parse e.2) else t) t
  let t := ((if Tervon.loadBytes t 2 = [] then [] else Config.bulkConsts (Tervon.loadBytes t 2))).foldl
    (fun t e => Tervon.setRingEnd t (e.1 % 8) { Tervon.ringEnd t (e.1 % 8) with consts := e.2 }) t
  let t := ((Tervon.loadRuns t 3).flatMap (chunkRecords 64)).foldl
    (fun t e => if e.1 < 1048576 then Tervon.streamPut (Tervon.streamGet t e.1).1 e.1 (StreamEnt.parse e.2) else t) t
  let t := (if Tervon.loadBytes t 4 = [] then [] else Config.bulkImages (Tervon.loadBytes t 4)).foldl
    (fun t e => Tervon.applyImage t e.1 e.2.1.toNat e.2.2.1.toNat e.2.2.2.1.toNat e.2.2.2.2.1.toNat e.2.2.2.2.2) t
  Tervon.markWarm t

/-- STATE_DONE (R368): the CRC-32C of all section data, in section order; a load that fails it starts again. -/
def Tervon.stateDone (bitmap total : Nat) (crc : Word) (t : Tervon) : Tervon :=
  let all := ((List.range 5).filter (bit bitmap)).flatMap (Tervon.loadBytes t)
  if all.length = total ∧ crc32c all = crc then
    { Tervon.loadApply t with mir.load := [], mir.loadedAt := some (Tervon.now t) }
  else { t with mir.load := [], mir.loadedAt := none }

end Sys2Proof.Machine
end

