-- ==== Sys2Proof/Machine/ExecLink.lean ====
section
/-! DEFINITION. The link layer and lanes of both parts (R129 to R135, R140, R164, R166, R430): one meaning per command. -/

namespace Sys2Proof.Machine

/-- SPARE_LANE_ALIGNED (R129). -/
def execSpareLaneAligned (port : PortId) (s : State) : Res :=
  portStep port (fun l => Leaf.onPort l port (LinkPort.laneAligned port)) (fun k t => Tervon.onPort t k (LinkPort.laneAligned port)) s

/-- LANE_READY (R129); a ring lane move starts the rerun of R45. -/
def execLaneReady (port : PortId) (lane : Nat) (s : State) : Res :=
  portStep port
    (fun l =>
      let (r, moved) := LinkPort.laneReady port (Leaf.port l port) lane (Leaf.now l)
      if Leaf.hasPort l port then (if moved then Leaf.laneChanged (Leaf.putLink l port r) port else Leaf.putLink l port r) else l)
    (fun k t => Tervon.laneReady t k lane) s

/-- LANE_SWAP (R129). -/
def execLaneSwap (port : PortId) (lane : Nat) (s : State) : Res :=
  portStep port (fun l => Leaf.modPort l port fun q => LinkPort.laneSwap q lane) (fun k t => Tervon.modPort t k fun q => LinkPort.laneSwap q lane) s

/-- DAMAGED_FRAME (R133). -/
def execDamagedFrame (port : PortId) (crcBad : Bool) (s : State) : Res :=
  portStep port (fun l => Leaf.onPort l port fun q => LinkPort.damaged port q crcBad) (fun k t => Tervon.onPort t k fun q => LinkPort.damaged port q crcBad) s

/-- ACK (R132). -/
def execAck (port : PortId) (seq : BitVec 12) (s : State) : Res :=
  portStep port (fun l => Leaf.modPort l port fun q => LinkPort.onAck q seq (Leaf.now l)) (fun k t => Tervon.modPort t k fun q => LinkPort.onAck q seq (Tervon.now t)) s

/-- NAK (R133). The replay starts from the oldest frame, whatever sequence is named. -/
def execNak (port : PortId) (_seq : BitVec 12) (s : State) : Res :=
  portStep port (fun l => Leaf.onPort l port fun q => LinkPort.onNak port q (Leaf.now l)) (fun k t => Tervon.onPort t k fun q => LinkPort.onNak port q (Tervon.now t)) s

/-- ACK_TIMER (R132). -/
def execAckTimer (port : PortId) (s : State) : Res :=
  portStep port (fun l => Leaf.onPort l port fun q => LinkPort.ackTimer port q (Leaf.now l)) (fun k t => Tervon.onPort t k fun q => LinkPort.ackTimer port q (Tervon.now t)) s

/-- REPLAY_TIMEOUT (R133, R134). -/
def execReplayTimeout (port : PortId) (s : State) : Res :=
  portStep port (fun l => Leaf.onPort l port fun q => LinkPort.replayTimeout port q (Leaf.now l)) (fun k t => Tervon.onPort t k fun q => LinkPort.replayTimeout port q (Tervon.now t)) s

/-- CREDIT (R129, R135). -/
def execCredit (port : PortId) (cls : BitVec 2) (count : Half) (uncorrectable corrected : Nat) (s : State) : Res :=
  portStep port (fun l => Leaf.modPort l port fun q => LinkPort.onCredit q cls.toNat count uncorrectable corrected)
    (fun k t => Tervon.modPort t k fun q => LinkPort.onCredit q cls.toNat count uncorrectable corrected) s

/-- CREDIT_ADVERTISE (R135). -/
def execCreditAdvertise (port : PortId) (cls : BitVec 2) (s : State) : Res :=
  portStep port (fun l => Leaf.onPort l port fun q => LinkPort.advertise port q cls.toNat) (fun k t => Tervon.onPort t k fun q => LinkPort.advertise port q cls.toNat) s

/-- CODEWORD_LOSS (R134). -/
def execCodewordLoss (port : PortId) (s : State) : Res :=
  portStep port (fun l => Leaf.modPort l port fun q => LinkPort.codewordLoss q (Leaf.now l)) (fun k t => Tervon.modPort t k fun q => LinkPort.codewordLoss q (Tervon.now t)) s

/-- RETRAIN_COMPLETE (R134). -/
def execRetrainComplete (port : PortId) (lane : Nat) (s : State) : Res :=
  portStep port
    (fun l =>
      let (r, moved) := LinkPort.retrained port (Leaf.port l port) (Leaf.inTransit l port) lane
      if Leaf.hasPort l port then (if moved then Leaf.laneChanged (Leaf.putLink l port r) port else Leaf.putLink l port r) else l)
    (fun k t => Tervon.retrained t k lane) s

/-- RESUME (R134). -/
def execResume (port : PortId) (seq : BitVec 12) (free : List Byte) (s : State) : Res :=
  portStep port (fun l => Leaf.onPort l port fun q => LinkPort.onResume port q seq free (Leaf.now l)) (fun k t => Tervon.onPort t k fun q => LinkPort.onResume port q seq free (Tervon.now t)) s

/-- PORT_DOWN_TIMEOUT (R134). -/
def execPortDownTimeout (port : PortId) (s : State) : Res :=
  portStep port (fun l => Leaf.portDown l port) (fun k t => Tervon.portDown t k) s

/-- TRAINING_RETRY (R134, R364). -/
def execTrainingRetry (port : PortId) (ok : Bool) (lane : Nat) (s : State) : Res :=
  portStep port
    (fun l =>
      if Leaf.hasPort l port && LinkPort.retryDue (Leaf.port l port) (Leaf.now l) then
        (if ok then Leaf.linkUp (Leaf.modPort l port fun q => (LinkPort.trained q lane).1) port
         else Leaf.modPort l port fun q => { LinkPort.trainFailed q lane with downAt := Leaf.now l })
      else l)
    (fun k t => Tervon.trainingRetry t k ok lane) s

/-- LINK_TRAINED (R430). -/
def execLinkTrained (port : PortId) (s : State) : Res :=
  portStep port (fun l => Leaf.linkUp l port) (fun k t => Tervon.remirror (Tervon.linkTrained t k)) s

/-- PROBE (R131, R430). -/
def execProbe (port : PortId) (id : Half) (len : Byte) (s : State) : Res :=
  portStep port (fun l => Leaf.probe l port id len) (fun k t => Tervon.probe t k id) s

/-- PROBE_ECHO (R43, R430). -/
def execProbeEcho (port : PortId) (id : Half) (roundTrip : Nat) (s : State) : Res :=
  portStep port (fun l => Leaf.probeEcho l port roundTrip) (fun k t => Tervon.probeEcho t k id roundTrip) s

/-- FRAME_BOUNDARY_SCHEDULE (R166). -/
def execFrameBoundarySchedule (port : PortId) (s : State) : Res :=
  portStep port (fun l => Leaf.schedule l port) (fun k t => Tervon.schedule t k) s

/-- SHAPER_REFILL (R166, R167). -/
def execShaperRefill (port : PortId) (s : State) : Res :=
  portStep port (fun l => Leaf.modPort l port fun q => LinkPort.refill q (Leaf.now l)) (fun k t => Tervon.modPort t k fun q => LinkPort.refill q (Tervon.now t)) s

/-- NOP_FRAME (R144): received and ignored. -/
def execNopFrame (who : Part) (rx : Rx) (s : State) : Res :=
  partStep who (fun l => Leaf.frameIn l rx (.nop (zeros rx.hdr.length.toNat)) (.nop (zeros rx.hdr.length.toNat)) id)
    (fun t => Tervon.frameIn t rx (.nop (zeros rx.hdr.length.toNat)) id) s

/-- LANE_RECAL (R130). -/
def execLaneRecal (who : Part) (slot : Nat) (s : State) : Res :=
  partStep who (fun l => Leaf.fire l slot 5 fun a l => Leaf.laneRecal l a)
    (fun t => Tervon.fire t slot 5 fun a t => Tervon.modPort t (bits a 3 0) fun q => LinkPort.recalibrate q (bits a 11 8)) s

/-- LANE_RECAL_COMPLETE (R129, R130). -/
def execLaneRecalComplete (port : PortId) (s : State) : Res :=
  portStep port (fun l => Leaf.modPort l port LinkPort.recalDone) (fun k t => Tervon.modPort t k LinkPort.recalDone) s

/-- WAKE_BURST (R164): only a leaf between sender and target passes it on. -/
def execWakeBurst (port : PortId) (target : BitVec 4) (burst : BitVec 3) (s : State) : Res :=
  portStep port (fun l => Leaf.wakeBurst l port target burst) (fun _ t => t) s

/-- Type bytes of the table "Elzor control blocks". -/
def knownBlock (type : Byte) : Bool := [0xA1, 0xA2, 0xA3, 0xA4, 0xB1, 0xB2, 0xB3, 0xB4, 0xC1, 0xC2, 0xC3, 0xC4, 0xD1].contains type.toNat

/-- UNKNOWN_CONTROL_BLOCK (R131). -/
def execUnknownControlBlock (port : PortId) (type : Byte) (s : State) : Res :=
  let count (q : LinkPort) : LinkPort := if knownBlock type then q else { q with ctlDiscarded := satAdd32 q.ctlDiscarded 1 }
  portStep port (fun l => Leaf.modPort l port count) (fun k t => Tervon.modPort t k count) s

/-- The frame types that a port carries (tables "Frame types", "Tervon frame types" and "Pair frame types"). -/
def knownType (ring : Bool) (t : BitVec 6) : Bool :=
  [0x01, 0x02, 0x03, 0x04, 0x08, 0x09, 0x10, 0x11, 0x12, 0x14, 0x18, 0x19, 0x1C, 0x20, 0x21, 0x24, 0x28, 0x29, 0x2A, 0x2C, 0x3E, 0x3F].contains t.toNat
    || (!ring && [0x30, 0x31, 0x32, 0x38, 0x39, 0x3A, 0x3B, 0x3C, 0x3D].contains t.toNat)

/-- The header alone makes the frame malformed: its type, its length against what arrived, or a position (R140). -/
def headerBad (ring : Bool) (h : Hdr) (received : Nat) : Bool :=
  !knownType ring h.type || decide (h.length.toNat ≠ received) || decide (2048 < h.length.toNat) || badPos h.dst || badPos h.src

/-- A malformed frame is acknowledged, discarded and counted (R133, R140). -/
def LinkPort.malformedIn (ring : Bool) (p : PortId) (q : LinkPort) (h : Hdr) (received now : Nat) : LinkRes :=
  if !headerBad ring h received then (q, [])
  else match LinkPort.acceptSeq p q h now with
    | some (q, os) => (LinkPort.grant { q with malformed := satAdd32 q.malformed 1 } h.cls.toNat (credits received), os)
    | none => (q, [])

/-- MALFORMED_FRAME (R140). -/
def execMalformedFrame (port : PortId) (h : Hdr) (received : Nat) (s : State) : Res :=
  portStep port (fun l => Leaf.onPort l port fun q => LinkPort.malformedIn true port q h received (Leaf.now l))
    (fun k t => Tervon.onPort t k fun q => LinkPort.malformedIn (decide (k < 8)) port q h received (Tervon.now t)) s

end Sys2Proof.Machine
end

