-- ==== Sys2Proof/Machine/ExecMirror.lean ====
section
/-! DEFINITION. Mirroring, the buddy and the bulk load (R353 to R358, R368): one meaning per command. -/

namespace Sys2Proof.Machine

/-- MIRROR_PERIOD (R353). -/
def execMirrorPeriod (s : State) : Res := tvStep Tervon.mirrorPeriod s

/-- MIRROR (R353). -/
def execMirror (rx : Rx) (seq : Word) (items : List MirrorItem) (s : State) : Res :=
  tvStep (fun t => Tervon.frameIn t rx (.mirror seq items) (pairFrame rx (Tervon.mirrorIn seq items))) s

/-- MIRROR_ACK (R354). -/
def execMirrorAck (rx : Rx) (seq discarded : Word) (s : State) : Res :=
  tvStep (fun t => Tervon.frameIn t rx (.mirrorAck seq discarded) (pairFrame rx (Tervon.mirrorAcked seq))) s

/-- MIRROR_LAG_LIMIT (R355). -/
def execMirrorLagLimit (s : State) : Res := tvStep Tervon.mirrorLag s

/-- BUDDY_STATE_PERIOD (R357). -/
def execBuddyStatePeriod (s : State) : Res := tvStep Tervon.buddyPeriod s

/-- BUDDY_STATE (R355). -/
def execBuddyState (rx : Rx) (p : BuddyStateP) (s : State) : Res :=
  tvStep (fun t => Tervon.frameIn t rx (.buddyState p) (pairFrame rx (Tervon.buddyIn p))) s

/-- BUDDY_STATE_ABSENT (R355). -/
def execBuddyStateAbsent (s : State) : Res := tvStep Tervon.buddyAbsent s

/-- BUDDY_SILENT (R358). -/
def execBuddySilent (s : State) : Res := tvStep Tervon.buddyQuiet s

/-- STATE_LOAD (R368). -/
def execStateLoad (rx : Rx) (sect : Byte) (offset : Word) (data : List Byte) (s : State) : Res :=
  tvStep (fun t => Tervon.frameIn t rx (.stateLoad sect offset data) (pairFrame rx (Tervon.stateLoad sect.toNat offset.toNat data))) s

/-- STATE_DONE (R368). -/
def execStateDone (rx : Rx) (bitmap : Word) (total : DWord) (crc : Word) (s : State) : Res :=
  tvStep (fun t => Tervon.frameIn t rx (.stateDone bitmap total crc) (pairFrame rx (Tervon.stateDone bitmap.toNat total.toNat crc))) s

end Sys2Proof.Machine
end

