-- ==== Sys2Proof/Machine/ExecPart.lean ====
section
/-! DEFINITION. Partitions, tiles and spares (R204, R207, R215 to R217, R364): one meaning per command. -/

namespace Sys2Proof.Machine

/-- PARTITION_COMMIT (R216). -/
def execPartitionCommit (job : JobRef) (input : HostData) (s : State) : Res :=
  tvStep (fun t => Tervon.withInput t job 0x14 input (Tervon.partCommit input)) s

/-- PARTITION_DRAIN_TIMEOUT (R217). -/
def execPartitionDrainTimeout (partition : Nat) (s : State) : Res := tvStep (fun t => Tervon.partDrain t partition) s

/-- TILE_CLEAR_COMPLETE (R207). -/
def execTileClearComplete (tile : Nat) (s : State) : Res := tvStep (fun t => Tervon.tileCleared t tile) s

/-- SPARE_TILE_BIST_COMPLETE (R364). -/
def execSpareTileBistComplete (tile : Nat) (pass : Bool) (s : State) : Res := tvStep (fun t => Tervon.spareTested t tile pass) s

end Sys2Proof.Machine
end

