-- ==== Sys2Proof/Machine/TvPower.lean ====
section
/-! DEFINITION. Cellar and waking of a Tervon (R418, R425), the stewards (R209, R428), the thermal limits (R429), resets and the start (R428,
R431, R370), and the commit of the set-up (R435). -/

namespace Sys2Proof.Machine

/-! ### Appointment firings -/

/-- A slot of a Tervon whose appointment of this action is due fires; the action gets its argument and its instant (R57 to R59). -/
def Tervon.fireAt (t : Tervon) (i : Nat) (action : Byte) (act : Nat → Ns → Tervon → Tervon) : Tervon :=
  let at' := Slot.instant (Tervon.slot t i)
  Tervon.fire t i action fun a t => act a at' t

/-- A slot of a leaf fires; the action gets its argument and its instant. -/
def Leaf.fireAt (l : Leaf) (i : Nat) (action : Byte) (act : Nat → Ns → Leaf → Leaf) : Leaf :=
  let at' := Slot.instant (Leaf.slot l i)
  Leaf.fire l i action fun a l => act a at' l

/-- MODE_SWITCH on a leaf (R345). -/
def Leaf.modeSwitch (arg : Nat) (at' : Ns) (l : Leaf) : Leaf := { l with det := DetStat.switch l.det arg at' }

/-- MODE_SWITCH on a Tervon (R340, R341, R268). -/
def Tervon.modeSwitch (arg : Nat) (at' : Ns) (t : Tervon) : Tervon :=
  let was := t.det.det
  let t := { t with det := DetStat.switch t.det arg at' }
  if was = t.det.det then t
  else if t.det.det then Tervon.retract t 3 fun _ => true
  else
    let held := t.str.waiting
    held.foldl Tervon.applySamples { t with str.waiting := [] }

/-- MARK on a leaf (R55): the marker record (log entry 30). -/
def Leaf.markFires (arg : Nat) (at' : Ns) (l : Leaf) : Leaf := Leaf.emit l (.marker (w32 arg) at' (Leaf.tq l))

/-- MARK on a Tervon (R55, R367): bit 31 makes it an epoch mark. -/
def Tervon.markFires (arg : Nat) (at' : Ns) (t : Tervon) : Tervon :=
  let t := Tervon.emit t (.marker (w32 arg) at' (Tervon.tq t))
  if bit arg 31 then Tervon.epochMark t at'.toNat else t

/-- SNAPSHOT on a Tervon's slot acts on the internal leaf (R55): the strobe toggles at T - LF_SNAP_ADV, and a leaf in Cellar skips it (R59). -/
def Tervon.snapshotSlot (t : Tervon) (i : Nat) : Tervon :=
  let adv := (t.ileaf.snap.adv.toNat + 15) / 16
  if slotFires t.appts i 1 (Tervon.now t + adv) then
    let s := Tervon.slot t i
    let kind : Byte := if fullDueAt t.appts ((Slot.due s).getD 0) then 0 else BitVec.ofNat 8 (Slot.arg s)
    let t := Tervon.setSlot t i (Slot.advance s false)
    Tervon.onIleaf t fun l =>
      if Leaf.asleep l then { l with pwr.skipped := satAdd32 l.pwr.skipped 1 } else Leaf.snapshotAt l kind (Slot.instant s)
  else t

/-! ### Cellar -/

/-- The prepare phase of a leaf (R420). -/
def Leaf.prepareCellar (l : Leaf) : Leaf :=
  if l.pwr.cellar ≠ 0 then l
  else
    let l := { l with pwr := { l.pwr with cellar := 1, firedAt := Leaf.now l, skipped := 0, phrase := false }, led := { l.led with cellarPaused := true } }
    Leaf.flushTrace (Leaf.abandonWalk l)

/-- Withhold class 1 to 3 credits on every port, or grant what was held (R425). -/
def Tervon.withhold (t : Tervon) (b : Bool) : Tervon :=
  let f (q : LinkPort) : LinkPort := LinkPort.ungrip { q with withheld := b }
  { t with ports := t.ports.map f, ilink := f t.ilink }

/-- Entry into Cellar ends (R425, steps 2 to 4; R418: a wake time already in the past is cleared). -/
def Tervon.enterCellar (t : Tervon) : Tervon :=
  let open' := t.assay.caps.filter fun c => !c.done
  let t := open'.foldl (fun t c => Tervon.commitVerdict t c (verdictOf c.hdr c.did c.id (if c.running then c.mode else t.det.det) 4 2) c.running) t
  let t := (t.str.cache.flatMap Prod.snd).foldl Tervon.writeBack t
  let t := { t with str.cache := [] }
  let t := Tervon.mirrorPeriod { t with mir.lastPeriod := Tervon.now t - Tervon.mirrorNs t }
  let t := Tervon.withhold t true
  { t with pwr := { t.pwr with entering := none, cellar := true, waking := false,
                               wakeAt := if t.pwr.wakeAt.toNat ≤ Tervon.now t then 0 else t.pwr.wakeAt } }

/-- CELLAR_ENTER on a Tervon (R425): descriptors stop starting, and the internal leaf enters by the same firing. With no job running the entry
ends at once; otherwise its jobs have 100 ms. -/
def Tervon.cellarFires (t : Tervon) : Tervon :=
  if t.pwr.cellar ∨ t.pwr.entering.isSome then t
  else
    let t := { t with pwr.entering := some (Tervon.now t) }
    let t := Tervon.onIleaf t Leaf.prepareCellar
    if t.jobs.any (fun j => j.started) then t else Tervon.enterCellar t

/-- TERVON_CELLAR_JOB_TIMEOUT (R425): what still runs is aborted. -/
def Tervon.cellarTimeout (t : Tervon) : Tervon :=
  match t.pwr.entering with
  | none => t
  | some a =>
    if Tervon.now t < a + 100000000 then t
    else Tervon.enterCellar ((t.jobs.filter fun j => j.started).foldl (fun t j => Tervon.stopJob t j 1) t)

/-- A write of TV_PWR_CTL (R418). -/
def Tervon.writePwr (t : Tervon) (v : DWord) : Tervon :=
  let cap := bits v.toNat 9 0
  if cap < 200 ∨ 600 < cap then { t with boot.rstBad := satAdd16 t.boot.rstBad 1 }
  else { t with pwr := { t.pwr with ctl := v &&& 0xBFF, waking := t.pwr.waking || (v.getLsbD 10 && t.pwr.cellar) } }

/-- WAKE_AT_REACHED (R418). -/
def Tervon.wakeReached (t : Tervon) : Tervon :=
  if t.pwr.cellar ∧ t.pwr.wakeAt ≠ 0 ∧ t.pwr.wakeAt.toNat ≤ Tervon.now t then { t with pwr := { t.pwr with waking := true, wakeAt := 0 } } else t

/-- Send the wake phrase to a position: 8 bursts in index order (R164). -/
def Tervon.sendPhrase (t : Tervon) (key : Nat) : Tervon :=
  Tervon.emitAll t ((List.range 8).map fun b => .ctl (.tv (key / 8)) (.wake (BitVec.ofNat 4 (key % 8)) (BitVec.ofNat 3 b)))

/-- TERVON_WAKE (R425): credits, rings, records and the sleeping leaves; the internal leaf wakes with its Tervon (log entry 60). -/
def Tervon.wake (t : Tervon) : Tervon :=
  if t.pwr.waking = false ∨ t.pwr.cellar = false then t
  else
    let t := Tervon.withhold { t with pwr := { t.pwr with cellar := false, waking := false } } false
    let t := (List.range 17).foldl (fun t f => Tervon.startJobs (Tervon.writeLoss t f) f) t
    let t := if t.pwr.ctl.getLsbD 11 then ((List.range 64).filter fun k => (Tervon.lease t k).asleep).foldl Tervon.sendPhrase t else t
    if t.ileaf.pwr.cellar = 0 then t else Tervon.onIleaf t Leaf.wakePhrase

/-! ### Stewards -/

/-- HEARTBEAT_TIMEOUT of the internal leaf: a steward is declared hung, and its duties wait (R209). -/
def Tervon.stewardTimeout (t : Tervon) (hb : Nat) : Tervon :=
  let was := (Leaf.beat t.ileaf hb).hung
  let t := Tervon.onIleaf t fun l => Leaf.heartbeatTimeout l hb
  if hb < 4 ∧ was = false ∧ (Leaf.beat t.ileaf hb).hung = true then
    { t with pwr.hung := (t.pwr.hung.filter fun h => decide (h.1 ≠ hb)) ++ [(hb, Tervon.now t, DumpSt.hasFor t.ileaf.dump hb)] }
  else t

/-- STEWARD_RESTART (R428): after its dump ends, or after 100 ms; its duties resume. -/
def Tervon.stewardRestart (t : Tervon) (n : Nat) : Tervon :=
  match t.pwr.hung.find? fun h => decide (h.1 = n) with
  | none => t
  | some (_, since, dumped) =>
    if (dumped = true ∧ DumpSt.hasFor t.ileaf.dump n = false) ∨ since + 100000000 ≤ Tervon.now t then
      (List.range 17).foldl Tervon.startJobs { t with pwr.hung := t.pwr.hung.filter fun h => decide (h.1 ≠ n) }
    else t

/-! ### Resets and start -/

/-- A TERVON_RESET's cause code (TV_RST_STAT). -/
def TvColdCause.code : TvColdCause → BitVec 3
  | .firstPowerOn => 0
  | .powerGood => 1
  | .thermalTrip => 4

/-- A word address of the warm roster area (R213). -/
def inWarmArea (w : Nat) : Bool := decide (0x0C000000 ≤ 8 * w) && decide (8 * w < 0x10000000)

/-- The Tervon after a reset (R428): fuses, the NOR device and its repair area stay; a warm reset also keeps what belongs to the power cycle and
the warm roster area. The internal leaf takes a cold reset. -/
def Tervon.afterReset (t : Tervon) (cause : BitVec 3) (warm : Bool) : Tervon :=
  { Tervon.reset with
    boot := { TvBoot.reset with revision := t.boot.revision, serial := t.boot.serial, cause := cause, starts := t.boot.starts + 1, held := t.boot.held || decide (cause = 4) },
    tiles := { TvTiles.reset with dead := t.tiles.dead },
    ecc := { EccSt.reset with hard := t.ecc.hard, remapped := t.ecc.remapped,
                              hbm := if warm then t.ecc.hbm.filter fun e => inWarmArea e.1 else [], rowErrs := if warm then t.ecc.rowErrs else [] },
    lard := { LarderSt.reset with withdrawn := if warm then t.lard.withdrawn else [] },
    warm := { WarmSt.reset with nor := t.warm.nor, hbmCopy := if warm then t.warm.hbmCopy else none },
    ileaf := Leaf.coldReset { t.ileaf with time := TimeDom.reset } (if warm then 2 else 0) [],
    out := t.out, free := t.free }

/-- TERVON_COLD_RESET (R428). -/
def Tervon.coldReset (t : Tervon) (cause : TvColdCause) : Tervon := Tervon.afterReset t (TvColdCause.code cause) false

/-- TERVON_WARM_RESET by PERST# (cause 2), MCTP_RESET_REQUEST (cause 3) (R428). -/
def Tervon.warmReset (t : Tervon) (cause : BitVec 3) : Tervon := Tervon.afterReset t cause true

/-- THERMAL_LIMIT within a reading of the Tervon's sites (R429): above 115 °C a cold reset, above 100 °C the cap of 200 W, both until every site
reads below 95 °C. Codes are in 1/16 °C (R87). -/
def Tervon.thermalLimit (t : Tervon) (xs : List ThermalSample) : Tervon :=
  let cs := (xs.filter fun x => decide (x.site < 48)).filterMap fun x => x.code
  if cs.any fun c => decide (1840 < c.toInt) then Tervon.coldReset t .thermalTrip
  else if cs.any fun c => decide (1600 < c.toInt) then { t with pwr.hot := true }
  else if cs ≠ [] ∧ cs.all (fun c => decide (c.toInt < 1520)) = true then { t with pwr.hot := false, boot.held := false }
  else t

/-- THERMAL_READING of the internal leaf (R429, R463). -/
def Tervon.thermal (t : Tervon) (xs : List ThermalSample) : Tervon := Tervon.thermalLimit (Tervon.onIleaf t fun l => Leaf.thermal l xs) xs

/-- The power cap in force, W (R418, R429). -/
def Tervon.cap (t : Tervon) : Nat := if t.pwr.hot then 200 else bits t.pwr.ctl.toNat 9 0

/-- TERVON_BOOT_READY (R431): BIST results go to the Tinker map (R204), and set-up writes are accepted. -/
def Tervon.bootReady (t : Tervon) (failed : List Nat) : Tervon :=
  if t.boot.ready ∨ t.boot.held then t
  else Tervon.mapFailed { t with boot := { t.boot with ready := true, stage := 4, tilesFailing := (failed.filter fun p => decide (p < 36)).dedup.length } } failed

/-! ### The commit of the set-up -/

/-- Present positions of the shape (R14, R15). -/
def Tervon.presentCount (t : Tervon) : Nat :=
  let (X, Y) := Tervon.shape t
  ((List.range (X * Y)).filter fun i => !bit t.boot.vacant.toNat i).length

/-- The count of present Tervons meets the table "Pod shapes" (R14, R15). -/
def Tervon.countOk (t : Tervon) : Bool :=
  let n := Tervon.presentCount t
  match bits t.boot.pod.toNat 7 6 with
  | 0 => decide (n = 16)
  | 1 => decide (18 ≤ n) && decide (n ≤ 32) && decide (n % 2 = 0)
  | 2 => decide (34 ≤ n) && decide (n ≤ 64) && decide (n % 2 = 0)
  | _ => false

/-- The coordinate lies within the shape and is not vacant (R435). -/
def Tervon.coordOk (t : Tervon) : Bool :=
  let (X, Y) := Tervon.shape t
  decide (Tervon.x t < X) && decide (Tervon.y t < Y) && !bit t.boot.vacant.toNat (Tervon.x t + X * Tervon.y t)

/-- The two DIDs are fit (R435). -/
def Tervon.didsOk (t : Tervon) : Bool :=
  [t.boot.did, t.boot.ileafDid].all (fun d => decide (d ≠ 0) && decide (d ≠ didAll)) && decide (t.boot.did ≠ t.boot.ileafDid)

/-- TV_LARDER_CTL meets R396. -/
def larderCtlOk (v : DWord) : Bool :=
  let n := v.toNat
  decide (1 ≤ bits n 5 0) && decide (bits n 5 0 ≤ 32) && decide (bits n 11 8 ≤ 8)
    && decide (bits n 11 8 + bits n 17 12 + bits n 23 18 + bits n 29 24 + bits n 35 30 = 32)

/-- The first failing check of R435; 0 when none fails. The len field gives 1 to 8 leaves whatever its value. -/
def Tervon.setupCheck (t : Tervon) : Nat :=
  if Tervon.countOk t = false then 1
  else if Tervon.coordOk t = false then 2
  else if Tervon.didsOk t = false then 3
  else if (List.range 8).any (fun n => Tervon.ringOn t n && (decide (Tervon.ringLen t n < 1) || decide (8 < Tervon.ringLen t n))) then 4
  else if larderCtlOk t.boot.larderCtl = false then 5
  else 0

/-- The copy that a warm start takes: HBM's when committed, and otherwise the newer NOR copy (R370). -/
def Tervon.warmCopy (t : Tervon) : Option WarmCopy :=
  match t.warm.hbmCopy with
  | some w => some w
  | none => t.warm.nor.head?.map Prod.snd

/-- A warm start restores the roster when the digests are equal (R370). -/
def Tervon.warmStart (t : Tervon) : Tervon :=
  match Tervon.warmCopy t with
  | none => t
  | some w =>
    if (t.boot.cause = 2 ∨ t.boot.cause = 3) ∧ t.boot.digestWr = Tervon.digestOf t w then
      let ents := w.ents.map fun e => (e.1, { e.2 with attested := false, seenAt := none, raised := [], observed := none })
      let t := { t with boot.warm := true, ros.ents := ents, ros.route := w.route, warm.digest := Tervon.digestOf t w }
      w.consts.foldl (fun t c => Tervon.setRingEnd t c.1 { Tervon.ringEnd t c.1 with consts := c.2, cal := true }) t
    else t

/-- SETUP_COMMIT (R435): after a commit the internal leaf has its DID and is acquired (R220), and a warm start restores the roster. -/
def Tervon.setupCommit (t : Tervon) (v : Word) : Tervon :=
  if v.getLsbD 0 = false ∨ t.boot.ready = false ∨ Tervon.committed t = true ∨ Tervon.stewardHung t 0 = true then t
  else
    let c := Tervon.setupCheck t
    if c ≠ 0 then { t with boot := { t.boot with setup := 2, code := c } }
    else
      let t := { t with boot := { t.boot with setup := 1, code := 0 }, ileaf.ring.did := t.boot.ileafDid }
      let t := Tervon.warmStart t
      let t := Tervon.setLease t ileafKey { Tervon.lease t ileafKey with known := true, grantDid := t.boot.ileafDid }
      Tervon.acquire t ileafKey

end Sys2Proof.Machine
end

