-- ==== Sys2Proof/Machine/TvRegs.lean ====
section
/-! DEFINITION. The Tervon's registers behind BAR0 and BAR2 (R371, R372, R433 to R436, R441 to R446) and the PCI Express Command register
(R391). -/

namespace Sys2Proof.Machine

/-! ### Offsets -/

/-- The map of a virtual function's BAR0 onto the physical function's offsets (R446): the ring block, its parameter sets, its partition, its
assay counts, the mode, the time, and the MSI-X table and array. The ring block and the MSI-X structures stay the function's own. -/
def vfOffset (f off : Nat) : Option Nat :=
  let p := f - 1
  if off < 0x100 then some (0x10000 + off)
  else if 0x400 ≤ off ∧ off < 0x500 then some (0x1000 + 256 * p + (off - 0x400))
  else if 0x800 ≤ off ∧ off < 0xC00 then some (0x4000 + 0x400 * p + (off - 0x800))
  else if 0xC00 ≤ off ∧ off < 0xC40 then some (0x8000 + 0x40 * p + (off - 0xC00))
  else if 0xC40 ≤ off ∧ off < 0xC50 then some (0x90 + (off - 0xC40))
  else if 0xC50 ≤ off ∧ off < 0xC58 then some (0x108 + (off - 0xC50))
  else if 0xC58 ≤ off ∧ off < 0xC5C then some 0x110
  else if 0x2000 ≤ off ∧ off < 0x2100 then some (0x30000 + (off - 0x2000))
  else if 0x3000 ≤ off ∧ off < 0x3008 then some (0x38000 + (off - 0x3000))
  else none

/-- The offset of the physical function's map that a function's BAR0 offset stands for. -/
def barOffset (f off : Nat) : Option Nat := if f = 0 then (if off < 0x40000 then some off else none) else vfOffset f off

/-- The register that a word belongs to: its offset and its words (R433). -/
def regAt (off : Nat) : Nat × Nat :=
  let two : Nat × Nat := (off / 8 * 8, 2)
  let four : Nat × Nat := (off / 16 * 16, 4)
  if off < 0x10 ∨ (0x90 ≤ off ∧ off < 0xA0) ∨ (0x1000 ≤ off ∧ off < 0x2400) then four
  else if (0x18 ≤ off ∧ off < 0x20) ∨ (0x38 ≤ off ∧ off < 0x50) ∨ (0x70 ≤ off ∧ off < 0x90) ∨ (0x100 ≤ off ∧ off < 0x110) ∨ (0x118 ≤ off ∧ off < 0x120)
      ∨ (0x178 ≤ off ∧ off < 0x180) ∨ (0x408 ≤ off ∧ off < 0x410) ∨ (0x420 ≤ off ∧ off < 0x430) ∨ (0x440 ≤ off ∧ off < 0x488) ∨ (0x490 ≤ off ∧ off < 0x4A8)
      ∨ (0x800 ≤ off ∧ off < 0x1000) ∨ (0x3048 ≤ off ∧ off < 0x3050) ∨ (0x10000 ≤ off ∧ off < 0x100C0 ∧ off % 32 < 8) then two
  else (off / 4 * 4, 1)

/-! ### Reading -/

/-- Word `i` of a number. -/
def wordOf (n i : Nat) : Word := w32 (n / 2 ^ (32 * i))

/-- The bytes of TV_PART (R441): the committed configuration, its ranges, the blocks owned and the HBM capacity in use in GiB, rounded up. -/
def Tervon.partBytes (t : Tervon) (p : Nat) : List Byte :=
  let c := Tervon.part t p
  padTo 576 (padTo 64 (le 4 c.tiles.toNat ++ [BitVec.ofNat 8 c.quota, 0] ++ le 2 c.hbm ++ le 2 c.bw ++ le 2 c.ranges.length ++ c.minima.flatMap (le 4))
      ++ c.ranges.flatMap fun r => le 3 r.1.toNat ++ [0] ++ le 3 r.2.toNat ++ [0])
    ++ le 4 (c.blocks.map (2 ^ ·)).sum ++ le 4 ((Tervon.hbmUsed t p 65536 + 1073741823) / 1073741824)

/-- TV_TILE_MAP (R203). -/
def Tervon.mapBytes (t : Tervon) : List Byte := t.tiles.map.map fun m => BitVec.ofNat 8 (m.getD 255)

/-- TV_RING_STAT n. -/
def Tervon.ringStat (t : Tervon) (n : Nat) : Word :=
  let e := Tervon.ringEnd t n
  w32 ((Tervon.port t n).link.toNat + 4 * e.disc + 32 * e.found + 512 * b2n e.cal)

/-- TV_PORT_CNT of a port, word `i`. -/
def LinkPort.countWord (q : LinkPort) (i : Nat) : Word :=
  match i with
  | 0 => q.malformed
  | 1 => q.badCrc
  | 2 => q.ctlDiscarded
  | 3 => q.misrouted
  | 4 => q.stale
  | 5 => q.aliveGap
  | 6 => q.replays
  | _ => q.downDiscards

/-- The status counts from 0x03000 (R443). -/
def Tervon.countWord (t : Tervon) (off : Nat) : Word :=
  let i := off % 32 / 4
  if off < 0x3020 then [t.str.badWrite, t.str.late, t.str.redLate, t.str.undef, t.str.stale].getD i 0
  else if off < 0x3040 then [t.gln.badWrite, t.gln.skipped, t.gln.late, t.gln.retracts, t.gln.confirms, t.gln.postDrop].getD i 0
  else if off < 0x3060 then [t.ros.badWrite, 0, half64 t.warm.digest 0, half64 t.warm.digest 4, t.ros.quarantined, t.ros.staleEpoch].getD i 0
  else if off < 0x3080 then (((List.range 5).map fun k => Cells.get 0 t.lard.refused k) ++ [t.lard.dumpTrunc, t.lard.withdrawnCnt]).getD i 0
  else if off < 0x30A0 then [t.ecc.excess, t.ecc.testRefused, t.ecc.testIgnored, t.ecc.corrected, t.ecc.uncorrectable].getD i 0
  else if off < 0x3100 then 0
  else if off < 0x32A0 then LinkPort.countWord (Tervon.port t ((off - 0x3100) / 32)) i
  else 0

/-- TV_RST_STAT. -/
def TvBoot.rstStat (b : TvBoot) : Nat := b.cause.toNat + 8 * b2n b.warm + 65536 * b.rstBad.toNat + 2 ^ 32 * b.starts.toNat
/-- TV_SETUP_STAT. -/
def TvBoot.setupStat (b : TvBoot) : Nat := b.setup + 256 * b.code + 65536 * b.late.toNat + 2 ^ 32 * b.badWrite.toNat
/-- TV_BOOT_STAT. -/
def TvBoot.bootStat (b : TvBoot) : Word := w32 (b2n b.ready + 2 * b.stage + 65536 * b.tilesFailing)

/-- TV_RED_STAT: the depth (R247). -/
def Tervon.redStat (t : Tervon) : Word := w32 (depthOf (Tervon.distances t (bits t.red.ctl.toNat 5 0)) % 32)

/-- Identity and set-up, 0x00000 to 0x000FF. -/
def Tervon.peekSetup (t : Tervon) (off : Nat) : Word :=
  let b := t.boot
  if off < 0x10 then wordOf (0x6032 + 65536 * b.revision.toNat + 2 ^ 64 * b.serial.toNat) (off / 4)
  else if off = 0x10 then TvBoot.bootStat b
  else if off < 0x18 then 0
  else if off < 0x20 then wordOf (TvBoot.rstStat b) (off % 8 / 4)
  else if off < 0x28 then 0
  else if off = 0x28 then b.pod
  else if off = 0x2C then b.did.setWidth 32
  else if off = 0x30 then b.ileafDid.setWidth 32
  else if off < 0x38 then 0
  else if off < 0x40 then half64 b.vacant off
  else if off < 0x48 then half64 b.failed off
  else if off < 0x50 then half64 b.digestWr off
  else if off < 0x70 then wordAt (Tervon.mapBytes t) ((off - 0x50) / 4)
  else if off < 0x78 then wordOf (TvBoot.setupStat b) (off % 8 / 4)
  else if off < 0x80 then 0
  else if off < 0x88 then half64 t.pwr.ctl off
  else if off < 0x90 then half64 t.pwr.wakeAt off
  else if off < 0xA0 then DetStat.words t.det off
  else 0

/-- Time registers, 0x00100 to 0x001FF; TV_TIME_STAT is latched per function with TV_TIME_NOW. -/
def Tervon.peekTime (t : Tervon) (f off : Nat) : Word :=
  if off < 0x108 then half64 t.time.ctl off
  else if off < 0x110 then half64 (TimeDom.ns64 t.time) off
  else if off = 0x110 then Cells.get 0 t.tt.statLatch f
  else if off < 0x118 then 0
  else if off < 0x120 then half64 (BitVec.ofInt 64 t.time.theta) off
  else if off < 0x130 then (Cells.get 0 t.tt.asym ((off - 0x120) / 4)).setWidth 32
  else if off < 0x160 then Cells.get 0 t.tt.laneConst ((off - 0x130) / 4)
  else if off < 0x170 then wordAt (Tervon.ptpEntry t) ((off - 0x160) / 4)
  else if off < 0x178 then 0
  else if off < 0x180 then wordOf (t.tt.txq.length + 2 ^ 32 * t.tt.txqDropped.toNat) (off % 8 / 4)
  else 0

/-- Ports and blocks, 0x00200 to 0x007FF. -/
def Tervon.peekBlocks (t : Tervon) (off : Nat) : Word :=
  if off < 0x220 then Cells.get 0 t.boot.ringCtl ((off - 0x200) / 4)
  else if off < 0x240 then Tervon.ringStat t ((off - 0x220) / 4)
  else if off = 0x240 then w32 t.ros.req
  else if off < 0x278 then (Tervon.port t ((off - 0x244) / 4)).laneCtl
  else if off < 0x280 then 0
  else if off < 0x350 then Quad.get (Tervon.port t ((off - 0x280) / 16)).shp (off / 4 % 4)
  else if off < 0x384 then (Tervon.port t ((off - 0x350) / 4)).shpCtl
  else if off < 0x390 then 0
  else if off < 0x3C4 then (Tervon.port t ((off - 0x390) / 4)).drr
  else if off < 0x400 then 0
  else if off = 0x400 then t.ros.lease
  else if off < 0x408 then 0
  else if off < 0x410 then half64 t.ros.ctl off
  else if off = 0x410 then w32 t.str.lag
  else if off = 0x414 then t.red.ctl
  else if off = 0x418 then Tervon.redStat t
  else if off < 0x420 then 0
  else if off < 0x428 then half64 t.gln.ctl off
  else if off < 0x430 then half64 t.gln.feat off
  else if off < 0x440 then 0
  else if off < 0x480 then half64 (Cells.get 0 t.gln.subs ((off - 0x440) / 8)) off
  else if off < 0x488 then half64 t.boot.larderCtl off
  else if off < 0x490 then 0
  else if off < 0x498 then half64 t.ecc.test off
  else if off < 0x4A0 then half64 t.ecc.addr off
  else if off < 0x4A8 then half64 t.ecc.data off
  else 0

/-- A ring's registers (R444). -/
def HostRing.words (r : HostRing) (off : Nat) : Word :=
  match off % 32 / 4 with
  | 0 => half64 r.base 0
  | 1 => half64 r.base 4
  | 2 => w32 (r.size + 256 * b2n (decide (r.state ≠ 0) && !r.draining))
  | 3 => w32 (r.state + 4 * r.cause)
  | 4 => r.head
  | 5 => r.tail
  | _ => 0

/-- A function's ring block and MSI-X structures. -/
def Tervon.peekFn (t : Tervon) (f off : Nat) : Word :=
  let x := Tervon.fn t f
  if off < 0x100C0 then HostRing.words (HostFn.ring x ((off - 0x10000) / 32)) off
  else if off = 0x100C0 then x.coal
  else if off = 0x100C4 then x.drops
  else if off = 0x100C8 then x.bar2
  else if off = 0x100CC then x.badWrite
  else if off < 0x30000 then 0
  else if off < 0x30100 then
    let m := Cells.get MsixVec.reset x.vecs ((off - 0x30000) / 16)
    match off % 16 / 4 with
    | 0 => half64 m.addr 0
    | 1 => half64 m.addr 4
    | 2 => m.data
    | _ => w32 (b2n m.masked)
  else if off = 0x38000 then w32 (((List.range 16).filter fun v => (Cells.get MsixVec.reset x.vecs v).pend).map (2 ^ ·)).sum
  else 0

/-- A word of the physical function's map, as function `f` reads it (R441). -/
def Tervon.peek (t : Tervon) (f off : Nat) : Word :=
  if off < 0x100 then Tervon.peekSetup t off
  else if off < 0x200 then Tervon.peekTime t f off
  else if off < 0x800 then Tervon.peekBlocks t off
  else if off < 0x1000 then Slot.words (Tervon.slot t ((off - 0x800) / 32)) (off % 32 / 4)
  else if off < 0x2000 then wordOf (Cells.get psetDefault t.str.psets ((off - 0x1000) / 16)).toNat (off % 16 / 4)
  else if off < 0x2400 then wordOf (Tervon.glnClass t ((off - 0x2000) / 16)).toNat (off % 16 / 4)
  else if off < 0x3000 then 0
  else if off < 0x4000 then Tervon.countWord t off
  else if off < 0x8000 then wordAt (Tervon.partBytes t ((off - 0x4000) / 0x400)) (off % 0x400 / 4)
  else if off < 0x8440 then (if off % 0x40 < 24 then Cells.get 0 t.assay.stat (8 * ((off - 0x8000) / 0x40) + off % 0x40 / 4) else 0)
  else if off < 0x10000 then 0
  else Tervon.peekFn t f off

/-- The number that a register of `n` words holds. -/
def Tervon.peekWide (t : Tervon) (f base : Nat) : Nat → Nat
  | 0 => 0
  | n + 1 => (Tervon.peek t f base).toNat + 2 ^ 32 * Tervon.peekWide t f (base + 4) n

/-- What a read does besides answering: TV_TIME_NOW latches TV_TIME_STAT, TV_PTP_TXQ_ENTRY0 the oldest entry (R442). -/
def Tervon.touchReg (t : Tervon) (f off : Nat) : Tervon :=
  if off = 0x108 then { t with tt.statLatch := Cells.set 0 t.tt.statLatch f (timeStatWord t.time (Tervon.tq t) (Tervon.hopOut t).toNat) }
  else if off = 0x160 then Tervon.ptpLatch t
  else t

/-- A 32-bit read of BAR0 (R73, R433): the lowest word of a wider register latches its upper words for the function. -/
def Tervon.bar0Read (t : Tervon) (f off : Nat) : Tervon × Word :=
  match barOffset f off with
  | none => (t, 0)
  | some o =>
    if o % 4 ≠ 0 then (t, 0)
    else
      let t := Tervon.touchReg t f o
      let (base, n) := regAt o
      let k := (o - base) / 4
      let x := Tervon.fn t f
      if k = 0 then
        let latch := (List.range n).foldl (fun m i => if i = 0 then m else Cells.set 0 m i (Tervon.peek t f (o + 4 * i))) x.latch
        (Tervon.setFn t f { x with latch := latch }, Tervon.peek t f o)
      else (t, Cells.get 0 x.latch k)

/-- The ring of a doorbell offset (R372). -/
def doorbellRing (off : Nat) : Option Nat := if off % 4 = 0 ∧ off < 0x18 then some (off / 4) else none

/-- A discarded access to BAR2 (R371). -/
def Tervon.bar2Drop (t : Tervon) (f : Nat) : Tervon :=
  let x := Tervon.fn t f
  Tervon.setFn t f { x with bar2 := satAdd32 x.bar2 1 }

/-- LOW_WORD_READ of a BAR: the value is answered (R371, R433). -/
def Tervon.barRead (t : Tervon) (b : BarAccess) : Tervon :=
  if 16 < b.fn then t
  else if b.bar2 then
    match doorbellRing b.off with
    | some i => Tervon.emit t (.barRead b.fn b.off ((Tervon.ring t b.fn i).bell.setWidth 64))
    | none => Tervon.emit (Tervon.bar2Drop t b.fn) (.barRead b.fn b.off 0)
  else
    let (t, w) := Tervon.bar0Read t b.fn b.off
    Tervon.emit t (.barRead b.fn b.off (w.setWidth 64))

/-! ### Writing -/

/-- A write that is ignored under R436. -/
def Tervon.badSetup (t : Tervon) : Tervon := { t with boot.badWrite := satAdd32 t.boot.badWrite 1 }
/-- A write to a register of a ring block that is ignored under R436. -/
def Tervon.badRing (t : Tervon) (f : Nat) : Tervon :=
  let x := Tervon.fn t f
  Tervon.setFn t f { x with badWrite := satAdd32 x.badWrite 1 }
def Tervon.badStream (t : Tervon) : Tervon := { t with str.badWrite := satAdd32 t.str.badWrite 1 }
def Tervon.badRoster (t : Tervon) : Tervon := { t with ros.badWrite := satAdd32 t.ros.badWrite 1 }
def Tervon.badGln (t : Tervon) : Tervon := { t with gln.badWrite := satAdd32 t.gln.badWrite 1 }

/-- A write of an RWL field: after the commit it is ignored and counted (R4, R435). -/
def Tervon.rwl (t : Tervon) (act : Tervon → Tervon) : Tervon :=
  if Tervon.committed t then { t with boot.late := satAdd16 t.boot.late 1 } else act t

/-- TV_POD: shape 3 is reserved. -/
def Tervon.writePod (t : Tervon) (v : Word) : Tervon :=
  Tervon.rwl t fun t => if bits v.toNat 7 6 = 3 then Tervon.badSetup t else { t with boot.pod := v &&& 0x7FFF }

/-- TV_RING_REQ. -/
def Tervon.writeReq (t : Tervon) (v : Word) : Tervon :=
  let n := bits v.toNat 13 0
  if n < 50 ∨ 10000 < n then Tervon.badSetup t else { t with ros.req := n }

/-- A port register whose new value may be refused. -/
def Tervon.portWrite (t : Tervon) (k : Nat) (r : Option LinkPort) : Tervon :=
  match r with
  | some q => Tervon.setPort t k q
  | none => Tervon.badSetup t

/-- TV_LANE_CTL: swap_thr from 1. -/
def Tervon.writeLane (t : Tervon) (k : Nat) (v : Word) : Tervon :=
  let w := v &&& 0xFFFFFF
  Tervon.portWrite t k (if w = 0 then none else some { Tervon.port t k with laneCtl := w })

/-- TV_LEASE_CTL (R345). -/
def Tervon.writeLease (t : Tervon) (v : Word) : Tervon :=
  let n := v.toNat
  if bits n 16 8 < 10 ∨ 500 < bits n 16 8 ∨ bits n 22 17 = 0 ∨ bits n 31 23 = 0 then Tervon.badRoster t else { t with ros.lease := v }

/-- TV_ROSTER_CTL (R356). -/
def Tervon.writeRosterCtl (t : Tervon) (v : DWord) : Tervon :=
  let n := v.toNat
  if bits n 15 0 < 10 ∨ bits n 31 16 < 100 ∨ 2000 < bits n 31 16 ∨ bits n 47 32 < 2 ∨ 1000 < bits n 47 32 then Tervon.badRoster t
  else { t with ros.ctl := v &&& 0xFFFFFFFFFFFF }

/-- TV_STREAM_WM (R235): a shorter lag may let M advance at once. -/
def Tervon.writeWm (t : Tervon) (v : Word) : Tervon :=
  let n := bits v.toNat 13 0
  if n < 20 ∨ 10000 < n then Tervon.badStream t
  else
    let t := { t with str.lag := n }
    (t.str.waiting.map fun h => h.instant).foldl Tervon.wmLag t

/-- TV_RED_CTL (R249). -/
def Tervon.writeRed (t : Tervon) (v : Word) : Tervon :=
  let n := v.toNat
  let (X, Y) := Tervon.shape t
  let x := bits n 2 0
  let y := bits n 5 3
  if X ≤ x ∨ Y ≤ y ∨ bit t.boot.vacant.toNat (x + X * y) = true ∨ bits n 15 6 < 10 ∨ 1000 < bits n 15 6 ∨ bits n 23 16 = 0 then Tervon.badStream t
  else { t with red.ctl := v &&& 0xFFFFFF }

/-- TV_GLN_CLASS (R256). -/
def Tervon.writeClass (t : Tervon) (c : Nat) (n : Nat) : Tervon :=
  if bits n 1 0 = 3 ∨ bits n 3 2 = 3 ∨ bits n 31 16 = 0 ∨ bits n 63 32 = 0 ∨ bits n 111 96 < 10 ∨ bits n 127 112 < 20 ∨ bits n 127 112 ≤ bits n 111 96 then Tervon.badGln t
  else { t with gln.classes := Cells.set classDefault t.gln.classes c (BitVec.ofNat 128 n &&& ~~~0xF0#128) }

/-- TV_STREAM_PSET (R231). -/
def Tervon.writePset (t : Tervon) (i : Nat) (n : Nat) : Tervon :=
  if bits n 3 0 = 0 ∨ 47 < bits n 9 4 ∨ bits n 95 64 = 0 then Tervon.badStream t
  else { t with str.psets := Cells.set psetDefault t.str.psets i (BitVec.ofNat 128 n &&& BitVec.ofNat 128 (2 ^ 112 - 1 - 0xFC00)) }

/-- TV_ECC_TEST through the map: op 0 reads, op 1 writes (R417). -/
def Tervon.writeEcc (t : Tervon) (f : Nat) (v : DWord) : Tervon := Tervon.eccTest t f v (v.getLsbD 3)

/-- The control word of a ring (R444, R445): its size only while DISABLED; then en and arm. -/
def Tervon.writeRingCtl (t : Tervon) (f i : Nat) (v : Word) : Tervon :=
  let r := Tervon.ring t f i
  let n := bits v.toNat 4 0
  let en := v.getLsbD 8
  if n < 6 ∨ 16 < n ∨ (r.state ≠ 0 ∧ n ≠ r.size) then Tervon.badRing t f
  else
    let t := Tervon.ringEn (Tervon.setRing t f i { r with size := n }) f i en
    if v.getLsbD 9 then Tervon.ringArm t f i else t

/-- A ring's base (R444, R445). -/
def Tervon.writeRingBase (t : Tervon) (f i : Nat) (v : DWord) : Tervon :=
  let r := Tervon.ring t f i
  if r.state ≠ 0 ∨ bits v.toNat 11 0 ≠ 0 then Tervon.badRing t f else Tervon.setRing t f i { r with base := v }

/-- A word of the MSI-X table; a vector unmasked with its pending bit set is sent (R373, log entry 25). -/
def Tervon.writeMsix (t : Tervon) (f i k : Nat) (v : Word) : Tervon :=
  let x := Tervon.fn t f
  let m := Cells.get MsixVec.reset x.vecs i
  let put (m : MsixVec) : Tervon := Tervon.setFn t f { x with vecs := Cells.set MsixVec.reset x.vecs i m }
  match k with
  | 0 => put { m with addr := (half64 m.addr 4 ++ v : DWord) }
  | 1 => put { m with addr := (v ++ half64 m.addr 0 : DWord) }
  | 2 => put { m with data := v }
  | _ =>
    if m.pend && !v.getLsbD 0 then Tervon.msix (put { m with masked := false, pend := false }) f i
    else put { m with masked := v.getLsbD 0 }

/-- A register of one word. -/
def Tervon.poke (t : Tervon) (f off : Nat) (v : Word) : Tervon :=
  if off = 0x20 then Tervon.setupCommit t v
  else if off = 0x28 then Tervon.writePod t v
  else if off = 0x2C then Tervon.rwl t fun t => { t with boot.did := v.setWidth 24 }
  else if off = 0x30 then Tervon.rwl t fun t => { t with boot.ileafDid := v.setWidth 24 }
  else if 0x120 ≤ off ∧ off < 0x130 then { t with tt.asym := Cells.set 0 t.tt.asym ((off - 0x120) / 4) (v.setWidth 16) }
  else if 0x130 ≤ off ∧ off < 0x160 then { t with tt.laneConst := Cells.set 0 t.tt.laneConst ((off - 0x130) / 4) v }
  else if off = 0x170 then Tervon.ptpPop t
  else if 0x200 ≤ off ∧ off < 0x220 then Tervon.rwl t fun t => { t with boot.ringCtl := Cells.set 0 t.boot.ringCtl ((off - 0x200) / 4) (v &&& 0xF) }
  else if off = 0x240 then Tervon.writeReq t v
  else if 0x244 ≤ off ∧ off < 0x278 then Tervon.writeLane t ((off - 0x244) / 4) v
  else if 0x280 ≤ off ∧ off < 0x350 then Tervon.portWrite t ((off - 0x280) / 16) (LinkPort.writeShp (Tervon.port t ((off - 0x280) / 16)) (off / 4 % 4) v)
  else if 0x350 ≤ off ∧ off < 0x384 then Tervon.portWrite t ((off - 0x350) / 4) (LinkPort.writeShpCtl (Tervon.port t ((off - 0x350) / 4)) v)
  else if 0x390 ≤ off ∧ off < 0x3C4 then Tervon.portWrite t ((off - 0x390) / 4) (LinkPort.writeDrr (Tervon.port t ((off - 0x390) / 4)) v)
  else if off = 0x400 then Tervon.writeLease t v
  else if off = 0x410 then Tervon.writeWm t v
  else if off = 0x414 then Tervon.writeRed t v
  else if 0x10000 ≤ off ∧ off < 0x100C0 then (if off % 32 = 8 then Tervon.writeRingCtl t f ((off - 0x10000) / 32) v else t)
  else if off = 0x100C0 then Tervon.setFn t f { Tervon.fn t f with coal := v &&& 0xFFFF }
  else if 0x30000 ≤ off ∧ off < 0x30100 then Tervon.writeMsix t f ((off - 0x30000) / 16) (off % 16 / 4) v
  else t

/-- A register of two or four words. -/
def Tervon.pokeWide (t : Tervon) (f base n : Nat) : Tervon :=
  let v := w64 n
  if base = 0x38 then Tervon.rwl t fun t => { t with boot.vacant := v }
  else if base = 0x40 then { t with boot.failed := v, boot.failedAt := Tervon.now t }
  else if base = 0x48 then { t with boot.digestWr := v }
  else if base = 0x80 then Tervon.writePwr t v
  else if base = 0x88 then { t with pwr.wakeAt := v }
  else if base = 0x100 then
    (if timeCtlOk false v then { t with time.ctlNext := some (v &&& timeCtlMask false), time.ctlAt := Tervon.now t / 125000 } else Tervon.badSetup t)
  else if base = 0x408 then Tervon.writeRosterCtl t v
  else if base = 0x420 then { t with gln.ctl := v &&& 0xFFFFFFFF00FFFFF7 }
  else if base = 0x428 then { t with gln.feat := v }
  else if 0x440 ≤ base ∧ base < 0x480 then { t with gln.subs := Cells.set 0 t.gln.subs ((base - 0x440) / 8) (v &&& ~~~0x3E#64) }
  else if base = 0x480 then Tervon.rwl t fun t => { t with boot.larderCtl := v &&& 0xFFFFFFF3F }
  else if base = 0x490 then Tervon.writeEcc t f v
  else if base = 0x498 then { t with ecc.addr := v }
  else if base = 0x4A0 then { t with ecc.data := v }
  else if 0x1000 ≤ base ∧ base < 0x2000 then Tervon.writePset t ((base - 0x1000) / 16) n
  else if 0x2000 ≤ base ∧ base < 0x2400 then Tervon.writeClass t ((base - 0x2000) / 16) n
  else if 0x10000 ≤ base ∧ base < 0x100C0 then Tervon.writeRingBase t f ((base - 0x10000) / 32) v
  else t

/-- The writes that a function may make: a virtual function writes its ring block, its parameter sets and its MSI-X table (R446). Set-up
writes are accepted once the Tervon is ready (R431). -/
def Tervon.writable (t : Tervon) (f off : Nat) : Bool :=
  (decide (f = 0) || decide (0x10000 ≤ off) || (decide (0x1000 ≤ off) && decide (off < 0x2000))) && (t.boot.ready || decide (0x10000 ≤ off))

/-- A 32-bit write at an offset of the map: a lower word of a wider register is held for the function, and its highest word applies the held
words with itself (R433, log entry 59). -/
def Tervon.write32 (t : Tervon) (f off : Nat) (v : Word) : Tervon :=
  if off % 4 ≠ 0 ∨ Tervon.writable t f off = false then t
  else
    let (base, n) := regAt off
    let k := (off - base) / 4
    let x := Tervon.fn t f
    if n ≤ 1 then Tervon.poke t f off v
    else if k + 1 < n then Tervon.setFn t f { x with heldWr := Cells.set 0 x.heldWr off v }
    else
      let low := ((List.range (n - 1)).map fun i => (Cells.get 0 x.heldWr (base + 4 * i)).toNat * 2 ^ (32 * i)).sum
      Tervon.pokeWide t f base (low + v.toNat * 2 ^ (32 * (n - 1)))

/-- A 64-bit write: a 64-bit register, or an aligned half of a 128-bit one, from one instant; otherwise two words (R433). -/
def Tervon.write64 (t : Tervon) (f off : Nat) (v : DWord) : Tervon :=
  if off % 8 ≠ 0 ∨ (regAt off).2 ≤ 1 then Tervon.write32 (Tervon.write32 t f off (half64 v 0)) f (off + 4) (half64 v 4)
  else if Tervon.writable t f off = false then t
  else
    let (base, n) := regAt off
    if n = 2 then Tervon.pokeWide t f base v.toNat
    else
      let old := Tervon.peekWide t f base 4
      Tervon.pokeWide t f base (if off = base then old / 2 ^ 64 * 2 ^ 64 + v.toNat else old % 2 ^ 64 + v.toNat * 2 ^ 64)

/-- A doorbell write (R372, R376). -/
def Tervon.bell (t : Tervon) (f i : Nat) (w : Word) : Tervon :=
  if i < 4 then Tervon.commandDoorbell t f i w
  else if i = 4 then Tervon.completionDoorbell t f w
  else Tervon.resumeCheckpoints (Tervon.recordDoorbell t f w) f

/-- A write of a function's BAR (R371, R393, R436). -/
def Tervon.barWrite (t : Tervon) (b : BarAccess) (d : WriteData) : Tervon :=
  let x := Tervon.fn t b.fn
  if 16 < b.fn then t
  else if b.ep then Tervon.emit (Tervon.setFn t b.fn { x with poisonedWr := satAdd32 x.poisonedWr 1 }) (.aer b.fn)
  else if b.bar2 then
    match d, doorbellRing (match d with
      | .high _ => b.off + 4
      | _ => b.off) with
    | .low w, some i => Tervon.bell t b.fn i w
    | .high w, some i => Tervon.bell t b.fn i w
    | _, _ => Tervon.bar2Drop t b.fn
  else
    match d with
    | .low w => (match barOffset b.fn b.off with
        | some o => Tervon.write32 t b.fn o w
        | none => t)
    | .high w => (match barOffset b.fn (b.off + 4) with
        | some o => Tervon.write32 t b.fn o w
        | none => t)
    | .full v => (match barOffset b.fn b.off with
        | some o => Tervon.write64 t b.fn o v
        | none => t)

/-- A write of a function's Command register (R391): bit 2 is Bus Master Enable. -/
def Tervon.commandWrite (t : Tervon) (f : Nat) (d : WriteData) : Tervon :=
  let word : Option Word := match d with
    | .low w => some w
    | .full v => some (half64 v 0)
    | .high _ => none
  match word with
  | some w =>
    if 16 < f then t
    else if w.getLsbD 2 then Tervon.setFn t f { Tervon.fn t f with bme := true }
    else Tervon.busMasterOff t f
  | none => t

end Sys2Proof.Machine
end

