-- ==== Sys2Proof/Machine/ExecPower.lean ====
section
/-! DEFINITION. Appointments that both parts fire, power, resets, start-up and the plain register accesses: one meaning per command. -/

namespace Sys2Proof.Machine

/-- SNAPSHOT (R92). -/
def execSnapshot (who : Part) (slot : Nat) (s : State) : Res :=
  partStep who (fun l => Leaf.snapshotSlot l slot) (fun t => Tervon.snapshotSlot t slot) s

/-- CELLAR_ENTER (R420, R425). -/
def execCellarEnter (who : Part) (slot : Nat) (s : State) : Res :=
  match who with
  | .leaf w => leafStep w (fun l => Leaf.cellarEnter l slot) s
  | .tervon => tvStepR (fun t => Tervon.fireAt t slot 2 fun _ _ t => Tervon.cellarFires t) s

/-- MODE_SWITCH (R340, R341, R345). -/
def execModeSwitch (who : Part) (slot : Nat) (s : State) : Res :=
  partStep who (fun l => Leaf.fireAt l slot 3 Leaf.modeSwitch) (fun t => Tervon.fireAt t slot 3 Tervon.modeSwitch) s

/-- MARK (R55, R367). -/
def execMark (who : Part) (slot : Nat) (s : State) : Res :=
  partStep who (fun l => Leaf.fireAt l slot 6 Leaf.markFires) (fun t => Tervon.fireAt t slot 6 Tervon.markFires) s

/-- THERMAL_READING (R463, R429). -/
def execThermalReading (who : LeafId) (samples : List ThermalSample) (s : State) : Res :=
  match who with
  | .ring => leafStep .ring (fun l => Leaf.thermal l samples) s
  | .internal => tvStep (fun t => Tervon.thermal t samples) s

/-- HEARTBEAT_TIMEOUT (R119, R209). -/
def execHeartbeatTimeout (who : LeafId) (hb : BitVec 3) (s : State) : Res :=
  match who with
  | .ring => leafStep .ring (fun l => Leaf.heartbeatTimeout l hb.toNat) s
  | .internal => tvStep (fun t => Tervon.stewardTimeout t hb.toNat) s

/-- TERVON_CELLAR_JOB_TIMEOUT (R425). -/
def execTervonCellarJobTimeout (s : State) : Res := tvStepR Tervon.cellarTimeout s

/-- PWR_WAKE_WRITE (R418): TV_PWR_CTL, which the physical function alone has. -/
def execPwrWakeWrite (fn : Nat) (v : DWord) (s : State) : Res :=
  tvStep (fun t => if fn = 0 ∧ t.boot.ready = true then Tervon.writePwr t v else t) s

/-- WAKE_AT_REACHED (R418). -/
def execWakeAtReached (s : State) : Res := tvStep Tervon.wakeReached s

/-- TERVON_WAKE (R425). -/
def execTervonWake (s : State) : Res := tvStep Tervon.wake s

/-- LEAF_COLD_RESET (R426). -/
def execLeafColdReset (who : LeafId) (cause : ColdCause) (failedCounters : List Nat) (s : State) : Res :=
  leafStep who (fun l => Leaf.coldReset l (ColdCause.code cause) failedCounters) s

/-- TERVON_COLD_RESET (R428). -/
def execTervonColdReset (cause : TvColdCause) (s : State) : Res := tvStep (fun t => Tervon.coldReset t cause) s

/-- TERVON_WARM_RESET (R428): PERST#. -/
def execTervonWarmReset (s : State) : Res := tvStep (fun t => Tervon.warmReset t 2) s

/-- MCTP_RESET_REQUEST (R428). -/
def execMctpResetRequest (s : State) : Res := tvStep (fun t => Tervon.warmReset t 3) s

/-- TERVON_BOOT_READY (R431). -/
def execTervonBootReady (failedTiles : List Nat) (s : State) : Res := tvStep (fun t => Tervon.bootReady t failedTiles) s

/-- SETUP_COMMIT (R435). -/
def execSetupCommit (v : Word) (s : State) : Res := tvStep (fun t => Tervon.setupCommit t v) s

/-- STEWARD_RESTART (R428). -/
def execStewardRestart (n : BitVec 2) (s : State) : Res := tvStep (fun t => Tervon.stewardRestart t n.toNat) s

/-- LOW_WORD_READ (R73, R433): a 32-bit read; the Command register answers Bus Master Enable (R391). -/
def execLowWordRead (target : RegTarget) (s : State) : Res :=
  match target with
  | .leaf who by' off => leafStep who (fun l => Leaf.read32By l by' off) s
  | .bar b => tvStep (fun t => Tervon.barRead t b) s
  | .command f => tvStep (fun t => if f ≤ 16 then Tervon.emit t (.barRead f 4 (BitVec.ofNat 64 (4 * b2n (Tervon.fn t f).bme))) else t) s

/-- REGISTER_WRITE (R433, R436). -/
def execRegisterWrite (target : RegTarget) (data : WriteData) (s : State) : Res :=
  match target with
  | .leaf who by' off => leafStepR who (fun l => Leaf.writeDataBy l by' l.ring.did off data) s
  | .bar b => tvStepR (fun t => Tervon.barWrite t b data) s
  | .command f => tvStepR (fun t => Tervon.commandWrite t f data) s

end Sys2Proof.Machine
end

