-- ==== Sys2Proof/Machine/TvAnswer.lean ====
section
/-! DEFINITION. Answers to a Tervon's requests: REG_RSP, the timeouts of R159 and SLEEPING (R163). -/

namespace Sys2Proof.Machine

/-- A job's request was answered with a status, or failed (256). -/
def Tervon.jobResult (t : Tervon) (ref : JobRef) (st : Nat) (dup : Bool) (data : List Byte) : Tervon :=
  match Tervon.job? t ref with
  | none => t
  | some j => if Job.op j = 0x12 ∨ Job.op j = 0x13 then Tervon.rosterAnswer t j st else Tervon.jobAnswer t j st dup data

/-- An outstanding request ends with a status. -/
def Tervon.reqDone (t : Tervon) (r : TvReq) (st : Nat) (dup : Bool) (data : List Byte) : Tervon :=
  let t := Tervon.endReq t r
  match r.job with
  | some ref => Tervon.jobResult t ref st dup data
  | none => t

/-- REG_RSP from the leaf of a key, or, with none, through another Tervon by its DID (R159): the request that issued it ends, a relayed one goes
back (log entry 37), and a late one is counted. -/
def Tervon.regRsp (key : Option Nat) (h : Hdr) (p : RegRspP) (t : Tervon) : Tervon :=
  match Tervon.reqOf t h.tag key h.srcDid with
  | some r => Tervon.reqDone t r p.status.toNat p.duplicate p.data
  | none =>
    let (t, back) := match key with
      | some k => Tervon.relayBack t h k (.regRsp p)
      | none => (t, false)
    if back then t else { t with ros.lateRsp := satAdd32 t.ros.lateRsp 1 }

/-- Send a request again through the buddy, or through the other Tervon of a pair elsewhere (R159, log entry 29). -/
def Tervon.retryReq (t : Tervon) (r : TvReq) : Tervon :=
  let fl : Byte := match r.pay with
    | .leaseReq _ => 1
    | _ => 2
  if r.port = 14 then
    match Tervon.resolve t r.did with
    | .torus ax ay bx by' => if Tervon.absent t bx by' then Tervon.sendRouted t ax ay r.tag r.pay t.boot.did fl else Tervon.sendRouted t bx by' r.tag r.pay t.boot.did fl
    | _ => t
  else Tervon.sendBuddy t r.tag fl r.pay

/-- RING_REQUEST_TIMEOUT (R159): the retry through the buddy, and then the failure. The internal leaf is reached by its link alone. -/
def Tervon.requestTimeout (t : Tervon) (tag : Half) (leaf : Did) : Tervon :=
  let now := Tervon.now t
  match t.ros.reqs.find? fun r => decide (r.tag = tag) && decide (r.did = leaf) && !r.held && !r.asleep && decide (r.at' + Tervon.tmo t ≤ now) with
  | none => t
  | some r =>
    if r.retried = false ∧ r.port ≠ 13 then Tervon.retryReq (Tervon.setReq t { r with retried := true, at' := now }) r
    else Tervon.reqDone t r 256 false []

/-! ### SLEEPING -/

/-- The request was sent to the leaf of a key, or, with none, to the leaf of a DID. -/
def TvReq.goesTo (r : TvReq) (key : Option Nat) (d : Did) : Bool :=
  match key with
  | some k => if k = ileafKey then decide (r.port = 13) else decide (r.port = k / 8) && decide (r.pos.toNat = k % 8)
  | none => decide (r.did = d)

/-- A VERDICT that the leaf refused is kept queued (R163). -/
def LeafRec.refuse (e : LeafRec) (tag : Half) : LeafRec :=
  match e.sent.find? fun v => decide (v.1 = tag) with
  | some v => { e with sent := e.sent.filter fun v => decide (v.1 ≠ tag), queued := e.queued ++ [v] }
  | none => e

/-- SLEEPING state 0: the refused frame stays queued (R163). -/
def Tervon.refused (t : Tervon) (key : Option Nat) (h : Hdr) (p : SleepingP) : Tervon :=
  let t := match key with
    | some k => Tervon.setLease t k { Tervon.lease t k with asleep := true }
    | none => t
  let mine (r : TvReq) : Bool := decide (r.tag = p.refTag) && decide ((Payload.code r.pay).toNat = p.refType.toNat) && !r.held && TvReq.goesTo r key h.srcDid
  if t.ros.reqs.any mine then { t with ros.reqs := t.ros.reqs.map fun r => if mine r then { r with asleep := true } else r }
  else match key with
    | some k =>
      let (t, back) := Tervon.relayBack t { h with tag := p.refTag } k (.sleeping p)
      if back then t
      else if p.refType = 0x24 then
        let d := Tervon.keyDid t k
        Tervon.setLeafRec t d (LeafRec.refuse (Tervon.leafRec t d) p.refTag)
      else t
    | none => t

/-- SLEEPING state 1: the frames kept are sent again in order (R163). -/
def Tervon.awake (t : Tervon) (key : Nat) : Tervon :=
  let t := Tervon.setLease t key { Tervon.lease t key with asleep := false }
  let now := Tervon.now t
  let mine := t.ros.reqs.filter fun r => r.asleep && TvReq.goesTo r (some key) 0
  let t := mine.foldl (fun t r =>
    let r := { r with asleep := false, at' := now }
    Tervon.sendReq (Tervon.setReq t r) r) t
  let d := Tervon.keyDid t key
  let e := Tervon.leafRec t d
  e.queued.foldl (fun t v => Tervon.sendKey t key v.1 v.2) (Tervon.setLeafRec t d { e with queued := [], sent := e.queued.reverse ++ e.sent })

/-- SLEEPING (R163). -/
def Tervon.sleeping (key : Option Nat) (h : Hdr) (p : SleepingP) (t : Tervon) : Tervon :=
  if p.state = 0 then Tervon.refused t key h p
  else match key with
    | some k => Tervon.awake t k
    | none => t

end Sys2Proof.Machine
end

