-- ==== Sys2Proof/Machine/ExecReq.lean ====
section
/-! DEFINITION. Requests to leaves, leases, the roster and the Larder's commands (R159 to R163, R347 to R363, R382, R399, R401): one meaning per
command. -/

namespace Sys2Proof.Machine

/-- LEAF_CFG_APPLY (R386). -/
def execLeafCfgApply (job : JobRef) (input : HostData) (s : State) : Res :=
  tvStep (fun t => Tervon.withInput t job 0x01 input (Tervon.cfgStart input)) s

/-- LEAF_REG_READ (R382). -/
def execLeafRegRead (job : JobRef) (s : State) : Res := tvStep (fun t => Tervon.withJob t job 0x02 Tervon.leafRead) s

/-- LEAF_REG_WRITE (R382). -/
def execLeafRegWrite (job : JobRef) (input : HostData) (s : State) : Res :=
  tvStep (fun t => Tervon.withInput t job 0x03 input (Tervon.leafWrite input)) s

/-- APPOINT (R56, R382). -/
def execAppoint (job : JobRef) (s : State) : Res := tvStep (fun t => Tervon.withJob t job 0x04 Tervon.appoint) s

/-- SNAPSHOT_NOW (R464). -/
def execSnapshotNow (job : JobRef) (s : State) : Res := tvStep (fun t => Tervon.withJob t job 0x05 Tervon.snapNow) s

/-- LEDGER_READ (R382). -/
def execLedgerRead (job : JobRef) (s : State) : Res := tvStep (fun t => Tervon.withJob t job 0x11 Tervon.ledgerStart) s

/-- DUMP_FETCH (R401). -/
def execDumpFetch (job : JobRef) (s : State) : Res := tvStep (fun t => Tervon.withJob t job 0x10 Tervon.dumpFetch) s

/-- LARDER_FREE_RING_REFILL (R399). -/
def execLarderFreeRingRefill (pool : Nat) (s : State) : Res := tvStep (fun t => Tervon.larderRefill t pool) s

/-- REG_RSP (R157, R159). -/
def execRegRsp (rx : Rx) (p : RegRspP) (s : State) : Res :=
  tvStep (fun t => Tervon.frameIn t rx (.regRsp p) (Tervon.regRsp (rxKey rx) rx.hdr p)) s

/-- RING_REQUEST_TIMEOUT (R159). -/
def execRingRequestTimeout (tag : Half) (leaf : Did) (s : State) : Res := tvStep (fun t => Tervon.requestTimeout t tag leaf) s

/-- SLEEPING (R163). -/
def execSleeping (rx : Rx) (p : SleepingP) (s : State) : Res :=
  tvStep (fun t => Tervon.frameIn t rx (.sleeping p) (Tervon.sleeping (rxKey rx) rx.hdr p)) s

/-- A LEASE_GRANT from a leaf, or one that the buddy relays (R148, R350). -/
def Tervon.grantFrame (rx : Rx) (p : LeaseGrantP) (t : Tervon) : Tervon :=
  match rxKey rx with
  | some key => Tervon.leaseGrant key rx.hdr p t
  | none => Tervon.grantRelayed rx.hdr p t

/-- LEASE_GRANT (R347, R348, R361). -/
def execLeaseGrant (rx : Rx) (p : LeaseGrantP) (s : State) : Res :=
  tvStep (fun t => Tervon.frameIn t rx (.leaseGrant p) (Tervon.grantFrame rx p)) s

/-- ATTESTATION_CHECK (R361). -/
def execAttestationCheck (ring pos : Nat) (answer : Option AttestAnswer) (s : State) : Res :=
  tvStep (fun t => Tervon.atKey t ring pos (Tervon.attestation answer)) s

/-- TAKEOVER_DELAY_EXPIRY (R347). -/
def execTakeoverDelayExpiry (ring pos : Nat) (s : State) : Res := tvStep (fun t => Tervon.atKey t ring pos Tervon.takeoverEnds) s

/-- LEASE_RENEW_DUE (R348). -/
def execLeaseRenewDue (ring pos : Nat) (s : State) : Res := tvStep (fun t => Tervon.atKey t ring pos Tervon.renewDue) s

/-- LEASE_LOST_LOCAL (R348). -/
def execLeaseLostLocal (ring pos : Nat) (s : State) : Res := tvStep (fun t => Tervon.atKey t ring pos Tervon.lostLocal) s

/-- FENCE_HOLD_EXPIRY (R350). -/
def execFenceHoldExpiry (ring pos : Nat) (s : State) : Res := tvStep (fun t => Tervon.atKey t ring pos Tervon.fenceHoldEnds) s

/-- ROSTER_SILENT_TIMEOUT (R362). -/
def execRosterSilentTimeout (ring pos : Nat) (s : State) : Res := tvStep (fun t => Tervon.atKey t ring pos Tervon.rosterSilent) s

/-- ROSTER_ADMIT op 0 alone runs `act`; the three rows share one opcode (R363, R382). -/
def Tervon.withAdmit (t : Tervon) (r : JobRef) (op : Nat) (act : Job → Tervon → Tervon) : Tervon :=
  Tervon.withJob t r 0x12 fun j t => if Job.byte j 42 = op then act j t else t

/-- ROSTER_ADMIT_GIVEN (R363). -/
def execRosterAdmitGiven (job : JobRef) (input : HostData) (s : State) : Res :=
  tvStep (fun t => Tervon.withAdmit t job 0 fun j t => if Job.inputOk j input then Tervon.admitGiven input j t else t) s

/-- ROSTER_ADMIT_OBSERVED (R363). -/
def execRosterAdmitObserved (job : JobRef) (s : State) : Res := tvStep (fun t => Tervon.withAdmit t job 1 Tervon.admitObserved) s

/-- ROSTER_FENCE (R350): op 2, and any other op is BAD_OPERAND (R382). -/
def execRosterFence (job : JobRef) (s : State) : Res :=
  tvStep (fun t => Tervon.withJob t job 0x12 fun j t =>
    match Job.byte j 42 with
    | 0 | 1 => t
    | 2 => Tervon.fence j t
    | _ => Tervon.complete t j 3) s

/-- ROSTER_RETIRE (R363). -/
def execRosterRetire (job : JobRef) (s : State) : Res := tvStep (fun t => Tervon.withJob t job 0x13 Tervon.retire) s

/-- WARM_ROSTER_HBM_UPDATE (R369). -/
def execWarmRosterHbmUpdate (s : State) : Res := tvStep Tervon.warmHbm s

/-- WARM_ROSTER_NOR_UPDATE (R369). -/
def execWarmRosterNorUpdate (s : State) : Res := tvStep Tervon.warmNor s

end Sys2Proof.Machine
end

