-- ==== Sys2Proof/Machine/ExecStream.lean ====
section
/-! DEFINITION. Tallies at their holder, streams, reductions and Gleaner (R149 to R152, R225 to R272): one meaning per command. -/

namespace Sys2Proof.Machine

/-- TALLY_FRAME (R149). -/
def execTallyFrame (rx : Rx) (h : TallyHdr) (bytes : List Byte) (s : State) : Res :=
  tvStepR (fun t => Tervon.leafFrame t rx (.tally h bytes) (fun key => Tervon.tallyFrame key rx.hdr.epoch (rxPortNo rx) h bytes) Tervon.quarantined) s

/-- HIST_FRAME (R151). -/
def execHistFrame (rx : Rx) (h : HistHdr) (bytes : List Byte) (s : State) : Res :=
  tvStep (fun t => Tervon.leafFrame t rx (.hist h bytes) (fun key => Tervon.histFrame key h bytes) Tervon.quarantined) s

/-- TALLY_END_FRAME (R152, R228 to R236). -/
def execTallyEndFrame (rx : Rx) (p : TallyEndP) (s : State) : Res :=
  tvStepR (fun t => Tervon.leafFrame t rx (.tallyEnd p) (fun key => Tervon.tallyEnd key rx.hdr.epoch p) Tervon.quarantined) s

/-- WATERMARK_LAG_EXPIRY (R235). -/
def execWatermarkLagExpiry (instant : Ns) (s : State) : Res := tvStepR (fun t => Tervon.wmLag t instant.toNat) s

/-- STREAM_AGING_SWEEP (R237). -/
def execStreamAgingSweep (s : State) : Res := tvStep Tervon.agingSweep s

/-- The three rows of opcode 0x06 share it; its op is byte 44 (R382). -/
def Tervon.streamOp (k : Nat) (act : Job → Tervon → Tervon) (j : Job) (t : Tervon) : Tervon := if Job.byte j 44 = k then act j t else t

/-- STREAM_DEFINE op 0 (R225). -/
def execStreamDefine (job : JobRef) (s : State) : Res :=
  tvStep (fun t => Tervon.withJob t job 0x06 (Tervon.streamOp 0 Tervon.streamDefine)) s

/-- STREAM_REMOVE: op 1 (R242). -/
def execStreamRemove (job : JobRef) (s : State) : Res :=
  tvStep (fun t => Tervon.withJob t job 0x06 (Tervon.streamOp 1 Tervon.streamRemove)) s

/-- STREAM_RESTORE: op 2 (R242). -/
def execStreamRestore (job : JobRef) (input : HostData) (s : State) : Res :=
  tvStep (fun t => Tervon.withInput t job 0x06 input (Tervon.streamOp 2 (Tervon.streamRestore input))) s

/-- STREAM_QUERY (R240). -/
def execStreamQuery (job : JobRef) (s : State) : Res := tvStep (fun t => Tervon.withJob t job 0x07 Tervon.streamQuery) s

/-- CHECKPOINT (R241). -/
def execCheckpoint (job : JobRef) (s : State) : Res := tvStep (fun t => Tervon.withJob t job 0x16 Tervon.checkpoint) s

/-- REDUCE_DEFINE op 0 (R243). -/
def execReduceDefine (job : JobRef) (s : State) : Res :=
  tvStep (fun t => Tervon.withJob t job 0x08 fun j t => if Job.byte j 41 = 0 then Tervon.reduceDefine j t else t) s

/-- REDUCE_REMOVE: op 1 (R243). -/
def execReduceRemove (job : JobRef) (s : State) : Res :=
  tvStep (fun t => Tervon.withJob t job 0x08 fun j t => if Job.byte j 41 = 1 then Tervon.reduceRemove j t else t) s

/-- REDUCE_LOCAL_WAIT_EXPIRY (R246). -/
def execReduceLocalWaitExpiry (instant : Ns) (s : State) : Res :=
  tvStepR (fun t => Tervon.handResults (Tervon.localWaitEnds t instant.toNat)) s

/-- REDUCE_PART_DEADLINE (R248). -/
def execReducePartDeadline (instant : Ns) (s : State) : Res :=
  tvStepR (fun t => Tervon.handResults (Tervon.partDeadline t instant.toNat)) s

/-- A reduction frame from a neighbour on a peer port: element bytes that its reduction has no use for make it malformed (R140, R253). -/
def Tervon.redFrame (t : Tervon) (rx : Rx) (p : ReduceP) (act : Nat × Nat → Tervon → Tervon) : Tervon :=
  match rx.port with
  | .tv k =>
    if Tervon.elemsOk t p = false then Tervon.modPort t k fun q => { q with malformed := satAdd32 q.malformed 1 }
    else if 9 ≤ k then act (Tervon.peerOf t (Tervon.x t) (Tervon.y t) k) t
    else t
  | _ => t

/-- A REDUCE_PART that came from a position. -/
def Tervon.partFrom (p : ReduceP) (v : Nat × Nat) (t : Tervon) : Tervon := Tervon.handResults (Tervon.reducePart v p t)
/-- A REDUCE_RESULT that came from a position. -/
def Tervon.resultFrom (p : ReduceP) (v : Nat × Nat) (t : Tervon) : Tervon := Tervon.handResults (Tervon.reduceResult v p t).1

/-- REDUCE_PART (R248). -/
def execReducePart (rx : Rx) (p : ReduceP) (s : State) : Res :=
  tvStepR (fun t => Tervon.frameIn t rx (.reducePart p) fun t => Tervon.redFrame t rx p (Tervon.partFrom p)) s

/-- REDUCE_RESULT (R248). -/
def execReduceResult (rx : Rx) (p : ReduceP) (s : State) : Res :=
  tvStepR (fun t => Tervon.frameIn t rx (.reduceResult p) fun t => Tervon.redFrame t rx p (Tervon.resultFrom p)) s

/-- REDUCE_RESULT_LOST (R249). -/
def execReduceResultLost (instant : Ns) (s : State) : Res :=
  tvStepR (fun t => Tervon.handResults ((Tervon.lostNow t instant.toNat).foldl (Tervon.loseResult instant.toNat) t)) s

/-- EARLY_WAIT_EXPIRY (R268). -/
def execEarlyWaitExpiry (cls : Nat) (instant : Ns) (s : State) : Res := tvStep (fun t => Tervon.earlyWait t cls instant.toNat) s

/-- CLOSE_EXPIRY (R268). -/
def execCloseExpiry (cls : Nat) (instant : Ns) (s : State) : Res := tvStep (fun t => Tervon.closeEnds t cls instant.toNat) s

end Sys2Proof.Machine
end

