-- ==== Sys2Proof/Machine/ExecTime.lean ====
section
/-! DEFINITION. Caerpol time of both parts and the Tervon's time inputs and commands (R28 to R61, R440, R442, R462): one meaning per command. -/

namespace Sys2Proof.Machine

/-- A step of the Tervon's time; a change of its class is reported (R390). -/
def timeStep (f : Tervon → Tervon) (s : State) : Res := tvStep (fun t => Tervon.noteClass (f t)) s

/-- Run an operation on a leaf's time domain. -/
def Leaf.onTime (l : Leaf) (f : TimeDom → TimeDom) : Leaf := { l with time := f l.time }

/-- EXCHANGE_PERIOD (R39, R462). -/
def execExchangePeriod (s : State) : Res := timeStep Tervon.exchangePeriod s

/-- TIME_SYNC (R39, R142). -/
def execTimeSync (who : Part) (rx : Rx) (p : TimeSyncP) (t2 : Stamp) (residence : DWord) (s : State) : Res :=
  match who with
  | .leaf w => leafStep w (fun l => Leaf.frameIn l rx (.timeSync p) (.timeSync p) fun l => Leaf.timeSync l rx p t2 residence) s
  | .tervon => timeStep (fun t => Tervon.frameIn t rx (.timeSync p) fun t => Tervon.timeSync t rx p t2) s

/-- TIME_FOLLOW (R142, R462): a forwarding leaf adds the residence of its TIME_SYNC. -/
def execTimeFollow (who : Part) (rx : Rx) (p : TimeFollowP) (t3 : Stamp) (s : State) : Res :=
  match who with
  | .leaf w => leafStep w (fun l =>
      Leaf.frameIn l rx (.timeFollow p) (.timeFollow { p with corr := p.corr + Leaf.residenceFor l (srcOf rx.hdr) p.seq }) fun l => Leaf.timeFollow l rx p t3) s
  | .tervon => timeStep (fun t => Tervon.frameIn t rx (.timeFollow p) fun t => Tervon.timeFollow t rx p t3) s

/-- TIME_DELAY_REQ (R142, R462): a forwarding leaf adds its residence; a master answers. -/
def execTimeDelayReq (who : Part) (rx : Rx) (p : DelayReqP) (t4 : Stamp) (residence : DWord) (s : State) : Res :=
  match who with
  | .leaf w => leafStep w (fun l => Leaf.frameIn l rx (.delayReq p) (.delayReq { p with corr := p.corr + residence }) id) s
  | .tervon => timeStep (fun t => Tervon.frameIn t rx (.delayReq p) fun t => Tervon.timeDelayReq t rx p t4) s

/-- TIME_DELAY_RESP (R39, R40, R47 to R49, R52). -/
def execTimeDelayResp (who : Part) (rx : Rx) (p : DelayRespP) (tempC : Int) (s : State) : Res :=
  match who with
  | .leaf w => leafStep w (fun l => Leaf.frameIn l rx (.delayResp p) (.delayResp p) fun l => Leaf.delayResp l rx p) s
  | .tervon => timeStep (fun t => Tervon.frameIn t rx (.delayResp p) fun t => Tervon.timeDelayResp t rx p tempC) s

/-- SLEW_TICK (R50). -/
def execSlewTick (who : Part) (s : State) : Res :=
  match who with
  | .leaf w => leafStep w (fun l => Leaf.onTime l TimeDom.slewTick) s
  | .tervon => timeStep (fun t => { t with time := TimeDom.slewTick t.time }) s

/-- HOLDOVER_TIMEOUT (R52). -/
def execHoldoverTimeout (who : Part) (s : State) : Res :=
  match who with
  | .leaf w => leafStep w (fun l => Leaf.onTime l TimeDom.holdoverTimeout) s
  | .tervon => timeStep Tervon.holdoverTimeout s

/-- HOLDOVER_LONG (R52). -/
def execHoldoverLong (who : Part) (s : State) : Res :=
  match who with
  | .leaf w => leafStep w (fun l => Leaf.onTime l TimeDom.holdoverLong) s
  | .tervon => timeStep (fun t => { t with time := TimeDom.holdoverLong t.time }) s

/-- PRIMARY_LINK_FAIL (R39). -/
def execPrimaryLinkFail (s : State) : Res := timeStep Tervon.primaryFail s

/-- PPS_IN_EDGE (R33, R34, R37). -/
def execPpsInEdge (at' : Stamp) (s : State) : Res := timeStep (fun t => Tervon.ppsEdge t at') s

/-- REF10M_QUALIFIED (R33). -/
def execRef10mQualified (s : State) : Res := timeStep Tervon.refGood s

/-- REF10M_DISQUALIFY (R33). -/
def execRef10mDisqualify (s : State) : Res := timeStep Tervon.refBad s

/-- PPS_DISQUALIFY (R33). -/
def execPpsDisqualify (s : State) : Res := timeStep Tervon.ppsLost s

/-- STEER_EXPIRY (R35). -/
def execSteerExpiry (s : State) : Res := timeStep Tervon.steerExpiry s

/-- PPS_OUT_EDGE (R38). -/
def execPpsOutEdge (s : State) : Res := timeStep Tervon.ppsOut s

/-- A write of TV_TIME_CTL: physical function only; a value out of range is ignored in full and counted (R436, R440). -/
def Tervon.timeCtlWrite (t : Tervon) (fn : Nat) (v : DWord) : Tervon :=
  if fn ≠ 0 then t
  else if timeCtlOk false v then { t with time.ctlNext := some (v &&& timeCtlMask false), time.ctlAt := Tervon.now t / 125000 }
  else { t with boot.badWrite := satAdd32 t.boot.badWrite 1 }

/-- TIME_CTL_WRITE (R440): LF_TIME_CTL by a requester, or TV_TIME_CTL by a function. -/
def execTimeCtlWrite (who : Part) (by' : Requester) (fn : Nat) (v : DWord) (s : State) : Res :=
  match who with
  | .leaf w => leafStep w (fun l => Leaf.writeDataBy l by' l.ring.did 0x20 (.full v)) s
  | .tervon => timeStep (fun t => Tervon.timeCtlWrite t fn v) s

/-- TIME_CTL_APPLY (R440). -/
def execTimeCtlApply (who : Part) (s : State) : Res :=
  match who with
  | .leaf w => leafStep w (fun l => Leaf.onTime l TimeDom.ctlApply) s
  | .tervon => timeStep (fun t => { t with time := TimeDom.ctlApply t.time }) s

/-- RING_CALIBRATION_COMPLETE (R43, R44). -/
def execRingCalibrationComplete (ring : Nat) (data : CalData) (s : State) : Res := timeStep (fun t => Tervon.calibrated t ring data) s

/-- CALIBRATION_RERUN (R45). -/
def execCalibrationRerun (ring hop : Nat) (data : CalData) (s : State) : Res := timeStep (fun t => Tervon.calRerun t ring hop data) s

/-- CAL_REPORT (R43). -/
def execCalReport (rx : Rx) (p : CalReportP) (s : State) : Res := timeStep (fun t => Tervon.frameIn t rx (.calReport p) fun t => Tervon.calReport t p) s

/-- SOFTWARE_PTP_TRANSMIT (R60). -/
def execSoftwarePtpTransmit (id : Half) (port : BitVec 2) (at' : Stamp) (s : State) : Res := timeStep (fun t => Tervon.ptpSent t id port at') s

/-- SOFTWARE_PTP_RECEIVE (R60). -/
def execSoftwarePtpReceive (id : Half) (port : BitVec 2) (at' : Stamp) (s : State) : Res := timeStep (fun t => Tervon.ptpGot t id port at') s

/-- PTP_TXQ_ENTRY_READ (R61, R442): the entry is latched and ENTRY0 answered. -/
def execPtpTxqEntryRead (s : State) : Res :=
  timeStep (fun t =>
    let t := Tervon.ptpLatch t
    Tervon.emit t (.barRead 0 0x160 (BitVec.ofNat 64 (field (Tervon.ptpEntry t) 0 4)))) s

/-- PTP_TXQ_POP (R61, R442). -/
def execPtpTxqPop (s : State) : Res := timeStep Tervon.ptpPop s

/-- TIME_ADJUST_SET_SECOND (R34, R388). -/
def execTimeAdjustSetSecond (job : JobRef) (s : State) : Res :=
  timeStep (fun t => Tervon.withJob t job 0x15 fun j t => if Job.byte j 40 = 0 then Tervon.adjustSecond j t else if 3 ≤ Job.byte j 40 then Tervon.complete t j 3 else t) s

/-- TIME_ADJUST_STEER (R35, R388). -/
def execTimeAdjustSteer (job : JobRef) (s : State) : Res :=
  timeStep (fun t => Tervon.withJob t job 0x15 fun j t => if Job.byte j 40 = 1 then Tervon.adjustSteer j t else t) s

/-- TIME_ADJUST_SEND_PTP (R60, R388). -/
def execTimeAdjustSendPtp (job : JobRef) (input : HostData) (s : State) : Res :=
  timeStep (fun t => Tervon.withInput t job 0x15 input fun j t => if Job.byte j 40 = 2 then Tervon.adjustPtp input j t else t) s

end Sys2Proof.Machine
end

