-- ==== Sys2Proof/Machine/ExecTrace.lean ====
section
/-! DEFINITION. Alarm and heartbeat inputs, Scrivener and dumps of a leaf: one meaning per command. -/

namespace Sys2Proof.Machine

/-- ALARM_EDGE (R89). -/
def execAlarmEdge (who : LeafId) (input : BitVec 4) (s : State) : Res :=
  leafStep who (fun l => Leaf.alarmEdge l input.toNat) s

/-- ALARM_RELEASE (R90). -/
def execAlarmRelease (who : LeafId) (input : BitVec 5) (s : State) : Res :=
  leafStep who (fun l => if input.toNat < 24 then Leaf.inputFall l input.toNat else l) s

/-- STUCK_ACTIVE_TIMEOUT (R90). -/
def execStuckActiveTimeout (who : LeafId) (input : BitVec 5) (s : State) : Res :=
  leafStep who (fun l => if input.toNat < 24 then Leaf.stuckActive l input.toNat else l) s

/-- CHATTER_RECORD_TIMER (R91). -/
def execChatterRecordTimer (who : LeafId) (input : BitVec 5) (s : State) : Res :=
  leafStep who (fun l => if input.toNat < 24 then Leaf.chatterTimer l input.toNat else l) s

/-- CHATTER_RELEASE (R91). -/
def execChatterRelease (who : LeafId) (input : BitVec 5) (s : State) : Res :=
  leafStep who (fun l => if input.toNat < 24 then Leaf.chatterRelease l input.toNat else l) s

/-- HEARTBEAT_EDGE (R119). -/
def execHeartbeatEdge (who : LeafId) (hb : BitVec 3) (s : State) : Res :=
  leafStep who (fun l => Leaf.heartbeatEdge l hb.toNat) s

/-- HB_CTL_WRITE (R119): LF_HB_CTL. -/
def execHbCtlWrite (who : LeafId) (by' : Requester) (hb : BitVec 3) (data : WriteData) (s : State) : Res :=
  leafStep who (fun l => Leaf.writeDataBy l by' l.ring.did (0x200 + 8 * hb.toNat) data) s

/-- BRANCH_RETIRE_CYCLE (R105 to R108). -/
def execBranchRetireCycle (who : LeafId) (port : BitVec 3) (c : BranchCycle) (s : State) : Res :=
  leafStep who (fun l => Leaf.branchCycle l port.toNat c) s

/-- TRACE_ENTRY_ENCODE (R114). -/
def execTraceEntryEncode (who : LeafId) (port : BitVec 3) (s : State) : Res :=
  leafStep who (fun l => Leaf.traceEncode l port.toNat) s

/-- TRACE_FLUSH_IDLE (R114). -/
def execTraceFlushIdle (who : LeafId) (port : BitVec 3) (s : State) : Res :=
  leafStep who (fun l => Leaf.traceFlushIdle l port.toNat) s

/-- SYNC_PERIODIC (R113). -/
def execSyncPeriodic (who : LeafId) (port : BitVec 3) (s : State) : Res :=
  leafStep who (fun l => Leaf.syncPeriodic l port.toNat) s

/-- TRACE_FRAME_CLOSE_TIMER (R115). -/
def execTraceFrameCloseTimer (who : LeafId) (port : BitVec 3) (s : State) : Res :=
  leafStep who (fun l => Leaf.traceClose l port.toNat) s

/-- TRC_CTL_WRITE (R114): LF_TRC_CTL. -/
def execTrcCtlWrite (who : LeafId) (by' : Requester) (v : Word) (s : State) : Res :=
  leafStep who (fun l => Leaf.writeBy l by' l.ring.did 0x160 [v]) s

/-- DUMP_CMD_WRITE (R124): LF_DUMP_CMD. -/
def execDumpCmdWrite (who : LeafId) (by' : Requester) (v : Word) (s : State) : Res :=
  leafStep who (fun l => Leaf.writeBy l by' l.ring.did 0x1A0 [v]) s

/-- DUMP_WALK_START (R122). -/
def execDumpWalkStart (who : LeafId) (s : State) : Res :=
  leafStep who Leaf.startWalk s

/-- DUMP_WALK_RESUME (R126). -/
def execDumpWalkResume (who : LeafId) (s : State) : Res :=
  leafStep who Leaf.resumeWalk s

/-- DUMP_READ_TIMEOUT (R123). -/
def execDumpReadTimeout (who : LeafId) (tag : BitVec 5) (s : State) : Res :=
  leafStep who (fun l => Leaf.dumpTimeout l tag.toNat) s

/-- SCAN_DONE (R122). -/
def execScanDone (who : LeafId) (s : State) : Res :=
  leafStep who Leaf.scanDone s

/-- SCAN_DONE_TIMEOUT (R123). -/
def execScanDoneTimeout (who : LeafId) (s : State) : Res :=
  leafStep who Leaf.scanTimeout s

/-- LHP_INITIATOR_RESPONSE (R449). -/
def execLhpInitiatorResponse (who : LeafId) (tag : BitVec 5) (err : Bool) (last : Bool) (data : List Byte) (s : State) : Res :=
  leafStep who (fun l => Leaf.initResponse l tag.toNat err last data) s

end Sys2Proof.Machine
end

