-- ==== Sys2Proof/Machine/ExecTransit.lean ====
section
/-! DEFINITION. Frames in transit: ROUTED at a Tervon (R250, R252), and any frame as it arrives at a port (R141, R143): one meaning per command. -/

namespace Sys2Proof.Machine

/-! ### Reading a carried payload -/

/-- The mirror item that 72 bytes spell; a reserved kind spells none (R357). -/
def MirrorItem.parse (bs : List Byte) : Option MirrorItem :=
  match field bs 0 1 with
  | 1 => some (.stream (BitVec.ofNat 20 (field bs 1 3)) (slice bs 8 64))
  | 2 => some (.image (BitVec.ofNat 24 (field bs 1 3)) (BitVec.ofNat 8 (field bs 4 1)) (BitVec.ofNat 16 (field bs 5 2))
      (BitVec.ofNat 96 (field bs 8 12)) (BitVec.ofNat 64 (field bs 20 8)) (w32 (field bs 28 4)))
  | 3 => some (.lease (BitVec.ofNat 24 (field bs 1 3)) (BitVec.ofNat 16 (field bs 5 2)) (BitVec.ofNat 64 (field bs 8 8)))
  | _ => none

/-- Mirror items, all of them or none. -/
def mirrorItems : List (List Byte) → Option (List MirrorItem)
  | [] => some []
  | b :: r =>
    match MirrorItem.parse b, mirrorItems r with
    | some i, some is => some (i :: is)
    | _, _ => none

/-- A reduction payload from its bytes (R253). -/
def ReduceP.parse (bs : List Byte) : ReduceP :=
  { instant := BitVec.ofNat 64 (field bs 0 8), id := BitVec.ofNat 8 (field bs 8 1), flags := BitVec.ofNat 8 (field bs 9 1),
    digest := w32 (field bs 12 4), leavesIn := BitVec.ofNat 16 (field bs 16 2), leavesOut := BitVec.ofNat 16 (field bs 18 2),
    tvIn := BitVec.ofNat 8 (field bs 20 1), tvOut := BitVec.ofNat 8 (field bs 21 1), elems := bs.drop 24 }

/-- A verdict record from its 60 bytes (R316). -/
def VerdictRec.parse (bs : List Byte) : VerdictRec :=
  { verdict := BitVec.ofNat 8 (field bs 0 1), reason := BitVec.ofNat 8 (field bs 1 1), flags := BitVec.ofNat 8 (field bs 2 1),
    quality := BitVec.ofNat 8 (field bs 3 1), checkpoint := BitVec.ofNat 16 (field bs 4 2), operation := BitVec.ofNat 16 (field bs 6 2),
    unit := BitVec.ofNat 16 (field bs 8 2), stage := BitVec.ofNat 16 (field bs 10 2), capture := w32 (field bs 12 4), step := w64 (field bs 16 8),
    firstElem := w32 (field bs 24 4), differing := w32 (field bs 28 4), ulp := w32 (field bs 32 4), modelId := w32 (field bs 36 4),
    modelDig := w64 (field bs 40 8), time := BitVec.ofNat 64 (field bs 48 8), did := BitVec.ofNat 24 (field bs 56 3) }

/-- The payload that a carried frame's bytes spell, for the types that one Tervon sends another (R146 to R163, R253, R357). -/
def Payload.parse (type : Nat) (bs : List Byte) : Option Payload :=
  let did : Did := BitVec.ofNat 24 (field bs 0 3)
  let half (o : Nat) : Half := BitVec.ofNat 16 (field bs o 2)
  let byte (o : Nat) : Byte := BitVec.ofNat 8 (field bs o 1)
  match type with
  | 0x08 => some (.leaseReq { op := byte 0, duration := half 2, epoch := half 4, did := BitVec.ofNat 24 (field bs 8 3) })
  | 0x09 => some (.leaseGrant { result := byte 0, holder := byte 1, epoch := half 2, duration := half 4, position := byte 6, ringLen := byte 7,
                                expiry := BitVec.ofNat 64 (field bs 8 8), serial := w64 (field bs 16 8), did := BitVec.ofNat 24 (field bs 24 3),
                                tq := BitVec.ofNat 4 (field bs 27 1) })
  | 0x24 => if crc32c (slice bs 8 60) = w32 (field bs 68 4) then some (.verdict did (w32 (field bs 4 4)) (VerdictRec.parse (slice bs 8 60))) else none
  | 0x28 => some (.regRd did (half 4) (half 6))
  | 0x29 => some (.regWr did (byte 3) (half 4) (half 6) (bs.drop 8))
  | 0x2A => some (.regRsp { status := byte 0, duplicate := bit (field bs 1 1) 0, data := (bs.drop 4).take (field bs 2 2) })
  | 0x2C => some (.appoint did (Appointment.parse (bs.drop 4)))
  | 0x31 => some (.reducePart (ReduceP.parse bs))
  | 0x32 => some (.reduceResult (ReduceP.parse bs))
  | 0x38 => (mirrorItems (chunks 72 ((bs.drop 8).take (72 * field bs 4 2)))).map fun is => .mirror (w32 (field bs 0 4)) is
  | 0x39 => some (.mirrorAck (w32 (field bs 0 4)) (w32 (field bs 4 4)))
  | 0x3A => some (.buddyState { time := BitVec.ofNat 64 (field bs 0 8), did := BitVec.ofNat 24 (field bs 8 3), flags := byte 11,
                                lastSent := w32 (field bs 12 4), lastApp := w32 (field bs 16 4), leases := w64 (field bs 20 8) })
  | 0x3B => some (.calReport { ring := byte 0, leaves := byte 1, exchanges := w32 (field bs 4 4), ownOffset := w64 (field bs 8 8),
                               channel := w64 (field bs 16 8), thetaB := (List.range 8).map fun i => w64 (field bs (24 + 8 * i) 8) })
  | 0x3C => some (.stateLoad (byte 0) (w32 (field bs 4 4)) (bs.drop 8))
  | 0x3D => some (.stateDone (w32 (field bs 0 4)) (w64 (field bs 4 8)) (w32 (field bs 12 4)))
  | 0x3E => some (.sleeping { state := byte 0, refType := byte 1, refTag := half 2, time := BitVec.ofNat 64 (field bs 8 8) })
  | _ => none

/-! ### ROUTED -/

def Tervon.countMisrouted (t : Tervon) (rx : Rx) : Tervon :=
  match rx.port with
  | .tv k => Tervon.modPort t k fun q => { q with misrouted := satAdd32 q.misrouted 1 }
  | _ => t

def Tervon.countMalformed (t : Tervon) (rx : Rx) : Tervon :=
  match rx.port with
  | .tv k => Tervon.modPort t k fun q => { q with malformed := satAdd32 q.malformed 1 }
  | _ => t

/-- The alive check of a carried frame, per source coordinate and class (R139, R252). -/
def Tervon.routeAlive (t : Tervon) (sx sy : Nat) (h : Hdr) : Tervon × Bool :=
  let key := 4 * (8 * sy + sx) + h.cls.toNat
  let next (t : Tervon) : Tervon := { t with routeRx := Cells.set none t.routeRx key (some (h.alive + 1)) }
  match Cells.get none t.routeRx key with
  | none => (next t, true)
  | some e =>
    if h.flags.getLsbD 2 || decide ((h.alive - e).toNat < 128) then (next t, true)
    else ({ t with routeStale := satAdd32 t.routeStale 1 }, false)

/-- A frame of the buddy, of any type, came over the torus: the buddy is not silent (R358). -/
def Tervon.noteCarried (t : Tervon) (src : Nat × Nat) : Tervon :=
  if src = Tervon.buddyXY t then { t with mir.lastFrame := some (Tervon.now t), mir.silent := false } else t

/-- A pair frame acts when its source is the buddy (R357). -/
def Tervon.fromBuddy (t : Tervon) (rx : Rx) (src : Nat × Nat) (act : Tervon → Tervon) : Tervon :=
  if src = Tervon.buddyXY t then act t else Tervon.countMisrouted t rx

/-- The effect of a carried frame by its type. -/
def Tervon.carriedAct (rx : Rx) (src : Nat × Nat) (h : Hdr) (p : Payload) (t : Tervon) : Tervon :=
  match p with
  | .reducePart r => if Tervon.elemsOk t r then Tervon.partFrom r src t else Tervon.countMalformed t rx
  | .reduceResult r => if Tervon.elemsOk t r then Tervon.resultFrom r src t else Tervon.countMalformed t rx
  | .mirror seq items => Tervon.fromBuddy t rx src (Tervon.mirrorIn seq items)
  | .mirrorAck seq _ => Tervon.fromBuddy t rx src (Tervon.mirrorAcked seq)
  | .buddyState b => Tervon.fromBuddy t rx src (Tervon.buddyIn b)
  | .calReport c => Tervon.fromBuddy t rx src fun t => Tervon.calReport t c
  | .stateLoad sect off d => Tervon.fromBuddy t rx src (Tervon.stateLoad sect.toNat off.toNat d)
  | .stateDone bm total crc => Tervon.fromBuddy t rx src (Tervon.stateDone bm.toNat total.toNat crc)
  | .regRd .. | .regWr .. | .appoint .. | .verdict .. | .leaseReq .. => Tervon.relay t h p (some src)
  | .regRsp r => Tervon.regRsp none h r t
  | .sleeping r => Tervon.sleeping none h r t
  | .leaseGrant g => Tervon.grantRelayed h g t
  | _ => Tervon.countMisrouted t rx

/-- The carried frame takes effect at its destination (R250, R358). -/
def Tervon.carried (rx : Rx) (src : Nat × Nat) (h : Hdr) (p : Payload) (t : Tervon) : Tervon := Tervon.carriedAct rx src h p (Tervon.noteCarried t src)

/-- Delivery of a carried frame at its destination: form (R140), alive count (R252), then its effect. -/
def Tervon.deliverRouted (t : Tervon) (rx : Rx) (src : Nat × Nat) (h : Hdr) (body : List Byte) : Tervon :=
  match Payload.parse h.type.toNat body with
  | none => Tervon.countMalformed t rx
  | some p =>
    if 2020 < body.length ∨ h.length.toNat ≠ body.length ∨ h.cls ≠ Payload.cls p ∨ Payload.len p ≠ body.length ∨ Payload.fieldBad p = true then
      Tervon.countMalformed t rx
    else
      let (t, ok) := Tervon.routeAlive t src.1 src.2 h
      if ok then Tervon.carried rx src h p t else t

/-- ROUTED at a Tervon (R250; log entry 62): delivery, the hop limit, and the first usable port. -/
def Tervon.routed (rx : Rx) (dx dy sx sy : BitVec 3) (hop : Byte) (h : Hdr) (body : List Byte) (t : Tervon) : Tervon :=
  if dx.toNat = Tervon.x t ∧ dy.toNat = Tervon.y t then Tervon.deliverRouted t rx (sx.toNat, sy.toNat) h body
  else if hop = 0 then Tervon.countMisrouted t rx
  else match Tervon.routePort t dx.toNat dy.toNat (some (rxPortNo rx)) with
    | some k => Tervon.send t k (mkFrame 0 0 0 t.boot.did (.routed dx dy sx sy (hop - 1) h body))
    | none => Tervon.countMisrouted t rx

/-- ROUTED (R250, R252). -/
def execRouted (rx : Rx) (dx dy sx sy : BitVec 3) (hop : Byte) (h : Hdr) (body : List Byte) (s : State) : Res :=
  tvStepR (fun t => Tervon.frameIn t rx (.routed dx dy sx sy hop h body) (Tervon.routed rx dx dy sx sy hop h body)) s

/-! ### Any frame at a port -/

/-- A lock op or a plain REG_WR at a leaf (R156, R394). -/
def transitRegWr (w : LeafId) (rx : Rx) (did : Did) (op : Byte) (off cnt : Half) (d : List Byte) (s : State) : Res :=
  leafStep w (fun l => Leaf.regWrFrame l rx did op off cnt d) s

/-- The four operations of LEASE_REQ at a leaf (R147); the field check of R140 refuses any other. -/
def transitLease (w : LeafId) (rx : Rx) (p : LeaseReqP) (s : State) : Res :=
  match p.op.toNat with
  | 0 => execLeaseAcquire w rx p s
  | 1 => execLeaseRenew w rx p s
  | 2 => execLeaseRelease w rx p s
  | 3 => execLeaseFence w rx p s
  | _ => leafStep w (fun l => Leaf.frameIn l rx (.leaseReq p) (.leaseReq p) id) s

/-- A frame arrives at a leaf: it forwards, consumes or discards it (R141); stamps are taken as it arrives (log entry 63). -/
def leafTransit (w : LeafId) (rx : Rx) (p : Payload) (s : State) : Res :=
  let l := State.leafNow s w
  let at' := TimeDom.stamp l.time
  let res := Config.residence l.free
  let s' := State.onLeaf s w fun l => { l with free := l.free + 1 }
  match p with
  | .timeSync q => execTimeSync (.leaf w) rx q at' res s'
  | .timeFollow q => execTimeFollow (.leaf w) rx q at' s
  | .delayReq q => execTimeDelayReq (.leaf w) rx q at' res s'
  | .delayResp q => execTimeDelayResp (.leaf w) rx q 0 s
  | .leaseReq q => transitLease w rx q s
  | .regRd did off cnt => execRegRd w rx did off cnt s
  | .regWr did op off cnt d => transitRegWr w rx did op off cnt d s
  | .appoint did a => execAppointFrame w rx did a s
  | .verdict did cap r => execVerdictFrame w rx did cap r s
  | p => leafStep w (fun l => Leaf.frameIn l rx p p id) s

/-- A request that a buddy sends for a leaf of the ring is relayed into it (R143, R159); elsewhere it has no effect at a Tervon. -/
def Tervon.relayFrame (rx : Rx) (p : Payload) (t : Tervon) : Tervon :=
  Tervon.frameIn t rx p fun t =>
    match rx.port with
    | .tv 8 => Tervon.relay t rx.hdr p none
    | _ => t

/-- A frame arrives at a Tervon's port: the effect of its type's own command, or its relay. -/
def tvTransit (rx : Rx) (p : Payload) (s : State) : Res :=
  let at' := TimeDom.stamp s.tv.time
  match p with
  | .timeSync q => execTimeSync .tervon rx q at' 0 s
  | .timeFollow q => execTimeFollow .tervon rx q at' s
  | .delayReq q => execTimeDelayReq .tervon rx q at' 0 s
  | .delayResp q => execTimeDelayResp .tervon rx q (Config.portTemp s.tv.free) (State.onTv s fun t => { t with free := t.free + 1 })
  | .leaseReq .. | .regRd .. | .regWr .. | .appoint .. | .verdict .. => tvStep (Tervon.relayFrame rx p) s
  | .leaseGrant q => execLeaseGrant rx q s
  | .tally h bs => execTallyFrame rx h bs s
  | .tallyEnd q => execTallyEndFrame rx q s
  | .hist h bs => execHistFrame rx h bs s
  | .health rs => execHealthFrame rx rs s
  | .trace core off bs => execTraceFrame rx core off bs s
  | .traceLoss bs => execTraceLossFrame rx bs s
  | .dump id entry kind status addr bs => execDumpFrame rx id entry kind status addr bs s
  | .captureDesc id total frames hdr => execCaptureDesc rx id total frames hdr s
  | .captureData id off bs => execCaptureData rx id off bs s
  | .regRsp q => execRegRsp rx q s
  | .sleeping q => execSleeping rx q s
  | .nop bs => tvStep (fun t => Tervon.frameIn t rx (.nop bs) id) s
  | .routed dx dy sx sy hop h body => execRouted rx dx dy sx sy hop h body s
  | .reducePart q => execReducePart rx q s
  | .reduceResult q => execReduceResult rx q s
  | .mirror seq items => execMirror rx seq items s
  | .mirrorAck seq d => execMirrorAck rx seq d s
  | .buddyState q => execBuddyState rx q s
  | .calReport q => execCalReport rx q s
  | .stateLoad sect off d => execStateLoad rx sect off d s
  | .stateDone bm total crc => execStateDone rx bm total crc s

/-- FRAME_TRANSIT (R141, R143): at the ring leaf, at the internal leaf's end of its link, or at a Tervon's port. -/
def execFrameTransit (port : PortId) (f : Frame) (s : State) : Res :=
  let rx : Rx := ⟨port, f.hdr, false, false⟩
  match port with
  | .west | .east => leafTransit .ring rx f.pay s
  | .internal => leafTransit .internal rx f.pay s
  | .tv _ => tvTransit rx f.pay s

end Sys2Proof.Machine
end

