-- ==== Sys2Proof/Machine/Dispatch.lean ====
section
/-! DEFINITION. One arm per command: a direct call of its meaning. -/

namespace Sys2Proof.Machine

/-- The effect of a command on everything but the queue. -/
def exec (i : Instr) (s : State) : Host.Outcome State Fault Refusal :=
  match i with
  | .exchangePeriod => Sys2Proof.Machine.execExchangePeriod s
  | .timeSync who rx p t2 residence => Sys2Proof.Machine.execTimeSync who rx p t2 residence s
  | .timeFollow who rx p t3 => Sys2Proof.Machine.execTimeFollow who rx p t3 s
  | .timeDelayReq who rx p t4 residence => Sys2Proof.Machine.execTimeDelayReq who rx p t4 residence s
  | .timeDelayResp who rx p tempC => Sys2Proof.Machine.execTimeDelayResp who rx p tempC s
  | .slewTick who => Sys2Proof.Machine.execSlewTick who s
  | .holdoverTimeout who => Sys2Proof.Machine.execHoldoverTimeout who s
  | .holdoverLong who => Sys2Proof.Machine.execHoldoverLong who s
  | .primaryLinkFail => Sys2Proof.Machine.execPrimaryLinkFail s
  | .ppsInEdge at' => Sys2Proof.Machine.execPpsInEdge at' s
  | .ref10mQualified => Sys2Proof.Machine.execRef10mQualified s
  | .ppsDisqualify => Sys2Proof.Machine.execPpsDisqualify s
  | .steerExpiry => Sys2Proof.Machine.execSteerExpiry s
  | .ppsOutEdge => Sys2Proof.Machine.execPpsOutEdge s
  | .timeCtlWrite who by' fn v => Sys2Proof.Machine.execTimeCtlWrite who by' fn v s
  | .timeCtlApply who => Sys2Proof.Machine.execTimeCtlApply who s
  | .portLatencyMeasure lat => Sys2Proof.Machine.execPortLatencyMeasure lat s
  | .ringCalibrationComplete ring data => Sys2Proof.Machine.execRingCalibrationComplete ring data s
  | .calibrationRerun ring hop data => Sys2Proof.Machine.execCalibrationRerun ring hop data s
  | .calReport rx p => Sys2Proof.Machine.execCalReport rx p s
  | .softwarePtpTransmit id port at' => Sys2Proof.Machine.execSoftwarePtpTransmit id port at' s
  | .softwarePtpReceive id port at' => Sys2Proof.Machine.execSoftwarePtpReceive id port at' s
  | .ptpTxqEntryRead => Sys2Proof.Machine.execPtpTxqEntryRead s
  | .ptpTxqPop => Sys2Proof.Machine.execPtpTxqPop s
  | .appoint job => Sys2Proof.Machine.execAppoint job s
  | .appointFrame who rx did a => Sys2Proof.Machine.execAppointFrame who rx did a s
  | .snapshot who slot => Sys2Proof.Machine.execSnapshot who slot s
  | .cellarEnter who slot => Sys2Proof.Machine.execCellarEnter who slot s
  | .modeSwitch who slot => Sys2Proof.Machine.execModeSwitch who slot s
  | .samplingRate who slot => Sys2Proof.Machine.execSamplingRate who slot s
  | .laneRecal who slot => Sys2Proof.Machine.execLaneRecal who slot s
  | .laneRecalComplete port => Sys2Proof.Machine.execLaneRecalComplete port s
  | .mark who slot => Sys2Proof.Machine.execMark who slot s
  | .stationEntryDrain who stn => Sys2Proof.Machine.execStationEntryDrain who stn s
  | .stationFreezeEdge who stn => Sys2Proof.Machine.execStationFreezeEdge who stn s
  | .freezeAckTimestamp who stn at' => Sys2Proof.Machine.execFreezeAckTimestamp who stn at' s
  | .freezeMarkerApplied who stn => Sys2Proof.Machine.execFreezeMarkerApplied who stn s
  | .histogramFreeze who => Sys2Proof.Machine.execHistogramFreeze who s
  | .stationStallTimeout who stn => Sys2Proof.Machine.execStationStallTimeout who stn s
  | .snapshotComplete who => Sys2Proof.Machine.execSnapshotComplete who s
  | .snapAckWrite who by' did q => Sys2Proof.Machine.execSnapAckWrite who by' did q s
  | .snapResendWrite who by' did q => Sys2Proof.Machine.execSnapResendWrite who by' did q s
  | .snapNowWrite who by' did v => Sys2Proof.Machine.execSnapNowWrite who by' did v s
  | .snapshotNow job => Sys2Proof.Machine.execSnapshotNow job s
  | .valuePortWrite who id hist data => Sys2Proof.Machine.execValuePortWrite who id hist data s
  | .histogramSampleApply who => Sys2Proof.Machine.execHistogramSampleApply who s
  | .timingStartEdge who pair at' => Sys2Proof.Machine.execTimingStartEdge who pair at' s
  | .timingStopEdge who pair at' => Sys2Proof.Machine.execTimingStopEdge who pair at' s
  | .thermalReading who samples => Sys2Proof.Machine.execThermalReading who samples s
  | .supplyMarginReading who samples => Sys2Proof.Machine.execSupplyMarginReading who samples s
  | .droopBegin who site at' => Sys2Proof.Machine.execDroopBegin who site at' s
  | .droopEnd who site at' => Sys2Proof.Machine.execDroopEnd who site at' s
  | .alarmEdge who input => Sys2Proof.Machine.execAlarmEdge who input s
  | .alarmRelease who input => Sys2Proof.Machine.execAlarmRelease who input s
  | .stuckActiveTimeout who input => Sys2Proof.Machine.execStuckActiveTimeout who input s
  | .chatterRecordTimer who input => Sys2Proof.Machine.execChatterRecordTimer who input s
  | .chatterRelease who input => Sys2Proof.Machine.execChatterRelease who input s
  | .heartbeatEdge who hb => Sys2Proof.Machine.execHeartbeatEdge who hb s
  | .heartbeatTimeout who hb => Sys2Proof.Machine.execHeartbeatTimeout who hb s
  | .hbCtlWrite who by' hb data => Sys2Proof.Machine.execHbCtlWrite who by' hb data s
  | .branchRetireCycle who port c => Sys2Proof.Machine.execBranchRetireCycle who port c s
  | .traceEntryEncode who port => Sys2Proof.Machine.execTraceEntryEncode who port s
  | .traceFlushIdle who port => Sys2Proof.Machine.execTraceFlushIdle who port s
  | .syncPeriodic who port => Sys2Proof.Machine.execSyncPeriodic who port s
  | .traceFrameCloseTimer who port => Sys2Proof.Machine.execTraceFrameCloseTimer who port s
  | .trcCtlWrite who by' v => Sys2Proof.Machine.execTrcCtlWrite who by' v s
  | .dumpCmdWrite who by' v => Sys2Proof.Machine.execDumpCmdWrite who by' v s
  | .dumpWalkStart who => Sys2Proof.Machine.execDumpWalkStart who s
  | .dumpWalkResume who => Sys2Proof.Machine.execDumpWalkResume who s
  | .dumpReadTimeout who tag => Sys2Proof.Machine.execDumpReadTimeout who tag s
  | .scanDone who => Sys2Proof.Machine.execScanDone who s
  | .scanDoneTimeout who => Sys2Proof.Machine.execScanDoneTimeout who s
  | .lhpInitiatorResponse who tag err last data => Sys2Proof.Machine.execLhpInitiatorResponse who tag err last data s
  | .spareLaneAligned port => Sys2Proof.Machine.execSpareLaneAligned port s
  | .laneReady port lane => Sys2Proof.Machine.execLaneReady port lane s
  | .laneSwap port lane => Sys2Proof.Machine.execLaneSwap port lane s
  | .damagedFrame port crcBad => Sys2Proof.Machine.execDamagedFrame port crcBad s
  | .ack port seq => Sys2Proof.Machine.execAck port seq s
  | .nak port seq => Sys2Proof.Machine.execNak port seq s
  | .ackTimer port => Sys2Proof.Machine.execAckTimer port s
  | .replayTimeout port => Sys2Proof.Machine.execReplayTimeout port s
  | .credit port cls count uncorrectable corrected => Sys2Proof.Machine.execCredit port cls count uncorrectable corrected s
  | .creditAdvertise port cls => Sys2Proof.Machine.execCreditAdvertise port cls s
  | .codewordLoss port => Sys2Proof.Machine.execCodewordLoss port s
  | .retrainComplete port lane => Sys2Proof.Machine.execRetrainComplete port lane s
  | .resume port seq free => Sys2Proof.Machine.execResume port seq free s
  | .portDownTimeout port => Sys2Proof.Machine.execPortDownTimeout port s
  | .trainingRetry port ok lane => Sys2Proof.Machine.execTrainingRetry port ok lane s
  | .linkTrained port => Sys2Proof.Machine.execLinkTrained port s
  | .probe port id len => Sys2Proof.Machine.execProbe port id len s
  | .probeEcho port id roundTrip => Sys2Proof.Machine.execProbeEcho port id roundTrip s
  | .frameTransit port f => Sys2Proof.Machine.execFrameTransit port f s
  | .frameBoundarySchedule port => Sys2Proof.Machine.execFrameBoundarySchedule port s
  | .shaperRefill port => Sys2Proof.Machine.execShaperRefill port s
  | .nopFrame who rx => Sys2Proof.Machine.execNopFrame who rx s
  | .leaseAcquire who rx p => Sys2Proof.Machine.execLeaseAcquire who rx p s
  | .leaseRenew who rx p => Sys2Proof.Machine.execLeaseRenew who rx p s
  | .leaseRelease who rx p => Sys2Proof.Machine.execLeaseRelease who rx p s
  | .leaseFence who rx p => Sys2Proof.Machine.execLeaseFence who rx p s
  | .leaseExpiry who => Sys2Proof.Machine.execLeaseExpiry who s
  | .leaseGrant rx p => Sys2Proof.Machine.execLeaseGrant rx p s
  | .attestationCheck ring pos answer => Sys2Proof.Machine.execAttestationCheck ring pos answer s
  | .takeoverDelayExpiry ring pos => Sys2Proof.Machine.execTakeoverDelayExpiry ring pos s
  | .leaseRenewDue ring pos => Sys2Proof.Machine.execLeaseRenewDue ring pos s
  | .leaseLostLocal ring pos => Sys2Proof.Machine.execLeaseLostLocal ring pos s
  | .fenceHoldExpiry ring pos => Sys2Proof.Machine.execFenceHoldExpiry ring pos s
  | .regRd who rx did off count => Sys2Proof.Machine.execRegRd who rx did off count s
  | .regWr who rx did off count data => Sys2Proof.Machine.execRegWr who rx did off count data s
  | .lockAcquire who by' did => Sys2Proof.Machine.execLockAcquire who by' did s
  | .lockedWrite who by' did off data => Sys2Proof.Machine.execLockedWrite who by' did off data s
  | .lockCommit who by' did => Sys2Proof.Machine.execLockCommit who by' did s
  | .lockAbandon who by' did => Sys2Proof.Machine.execLockAbandon who by' did s
  | .lockTimeout who => Sys2Proof.Machine.execLockTimeout who s
  | .regRsp rx p => Sys2Proof.Machine.execRegRsp rx p s
  | .ringRequestTimeout tag leaf => Sys2Proof.Machine.execRingRequestTimeout tag leaf s
  | .sleeping rx p => Sys2Proof.Machine.execSleeping rx p s
  | .tallyFrame rx h bytes => Sys2Proof.Machine.execTallyFrame rx h bytes s
  | .histFrame rx h bytes => Sys2Proof.Machine.execHistFrame rx h bytes s
  | .tallyEndFrame rx p => Sys2Proof.Machine.execTallyEndFrame rx p s
  | .watermarkLagExpiry instant => Sys2Proof.Machine.execWatermarkLagExpiry instant s
  | .streamAgingSweep => Sys2Proof.Machine.execStreamAgingSweep s
  | .healthFrame rx recs => Sys2Proof.Machine.execHealthFrame rx recs s
  | .traceFrame rx core offset bytes => Sys2Proof.Machine.execTraceFrame rx core offset bytes s
  | .traceLossFrame rx bytes => Sys2Proof.Machine.execTraceLossFrame rx bytes s
  | .dumpFrame rx id entry kind status address bytes => Sys2Proof.Machine.execDumpFrame rx id entry kind status address bytes s
  | .captureDesc rx id total frames hdr => Sys2Proof.Machine.execCaptureDesc rx id total frames hdr s
  | .captureData rx id offset bytes => Sys2Proof.Machine.execCaptureData rx id offset bytes s
  | .captureWindowExpiry did id => Sys2Proof.Machine.execCaptureWindowExpiry did id s
  | .batchWaitExpiry partition model digest => Sys2Proof.Machine.execBatchWaitExpiry partition model digest s
  | .recomputeComplete did id => Sys2Proof.Machine.execRecomputeComplete did id s
  | .retainedFetchComplete did id => Sys2Proof.Machine.execRetainedFetchComplete did id s
  | .verdictFrame who rx did capture r => Sys2Proof.Machine.execVerdictFrame who rx did capture r s
  | .capPostWrite who id data => Sys2Proof.Machine.execCapPostWrite who id data s
  | .captureProcess who => Sys2Proof.Machine.execCaptureProcess who s
  | .captureHoldExpiry who id => Sys2Proof.Machine.execCaptureHoldExpiry who id s
  | .capFetchWrite who by' did data => Sys2Proof.Machine.execCapFetchWrite who by' did data s
  | .stepWrite who by' data => Sys2Proof.Machine.execStepWrite who by' data s
  | .errRptWrite who by' data => Sys2Proof.Machine.execErrRptWrite who by' data s
  | .spareTileBistComplete tile pass => Sys2Proof.Machine.execSpareTileBistComplete tile pass s
  | .healthStoreAdmit who => Sys2Proof.Machine.execHealthStoreAdmit who s
  | .guardbandRequestStart who => Sys2Proof.Machine.execGuardbandRequestStart who s
  | .guardbandAck who res => Sys2Proof.Machine.execGuardbandAck who res s
  | .guardbandAckLow who => Sys2Proof.Machine.execGuardbandAckLow who s
  | .guardbandTimeout who => Sys2Proof.Machine.execGuardbandTimeout who s
  | .guardbandConflict who group => Sys2Proof.Machine.execGuardbandConflict who group s
  | .guardbandPortReset who => Sys2Proof.Machine.execGuardbandPortReset who s
  | .gbAcceptWrite who by' data => Sys2Proof.Machine.execGbAcceptWrite who by' data s
  | .pageWriteStart who => Sys2Proof.Machine.execPageWriteStart who s
  | .pageWriteComplete who verified => Sys2Proof.Machine.execPageWriteComplete who verified s
  | .vnvSag who below160 chunk => Sys2Proof.Machine.execVnvSag who below160 chunk s
  | .vnvResume who => Sys2Proof.Machine.execVnvResume who s
  | .operatingTimeTick who => Sys2Proof.Machine.execOperatingTimeTick who s
  | .ldgReadPage who by' page => Sys2Proof.Machine.execLdgReadPage who by' page s
  | .ldgProgramPage who by' page => Sys2Proof.Machine.execLdgProgramPage who by' page s
  | .attNonceWrite who by' word v => Sys2Proof.Machine.execAttNonceWrite who by' word v s
  | .attestationSigned who => Sys2Proof.Machine.execAttestationSigned who s
  | .cvStart who by' e => Sys2Proof.Machine.execCvStart who by' e s
  | .cvFeed who by' e data => Sys2Proof.Machine.execCvFeed who by' e data s
  | .cvResultRead who by' e => Sys2Proof.Machine.execCvResultRead who by' e s
  | .cvSave who by' e => Sys2Proof.Machine.execCvSave who by' e s
  | .cvRestore who by' e v alive => Sys2Proof.Machine.execCvRestore who by' e v alive s
  | .cvCtlWrite who by' e v => Sys2Proof.Machine.execCvCtlWrite who by' e v s
  | .seqRestartCurrent who by' => Sys2Proof.Machine.execSeqRestartCurrent who by' s
  | .seqRestartOther who by' => Sys2Proof.Machine.execSeqRestartOther who by' s
  | .sequencerWatchdog who => Sys2Proof.Machine.execSequencerWatchdog who s
  | .sequencerBoot who => Sys2Proof.Machine.execSequencerBoot who s
  | .lowWordRead target => Sys2Proof.Machine.execLowWordRead target s
  | .registerWrite target data => Sys2Proof.Machine.execRegisterWrite target data s
  | .wakePhrase who => Sys2Proof.Machine.execWakePhrase who s
  | .cellarCommit who => Sys2Proof.Machine.execCellarCommit who s
  | .leafWakeStart who => Sys2Proof.Machine.execLeafWakeStart who s
  | .hdLcGood who => Sys2Proof.Machine.execHdLcGood who s
  | .leafWakeComplete who => Sys2Proof.Machine.execLeafWakeComplete who s
  | .tervonCellarJobTimeout => Sys2Proof.Machine.execTervonCellarJobTimeout s
  | .pwrWakeWrite fn v => Sys2Proof.Machine.execPwrWakeWrite fn v s
  | .wakeAtReached => Sys2Proof.Machine.execWakeAtReached s
  | .tervonWake => Sys2Proof.Machine.execTervonWake s
  | .vddLcLoss who => Sys2Proof.Machine.execVddLcLoss who s
  | .retentionLoss who => Sys2Proof.Machine.execRetentionLoss who s
  | .leafColdReset who cause failedCounters => Sys2Proof.Machine.execLeafColdReset who cause failedCounters s
  | .leafCoreReset who => Sys2Proof.Machine.execLeafCoreReset who s
  | .hostPortReset who => Sys2Proof.Machine.execHostPortReset who s
  | .stationReset who stn => Sys2Proof.Machine.execStationReset who stn s
  | .tracePortReset who port => Sys2Proof.Machine.execTracePortReset who port s
  | .tervonColdReset cause => Sys2Proof.Machine.execTervonColdReset cause s
  | .tervonWarmReset => Sys2Proof.Machine.execTervonWarmReset s
  | .mctpResetRequest => Sys2Proof.Machine.execMctpResetRequest s
  | .tervonBootReady failedTiles => Sys2Proof.Machine.execTervonBootReady failedTiles s
  | .setupCommit v => Sys2Proof.Machine.execSetupCommit v s
  | .stewardRestart n => Sys2Proof.Machine.execStewardRestart n s
  | .functionLevelReset fn => Sys2Proof.Machine.execFunctionLevelReset fn s
  | .busMasterDisable fn => Sys2Proof.Machine.execBusMasterDisable fn s
  | .commandDoorbell fn ring w => Sys2Proof.Machine.execCommandDoorbell fn ring w s
  | .completionDoorbell fn w => Sys2Proof.Machine.execCompletionDoorbell fn w s
  | .recordDoorbell fn w => Sys2Proof.Machine.execRecordDoorbell fn w s
  | .descriptorFetch fn ring r => Sys2Proof.Machine.execDescriptorFetch fn ring r s
  | .msixCoalesceExpiry fn vector => Sys2Proof.Machine.execMsixCoalesceExpiry fn vector s
  | .ringEnWrite fn ring en => Sys2Proof.Machine.execRingEnWrite fn ring en s
  | .ringArm fn ring => Sys2Proof.Machine.execRingArm fn ring s
  | .nop job => Sys2Proof.Machine.execNop job s
  | .leafCfgApply job input => Sys2Proof.Machine.execLeafCfgApply job input s
  | .leafRegRead job => Sys2Proof.Machine.execLeafRegRead job s
  | .leafRegWrite job input => Sys2Proof.Machine.execLeafRegWrite job input s
  | .streamDefine job => Sys2Proof.Machine.execStreamDefine job s
  | .streamRemove job => Sys2Proof.Machine.execStreamRemove job s
  | .streamRestore job input => Sys2Proof.Machine.execStreamRestore job input s
  | .streamQuery job => Sys2Proof.Machine.execStreamQuery job s
  | .checkpoint job => Sys2Proof.Machine.execCheckpoint job s
  | .reduceDefine job => Sys2Proof.Machine.execReduceDefine job s
  | .reduceRemove job => Sys2Proof.Machine.execReduceRemove job s
  | .reduceLocalWaitExpiry instant => Sys2Proof.Machine.execReduceLocalWaitExpiry instant s
  | .reducePartDeadline instant => Sys2Proof.Machine.execReducePartDeadline instant s
  | .reducePart rx p => Sys2Proof.Machine.execReducePart rx p s
  | .reduceResult rx p => Sys2Proof.Machine.execReduceResult rx p s
  | .reduceResultLost instant => Sys2Proof.Machine.execReduceResultLost instant s
  | .routed rx dx dy sx sy hop h body => Sys2Proof.Machine.execRouted rx dx dy sx sy hop h body s
  | .earlyWaitExpiry cls instant => Sys2Proof.Machine.execEarlyWaitExpiry cls instant s
  | .closeExpiry cls instant => Sys2Proof.Machine.execCloseExpiry cls instant s
  | .kaleLoad job input => Sys2Proof.Machine.execKaleLoad job input s
  | .kaleUnload job => Sys2Proof.Machine.execKaleUnload job s
  | .kaleScore job input => Sys2Proof.Machine.execKaleScore job input s
  | .kaleWindowLoaded tile => Sys2Proof.Machine.execKaleWindowLoaded tile s
  | .kalePlacementComplete fn ens => Sys2Proof.Machine.execKalePlacementComplete fn ens s
  | .kaleScrubCompare tile => Sys2Proof.Machine.execKaleScrubCompare tile s
  | .assayModelLoad job input => Sys2Proof.Machine.execAssayModelLoad job input s
  | .assayModelUnload job => Sys2Proof.Machine.execAssayModelUnload job s
  | .assayPolicy job => Sys2Proof.Machine.execAssayPolicy job s
  | .assaySubmit job input => Sys2Proof.Machine.execAssaySubmit job input s
  | .cooperCompress job input => Sys2Proof.Machine.execCooperCompress job input s
  | .cooperDecompress job input => Sys2Proof.Machine.execCooperDecompress job input s
  | .dumpFetch job => Sys2Proof.Machine.execDumpFetch job s
  | .ledgerRead job => Sys2Proof.Machine.execLedgerRead job s
  | .rosterAdmitGiven job input => Sys2Proof.Machine.execRosterAdmitGiven job input s
  | .rosterAdmitObserved job => Sys2Proof.Machine.execRosterAdmitObserved job s
  | .rosterFence job => Sys2Proof.Machine.execRosterFence job s
  | .rosterRetire job => Sys2Proof.Machine.execRosterRetire job s
  | .partitionCommit job input => Sys2Proof.Machine.execPartitionCommit job input s
  | .partitionDrainTimeout partition => Sys2Proof.Machine.execPartitionDrainTimeout partition s
  | .tileClearComplete tile => Sys2Proof.Machine.execTileClearComplete tile s
  | .timeAdjustSetSecond job => Sys2Proof.Machine.execTimeAdjustSetSecond job s
  | .timeAdjustSteer job => Sys2Proof.Machine.execTimeAdjustSteer job s
  | .timeAdjustSendPtp job input => Sys2Proof.Machine.execTimeAdjustSendPtp job input s
  | .abort job => Sys2Proof.Machine.execAbort job s
  | .mirrorPeriod => Sys2Proof.Machine.execMirrorPeriod s
  | .mirror rx seq items => Sys2Proof.Machine.execMirror rx seq items s
  | .mirrorAck rx seq discarded => Sys2Proof.Machine.execMirrorAck rx seq discarded s
  | .mirrorLagLimit => Sys2Proof.Machine.execMirrorLagLimit s
  | .buddyStatePeriod => Sys2Proof.Machine.execBuddyStatePeriod s
  | .buddyState rx p => Sys2Proof.Machine.execBuddyState rx p s
  | .buddyStateAbsent => Sys2Proof.Machine.execBuddyStateAbsent s
  | .buddySilent => Sys2Proof.Machine.execBuddySilent s
  | .stateLoad rx sect offset data => Sys2Proof.Machine.execStateLoad rx sect offset data s
  | .stateDone rx bitmap total crc => Sys2Proof.Machine.execStateDone rx bitmap total crc s
  | .rosterSilentTimeout ring pos => Sys2Proof.Machine.execRosterSilentTimeout ring pos s
  | .warmRosterHbmUpdate => Sys2Proof.Machine.execWarmRosterHbmUpdate s
  | .warmRosterNorUpdate => Sys2Proof.Machine.execWarmRosterNorUpdate s
  | .larderFreeRingRefill pool => Sys2Proof.Machine.execLarderFreeRingRefill pool s
  | .sramPatrolScrub r => Sys2Proof.Machine.execSramPatrolScrub r s
  | .hbmPatrolScrub addr => Sys2Proof.Machine.execHbmPatrolScrub addr s
  | .hbmRowRepairComplete stack channel row => Sys2Proof.Machine.execHbmRowRepairComplete stack channel row s
  | .eccTestRead fn v => Sys2Proof.Machine.execEccTestRead fn v s
  | .eccTestWrite fn v => Sys2Proof.Machine.execEccTestWrite fn v s
  | .ref10mDisqualify => Sys2Proof.Machine.execRef10mDisqualify s
  | .stationClockEdge who stn lines slotVld slots => Sys2Proof.Machine.execStationClockEdge who stn lines slotVld slots s
  | .capturePullTimeout who => Sys2Proof.Machine.execCapturePullTimeout who s
  | .conflictRequestLow who => Sys2Proof.Machine.execConflictRequestLow who s
  | .hostPortResetRelease who => Sys2Proof.Machine.execHostPortResetRelease who s
  | .wakeBurst port target burst => Sys2Proof.Machine.execWakeBurst port target burst s
  | .unknownControlBlock port type => Sys2Proof.Machine.execUnknownControlBlock port type s
  | .malformedFrame port h received => Sys2Proof.Machine.execMalformedFrame port h received s

end Sys2Proof.Machine
end

