-- ==== Sys2Proof/Safety.lean ====
section
/-! DEFINITION. The terms of the claims: which states are wired as the part is built, a port of the block by its name, and which part a command acts
on. -/

namespace Sys2Proof.Machine

/-- The block is put together as the spec builds it: a ring leaf, and a Tervon with an internal leaf that takes its time directly from the Tervon's
time domain (R40, R220). -/
def Wired (s : State) : Prop :=
  s.leaf.kind = .ring ∧ s.tv.ileaf.kind = .internal ∧ s.tv.ileaf.time = s.tv.time

/-- The port exists: a leaf on a ring has a west and an east port, the internal leaf its internal link, and the Tervon ports 0 to 12. -/
def State.hasPort (s : State) : PortId → Prop
  | .west | .east => s.leaf.kind = .ring
  | .internal => s.tv.ileaf.kind = .internal
  | .tv k => k ≤ 12 ∧ k < s.tv.ports.length

/-- The link layer of a port. -/
def State.port (s : State) : PortId → LinkPort
  | .west => s.leaf.ring.west
  | .east => s.leaf.ring.east
  | .internal => s.tv.ileaf.ring.west
  | .tv k => Tervon.port s.tv k

/-- The time, in whole ns, of the part that has the port. -/
def State.portNow (s : State) : PortId → Nat
  | .west | .east => Leaf.now s.leaf
  | .internal => Leaf.now (State.leafNow s .internal)
  | .tv _ => Tervon.now s.tv

/-- Put a link layer into a port, with what the port puts out. -/
def State.putPort (s : State) (p : PortId) (r : LinkRes) : State :=
  match p with
  | .west | .east => State.putLeaf s .ring (Leaf.putLink s.leaf p r)
  | .internal => State.putLeaf s .internal (Leaf.putLink (State.leafNow s .internal) p r)
  | .tv k => State.putTv s (Tervon.putLink s.tv k r)

/-- In every state whose leaf `who` meets `H`, the command completes, turns that leaf into `E` of it, and changes nothing else. -/
def LeafDoes (c : Instr) (who : LeafId) (H : Leaf → Prop) (E : Leaf → Leaf) : Prop :=
  ∀ s : State, H (State.leafNow s who) → exec c s = .next (State.putLeaf s who (E (State.leafNow s who)))

/-- In every state whose leaf `who` meets `H`, the command completes, turns that leaf into one that `P` relates to it, and changes nothing else. -/
def LeafGives (c : Instr) (who : LeafId) (H : Leaf → Prop) (P : Leaf → Leaf → Prop) : Prop :=
  ∀ s : State, H (State.leafNow s who) → ∃ l, exec c s = .next (State.putLeaf s who l) ∧ P (State.leafNow s who) l

/-- In every state whose Tervon meets `H`, the command completes, turns the Tervon into `E` of it, and changes nothing else. -/
def TvDoes (c : Instr) (H : Tervon → Prop) (E : Tervon → Tervon) : Prop :=
  ∀ s : State, H s.tv → exec c s = .next (State.putTv s (E s.tv))

/-- In every state whose Tervon meets `H`, the command completes, turns the Tervon into one that `P` relates to it, and changes nothing else. -/
def TvGives (c : Instr) (H : Tervon → Prop) (P : Tervon → Tervon → Prop) : Prop :=
  ∀ s : State, H s.tv → ∃ t, exec c s = .next (State.putTv s t) ∧ P s.tv t

/-- In every state whose Tervon meets `H`, the command completes and turns the Tervon into `E` of it; a change of the class that this makes is
reported (R390), and nothing else changes. -/
def TimeDoes (c : Instr) (H : Tervon → Prop) (E : Tervon → Tervon) : Prop := TvDoes c H fun t => Tervon.noteClass (E t)

/-- The same of a command on the leaf that raises health records: the internal leaf's go at once to its Tervon, which takes up what they change
(R186, R192, R220). -/
def EitherLeafDoes (c : LeafId → Instr) (H : Leaf → Prop) (E : Leaf → Leaf) : Prop :=
  LeafDoes (c .ring) .ring H E ∧
  TvDoes (c .internal) (fun t => H (Tervon.ileafNow t)) fun t => Tervon.partsSettle (Tervon.retireCheck (Tervon.onIleaf t E))

/-- In every state that has the port and whose link layer meets `H` at its part's time, the command completes, turns that link layer into `E` of it,
puts out what `E` gives, and changes nothing else. -/
def PortDoes (c : Instr) (p : PortId) (H : Nat → LinkPort → Prop) (E : Nat → LinkPort → LinkRes) : Prop :=
  ∀ s : State, State.hasPort s p → H (State.portNow s p) (State.port s p) →
    exec c s = .next (State.putPort s p (E (State.portNow s p) (State.port s p)))

/-! ### Frames received -/

/-- A leaf receives a frame and acts on it: its port is up and expects the frame's sequence (R132), the frame is well formed (R140), addressed to
this leaf by a Tervon (R141, R144), fresh (R139), and the leaf is awake or the frame is one that Cellar admits (R162). -/
def Leaf.Receives (l : Leaf) (rx : Rx) (p : Payload) : Prop :=
  Leaf.hasPort l rx.port = true ∧ (Leaf.port l rx.port).link = 2 ∧ rx.hdr.linkSeq = (Leaf.port l rx.port).rxSeq ∧
  frameBad rx.hdr p = false ∧ Leaf.mine l rx.hdr = true ∧ fromLeafType rx.hdr.type = false ∧
  (LinkPort.checkAlive (Leaf.port l rx.port) rx.hdr).2 = true ∧ (Leaf.asleep l = true → Payload.inCellar p = true)

/-- The port after its link layer accepted a frame: the next sequence is expected, and an ACK goes out after every 16 frames (R132). -/
def LinkPort.accepted (p : PortId) (q : LinkPort) (now : Nat) : LinkRes :=
  let q' := { q with rxSeq := q.rxSeq + 1, nakSent := false, sinceAck := q.sinceAck + 1, seen := true }
  if 16 ≤ q.sinceAck + 1 then ({ q' with sinceAck := 0, lastAck := now }, [.ctl p (.ack q.rxSeq)]) else (q', [])

/-- The port after it received a frame: besides, the alive count is noted and the frame's credits are granted back (R135, R139). -/
def LinkPort.received (p : PortId) (q : LinkPort) (h : Hdr) (now : Nat) : LinkRes :=
  let r := LinkPort.accepted p q now
  (LinkPort.grant (LinkPort.checkAlive r.1 h).1 h.cls.toNat (credits h.length.toNat), r.2)

/-- The leaf after its link layer received a frame. -/
def Leaf.received (l : Leaf) (rx : Rx) : Leaf :=
  Leaf.putLink l rx.port (LinkPort.received rx.port (Leaf.port l rx.port) rx.hdr (Leaf.now l))

/-- A leaf's link layer takes a well-formed frame that goes on through its other port (R141). -/
def Leaf.Passes (l : Leaf) (rx : Rx) (p : Payload) : Prop :=
  Leaf.hasPort l rx.port = true ∧ (Leaf.port l rx.port).link = 2 ∧ rx.hdr.linkSeq = (Leaf.port l rx.port).rxSeq ∧
  frameBad rx.hdr p = false ∧ Leaf.mine l rx.hdr = false ∧ Leaf.beyond l rx.port rx.hdr = true

/-- The leaf after its link layer took a frame that goes on: its credits wait until the frame has left (R130, R135). -/
def Leaf.taken (l : Leaf) (rx : Rx) : Leaf := Leaf.putLink l rx.port (LinkPort.accepted rx.port (Leaf.port l rx.port) (Leaf.now l))

/-- The payload of a REG_WR of words at an offset (R156). -/
def wordWrite (did : Did) (off : Nat) (ws : List Word) : Payload :=
  .regWr did 0 (BitVec.ofNat 16 off) (BitVec.ofNat 16 (4 * ws.length)) (ws.flatMap fun w => le 4 w.toNat)

/-- A leaf takes a plain REG_WR of `n` words at an offset: it receives the frame, which is addressed to its DID by its lease holder under a write tag
that is not kept, has the length that its count gives, and is not refused by the lock (R22, R144, R156, R161, R394). -/
def Leaf.TakesWrite (l : Leaf) (rx : Rx) (did : Did) (off : Nat) (ws : List Word) : Prop :=
  Leaf.Receives l rx (wordWrite did off ws) ∧ did = (Leaf.received l rx).ring.did ∧ Leaf.keptTag (Leaf.received l rx) rx.hdr = none ∧
  Leaf.fromHolder (Leaf.received l rx) rx.hdr = true ∧ rx.hdr.length.toNat = 8 + 4 * ws.length ∧ 0 < ws.length ∧ ws.length ≤ 128 ∧
  regRangeOk off (4 * ws.length) = true ∧ ((Leaf.received l rx).cfg.lock.owner = 0 ∨ unlocked off = true)

/-- The answer to a REG_WR: REG_RSP with the status, which is kept under the write tag (R157, R161). -/
def Leaf.ringAnswer (rx : Rx) (r : WriteRes) : Leaf := Leaf.finishWrite r.1 rx r.2.1 r.2.2

/-- A leaf takes a write through its open host port, not refused by the lock (R394, R448, R449). -/
def Leaf.TakesHost (l : Leaf) (off : Nat) : Prop :=
  Leaf.portOpen l = true ∧ off ≠ 0x54 ∧ (l.cfg.lock.owner = 0 ∨ unlocked off = true)

/-- The answer of the host port to a write: without error for status 0 (R448). -/
def Leaf.hostAnswer (r : WriteRes) : Leaf := if r.2.1 = 0 then Leaf.answer r.1 0 else Leaf.answerError r.1

/-- A Tervon receives a frame and acts on it: the port is there and expects the frame's sequence, or the frame comes over the internal link; the
frame is well formed (R140), on a ring port it is addressed to this end by a leaf or carries the time (R141, R144), and it is fresh (R139). -/
def Tervon.Receives (t : Tervon) (rx : Rx) (p : Payload) : Prop :=
  (match rx.port with
    | .tv k => k ≤ 12 ∧ (Tervon.port t k).link = 2 ∧ rx.hdr.linkSeq = (Tervon.port t k).rxSeq ∧
        (LinkPort.checkAlive (Tervon.port t k) rx.hdr).2 = true ∧
        (k < 8 → rx.hdr.dst.toNat = Tervon.endCode t ∧
          (fromLeafType rx.hdr.type = true ∨ rx.hdr.type = 0x3F ∨ rx.hdr.type.toNat < 3))
    | .internal => (LinkPort.checkAlive t.ilink rx.hdr).2 = true
    | _ => False) ∧
  Tervon.frameBad rx p = false

/-- The Tervon after its link layer received a frame: its port, and when the leaf behind it or its buddy was last heard of (R132, R135, R139,
R360). -/
def Tervon.received (t : Tervon) (rx : Rx) : Tervon :=
  Tervon.noteFrame
    (match rx.port with
      | .tv k =>
        let r := LinkPort.received rx.port (Tervon.port t k) rx.hdr (Tervon.now t)
        Tervon.emitAll (Tervon.setPort t k r.1) r.2
      | _ => { t with ilink := (LinkPort.checkAlive (LinkPort.grant t.ilink rx.hdr.cls.toNat (credits rx.hdr.length.toNat)) rx.hdr).1 }) rx

/-- The effect of a command that may change what retires or fails a tile: the Tervon then settles its partitions and its Tinkers (R197, R326). -/
def Tervon.settled (t : Tervon) : Tervon := Tervon.partsSettle (Tervon.retireCheck t)

/-- A command of the command ring has its effect in every state that holds its job, started and with its opcode, when `H` holds too (R378, R381). -/
def JobDoes (c : JobRef → Instr) (op : Nat) (H : Job → Tervon → Prop) (E : Job → Tervon → Tervon) : Prop :=
  ∀ (r : JobRef) (j : Job), TvDoes (c r) (fun t => Tervon.job? t r = some j ∧ j.started = true ∧ Job.op j = op ∧ H j t) (E j)

/-- A frame that a Tervon receives and acts on has its effect on the Tervon whose link layer received it. -/
def FrameDoes (c : Instr) (rx : Rx) (p : Payload) (H : Tervon → Prop) (E : Tervon → Tervon) : Prop :=
  TvDoes c (fun t => Tervon.Receives t rx p ∧ H (Tervon.received t rx)) fun t => E (Tervon.received t rx)

/-- A frame of classes 1 to 3 has its effect when it comes from an admitted position, or from the internal leaf, under the epoch of the lease that
the Tervon holds (R351, R360). -/
def LeafFrameDoes (c : Instr) (rx : Rx) (p : Payload) (H : Nat → Tervon → Prop) (E : Nat → Tervon → Tervon) : Prop :=
  ∀ key : Nat, rxKey rx = some key →
    FrameDoes c rx p (fun t => Tervon.epochOk t key rx.hdr = true ∧ (key = ileafKey ∨ (Tervon.ent t key).state = 1) ∧ H key t) (E key)

/-- A command names a ring and a position, or the internal leaf as ring 8 and position 0. -/
def KeyDoes (c : Nat → Nat → Instr) (H : Nat → Tervon → Prop) (E : Nat → Tervon → Tervon) : Prop :=
  ∀ ring pos key : Nat, keyNamed ring pos = some key → TvDoes (c ring pos) (H key) (E key)

end Sys2Proof.Machine
end

