-- ==== Sys2Proof/WellFormed.lean ====
section
/-! DEFINITION. Well-formed commands: every operand names something that the block has. A command that is ill formed still completes, and changes
nothing where it names nothing (log entry 1). -/

namespace Sys2Proof

/-- Which operand of a command is ill formed. -/
inductive IllFormed where
  /-- A port that the part does not have (R128). -/
  | port
  /-- A frame at a port that is not the receiving part's (R128, R220). -/
  | rxPort
  /-- A requester by frame at such a port (R156). -/
  | requester
  /-- An appointment slot past 15 on a leaf, past 63 on a Tervon (R55). -/
  | slot
  /-- A station past 255 (R63). -/
  | station
  /-- A sensor site past 47 (R87). -/
  | site
  /-- A leaf port past 7 (R128). -/
  | ring
  /-- A ring and position that name no leaf (R128, R220). -/
  | position
  /-- A hop past the last of a ring of 8 (R43). -/
  | hop
  /-- A lane past the 5 of the widest port (R128). -/
  | lane
  /-- A job of no function or command ring (R371). -/
  | job
  /-- A function past 16 (R371). -/
  | function
  /-- A ring that a function does not have (R444). -/
  | hostRing
  /-- An MSI-X vector past 15 (R373). -/
  | vector
  /-- A partition past 15 (R215). -/
  | partition
  /-- A tile past the last one (R203). -/
  | tile
  /-- A counter past 4,095 (R68). -/
  | counter
  /-- A Gleaner class past 63 (R255). -/
  | glnClass
  /-- A Larder pool past 4 (R396). -/
  | pool
  /-- A patrol scrub of a memory that is neither global nor tile SRAM (R416). -/
  | scrub
  /-- An HBM stack or channel that is not there (R366). -/
  | row
  /-- A register target of no requester or function (R371, R433). -/
  | target
  deriving DecidableEq, Repr

/-- The ports of the model: the ring leaf's two, the Tervon's 13 and the internal link (R128, R220). -/
def portOk : PortId → Bool
  | .west | .east | .internal => true
  | .tv k => decide (k ≤ 12)

/-- A leaf receives at its own ports: the ring leaf at its west and east ports, the internal leaf over the internal link. -/
def leafRxOk (who : LeafId) (rx : Rx) : Bool :=
  match who, rx.port with
  | .ring, .west | .ring, .east => true
  | .internal, .internal => true
  | _, _ => false

/-- A Tervon receives at its ports and over the internal link. -/
def tvRxOk (rx : Rx) : Bool :=
  match rx.port with
  | .tv k => decide (k ≤ 12)
  | .internal => true
  | _ => false

def partRxOk (who : Part) (rx : Rx) : Bool :=
  match who with
  | .leaf w => leafRxOk w rx
  | .tervon => tvRxOk rx

def requesterOk (who : LeafId) : Requester → Bool
  | .host _ => true
  | .ring rx => leafRxOk who rx

def partRequesterOk (who : Part) (q : Requester) : Bool :=
  match who with
  | .leaf w => requesterOk w q
  | .tervon => true

def slotOk (who : Part) (slot : Nat) : Bool :=
  match who with
  | .leaf _ => decide (slot < 16)
  | .tervon => decide (slot < 64)

/-- A ring and position name a leaf: 8 rings of at most 8 leaves, and ring 8 position 0 the internal leaf. -/
def placeOk (ring pos : Nat) : Bool := decide (ring < 8 ∧ pos < 8) || decide (ring = 8 ∧ pos = 0)

def jobOk (r : JobRef) : Bool := decide (r.fn ≤ 16) && decide (r.ring < 4)

/-- Patrol scrubs of SRAM: the global SRAM (1), or a tile's (2) of 36 (R203, R416). -/
def scrubOk (r : ScrubRead) : Bool := decide (r.target = 1) || (decide (r.target = 2) && decide (r.tile < 36))

def targetOk : RegTarget → Bool
  | .leaf who by' _ => requesterOk who by'
  | .bar b => decide (b.fn ≤ 16)
  | .command fn => decide (fn ≤ 16)

/-- The first operand in fault. -/
def firstBad : List (IllFormed × Bool) → Option IllFormed
  | [] => none
  | (e, ok) :: r => if ok then firstBad r else some e

/-- What is wrong with a command, if anything. -/
def Instr.illFormed (i : Instr) : Option IllFormed :=
  match i with
  | .exchangePeriod => none
  | .timeSync who rx _ _ _ => firstBad [(.rxPort, (partRxOk who rx))]
  | .timeFollow who rx _ _ => firstBad [(.rxPort, (partRxOk who rx))]
  | .timeDelayReq who rx _ _ _ => firstBad [(.rxPort, (partRxOk who rx))]
  | .timeDelayResp who rx _ _ => firstBad [(.rxPort, (partRxOk who rx))]
  | .slewTick _ => none
  | .holdoverTimeout _ => none
  | .holdoverLong _ => none
  | .primaryLinkFail => none
  | .ppsInEdge _ => none
  | .ref10mQualified => none
  | .ppsDisqualify => none
  | .steerExpiry => none
  | .ppsOutEdge => none
  | .timeCtlWrite who by' fn _ => firstBad [(.requester, (partRequesterOk who by')), (.function, (decide (fn ≤ 16)))]
  | .timeCtlApply _ => none
  | .portLatencyMeasure _ => none
  | .ringCalibrationComplete ring _ => firstBad [(.ring, (decide (ring < 8)))]
  | .calibrationRerun ring hop _ => firstBad [(.ring, (decide (ring < 8))), (.hop, (decide (hop ≤ 8)))]
  | .calReport rx _ => firstBad [(.rxPort, (tvRxOk rx))]
  | .softwarePtpTransmit _ _ _ => none
  | .softwarePtpReceive _ _ _ => none
  | .ptpTxqEntryRead => none
  | .ptpTxqPop => none
  | .appoint job => firstBad [(.job, (jobOk job))]
  | .appointFrame who rx _ _ => firstBad [(.rxPort, (leafRxOk who rx))]
  | .snapshot who slot => firstBad [(.slot, (slotOk who slot))]
  | .cellarEnter who slot => firstBad [(.slot, (slotOk who slot))]
  | .modeSwitch who slot => firstBad [(.slot, (slotOk who slot))]
  | .samplingRate who slot => firstBad [(.slot, (slotOk who slot))]
  | .laneRecal who slot => firstBad [(.slot, (slotOk who slot))]
  | .laneRecalComplete port => firstBad [(.port, (portOk port))]
  | .mark who slot => firstBad [(.slot, (slotOk who slot))]
  | .stationEntryDrain _ stn => firstBad [(.station, (decide (stn < 256)))]
  | .stationFreezeEdge _ stn => firstBad [(.station, (decide (stn < 256)))]
  | .freezeAckTimestamp _ stn _ => firstBad [(.station, (decide (stn < 256)))]
  | .freezeMarkerApplied _ stn => firstBad [(.station, (decide (stn < 256)))]
  | .histogramFreeze _ => none
  | .stationStallTimeout _ stn => firstBad [(.station, (decide (stn < 256)))]
  | .snapshotComplete _ => none
  | .snapAckWrite who by' _ _ => firstBad [(.requester, (requesterOk who by'))]
  | .snapResendWrite who by' _ _ => firstBad [(.requester, (requesterOk who by'))]
  | .snapNowWrite who by' _ _ => firstBad [(.requester, (requesterOk who by'))]
  | .snapshotNow job => firstBad [(.job, (jobOk job))]
  | .valuePortWrite _ _ _ _ => none
  | .histogramSampleApply _ => none
  | .timingStartEdge _ _ _ => none
  | .timingStopEdge _ _ _ => none
  | .thermalReading _ samples => firstBad [(.site, (samples.all fun x => decide (x.site < 48)))]
  | .supplyMarginReading _ samples => firstBad [(.site, (samples.all fun x => decide (x.site < 48)))]
  | .droopBegin _ site _ => firstBad [(.site, (decide (site < 48)))]
  | .droopEnd _ site _ => firstBad [(.site, (decide (site < 48)))]
  | .alarmEdge _ _ => none
  | .alarmRelease _ _ => none
  | .stuckActiveTimeout _ _ => none
  | .chatterRecordTimer _ _ => none
  | .chatterRelease _ _ => none
  | .heartbeatEdge _ _ => none
  | .heartbeatTimeout _ _ => none
  | .hbCtlWrite who by' _ _ => firstBad [(.requester, (requesterOk who by'))]
  | .branchRetireCycle _ _ _ => none
  | .traceEntryEncode _ _ => none
  | .traceFlushIdle _ _ => none
  | .syncPeriodic _ _ => none
  | .traceFrameCloseTimer _ _ => none
  | .trcCtlWrite who by' _ => firstBad [(.requester, (requesterOk who by'))]
  | .dumpCmdWrite who by' _ => firstBad [(.requester, (requesterOk who by'))]
  | .dumpWalkStart _ => none
  | .dumpWalkResume _ => none
  | .dumpReadTimeout _ _ => none
  | .scanDone _ => none
  | .scanDoneTimeout _ => none
  | .lhpInitiatorResponse _ _ _ _ _ => none
  | .spareLaneAligned port => firstBad [(.port, (portOk port))]
  | .laneReady port lane => firstBad [(.port, (portOk port)), (.lane, (decide (lane < 5)))]
  | .laneSwap port lane => firstBad [(.port, (portOk port)), (.lane, (decide (lane < 5)))]
  | .damagedFrame port _ => firstBad [(.port, (portOk port))]
  | .ack port _ => firstBad [(.port, (portOk port))]
  | .nak port _ => firstBad [(.port, (portOk port))]
  | .ackTimer port => firstBad [(.port, (portOk port))]
  | .replayTimeout port => firstBad [(.port, (portOk port))]
  | .credit port _ _ _ _ => firstBad [(.port, (portOk port))]
  | .creditAdvertise port _ => firstBad [(.port, (portOk port))]
  | .codewordLoss port => firstBad [(.port, (portOk port))]
  | .retrainComplete port lane => firstBad [(.port, (portOk port)), (.lane, (decide (lane < 5)))]
  | .resume port _ _ => firstBad [(.port, (portOk port))]
  | .portDownTimeout port => firstBad [(.port, (portOk port))]
  | .trainingRetry port _ lane => firstBad [(.port, (portOk port)), (.lane, (decide (lane < 5)))]
  | .linkTrained port => firstBad [(.port, (portOk port))]
  | .probe port _ _ => firstBad [(.port, (portOk port))]
  | .probeEcho port _ _ => firstBad [(.port, (portOk port))]
  | .frameTransit port _ => firstBad [(.port, (portOk port))]
  | .frameBoundarySchedule port => firstBad [(.port, (portOk port))]
  | .shaperRefill port => firstBad [(.port, (portOk port))]
  | .nopFrame who rx => firstBad [(.rxPort, (partRxOk who rx))]
  | .leaseAcquire who rx _ => firstBad [(.rxPort, (leafRxOk who rx))]
  | .leaseRenew who rx _ => firstBad [(.rxPort, (leafRxOk who rx))]
  | .leaseRelease who rx _ => firstBad [(.rxPort, (leafRxOk who rx))]
  | .leaseFence who rx _ => firstBad [(.rxPort, (leafRxOk who rx))]
  | .leaseExpiry _ => none
  | .leaseGrant rx _ => firstBad [(.rxPort, (tvRxOk rx))]
  | .attestationCheck ring pos _ => firstBad [(.position, (placeOk ring pos))]
  | .takeoverDelayExpiry ring pos => firstBad [(.position, (placeOk ring pos))]
  | .leaseRenewDue ring pos => firstBad [(.position, (placeOk ring pos))]
  | .leaseLostLocal ring pos => firstBad [(.position, (placeOk ring pos))]
  | .fenceHoldExpiry ring pos => firstBad [(.position, (placeOk ring pos))]
  | .regRd who rx _ _ _ => firstBad [(.rxPort, (leafRxOk who rx))]
  | .regWr who rx _ _ _ _ => firstBad [(.rxPort, (leafRxOk who rx))]
  | .lockAcquire who by' _ => firstBad [(.requester, (requesterOk who by'))]
  | .lockedWrite who by' _ _ _ => firstBad [(.requester, (requesterOk who by'))]
  | .lockCommit who by' _ => firstBad [(.requester, (requesterOk who by'))]
  | .lockAbandon who by' _ => firstBad [(.requester, (requesterOk who by'))]
  | .lockTimeout _ => none
  | .regRsp rx _ => firstBad [(.rxPort, (tvRxOk rx))]
  | .ringRequestTimeout _ _ => none
  | .sleeping rx _ => firstBad [(.rxPort, (tvRxOk rx))]
  | .tallyFrame rx _ _ => firstBad [(.rxPort, (tvRxOk rx))]
  | .histFrame rx _ _ => firstBad [(.rxPort, (tvRxOk rx))]
  | .tallyEndFrame rx _ => firstBad [(.rxPort, (tvRxOk rx))]
  | .watermarkLagExpiry _ => none
  | .streamAgingSweep => none
  | .healthFrame rx _ => firstBad [(.rxPort, (tvRxOk rx))]
  | .traceFrame rx _ _ _ => firstBad [(.rxPort, (tvRxOk rx))]
  | .traceLossFrame rx _ => firstBad [(.rxPort, (tvRxOk rx))]
  | .dumpFrame rx _ _ _ _ _ _ => firstBad [(.rxPort, (tvRxOk rx))]
  | .captureDesc rx _ _ _ _ => firstBad [(.rxPort, (tvRxOk rx))]
  | .captureData rx _ _ _ => firstBad [(.rxPort, (tvRxOk rx))]
  | .captureWindowExpiry _ _ => none
  | .batchWaitExpiry partition _ _ => firstBad [(.partition, (decide (partition < 16)))]
  | .recomputeComplete _ _ => none
  | .retainedFetchComplete _ _ => none
  | .verdictFrame who rx _ _ _ => firstBad [(.rxPort, (leafRxOk who rx))]
  | .capPostWrite _ _ _ => none
  | .captureProcess _ => none
  | .captureHoldExpiry _ _ => none
  | .capFetchWrite who by' _ _ => firstBad [(.requester, (requesterOk who by'))]
  | .stepWrite who by' _ => firstBad [(.requester, (requesterOk who by'))]
  | .errRptWrite who by' _ => firstBad [(.requester, (requesterOk who by'))]
  | .spareTileBistComplete tile _ => firstBad [(.tile, (decide (tile < 36)))]
  | .healthStoreAdmit _ => none
  | .guardbandRequestStart _ => none
  | .guardbandAck _ _ => none
  | .guardbandAckLow _ => none
  | .guardbandTimeout _ => none
  | .guardbandConflict _ _ => none
  | .guardbandPortReset _ => none
  | .gbAcceptWrite who by' _ => firstBad [(.requester, (requesterOk who by'))]
  | .pageWriteStart _ => none
  | .pageWriteComplete _ _ => none
  | .vnvSag _ _ _ => none
  | .vnvResume _ => none
  | .operatingTimeTick _ => none
  | .ldgReadPage who by' _ => firstBad [(.requester, (requesterOk who by'))]
  | .ldgProgramPage who by' _ => firstBad [(.requester, (requesterOk who by'))]
  | .attNonceWrite who by' _ _ => firstBad [(.requester, (requesterOk who by'))]
  | .attestationSigned _ => none
  | .cvStart who by' _ => firstBad [(.requester, (requesterOk who by'))]
  | .cvFeed who by' _ _ => firstBad [(.requester, (requesterOk who by'))]
  | .cvResultRead who by' _ => firstBad [(.requester, (requesterOk who by'))]
  | .cvSave who by' _ => firstBad [(.requester, (requesterOk who by'))]
  | .cvRestore who by' _ _ _ => firstBad [(.requester, (requesterOk who by'))]
  | .cvCtlWrite who by' _ _ => firstBad [(.requester, (requesterOk who by'))]
  | .seqRestartCurrent who by' => firstBad [(.requester, (requesterOk who by'))]
  | .seqRestartOther who by' => firstBad [(.requester, (requesterOk who by'))]
  | .sequencerWatchdog _ => none
  | .sequencerBoot _ => none
  | .lowWordRead target => firstBad [(.target, (targetOk target))]
  | .registerWrite target _ => firstBad [(.target, (targetOk target))]
  | .wakePhrase _ => none
  | .cellarCommit _ => none
  | .leafWakeStart _ => none
  | .hdLcGood _ => none
  | .leafWakeComplete _ => none
  | .tervonCellarJobTimeout => none
  | .pwrWakeWrite fn _ => firstBad [(.function, (decide (fn ≤ 16)))]
  | .wakeAtReached => none
  | .tervonWake => none
  | .vddLcLoss _ => none
  | .retentionLoss _ => none
  | .leafColdReset _ _ failedCounters => firstBad [(.counter, (failedCounters.all fun x => decide (x < 4096)))]
  | .leafCoreReset _ => none
  | .hostPortReset _ => none
  | .stationReset _ stn => firstBad [(.station, (decide (stn < 256)))]
  | .tracePortReset _ _ => none
  | .tervonColdReset _ => none
  | .tervonWarmReset => none
  | .mctpResetRequest => none
  | .tervonBootReady failedTiles => firstBad [(.tile, (failedTiles.all fun x => decide (x < 36)))]
  | .setupCommit _ => none
  | .stewardRestart _ => none
  | .functionLevelReset fn => firstBad [(.function, (decide (fn ≤ 16)))]
  | .busMasterDisable fn => firstBad [(.function, (decide (fn ≤ 16)))]
  | .commandDoorbell fn ring _ => firstBad [(.function, (decide (fn ≤ 16))), (.hostRing, (decide (ring < 4)))]
  | .completionDoorbell fn _ => firstBad [(.function, (decide (fn ≤ 16)))]
  | .recordDoorbell fn _ => firstBad [(.function, (decide (fn ≤ 16)))]
  | .descriptorFetch fn ring _ => firstBad [(.function, (decide (fn ≤ 16))), (.hostRing, (decide (ring < 4)))]
  | .msixCoalesceExpiry fn vector => firstBad [(.function, (decide (fn ≤ 16))), (.vector, (decide (vector < 16)))]
  | .ringEnWrite fn ring _ => firstBad [(.function, (decide (fn ≤ 16))), (.hostRing, (decide (ring < 6)))]
  | .ringArm fn ring => firstBad [(.function, (decide (fn ≤ 16))), (.hostRing, (decide (ring < 6)))]
  | .nop job => firstBad [(.job, (jobOk job))]
  | .leafCfgApply job _ => firstBad [(.job, (jobOk job))]
  | .leafRegRead job => firstBad [(.job, (jobOk job))]
  | .leafRegWrite job _ => firstBad [(.job, (jobOk job))]
  | .streamDefine job => firstBad [(.job, (jobOk job))]
  | .streamRemove job => firstBad [(.job, (jobOk job))]
  | .streamRestore job _ => firstBad [(.job, (jobOk job))]
  | .streamQuery job => firstBad [(.job, (jobOk job))]
  | .checkpoint job => firstBad [(.job, (jobOk job))]
  | .reduceDefine job => firstBad [(.job, (jobOk job))]
  | .reduceRemove job => firstBad [(.job, (jobOk job))]
  | .reduceLocalWaitExpiry _ => none
  | .reducePartDeadline _ => none
  | .reducePart rx _ => firstBad [(.rxPort, (tvRxOk rx))]
  | .reduceResult rx _ => firstBad [(.rxPort, (tvRxOk rx))]
  | .reduceResultLost _ => none
  | .routed rx _ _ _ _ _ _ _ => firstBad [(.rxPort, (tvRxOk rx))]
  | .earlyWaitExpiry cls _ => firstBad [(.glnClass, (decide (cls < 64)))]
  | .closeExpiry cls _ => firstBad [(.glnClass, (decide (cls < 64)))]
  | .kaleLoad job _ => firstBad [(.job, (jobOk job))]
  | .kaleUnload job => firstBad [(.job, (jobOk job))]
  | .kaleScore job _ => firstBad [(.job, (jobOk job))]
  | .kaleWindowLoaded tile => firstBad [(.tile, (decide (tile < 32)))]
  | .kalePlacementComplete fn _ => firstBad [(.function, (decide (fn ≤ 16)))]
  | .kaleScrubCompare tile => firstBad [(.tile, (decide (tile < 32)))]
  | .assayModelLoad job _ => firstBad [(.job, (jobOk job))]
  | .assayModelUnload job => firstBad [(.job, (jobOk job))]
  | .assayPolicy job => firstBad [(.job, (jobOk job))]
  | .assaySubmit job _ => firstBad [(.job, (jobOk job))]
  | .cooperCompress job _ => firstBad [(.job, (jobOk job))]
  | .cooperDecompress job _ => firstBad [(.job, (jobOk job))]
  | .dumpFetch job => firstBad [(.job, (jobOk job))]
  | .ledgerRead job => firstBad [(.job, (jobOk job))]
  | .rosterAdmitGiven job _ => firstBad [(.job, (jobOk job))]
  | .rosterAdmitObserved job => firstBad [(.job, (jobOk job))]
  | .rosterFence job => firstBad [(.job, (jobOk job))]
  | .rosterRetire job => firstBad [(.job, (jobOk job))]
  | .partitionCommit job _ => firstBad [(.job, (jobOk job))]
  | .partitionDrainTimeout partition => firstBad [(.partition, (decide (partition < 16)))]
  | .tileClearComplete tile => firstBad [(.tile, (decide (tile < 32)))]
  | .timeAdjustSetSecond job => firstBad [(.job, (jobOk job))]
  | .timeAdjustSteer job => firstBad [(.job, (jobOk job))]
  | .timeAdjustSendPtp job _ => firstBad [(.job, (jobOk job))]
  | .abort job => firstBad [(.job, (jobOk job))]
  | .mirrorPeriod => none
  | .mirror rx _ _ => firstBad [(.rxPort, (tvRxOk rx))]
  | .mirrorAck rx _ _ => firstBad [(.rxPort, (tvRxOk rx))]
  | .mirrorLagLimit => none
  | .buddyStatePeriod => none
  | .buddyState rx _ => firstBad [(.rxPort, (tvRxOk rx))]
  | .buddyStateAbsent => none
  | .buddySilent => none
  | .stateLoad rx _ _ _ => firstBad [(.rxPort, (tvRxOk rx))]
  | .stateDone rx _ _ _ => firstBad [(.rxPort, (tvRxOk rx))]
  | .rosterSilentTimeout ring pos => firstBad [(.position, (placeOk ring pos))]
  | .warmRosterHbmUpdate => none
  | .warmRosterNorUpdate => none
  | .larderFreeRingRefill pool => firstBad [(.pool, (decide (pool < 5)))]
  | .sramPatrolScrub r => firstBad [(.scrub, (scrubOk r))]
  | .hbmPatrolScrub _ => none
  | .hbmRowRepairComplete stack channel _ => firstBad [(.row, (decide (stack < 6 ∧ channel < 32)))]
  | .eccTestRead fn _ => firstBad [(.function, (decide (fn ≤ 16)))]
  | .eccTestWrite fn _ => firstBad [(.function, (decide (fn ≤ 16)))]
  | .ref10mDisqualify => none
  | .stationClockEdge _ stn _ _ _ => firstBad [(.station, (decide (stn < 256)))]
  | .capturePullTimeout _ => none
  | .conflictRequestLow _ => none
  | .hostPortResetRelease _ => none
  | .wakeBurst port _ _ => firstBad [(.port, (portOk port))]
  | .unknownControlBlock port _ => firstBad [(.port, (portOk port))]
  | .malformedFrame port _ _ => firstBad [(.port, (portOk port))]

/-- The command is well formed. -/
def Instr.wellFormed (i : Instr) : Bool := decide (Instr.illFormed i = none)

end Sys2Proof
end

