-- ==== Sys2Proof/Certificates/Slice0/Obligations.lean ====
section
/-! DEFINITION. The statements for the provers. A claim says of one command in which states it completes and what it then leaves; each obligation joins
the claims of one family. A claim that names the next state whole says with it that nothing else changes. -/

open Sys2Proof Sys2Proof.Machine

namespace Sys2Proof.Claims

/-! ### The link layer -/

/-- ACK releases the frames up to the sequence named, which is progress (R132, R134). -/
def AckReleases : Prop :=
  ∀ (s : State) (p : PortId) (seq : BitVec 12) (i : Nat), State.hasPort s p → (State.port s p).link = 2 →
    (State.port s p).replay.findIdx? (fun f => decide (f.hdr.linkSeq = seq)) = some i →
    exec (.ack p seq) s = .next (State.putPort s p
      ({ State.port s p with replay := (State.port s p).replay.drop (i + 1), fruitless := 0, lastProgress := State.portNow s p,
                             retrain := if (State.port s p).resumed then none else (State.port s p).retrain, resumed := false }, []))

/-- What a replay does to a port at an instant: every unacknowledged frame again, from the oldest, or a retrain after four without progress. -/
def replayed (p : PortId) (q : LinkPort) (now : Nat) : LinkRes :=
  if q.fruitless < 4 then
    ({ q with fruitless := q.fruitless + 1, lastProgress := now, replays := satAdd32 q.replays 1 }, q.replay.map fun f => .tx p true f)
  else (LinkPort.startRetrain q now, [])

/-- NAK replays (R133). -/
def NakReplays : Prop :=
  ∀ (s : State) (p : PortId) (seq : BitVec 12), State.hasPort s p → (State.port s p).link = 2 → (State.port s p).replay ≠ [] →
    exec (.nak p seq) s = .next (State.putPort s p (replayed p (State.port s p) (State.portNow s p)))

/-- 4 µs without ACK progress replay (R133). -/
def ReplayTimeoutReplays : Prop :=
  ∀ (s : State) (p : PortId), State.hasPort s p → (State.port s p).link = 2 → (State.port s p).replay ≠ [] →
    (State.port s p).lastProgress + 4000 ≤ State.portNow s p →
    exec (.replayTimeout p) s = .next (State.putPort s p (replayed p (State.port s p) (State.portNow s p)))

/-- An ACK at least every 1 µs (R132). -/
def AckTimerAcks : Prop :=
  ∀ (s : State) (p : PortId), State.hasPort s p → (State.port s p).link = 2 → (State.port s p).lastAck + 1000 ≤ State.portNow s p →
    exec (.ackTimer p) s = .next (State.putPort s p
      ({ State.port s p with sinceAck := 0, lastAck := State.portNow s p }, [.ctl p (.ack ((State.port s p).rxSeq - 1))]))

/-- A damaged frame is counted, and the first one sends a NAK of the sequence expected (R133). -/
def DamagedFrameNaks : Prop :=
  ∀ (s : State) (p : PortId) (bad : Bool), State.hasPort s p → (State.port s p).link = 2 →
    exec (.damagedFrame p bad) s = .next (State.putPort s p
      ({ State.port s p with badCrc := if bad then satAdd32 (State.port s p).badCrc 1 else (State.port s p).badCrc,
                             uncorr := if bad then (State.port s p).uncorr else (State.port s p).uncorr + 1, nakSent := true },
       if (State.port s p).nakSent then [] else [.ctl p (.nak (State.port s p).rxSeq)]))

/-- CREDIT sets the cumulative count of its class; more than 4 uncorrectable codewords, or more corrected ones than the limit set, start a lane
move (R129, R135). -/
def CreditSets : Prop :=
  ∀ (s : State) (p : PortId) (c : BitVec 2) (n : Half) (u k : Nat), State.hasPort s p → (State.port s p).link = 2 →
    exec (.credit p c n u k) s = .next (State.putPort s p
      (let q := { State.port s p with credTx := Quad.set (State.port s p).credTx c.toNat n }
       (if u ≤ 4 ∧ k ≤ q.laneCtl.toNat then q else LinkPort.startMove q (LinkPort.activeLane q) false, [])))

/-- A port advertises the credits of a class while their count changes (R135). -/
def CreditAdvertised : Prop :=
  ∀ (s : State) (p : PortId) (c : BitVec 2), State.hasPort s p → (State.port s p).link = 2 →
    Quad.get (State.port s p).credRx c.toNat ≠ Quad.get (State.port s p).credSent c.toNat →
    exec (.creditAdvertise p c) s = .next (State.putPort s p
      ({ State.port s p with credSent := Quad.set (State.port s p).credSent c.toNat (Quad.get (State.port s p).credRx c.toNat), uncorr := 0 },
       [.ctl p (.credit c (Quad.get (State.port s p).credRx c.toNat) (State.port s p).uncorr 0)]))

/-- 20 µs without a codeword start a retrain; the failure began when the codewords stopped (R134). -/
def CodewordLossRetrains : Prop :=
  ∀ (s : State) (p : PortId), State.hasPort s p → (State.port s p).link = 2 →
    exec (.codewordLoss p) s = .next (State.putPort s p
      ({ State.port s p with link := 1, retrain := some ((State.port s p).retrain.getD (State.portNow s p)), fruitless := 0, move := none,
                             failedAt := if (State.port s p).retrain.isSome then (State.port s p).failedAt else State.portNow s p - 20000 }, []))

/-- RESUME replays from the sequence named with the free space named (R134). -/
def ResumeReplays : Prop :=
  ∀ (s : State) (p : PortId) (seq : BitVec 12) (a b c d : Byte) (i : Nat), State.hasPort s p → (State.port s p).retrain ≠ none →
    (State.port s p).replay.findIdx? (fun f => decide (f.hdr.linkSeq = seq)) = some i →
    exec (.resume p seq [a, b, c, d]) s = .next (State.putPort s p
      (let rest := (State.port s p).replay.drop i
       ({ State.port s p with replay := rest, credTx := ⟨a.setWidth 16, b.setWidth 16, c.setWidth 16, d.setWidth 16⟩, credUsed := usedBy rest,
                              lastProgress := State.portNow s p, link := 2, resumed := !rest.isEmpty,
                              retrain := if rest.isEmpty then none else (State.port s p).retrain },
        rest.map fun f => .tx p true f)))

/-- The receiver of an aligned spare lane answers LANE_READY (R129). -/
def SpareAlignedAnswers : Prop :=
  ∀ (s : State) (p : PortId), State.hasPort s p → (State.port s p).link = 2 →
    exec (.spareLaneAligned p) s = .next (State.putPort s p (State.port s p, [.ctl p (.laneReady (State.port s p).rxSpare)]))

/-- LANE_SWAP at the receiver: the lane it names carries traffic, and the spare is the lowest other lane (R129). -/
def LaneSwapSwaps : Prop :=
  ∀ (s : State) (p : PortId), State.hasPort s p → (State.port s p).lanes = 2 → (State.port s p).rxSpare < 2 →
    exec (.laneSwap p (State.port s p).rxSpare) s = .next (State.putPort s p
      ({ State.port s p with rxSpare := 1 - (State.port s p).rxSpare }, []))

/-- A recalibrated lane is the spare again, and a halted direction resumes (R129, R130). -/
def RecalCompletes : Prop :=
  ∀ (s : State) (p : PortId), State.hasPort s p → (State.port s p).recal ≠ none →
    exec (.laneRecalComplete p) s = .next (State.putPort s p ({ State.port s p with recal := none, halted := false }, []))

/-- A control block of an unknown type is discarded and counted; a known one is no business of this row (R131). -/
def UnknownBlockCounted : Prop :=
  ∀ (s : State) (p : PortId) (b : Byte), State.hasPort s p →
    exec (.unknownControlBlock p b) s = .next (State.putPort s p
      (if knownBlock b then State.port s p else { State.port s p with ctlDiscarded := satAdd32 (State.port s p).ctlDiscarded 1 }, []))

/-- A refill adds each class's rate up to its depth, and settings written take effect (R166, R167). -/
def ShaperRefills : Prop :=
  ∀ (s : State) (p : PortId), State.hasPort s p →
    (State.port s p).lastRefill + bits (State.port s p).shpCtl.toNat 11 8 ≤ State.portNow s p / 250 →
    exec (.shaperRefill p) s = .next (State.putPort s p
      (let q := State.port s p
       let tok (c : Nat) : Int :=
         min (Quad.get q.tokens c + (bits (Quad.get q.shpNext c).toNat 15 0 : Int)) (bits (Quad.get q.shpNext c).toNat 31 16 : Int)
       ({ q with shp := q.shpNext, tokens := ⟨tok 0, tok 1, tok 2, tok 3⟩, shpCtl := q.shpCtlNext,
                 drrArmed := q.drrArmed || decide (q.drrNext ≠ q.drr), lastRefill := State.portNow s p / 250 }, [])))

/-! ### Training, discovery and port failure -/

/-- The ring leaf's two ports. -/
def ringPort (p : PortId) : Prop := p = .west ∨ p = .east

/-- The link after traffic moved to a spare lane: the old lane is the spare, recalibrating when the move was for that (R129, R130). -/
def laneMoved (p : PortId) (q : LinkPort) (m : LaneMove) (now : Nat) : LinkRes :=
  let q' := { q with move := none, txSpare := m.source, recal := if m.recal then some m.source else q.recal }
  (if m.recal then q' else LinkPort.noteMove q' m.source now, [.ctl p (.laneSwap m.target)])

/-- LANE_READY at a leaf moves the traffic, and the calibration of that hop reruns (R45, R129). -/
def LeafLaneReady : Prop :=
  ∀ (s : State) (p : PortId) (m : LaneMove) (n : Nat), ringPort p → s.leaf.kind = .ring → (State.port s p).move = some m →
    s.leaf.ring.position = some n →
    exec (.laneReady p m.target) s = .next (State.putLeaf s .ring
      (let l := Leaf.putLink s.leaf p (laneMoved p (State.port s p) m (Leaf.now s.leaf))
       { l with time := { l.time with rerunHop := some (if p = .west then n else n + 1) } }))

/-- LANE_READY at a Tervon moves the traffic; on a leaf port its own hop of the ring is calibrated again (R45, R129). -/
def TervonLaneReady : Prop :=
  ∀ (s : State) (k : Nat) (m : LaneMove), k ≤ 12 → (Tervon.port s.tv k).move = some m →
    exec (.laneReady (.tv k) m.target) s = .next (State.putTv s
      (let t := Tervon.putLink s.tv k (laneMoved (.tv k) (Tervon.port s.tv k) m (Tervon.now s.tv))
       if k < 8 then Tervon.setRingEnd t k { Tervon.ringEnd t k with rerun := some (if Tervon.isB t then Tervon.ringLen t k else 0) } else t))

/-- The free space that a RESUME names, per class. -/
def freeSpaces (q : LinkPort) (held : Quad Nat) : Quad Half :=
  let f (c : Nat) : Half := BitVec.ofNat 16 (LinkPort.freeSpace q held c)
  ⟨f 0, f 1, f 2, f 3⟩

/-- A lane trained on a port of more than two lanes: RESUME goes out with the sequence expected and the free space, and the link is up (R134). -/
def retrainedLink (p : PortId) (q : LinkPort) (held : Quad Nat) (lane : Nat) : LinkRes :=
  ({ q with trainFails := Cells.set 0 q.trainFails lane 0, link := 2, resumed := true, nakSent := false, credRx := freeSpaces q held,
            credSent := freeSpaces q held },
   [.ctl p (.resume q.rxSeq ((List.range 4).map fun c => BitVec.ofNat 8 (LinkPort.freeSpace q held c)))])

/-- RETRAIN_COMPLETE with a lane that traffic already used. -/
def LeafRetrainCompletes : Prop :=
  ∀ (s : State) (p : PortId) (lane : Nat), ringPort p → s.leaf.kind = .ring → (State.port s p).link = 1 → (State.port s p).retrain ≠ none →
    lane ≠ (State.port s p).txSpare →
    exec (.retrainComplete p lane) s = .next (State.putLeaf s .ring
      (Leaf.putLink s.leaf p (retrainedLink p (State.port s p) (Leaf.inTransit s.leaf p) lane)))

def TervonRetrainCompletes : Prop :=
  ∀ (s : State) (k lane : Nat), k ≤ 12 → (Tervon.port s.tv k).link = 1 → (Tervon.port s.tv k).retrain ≠ none → lane ≠ (Tervon.port s.tv k).txSpare →
    exec (.retrainComplete (.tv k) lane) s = .next (State.putTv s
      (Tervon.putLink s.tv k (retrainedLink (.tv k) (Tervon.port s.tv k) (Quad.all 0) lane)))

/-- A port of the ring leaf that did not retrain within 10 ms is down, its buffers are discarded and counted; the filter of the source behind it is
dropped (R48, R134). -/
def LeafPortDown : Prop :=
  ∀ (s : State) (p : PortId) (t0 : Nat), ringPort p → s.leaf.kind = .ring → (State.port s p).retrain = some t0 →
    t0 + 10000000 ≤ Leaf.now s.leaf →
    exec (.portDownTimeout p) s = .next (State.putLeaf s .ring
      (Leaf.dumpPortDown (Leaf.dropFilter (Leaf.putLink s.leaf p (LinkPort.goDown (State.port s p) (Leaf.now s.leaf), [])) p) p))

/-- The same at a Tervon's peer or leaf port, with a LOSS record of the frames at risk (R25, R134). -/
def TervonPortDown : Prop :=
  ∀ (s : State) (k t0 : Nat), k ≤ 12 → (Tervon.port s.tv k).retrain = some t0 → t0 + 10000000 ≤ Tervon.now s.tv →
    exec (.portDownTimeout (.tv k)) s = .next (State.putTv s
      (let q := Tervon.port s.tv k
       let t := Tervon.record (Tervon.setPort s.tv k (LinkPort.goDown q (Tervon.now s.tv))) 0 9 0 didNone
         (lossBody 1 k (satAt 0xFFFFFFFF (LinkPort.atRisk q)) q.failedAt (Tervon.now s.tv) (Cells.get 0 s.tv.tt.failCls k))
       if k < 8 then t
       else if k = 8 then Tervon.unmirror t
       else { t with time := TimeDom.setSource t.time (k - 9) { TimeDom.source t.time (k - 9) with filt := none } }))

/-- A port that goes down is empty: no frame waits for an ACK or to be sent, and every frame it discarded is counted (R134). -/
def PortDownEmpties : Prop :=
  ∀ (q : LinkPort) (now : Nat),
    (LinkPort.goDown q now).link = 0 ∧ (LinkPort.goDown q now).replay = [] ∧ (LinkPort.goDown q now).own = Quad.all [] ∧
    (LinkPort.goDown q now).downDiscards = satAdd32 q.downDiscards (LinkPort.atRisk q) ∧ (LinkPort.goDown q now).transit = q.transit

/-- A retry of training that fails is tried again 100 ms later (R134, R364). -/
def LeafTrainingRetryFails : Prop :=
  ∀ (s : State) (p : PortId) (lane : Nat), ringPort p → s.leaf.kind = .ring → (State.port s p).link = 0 →
    (State.port s p).downAt + 100000000 ≤ Leaf.now s.leaf →
    exec (.trainingRetry p false lane) s = .next (State.putPort s p
      ({ LinkPort.trainFailed (State.port s p) lane with downAt := Leaf.now s.leaf }, []))

/-- A link of the ring leaf comes up with its sequences and credits afresh (R135, R430). -/
def LeafLinkTrained : Prop :=
  ∀ (s : State) (p : PortId), ringPort p → s.leaf.kind = .ring → (State.port s p).link = 0 →
    exec (.linkTrained p) s = .next (State.putPort s p
      (LinkPort.bringUp (State.port s p) (Leaf.inTransit s.leaf p) (Leaf.now s.leaf), []))

/-- A Tervon's leaf port comes up, and the end that discovers sends its PROBE (R430). -/
def TervonLinkTrained : Prop :=
  ∀ (s : State) (k : Nat), k ≤ 12 → Tervon.portEnabled s.tv k = true → (Tervon.port s.tv k).link = 0 →
    exec (.linkTrained (.tv k)) s = .next (State.putTv s (Tervon.remirror
      (let t := Tervon.putLink s.tv k (LinkPort.bringUp (Tervon.port s.tv k) (Quad.all 0) (Tervon.now s.tv), [])
       if k < 8 then
         Tervon.emit (Tervon.setRingEnd t k { Tervon.ringEnd t k with disc := 0, found := 0 })
           (.ctl (.tv k) (.probe (BitVec.ofNat 16 (if Tervon.isB t then 0xF100 + (Tervon.ringLen t k - 1) else 0xF000))
             (BitVec.ofNat 8 (Tervon.ringLen t k))))
       else t)))

/-- An ordinary PROBE is echoed and nothing else (R131). -/
def ProbeEchoed : Prop :=
  ∀ (s : State) (p : PortId) (id : Half) (len : Byte), State.hasPort s p → id.toNat < 0xF000 →
    exec (.probe p id len) s = .next (match p with
      | .tv k => State.putTv s (Tervon.emit s.tv (.ctl (.tv k) (.probeEcho id)))
      | .internal => State.putLeaf s .internal (Leaf.emit (State.leafNow s .internal) (.ctl .internal (.probeEcho id)))
      | p => State.putLeaf s .ring (Leaf.emit s.leaf (.ctl p (.probeEcho id))))

/-- A discovery PROBE from end A gives the ring leaf its position and length and goes on to the next (R430). -/
def DiscoveryPassesOn : Prop :=
  ∀ (s : State) (n : Nat) (len : Byte), s.leaf.kind = .ring → n ≤ 7 → s.leaf.ring.position = none → s.leaf.ring.length = 0 →
    ∃ t, exec (.probe .west (BitVec.ofNat 16 (0xF000 + n)) len) s = .next t ∧ t.leaf.ring.position = some n ∧ t.leaf.ring.length = len.toNat ∧
      t.leaf.out = .ctl .east (.probe (BitVec.ofNat 16 (0xF000 + n) + 1) len) :: .ctl .west (.probeEcho (BitVec.ofNat 16 (0xF000 + n))) :: s.leaf.out
      ∧ t.tv = s.tv

/-- A PROBE_ECHO gives a hop's round trip (R43). -/
def LeafProbeEcho : Prop :=
  ∀ (s : State) (p : PortId) (id : Half) (rt : Nat), ringPort p → s.leaf.kind = .ring →
    exec (.probeEcho p id rt) s = .next (State.putLeaf s .ring
      { s.leaf with ring := { s.leaf.ring with trips := Cells.set 0 s.leaf.ring.trips (if p = .east then 1 else 0) rt } })

/-- WAKE_BURST for another position goes on at the same spacing (R164). -/
def WakeBurstForwarded : Prop :=
  ∀ (s : State) (p : PortId) (pos : BitVec 4) (b : BitVec 3), ringPort p → s.leaf.kind = .ring → s.leaf.ring.position ≠ some pos.toNat →
    exec (.wakeBurst p pos b) s = .next (State.putLeaf s .ring (Leaf.emit s.leaf (.ctl (otherPort p) (.wake pos b))))

/-- A frame that arrives in order on a port moves the sequence expected on and grants its credits back (R132, R135). -/
def receivedLink (p : PortId) (q : LinkPort) (h : Hdr) (now : Nat) : LinkRes :=
  let q := { q with rxSeq := q.rxSeq + 1, nakSent := false, sinceAck := q.sinceAck + 1, seen := true }
  if 16 ≤ q.sinceAck then ({ q with sinceAck := 0, lastAck := now }, [.ctl p (.ack (q.rxSeq - 1))]) else (q, [])

/-- A malformed frame is acknowledged, discarded and counted (R133, R140). -/
def MalformedCounted : Prop :=
  ∀ (s : State) (p : PortId) (h : Hdr) (n : Nat), State.hasPort s p → (State.port s p).link = 2 → h.linkSeq = (State.port s p).rxSeq →
    h.length.toNat ≠ n →
    exec (.malformedFrame p h n) s = .next (State.putPort s p
      (let r := receivedLink p (State.port s p) h (State.portNow s p)
       (LinkPort.grant { r.1 with malformed := satAdd32 r.1.malformed 1 } h.cls.toNat (credits n), r.2)))

/-! ### Counting, freezing and sensors -/

/-- A station's clock edge puts its new station state in place and adds what its pre-counters could not hold to its lost count (R64 to R66). -/
def StationEdges : Prop :=
  ∀ (who : LeafId) (n : Nat) (lines : DWord) (vld : Bool) (slots : Half),
    LeafDoes (.stationClockEdge who n lines vld slots) who (fun _ => True) fun l =>
      { Leaf.setStn l n (Station.edge (Leaf.stn l n) lines vld slots).1 with
        cnt.ovf := Cells.set 0 l.cnt.ovf n (satAdd32 (Cells.get 0 l.cnt.ovf n) (Station.edge (Leaf.stn l n) lines vld slots).2) }

/-- At an edge, a line bound alone to a counter adds its level, its rising edge or its weighted value to its pre-counter (R64). -/
def EdgeCounts : Prop :=
  ∀ (s : Station) (i : Nat) (line : BitVec 6) (mode : BitVec 2) (lines : DWord) (vld : Bool) (slots : Half),
    s.cfg.binds = [(i, line, mode)] → s.cfg.reporter = none → s.drain = [] → s.queue = [] → s.pre = [] →
    let e := Station.edge s lines vld slots
    e.2 = 0 ∧ (Cells.get 0 e.1.pre line.toNat).toNat = lineInc mode s.prev lines line.toNat ∧ e.1.prev = lines ∧ e.1.queue = []

/-- The head of a station's queue is applied to the one counter bound to its line, modulo 2^64 (R67, R68). -/
def EntryDrains : Prop :=
  ∀ (who : LeafId) (n src i : Nat) (d : Byte) (r : List (Nat × Byte)) (line : BitVec 6) (mode : BitVec 2),
    LeafDoes (.stationEntryDrain who n) who
      (fun l => (Leaf.stn l n).queue = (src, d) :: r ∧ Leaf.asleep l = false ∧ src < 64 ∧ (Leaf.stn l n).old = none
        ∧ (Leaf.stn l n).cfg.binds.filter (fun b => decide (b.2.1.toNat = src)) = [(i, line, mode)])
      (fun l => Leaf.bumpCounter (Leaf.setStn l n { Leaf.stn l n with queue := r }) i d.toNat)

/-- The first edge that shows the strobe toggle moves the pre-counts to the drain bank behind the marker, zeroes them and toggles the acknowledge
(R93); a change of set-up that waits takes effect (R71). -/
def FreezeEdges : Prop :=
  ∀ (who : LeafId) (n : Nat),
    LeafDoes (.stationFreezeEdge who n) who
      (fun l => (Leaf.stn l n).frzSeen ≠ l.snap.strobe)
      (fun l =>
        let s := Leaf.stn l n
        let bank := (List.range 68).filterMap fun k => if Cells.get 0 s.pre k = 0 then none else some (k, Cells.get 0 s.pre k)
        let l' := Leaf.setStn (Leaf.freezeOvf l n) n { s with
          frzSeen := l.snap.strobe, ack := !s.ack, pre := [], drain := s.drain ++ bank ++ [(68, 0)],
          old := some s.cfg, cfg := s.next'.getD s.cfg, next' := none }
        { l' with snap.reassigned := (l'.snap.reassigned ++ rebound s.cfg (s.next'.getD s.cfg)).dedup })

/-- The acknowledge's time less the declared delay is the station's edge time (R93). -/
def FreezeAcks : Prop :=
  ∀ (who : LeafId) (n : Nat) (at' : Stamp) (f : Freeze),
    LeafDoes (.freezeAckTimestamp who n at') who
      (fun l => l.snap.freeze = some f ∧ f.edges.any (fun e => decide (e.1 = n)) = true ∧ f.acked.contains n = false
        ∧ (Leaf.stn l n).frzSeen = l.snap.strobe)
      (fun l =>
        let edges := f.edges.map fun e => if e.1 = n then (e.1, e.2.1, e.2.2.1, stampOf16 (Stamp.t16 at' - e.2.1.ackDelay.toNat)) else e
        { l with snap.freeze := some { f with acked := f.acked ++ [n], edges := edges } })

/-- A marker that no freeze awaits ends the entries of the old set-up (R71, R93); one that is awaited freezes the station's counters (R93). -/
def MarkersApply : Prop :=
  ∀ (who : LeafId) (n : Nat) (r : List (Nat × Byte)) (d : Byte),
    LeafDoes (.freezeMarkerApplied who n) who
      (fun l => (Leaf.stn l n).queue = (68, d) :: r ∧ Leaf.asleep l = false)
      (fun l =>
        let l' := Leaf.setStn l n { Leaf.stn l n with queue := r, old := none }
        match l.snap.freeze with
        | some f => if f.waiting.contains n then { l' with snap.freeze := some (Leaf.freezeStation l' f n) } else l'
        | none => l')

/-- What a station's freeze holds: the counters its set-up before the freeze binds, at their applied values; it is no longer awaited (R93). -/
def FrozenCounters : Prop :=
  ∀ (l : Leaf) (f : Freeze) (n : Nat) (c : StnCfg) (b : Bool) (e : Stamp),
    f.edges.find? (fun x => decide (x.1 = n)) = some (n, c, b, e) → c.reporter = none →
    (Leaf.freezeStation l f n).counters = f.counters ++ c.binds.map (fun x => (x.1, Leaf.counter l x.1))
      ∧ (Leaf.freezeStation l f n).slots = f.slots ∧ n ∉ (Leaf.freezeStation l f n).waiting

/-- Histograms freeze once no queued sample is timed before T; the extremes start again (R84, R94). -/
def HistogramsFreeze : Prop :=
  ∀ (who : LeafId) (f : Freeze),
    LeafDoes (.histogramFreeze who) who
      (fun l => l.snap.freeze = some f ∧ f.histDone = false ∧ l.cnt.samples.all (fun e => decide (f.instant.toNat ≤ e.2.2.toNat)) = true
        ∧ f.instant.toNat ≤ Leaf.now l)
      (fun l => { l with
        snap.freeze := some { f with hists := l.cnt.hists, histDone := true },
        cnt.hists := (l.cnt.hists.map fun e => (e.1, Hist.nextInterval e.2)).filter fun e => decide (e.2 ≠ Hist.reset) })

/-- A station silent 10 µs after T is marked stalled, its applied values frozen and its edge time 0 (R95). -/
def StationsStall : Prop :=
  ∀ (who : LeafId) (n : Nat) (f : Freeze),
    LeafGives (.stationStallTimeout who n) who
      (fun l => l.snap.freeze = some f ∧ f.waiting.contains n = true ∧ f.instant.toNat + 10000 ≤ Leaf.now l)
      (fun l l' => ∃ g, l' = { l with snap.freeze := some g } ∧ n ∉ g.waiting ∧ g.instant = f.instant
        ∧ g.edges = f.edges.map fun e => if e.1 = n then (e.1, e.2.1, true, (⟨0, 0⟩ : Stamp)) else e)

/-- A finished freeze takes the next sequence number and is held; a fifth snapshot discards the oldest and counts it (R97). -/
def SnapshotsComplete : Prop :=
  ∀ (who : LeafId) (f : Freeze),
    LeafDoes (.snapshotComplete who) who
      (fun l => l.snap.freeze = some f ∧ f.waiting = [] ∧ f.histDone = true ∧ f.instant.toNat ≤ Leaf.now l ∧ Leaf.awake l = true)
      (fun l => Leaf.finishFreeze l f)

/-- The store and the numbers after a subset snapshot: a subset folds into no lifetime slot (R97, R184). -/
def FinishedSubset : Prop :=
  ∀ (l : Leaf) (f : Freeze), f.kind ≠ 0 → Leaf.hasHolder l = false →
    let l' := Leaf.finishFreeze l f
    l'.snap.freeze = none ∧ l'.snap.lastSeq = l.snap.lastSeq + 1 ∧ l'.snap.txq = l.snap.txq ∧ l'.led = l.led ∧ l'.cnt = l.cnt
      ∧ l'.snap.store = (if 4 ≤ l.snap.store.length then l.snap.store.drop 1 else l.snap.store) ++ [Leaf.takeSnapshot l f]
      ∧ l'.snap.overrun = if 4 ≤ l.snap.store.length then satAdd32 l.snap.overrun 1 else l.snap.overrun

/-- A low word written to a value port is held for its requester; the high word submits the sample, with the port's answer (R73, R82). -/
def ValuePortWrites : Prop :=
  ∀ (who : LeafId) (id : BitVec 4) (h : Byte) (w : Word),
    LeafDoes (.valuePortWrite who id h (.low w)) who (fun l => Leaf.portOpen l = true)
      (fun l => Leaf.answer (Leaf.holdLow l (.host id) (0x7000 + 8 * h.toNat) w) 0) ∧
    LeafDoes (.valuePortWrite who id h (.high w)) who
      (fun l => Leaf.portOpen l = true ∧ bits (LeafCfg.histEntry l.cfg h.toNat) 7 6 = 1)
      (fun l => Leaf.answer (Leaf.submit l h.toNat (w ++ Leaf.heldLow l (.host id) (0x7000 + 8 * h.toNat)) (TimeDom.ns64 l.time)) 0)

/-- A sample waits in the order of its time, or is dropped and counted when 256 wait (R85). -/
def SampleQueue : Prop :=
  ∀ (l : Leaf) (h : Nat) (v : DWord) (t : Ns),
    (l.cnt.samples.length < 256 → Leaf.submit l h v t = { l with cnt.samples := insertSample (h, v, t) l.cnt.samples }) ∧
    (256 ≤ l.cnt.samples.length → Leaf.submit l h v t = Leaf.setHist l h { Leaf.hist l h with drops := satAdd32 (Leaf.hist l h).drops 1 })

/-- The update unit bins the oldest sample (R80, R81, R85). -/
def SamplesApply : Prop :=
  ∀ (who : LeafId) (h : Nat) (v : DWord) (t : Ns) (r : List (Nat × DWord × Ns)),
    LeafDoes (.histogramSampleApply who) who
      (fun l => l.cnt.samples = (h, v, t) :: r ∧ Leaf.asleep l = false ∧ l.snap.freeze = none)
      (fun l => Leaf.setHist { l with cnt.samples := r } h
        (Hist.add (Leaf.hist l h) (bits (LeafCfg.histEntry l.cfg h) 5 0) v t))

/-- A start edge opens the interval of its pair, and one that finds it open is a fault (R83). -/
def TimingStarts : Prop :=
  ∀ (who : LeafId) (i : BitVec 5) (a : Stamp),
    LeafDoes (.timingStartEdge who i a) who
      (fun l => Leaf.asleep l = false ∧ (Leaf.pair l i.toNat).lastStart = none)
      (fun l => Leaf.setPair l i.toNat { Leaf.pair l i.toNat with
        lastStart := some (Stamp.t16 a), opened := some ((Leaf.pair l i.toNat).opened.getD (Stamp.t16 a)),
        faults := if (Leaf.pair l i.toNat).opened = none then (Leaf.pair l i.toNat).faults else satAdd32 (Leaf.pair l i.toNat).faults 1 })

/-- A stop edge closes the interval and submits its length to the pair's histograms, and one that finds none open is a fault (R83). -/
def TimingStops : Prop :=
  ∀ (who : LeafId) (i : BitVec 5) (a : Stamp) (t0 : Nat),
    LeafDoes (.timingStopEdge who i a) who
      (fun l => Leaf.asleep l = false ∧ (Leaf.pair l i.toNat).lastStop = none ∧ (Leaf.pair l i.toNat).opened = some t0)
      (fun l => Leaf.submitAll (Leaf.setPair l i.toNat { Leaf.pair l i.toNat with lastStop := some (Stamp.t16 a), opened := none }) 3 i.toNat 31
        (w64 (Stamp.t16 a - t0)) (stampOf16 (Stamp.t16 a)).ns) ∧
    LeafDoes (.timingStopEdge who i a) who
      (fun l => Leaf.asleep l = false ∧ (Leaf.pair l i.toNat).lastStop = none ∧ (Leaf.pair l i.toNat).opened = none)
      (fun l => Leaf.setPair l i.toNat { Leaf.pair l i.toNat with
        lastStop := some (Stamp.t16 a), faults := satAdd32 (Leaf.pair l i.toNat).faults 1 })

/-- One thermal reading on each whole millisecond: an absent code reads 0x8000 (R87, R463). -/
def ThermalReads : Prop :=
  ∀ (n : Nat),
    LeafDoes (.thermalReading .ring [⟨n, none⟩]) .ring
      (fun l => Leaf.asleep l = false ∧ l.cnt.lastThermal ≠ some (Leaf.now l / 1000000) ∧ Site.present (Leaf.site l n) = true)
      (fun l => Leaf.setSite { l with cnt.lastThermal := some (Leaf.now l / 1000000) } n
        { Leaf.site l n with thermal := 0x8000, clamped := false })

/-- Supply and margin readings on the 10 µs grid: without a valid reading they read all ones and submit nothing (R87, R463). -/
def SupplyReads : Prop :=
  ∀ (who : LeafId) (n : Nat),
    LeafDoes (.supplyMarginReading who [⟨n, none, none⟩]) who
      (fun l => Leaf.asleep l = false ∧ l.cnt.lastSupply ≠ some (Leaf.now l / 10000) ∧ Site.present (Leaf.site l n) = true)
      (fun l => Leaf.setSite { l with cnt.lastSupply := some (Leaf.now l / 10000) } n
        { Leaf.site l n with supply := 0xFFFF, margin := 0xFF })

/-- A droop is counted and stamped where it begins, and its duration is submitted where it ends (R88). -/
def DroopsStamped : Prop :=
  ∀ (who : LeafId) (n : Nat) (a : Stamp),
    LeafDoes (.droopBegin who n a) who
      (fun l => Leaf.asleep l = false ∧ Site.present (Leaf.site l n) = true ∧ (Leaf.site l n).droop = false)
      (fun l => Leaf.setSite l n { Leaf.site l n with
        droop := true, count := satAdd32 (Leaf.site l n).count 1, beginAt := stampOf16 (Stamp.t16 a) }) ∧
    LeafDoes (.droopEnd who n a) who
      (fun l => Leaf.asleep l = false ∧ Site.present (Leaf.site l n) = true ∧ (Leaf.site l n).droop = true)
      (fun l => Leaf.submitAll (Leaf.setSite l n { Leaf.site l n with droop := false, endAt := stampOf16 (Stamp.t16 a) }) 2 (n + 192) 255
        (w64 (Stamp.t16 (stampOf16 (Stamp.t16 a)) - Stamp.t16 (Leaf.site l n).beginAt)) (stampOf16 (Stamp.t16 a)).ns)

/-! ### Time -/

/-- At each 125 µs boundary a Tervon with a set time sends an exchange on every ring port that is up and, when it may act as master, on every peer
port that is up (R39, R462). -/
def ExchangePeriods : Prop :=
  TimeDoes .exchangePeriod (fun t => t.time.lastPeriod < Tervon.now t / 125000 ∧ t.time.everSet = true) fun t =>
    let t1 := Tervon.switchBack { t with time.lastPeriod := Tervon.now t / 125000 }
    let go (t : Tervon) (k : Nat) : Tervon := if Tervon.linkUp? t k then Tervon.startExchange t k else t
    let t2 := (List.range 8).foldl go t1
    (if Tervon.peerMaster t2 = true then [9, 10, 11, 12].foldl go t2 else t2)

/-- An exchange on a ring port queues TIME_SYNC and then TIME_FOLLOW for the leaves, under one identifier (R142, R145, R462). -/
def ExchangeFrames : Prop :=
  ∀ (t : Tervon) (k : Nat), k < 8 → k < t.ports.length → Cells.wf Source.reset t.time.sources = true →
    let n := TimeDom.stamp t.time
    let seq := (Tervon.src t (16 + k)).txSeq
    let far := if Tervon.isB t then 14 else 15
    (Tervon.port (Tervon.startExchange t k) k).own.c0 = (Tervon.port t k).own.c0 ++
      [mkFrame far (Tervon.endCode t) 0 t.boot.did (.timeSync { origin := n.ns, seq := seq, tq := Tervon.tq t, hop := Tervon.hopOut t }),
       mkFrame far (Tervon.endCode t) 0 t.boot.did (.timeFollow { t1 := n, seq := seq, corr := 0, a0 := 0 })] ∧
    (Tervon.src (Tervon.startExchange t k) (16 + k)).txSeq = seq + 1

/-- A TIME_SYNC for this leaf is held with its receive time (R142, R462). -/
def LeafSyncs : Prop :=
  ∀ (who : LeafId) (rx : Rx) (p : TimeSyncP) (t2 : Stamp) (r : DWord),
    LeafDoes (.timeSync (.leaf who) rx p t2 r) who (fun l => Leaf.Receives l rx (.timeSync p)) fun l =>
      let l := Leaf.received l rx
      Leaf.setSrc l rx.hdr.src.toNat { Leaf.src l rx.hdr.src.toNat with
        sync := some (p, t2, r.toNat), follow := none, t3 := none, hit := rx.hit || rx.replayed }

/-- A TIME_SYNC for the far end goes on through the other port, and a copy is held (R142). -/
def LeafSyncPasses : Prop :=
  ∀ (who : LeafId) (rx : Rx) (p : TimeSyncP) (t2 : Stamp) (r : DWord),
    LeafDoes (.timeSync (.leaf who) rx p t2 r) who (fun l => Leaf.Passes l rx (.timeSync p)) fun l =>
      Leaf.forward (Leaf.timeSync (Leaf.taken l rx) rx p t2 r) rx.port ⟨rx.hdr, .timeSync p⟩

/-- A TIME_SYNC from an upstream peer is held; a hop count of 15 or more rejects it (R39). -/
def TervonSyncs : Prop :=
  ∀ (rx : Rx) (p : TimeSyncP) (t2 : Stamp) (r : DWord) (k : Nat),
    TimeDoes (.timeSync .tervon rx p t2 r)
      (fun t => Tervon.Receives t rx (.timeSync p) ∧ Tervon.upstream (Tervon.received t rx) rx = some k)
      fun t =>
        let t := Tervon.received t rx
        (if 15 ≤ p.hop.toNat then Tervon.rejectHop t k
          else Tervon.setSrc t k { Tervon.src t k with sync := some (p, t2, 0), follow := none, t3 := none, hit := rx.hit || rx.replayed })

/-- TIME_FOLLOW at a leaf holds t1 and t3, and one TIME_DELAY_REQ goes back to that end (R462). -/
def LeafFollows : Prop :=
  ∀ (who : LeafId) (rx : Rx) (p : TimeFollowP) (t3 : Stamp) (y : TimeSyncP) (t2 : Stamp) (n : Nat),
    LeafDoes (.timeFollow (.leaf who) rx p t3) who
      (fun l => Leaf.Receives l rx (.timeFollow p) ∧ (Leaf.src (Leaf.received l rx) rx.hdr.src.toNat).sync = some (y, t2, n) ∧ y.seq = p.seq)
      fun l =>
        let l := Leaf.received l rx
        let k := rx.hdr.src.toNat
        let s := Leaf.src l k
        Leaf.sendEnd (Leaf.setSrc l k { s with follow := some p, t3 := some t3, reqSeq := s.seq, seq := s.seq + 1, hit := s.hit || (rx.hit || rx.replayed) })
          k 0 (.delayReq { seq := s.seq, corr := 0 })

/-- A forwarded TIME_FOLLOW carries, beside its correction, the residence of its TIME_SYNC here (R142). -/
def LeafFollowPasses : Prop :=
  ∀ (who : LeafId) (rx : Rx) (p : TimeFollowP) (t3 : Stamp),
    LeafDoes (.timeFollow (.leaf who) rx p t3) who (fun l => Leaf.Passes l rx (.timeFollow p)) fun l =>
      Leaf.forward (Leaf.timeFollow (Leaf.taken l rx) rx p t3) rx.port
        ⟨rx.hdr, .timeFollow { p with corr := p.corr + Leaf.residenceFor l rx.hdr.src.toNat p.seq }⟩

/-- TIME_FOLLOW from an upstream peer, the same (R462). -/
def TervonFollows : Prop :=
  ∀ (rx : Rx) (p : TimeFollowP) (t3 : Stamp) (k : Nat) (y : TimeSyncP) (t2 : Stamp) (n : Nat),
    TimeDoes (.timeFollow .tervon rx p t3)
      (fun t => Tervon.Receives t rx (.timeFollow p) ∧ Tervon.upstream (Tervon.received t rx) rx = some k ∧
        (Tervon.src (Tervon.received t rx) k).sync = some (y, t2, n) ∧ y.seq = p.seq)
      fun t =>
        let t := Tervon.received t rx
        let s := Tervon.src t k
        (Tervon.send
          (Tervon.setSrc t k { s with follow := some p, t3 := some t3, reqSeq := s.seq, seq := s.seq + 1, hit := s.hit || (rx.hit || rx.replayed) })
          (9 + k) (mkFrame 0 0 0 t.boot.did (.delayReq { seq := s.seq, corr := 0 })))

/-- A leaf that forwards a TIME_DELAY_REQ adds its residence to the correction (R142). -/
def LeafDelayReqPasses : Prop :=
  ∀ (who : LeafId) (rx : Rx) (p : DelayReqP) (t4 : Stamp) (r : DWord),
    LeafDoes (.timeDelayReq (.leaf who) rx p t4 r) who (fun l => Leaf.Passes l rx (.delayReq p)) fun l =>
      Leaf.forward (Leaf.taken l rx) rx.port ⟨rx.hdr, .delayReq { p with corr := p.corr + r }⟩

/-- A Tervon answers a leaf's TIME_DELAY_REQ with t4, the correction and the leaf's position (R145, R462). -/
def TervonAnswersDelay : Prop :=
  ∀ (rx : Rx) (p : DelayReqP) (t4 : Stamp) (r : DWord) (k : Nat), rx.port = .tv k → k < 8 →
    TimeDoes (.timeDelayReq .tervon rx p t4 r)
      (fun t => Tervon.Receives t rx (.delayReq p) ∧ (Tervon.received t rx).time.everSet = true)
      fun t =>
        let t := Tervon.received t rx
        (Tervon.sendLeaf t k rx.hdr.src.toNat 0
          (.delayResp { t4 := t4, seq := p.seq, pos := rx.hdr.src.setWidth 8, tq := Tervon.tq t, corr := p.corr, did := rx.hdr.srcDid }))

/-- The answer that completes an exchange at a leaf: an exchange that was hit or replayed is discarded as a link error, one whose mean path delay
lies more than 1 ns from the filter is discarded, and any other is accepted and steers (R47, R48, R52). -/
def LeafExchangeEnds : Prop :=
  ∀ (who : LeafId) (rx : Rx) (p : DelayRespP) (c : Int) (delay off : Rat) (y : TimeSyncP),
    LeafDoes (.timeDelayResp (.leaf who) rx p c) who
      (fun l => Leaf.Receives l rx (.delayResp p) ∧ Leaf.exchange (Leaf.received l rx) rx.hdr.src.toNat p = some (delay, off, y))
      fun l =>
        let l := Leaf.received l rx
        let k := rx.hdr.src.toNat
        if (Leaf.src l k).hit = true ∨ rx.hit = true ∨ rx.replayed = true then { l with time := TimeDom.discard l.time k true }
        else if Source.delayOk (Leaf.src l k) delay = false ∨ TimeDom.holdoverRejects l.time y.tq off = true then
          { l with time := TimeDom.discard l.time k false }
        else Leaf.steer (Leaf.takeClass { l with time := TimeDom.accept l.time k off delay y.tq y.hop }) k

/-- The same at a Tervon, from an upstream peer (R39, R48, R49). -/
def TervonExchangeEnds : Prop :=
  ∀ (rx : Rx) (p : DelayRespP) (c : Int) (k : Nat) (delay off : Rat) (y : TimeSyncP),
    TimeDoes (.timeDelayResp .tervon rx p c)
      (fun t => Tervon.Receives t rx (.delayResp p) ∧ Tervon.upstream (Tervon.received t rx) rx = some k ∧
        Tervon.exchange (Tervon.received t rx) k p c = some (delay, off, y))
      fun t =>
        let t := Tervon.received t rx
        if (Tervon.src t k).hit = true ∨ rx.hit = true ∨ rx.replayed = true then { t with time := TimeDom.discard t.time k true }
        else if Source.delayOk (Tervon.src t k) delay = false ∨ TimeDom.holdoverRejects t.time y.tq off = true then
          { t with time := TimeDom.discard t.time k false }
        else Tervon.steer { t with time := TimeDom.accept t.time k off delay y.tq y.hop } k off y

/-- One exchange of four times: half the sum of the two legs is the delay and half their difference the offset (R47). -/
def ExchangeValues : Prop :=
  ∀ (t1 t2 t3 t4 cf cb : Rat),
    exchangeValues t1 t2 t3 t4 cf cb = (((t2 - t1 - cf) + (t4 - t3 - cb)) / 2, ((t2 - t1 - cf) - (t4 - t3 - cb)) / 2)

/-- At a whole microsecond in slew mode the rate is the base rate plus the pending phase over the time constant, within the limit, and the pending
phase falls by what the rate moves in a microsecond (R50). -/
def slewed (d : TimeDom) : TimeDom :=
  let r := clampRat (TimeDom.limit d) (d.base + d.pending / TimeDom.tauSlew d)
  { d with lastMicro := TimeDom.ns d / 1000, rate := r, pending := d.pending - (r - d.base) * 1000 }

def SlewTicks : Prop :=
  (∀ who : LeafId, LeafDoes (.slewTick (.leaf who)) who
    (fun l => TimeDom.slewMode l.time = true ∧ l.time.lastMicro < TimeDom.ns l.time / 1000 ∧ l.time.holdover = none)
    (fun l => { l with time := slewed l.time })) ∧
  TimeDoes (.slewTick .tervon)
    (fun t => TimeDom.slewMode t.time = true ∧ t.time.lastMicro < TimeDom.ns t.time / 1000 ∧ t.time.holdover = none)
    (fun t => { t with time := slewed t.time })

/-- Holdover begins now, on the frequency held (R52). -/
def heldOver (d : TimeDom) : TimeDom :=
  { d with holdover := some (TimeDom.ns d), holdLong := false, rate := if TimeDom.slewMode d then d.base else d.integ }

/-- 500 µs without an accepted exchange begin holdover (R52). -/
def HoldoverBegins : Prop :=
  (∀ who : LeafId, LeafDoes (.holdoverTimeout (.leaf who)) who
    (fun l => l.time.everSet = true ∧ l.time.holdover = none ∧ l.time.lastAccept + 500000 ≤ TimeDom.ns l.time)
    (fun l => { l with time := heldOver l.time })) ∧
  TimeDoes (.holdoverTimeout .tervon)
    (fun t => TimeDom.isRoot t.time = false ∧ t.time.everSet = true ∧ t.time.holdover = none ∧ t.time.lastAccept + 500000 ≤ TimeDom.ns t.time)
    (fun t => { t with time := heldOver t.time })

/-- 1 s of holdover is noted (R52). -/
def HoldoverLong : Prop :=
  (∀ (who : LeafId) (h : Nat), LeafDoes (.holdoverLong (.leaf who)) who
    (fun l => l.time.holdover = some h ∧ h + 1000000000 ≤ TimeDom.ns l.time) (fun l => { l with time.holdLong := true })) ∧
  ∀ h : Nat, TimeDoes (.holdoverLong .tervon)
    (fun t => t.time.holdover = some h ∧ h + 1000000000 ≤ TimeDom.ns t.time) (fun t => { t with time.holdLong := true })

/-- The primary link fails: the Tervon steers from its secondary, in holdover until a good exchange there (R39). -/
def PrimaryFails : Prop :=
  TimeDoes .primaryLinkFail
    (fun t => TimeDom.isRoot t.time = false ∧ Tervon.linkUp? t (9 + TimeDom.primary t.time) = false ∧ t.time.steerSecondary = false)
    (fun t =>
      let p := TimeDom.primary t.time
      let u := Tervon.setSrc t p { Tervon.src t p with goodRun := 0 }
      { u with time := TimeDom.enterHoldover { u.time with steerSecondary := true } })

/-- A pulse within 100 ns of a whole second, or any pulse before the time is set, is accepted by a root on building input that no second waits for;
any other pulse is counted as rejected (R33). -/
def PpsAccepted : Prop :=
  ∀ a : Stamp,
    TimeDoes (.ppsInEdge a)
      (fun t => TimeDom.src t.time = 1 ∧ ¬ (t.time.everSet = true ∧ 100 < |fromSecond (Stamp.rat a)|) ∧ t.time.root.second = none)
      (fun t => 
        { t with time := TimeDom.requalify { t.time with root := { t.time.root with pps := true, lastPps := Tervon.now t } } }) ∧
    TimeDoes (.ppsInEdge a)
      (fun t => TimeDom.src t.time = 1 ∧ t.time.everSet = true ∧ 100 < |fromSecond (Stamp.rat a)|)
      (fun t => { t with time.root.ppsRejected := satAdd32 t.time.root.ppsRejected 1 })

/-- The 10 MHz input is good, or lost, which begins holdover (R33). -/
def Ref10M : Prop :=
  TimeDoes .ref10mQualified (fun t => TimeDom.src t.time = 1)
    (fun t => { t with time := TimeDom.requalify { t.time with root := { t.time.root with ref10M := true } } }) ∧
  TimeDoes .ref10mDisqualify (fun t => TimeDom.src t.time = 1 ∧ t.time.root.ref10M = true)
    (fun t => { t with time := TimeDom.enterHoldover { t.time with root := { t.time.root with ref10M := false } } })

/-- 3 s without an accepted pulse begin holdover (R33). -/
def PpsDisqualified : Prop :=
  TimeDoes .ppsDisqualify (fun t => TimeDom.src t.time = 1 ∧ t.time.root.pps = true ∧ t.time.root.lastPps + 3000000000 ≤ Tervon.now t)
    (fun t => { t with time := TimeDom.enterHoldover { t.time with root := { t.time.root with pps := false } } })

/-- The declared period of a steer ends: holdover counts from its end (R35). -/
def SteerExpires : Prop :=
  TimeDoes .steerExpiry
    (fun t => TimeDom.src t.time = 2 ∧ t.time.root.steerCls.isSome = true ∧ t.time.root.steerUntil ≤ Tervon.now t ∧ t.time.holdover = none)
    (fun t => { t with time := { heldOver t.time with holdover := some t.time.root.steerUntil } })

/-- One pulse at each whole second while enabled and of a class other than 0 and 7 (R38). -/
def PpsOut : Prop :=
  TimeDoes .ppsOutEdge (fun t => t.time.lastPpsOut < Tervon.now t / 1000000000)
    (fun t =>
      let u := { t with time.lastPpsOut := Tervon.now t / 1000000000 }
      (if TimeDom.ppsOutEn t.time = true ∧ Tervon.tq t ≠ 0 ∧ Tervon.tq t ≠ 7 then
        Tervon.emit u (.pps (Tervon.now t / 1000000000)) else u))

/-- A TIME_CTL in range waits for the next exchange period; the physical function alone writes the Tervon's, and a value out of range is ignored and
counted there and refused at a leaf's host port (R436, R440). -/
def TimeCtlWritten : Prop :=
  ∀ (id : BitVec 4) (rq : Requester) (v : DWord),
    LeafDoes (.timeCtlWrite (.leaf .ring) (.host id) 0 v) .ring
      (fun l => l.kind = .ring ∧ Leaf.portOpen l = true ∧ l.cfg.lock.owner = 0 ∧ timeCtlOk true v = true)
      (fun l => Leaf.answer { l with time := { l.time with ctlNext := some (v &&& 0x0000FFFF0003FFFF), ctlAt := Leaf.now l / 125000 } } 0) ∧
    LeafDoes (.timeCtlWrite (.leaf .ring) (.host id) 0 v) .ring
      (fun l => l.kind = .ring ∧ Leaf.portOpen l = true ∧ l.cfg.lock.owner = 0 ∧ timeCtlOk true v = false) (fun l => Leaf.answerError l) ∧
    TimeDoes (.timeCtlWrite .tervon rq 0 v) (fun _ => timeCtlOk false v = true)
      (fun t => { t with time.ctlNext := some (v &&& 0x0000FFFF01FFFFFF), time.ctlAt := Tervon.now t / 125000 }) ∧
    TimeDoes (.timeCtlWrite .tervon rq 0 v) (fun _ => timeCtlOk false v = false)
      (fun t => { t with boot.badWrite := satAdd32 t.boot.badWrite 1 })

/-- A change of TIME_CTL applies at the first exchange period after the write; a change of mode carries the frequency estimate (R440). -/
def TimeCtlApplies : Prop :=
  (∀ (who : LeafId), LeafDoes (.timeCtlApply (.leaf who)) who (fun l => l.time.ctlAt < TimeDom.ns l.time / 125000)
    (fun l => { l with time := TimeDom.applyCtl l.time })) ∧
  TimeDoes (.timeCtlApply .tervon) (fun t => t.time.ctlAt < TimeDom.ns t.time / 125000)
    (fun t => { t with time := TimeDom.applyCtl t.time }) ∧
  ∀ (d : TimeDom) (c : DWord), d.ctlNext = some c → bits c.toNat 19 18 = TimeDom.src d →
    let e := TimeDom.applyCtl d
    e.ctl = c ∧ e.ctlNext = none ∧ e.root = d.root ∧ e.holdover = d.holdover ∧
      (TimeDom.slewMode d = false → c.getLsbD 0 = true → e.base = d.integ ∧ e.pending = 0 ∧ e.integ = d.integ) ∧
      (TimeDom.slewMode d = true → c.getLsbD 0 = false → e.integ = d.rate ∧ e.pending = 0 ∧ e.base = d.base)

/-- The port part of the path constants changes by what the new measurement says (R46). -/
def PortLatencyMeasured : Prop :=
  ∀ x : PortLatency, LeafDoes (.portLatencyMeasure x) .ring (fun _ => True) fun l =>
    { l with path := { l.path with a := l.path.a + BitVec.ofInt 32 (x.partA - l.path.partA), b := l.path.b + BitVec.ofInt 32 (x.partB - l.path.partB),
                                   partA := x.partA, partB := x.partB } }

/-- CAL_REPORT gives end A the measurements of end B (R43). -/
def CalReportKept : Prop :=
  ∀ (rx : Rx) (p : CalReportP), p.ring.toNat < 8 →
    TimeDoes (.calReport rx p) (fun t => Tervon.Receives t rx (.calReport p) ∧ Tervon.isB (Tervon.received t rx) = false) fun t =>
      let t := Tervon.received t rx
      (Tervon.setRingEnd t p.ring.toNat { Tervon.ringEnd t p.ring.toNat with report := some p })

/-- A pod-locked calibrating end forms the residual; within 4 ns the hop asymmetries and path constants follow, and each leaf's are written to it;
beyond, the calibration fails and is reported (R43, R44). -/
def RingCalibrated : Prop :=
  ∀ (ring : Nat) (d : CalData), ring < 8 →
    TimeDoes (.ringCalibrationComplete ring d)
      (fun t => (Tervon.ringEnd t ring).calRun ≠ none ∧ Tervon.stewardHung t 1 = false ∧ Tervon.isB t = false ∧ Tervon.podLocked t = true)
      fun t =>
        let e := Tervon.ringEnd t ring
        let len := Tervon.ringLen t ring
        let d' := Tervon.calData t ring d
        let rho := measuredTotal d' len - (((d'.asymPma.take (len + 1)).sum : Int) : Rat)
        let up := Config.roundUp t.free
        let r := quantise up (rho / 65536)
        let t := { t with free := t.free + 1 }
        let e := { e with calRun := none, report := none, rho := r }
        (if 262144 < |rho| then Tervon.timeEvent (Tervon.setRingEnd t ring e) 3 ring 0 (Tervon.tq t).toNat 0 (intBits 64 r) 0
          else
            let hops := hopAsymmetries d' rho len up
            let t := Tervon.setRingEnd t ring { e with cal := true, hops := hops, consts := pathConstants len hops }
            Tervon.writePaths { t with warm.hbmDirty := some (t.warm.hbmDirty.getD (Tervon.now t)),
                                       warm.norDirty := some (t.warm.norDirty.getD (Tervon.now t)) } ring)

/-- After a lane changed, the whole change of the residual goes to the hop of that lane (R45). -/
def CalibrationReruns : Prop :=
  ∀ (ring hop : Nat) (d : CalData), ring < 8 →
    TimeDoes (.calibrationRerun ring hop d)
      (fun t => (Tervon.ringEnd t ring).cal = true ∧ hop ≤ Tervon.ringLen t ring ∧ Tervon.stewardHung t 1 = false ∧ Tervon.isB t = false ∧
        Tervon.podLocked t = true)
      fun t =>
        let e := Tervon.ringEnd t ring
        let len := Tervon.ringLen t ring
        let d' := Tervon.calData t ring d
        let rho := measuredTotal d' len - (((d'.asymPma.take (len + 1)).sum : Int) : Rat)
        let r := quantise (Config.roundUp t.free) (rho / 65536)
        let t := { t with free := t.free + 1 }
        let e' := { e with rerun := none, report := none, rho := r }
        (if 262144 < |rho| then Tervon.timeEvent (Tervon.setRingEnd t ring e') 3 ring 0 (Tervon.tq t).toNat 0 (intBits 64 r) 0
          else
            let hops := setAt e.hops hop (e.hops.getD hop 0 + (r - e.rho))
            let t := Tervon.setRingEnd t ring { e' with hops := hops, consts := pathConstants len hops }
            Tervon.writePaths { t with warm.hbmDirty := some (t.warm.hbmDirty.getD (Tervon.now t)),
                                       warm.norDirty := some (t.warm.norDirty.getD (Tervon.now t)) } ring)

/-- The path constants of a position are the sums of the hop asymmetries on its two sides (R41). -/
def PathSums : Prop :=
  ∀ (len p : Nat) (hops : List Int), p < len → (pathConstants len hops)[p]? = some ((hops.take (p + 1)).sum, (hops.drop (p + 1)).sum)

/-- A software PTP message's transmit time goes to the queue of 32, or is dropped and counted (R60, R61). -/
def PtpStamped : Prop :=
  ∀ (id : Half) (port : BitVec 2) (a : Stamp),
    TimeDoes (.softwarePtpTransmit id port a) (fun t => t.tt.txq.length < 32)
      (fun t => { t with tt.txq := t.tt.txq ++ [(id, port, Tervon.tq t, a)] }) ∧
    TimeDoes (.softwarePtpTransmit id port a) (fun t => 32 ≤ t.tt.txq.length)
      (fun t => { t with tt.txqDropped := satAdd32 t.tt.txqDropped 1 })

/-- A received one is a TIME_EVENT of kind 4 with its receive time (R60). -/
def PtpReceived : Prop :=
  ∀ (id : Half) (port : BitVec 2) (a : Stamp), TimeDoes (.softwarePtpReceive id port a) (fun _ => True)
    fun t => (Tervon.timeEvent t 4 (9 + port.toNat) 0 (Tervon.tq t).toNat id.toNat a.ns.toNat a.frac.toNat)

/-- Reading the first word latches the oldest entry; a pop removes the entry that the latch shows (R61, R442). -/
def PtpQueueReads : Prop :=
  TimeDoes .ptpTxqEntryRead (fun _ => True) (fun t =>
    let u := { t with tt.txqLatch := t.tt.txq.head? }
    (Tervon.emit u (.barRead 0 0x160 (BitVec.ofNat 64 (field (Tervon.ptpEntry u) 0 4))))) ∧
  TimeDoes .ptpTxqPop (fun t => t.tt.txqLatch ≠ none) (fun t => { t with tt.txq := t.tt.txq.drop 1, tt.txqLatch := none })

/-! ### Appointments, snapshots, inputs, trace and dumps -/

/-! appointments -/

/-- An APPOINT from the lease holder is answered under its write tag; an accepted one is stored in its slot (R56, R158, R161). -/
def AppointStored : Prop :=
  ∀ (who : LeafId) (rx : Rx) (did : Did) (a : Appointment),
    LeafDoes (.appointFrame who rx did a) who
      (fun l => Leaf.Receives l rx (.appoint did a) ∧ (did = (Leaf.received l rx).ring.did ∨ did = didAll) ∧
        Leaf.keptTag (Leaf.received l rx) rx.hdr = none ∧ Leaf.fromHolder (Leaf.received l rx) rx.hdr = true)
      (fun l =>
        let l := Leaf.received l rx
        let n := a.slot.toNat
        let st := apptStatus true (Leaf.tq l) (Leaf.now l) (Leaf.slot l n) a
        Leaf.finishWrite (if st = 0 then Leaf.setSlot l n (Slot.accept (Leaf.slot l n) a) else l) rx 0 [BitVec.ofNat 8 st, 0, 0, 0])

/-- The status of a well-formed appointment for a free slot of a part whose time is set: ACCEPTED 50 µs or more ahead, else LATE (R56). -/
def AppointStatus : Prop :=
  ∀ (leaf : Bool) (tq : BitVec 4) (now : Nat) (a : Appointment), Appointment.malformed leaf a = false → tq ≠ 0 → a.action ≠ 0 →
    apptStatus leaf tq now Slot.reset a = if now + 50000 ≤ a.instant.toNat then 0 else 1

/-- A due SNAPSHOT of an awake leaf takes its snapshot for its instant (R57, R92). -/
def LeafSnapshots : Prop :=
  ∀ (who : LeafId) (i : Nat),
    LeafDoes (.snapshot (.leaf who) i) who
      (fun l => slotFires l.appts i 1 (Leaf.now l + (l.snap.adv.toNat + 15) / 16) = true ∧ Leaf.asleep l = false)
      (fun l =>
        let s := Leaf.slot l i
        Leaf.snapshotAt (Leaf.setSlot l i (Slot.advance s false))
          (if fullDueAt l.appts ((Slot.due s).getD 0) then 0 else BitVec.ofNat 8 (Slot.arg s)) (Slot.instant s))

/-- In Cellar a due SNAPSHOT is skipped and counted (R59). -/
def LeafSkips : Prop :=
  ∀ (who : LeafId) (i : Nat),
    LeafDoes (.snapshot (.leaf who) i) who
      (fun l => slotFires l.appts i 1 (Leaf.now l + (l.snap.adv.toNat + 15) / 16) = true ∧ Leaf.asleep l = true)
      (fun l => { Leaf.setSlot l i (Slot.advance (Leaf.slot l i) true) with pwr.skipped := satAdd32 l.pwr.skipped 1 })

/-- A Tervon's due SNAPSHOT acts on its internal leaf (R55). -/
def TervonSnapshots : Prop :=
  ∀ (i : Nat),
    TvDoes (.snapshot .tervon i)
      (fun t => slotFires t.appts i 1 (Tervon.now t + (t.ileaf.snap.adv.toNat + 15) / 16) = true ∧ Leaf.asleep t.ileaf = false)
      (fun t =>
        let s := Tervon.slot t i
        Tervon.onIleaf (Tervon.setSlot t i (Slot.advance s false)) fun l =>
          Leaf.snapshotAt l (if fullDueAt t.appts ((Slot.due s).getD 0) then 0 else BitVec.ofNat 8 (Slot.arg s)) (Slot.instant s))

/-- A due CELLAR_ENTER begins the prepare phase of a leaf in service: the trace is flushed, the walk abandoned and Ledger writes pause (R420). -/
def LeafEntersCellar : Prop :=
  ∀ (who : LeafId) (i : Nat),
    LeafDoes (.cellarEnter (.leaf who) i) who (fun l => slotFires l.appts i 2 (Leaf.now l) = true ∧ l.pwr.cellar = 0)
      (fun l =>
        let l := Leaf.setSlot l i (Slot.advance (Leaf.slot l i) false)
        Leaf.flushTrace (Leaf.abandonWalk
          { l with pwr := { l.pwr with cellar := 1, firedAt := Leaf.now l, skipped := 0, phrase := false }, led := { l.led with cellarPaused := true } }))

/-- A due CELLAR_ENTER of a Tervon in service begins its entry: at once without a started job, and otherwise it waits for the jobs (R425). -/
def TervonEntersCellar : Prop :=
  ∀ (i : Nat),
    TvDoes (.cellarEnter .tervon i)
      (fun t => slotFires t.appts i 2 (Tervon.now t) = true ∧ t.pwr.cellar = false ∧ t.pwr.entering = none)
      (fun t =>
        let u := Tervon.setSlot t i (Slot.advance (Tervon.slot t i) false)
        let u := Tervon.onIleaf { u with pwr.entering := some (Tervon.now u) } Leaf.prepareCellar
        Tervon.partsSettle (Tervon.retireCheck (if u.jobs.any (fun j => j.started) then u else Tervon.enterCellar u)))

/-- A due MODE_SWITCH sets the determinism mode from bit 0 of its argument, at its instant; one that names the mode in force leaves its start (R340,
R345). -/
def LeafModeSwitches : Prop :=
  ∀ (who : LeafId) (i : Nat),
    LeafDoes (.modeSwitch (.leaf who) i) who (fun l => slotFires l.appts i 3 (Leaf.now l) = true ∧ Leaf.asleep l = false)
      (fun l =>
        let a := Slot.arg (Leaf.slot l i)
        let at' := Slot.instant (Leaf.slot l i)
        { Leaf.setSlot l i (Slot.advance (Leaf.slot l i) false) with
          det := { det := bit a 0, switches := l.det.switches + 1, since := at',
                   prev := if bit a 0 = l.det.det then l.det.prev else l.det.det, start := if bit a 0 = l.det.det then l.det.start else at' } })

/-- On a Tervon a switch away from determinism applies the samples that waited, and a switch to it retracts what was decided under the other mode (R341,
R345). -/
def TervonModeSwitches : Prop :=
  ∀ (i : Nat),
    TvDoes (.modeSwitch .tervon i) (fun t => slotFires t.appts i 3 (Tervon.now t) = true ∧ t.det.det = true ∧ bit (Slot.arg (Tervon.slot t i)) 0 = false)
      (fun t =>
        let at' := Slot.instant (Tervon.slot t i)
        t.str.waiting.foldl Tervon.applySamples
          { Tervon.setSlot t i (Slot.advance (Tervon.slot t i) false) with
            det := { det := false, switches := t.det.switches + 1, since := at', prev := true, start := at' }, str.waiting := [] })

/-- A due SAMPLING_RATE sets the Assay sampling rate of a leaf, or of a Tervon's internal leaf, from bits [4:0] of its argument (R300). -/
def SamplingRates : Prop :=
  (∀ (who : LeafId) (i : Nat),
    LeafDoes (.samplingRate (.leaf who) i) who (fun l => slotFires l.appts i 4 (Leaf.now l) = true ∧ Leaf.asleep l = false)
      (fun l => Leaf.setRate (Leaf.setSlot l i (Slot.advance (Leaf.slot l i) false)) (bits (Slot.arg (Leaf.slot l i)) 4 0))) ∧
  ∀ (i : Nat),
    TvDoes (.samplingRate .tervon i) (fun t => slotFires t.appts i 4 (Tervon.now t) = true)
      (fun t => Tervon.onIleaf (Tervon.setSlot t i (Slot.advance (Tervon.slot t i) false))
        fun l => Leaf.setRate l (bits (Slot.arg (Tervon.slot t i)) 4 0))

/-- A due LANE_RECAL recalibrates the lane of the port that its argument names (R55, R130). -/
def LanesRecalibrate : Prop :=
  (∀ (who : LeafId) (i : Nat),
    LeafDoes (.laneRecal (.leaf who) i) who (fun l => slotFires l.appts i 5 (Leaf.now l) = true ∧ Leaf.asleep l = false)
      (fun l =>
        let a := Slot.arg (Leaf.slot l i)
        Leaf.modPort (Leaf.setSlot l i (Slot.advance (Leaf.slot l i) false)) (if bits a 3 0 = 0 then .west else .east)
          fun q => LinkPort.recalibrate q (bits a 11 8))) ∧
  ∀ (i : Nat),
    TvDoes (.laneRecal .tervon i) (fun t => slotFires t.appts i 5 (Tervon.now t) = true)
      (fun t =>
        let a := Slot.arg (Tervon.slot t i)
        Tervon.modPort (Tervon.setSlot t i (Slot.advance (Tervon.slot t i) false)) (bits a 3 0) fun q => LinkPort.recalibrate q (bits a 11 8))

/-- Recalibrating the spare lane moves no traffic; another lane moves to a usable spare first; without one the direction halts (R130). -/
def RecalibrationForms : Prop :=
  ∀ (q : LinkPort) (lane : Nat),
    (lane = q.txSpare → LinkPort.recalibrate q lane = { q with recal := some lane }) ∧
    (lane ≠ q.txSpare → LinkPort.spareUsable q = true → q.move = none →
      LinkPort.recalibrate q lane = { q with move := some { source := lane, target := q.txSpare, recal := true } }) ∧
    (lane ≠ q.txSpare → LinkPort.spareUsable q = false → LinkPort.recalibrate q lane = { q with recal := some lane, halted := true })

/-- A due MARK puts out its argument with its instant and the class; on a Tervon bit 31 makes it an epoch mark (R55, R367). -/
def MarksFire : Prop :=
  (∀ (who : LeafId) (i : Nat),
    LeafDoes (.mark (.leaf who) i) who (fun l => slotFires l.appts i 6 (Leaf.now l) = true ∧ Leaf.asleep l = false)
      (fun l =>
        let u := Leaf.setSlot l i (Slot.advance (Leaf.slot l i) false)
        Leaf.emit u (.marker (w32 (Slot.arg (Leaf.slot l i))) (Slot.instant (Leaf.slot l i)) (Leaf.tq u)))) ∧
  ∀ (i : Nat),
    TvDoes (.mark .tervon i) (fun t => slotFires t.appts i 6 (Tervon.now t) = true)
      (fun t =>
        let a := Slot.arg (Tervon.slot t i)
        let at' := Slot.instant (Tervon.slot t i)
        let u := Tervon.setSlot t i (Slot.advance (Tervon.slot t i) false)
        let u := Tervon.emit u (.marker (w32 a) at' (Tervon.tq u))
        if bit a 31 then Tervon.epochMark u at'.toNat else u)

/-- A slot that fires counts it, and is free after its last firing (R59). -/
def SlotsAdvance : Prop :=
  ∀ (s : Slot) (a : Appointment) (skip : Bool), s.appt = some a →
    let s' := Slot.advance s skip
    s'.fired = s.fired + 1 ∧ s'.firings = (if skip then s.firings else satAdd32 s.firings 1) ∧
      s'.skips = (if skip then satAdd32 s.skips 1 else s.skips) ∧
      (s'.appt = none ↔ (a.flags.getLsbD 0 = false ∨ (a.count ≠ 0 ∧ a.count.toNat ≤ s.fired + 1)))

/-! snapshot registers -/

/-- LF_SNAP_ACK from the lease holder discards every held snapshot at or before the number written (R98). -/
def SnapAcks : Prop :=
  ∀ (who : LeafId) (rx : Rx) (did : Did) (q : Word),
    LeafDoes (.snapAckWrite who (.ring rx) did q) who (fun l => Leaf.TakesWrite l rx did 0x164 [q])
      (fun l => Leaf.ringAnswer rx (Leaf.snapAck (Leaf.received l rx) q, 0, [])) ∧
  ∀ (l : Leaf), (Leaf.snapAck l q).snap.store = l.snap.store.filter (fun s => !serialLe s.seq q)

/-- LF_SNAP_RESEND sends a held snapshot's Tally again, and answers ABSENT for one that is not held (R98). -/
def SnapResends : Prop :=
  ∀ (who : LeafId) (rx : Rx) (did : Did) (q : Word),
    LeafDoes (.snapResendWrite who (.ring rx) did q) who (fun l => Leaf.TakesWrite l rx did 0x168 [q])
      (fun l => match (Leaf.received l rx).snap.store.find? (fun s => decide (s.seq = q)) with
        | some s => Leaf.ringAnswer rx (Leaf.sendTally (Leaf.received l rx) s, 0, [])
        | none => Leaf.ringAnswer rx (Leaf.received l rx, 6, []))

/-- LF_SNAP_NOW takes a snapshot of its kind and answers the number it will have (R464). -/
def SnapNows : Prop :=
  ∀ (who : LeafId) (rx : Rx) (did : Did) (v : Word), bits v.toNat 7 0 < 16 →
    LeafDoes (.snapNowWrite who (.ring rx) did v) who (fun l => Leaf.TakesWrite l rx did 0x1A8 [v])
      (fun l =>
        let r := Leaf.snapNow (Leaf.received l rx) (v.setWidth 8)
        Leaf.ringAnswer rx (r.1, 0, r.2))

/-- Host firmware may not write these three (R98, R464). -/
def SnapHostRefused : Prop :=
  ∀ (who : LeafId) (id : BitVec 4) (did : Did) (v : Word),
    LeafDoes (.snapAckWrite who (.host id) did v) who (fun l => Leaf.portOpen l = true) Leaf.answerError ∧
    LeafDoes (.snapResendWrite who (.host id) did v) who (fun l => Leaf.portOpen l = true) Leaf.answerError ∧
    LeafDoes (.snapNowWrite who (.host id) did v) who (fun l => Leaf.portOpen l = true) Leaf.answerError

/-! inputs -/

/-- An edge that does not chatter. -/
def calm (x : Input) (now : Nat) : Prop := x.limiter = false ∧ chatters ((now :: x.edges).take 3) = false

/-- The input after a calm edge. -/
def edged (x : Input) (now : Nat) : Input := { x with edges := (now :: x.edges).take 3 }

/-- An alarm edge raises ALARM against its unit (R89). -/
def AlarmRaised : Prop :=
  ∀ (who : LeafId) (i : BitVec 4),
    LeafDoes (.alarmEdge who i) who
      (fun l => Leaf.asleep l = false ∧ (Leaf.input l i.toNat).level = false ∧ calm (Leaf.input l i.toNat) (Leaf.now l))
      (fun l =>
        let x := Leaf.input l i.toNat
        let u := Leaf.setInput l i.toNat { edged x (Leaf.now l) with level := true, since := Leaf.now l }
        Leaf.raise u 0x08 (Leaf.input u i.toNat).unit i.toNat)

/-- The third edge within 1,000 ns engages the limiter; it and the later ones are suppressed and counted (R91). -/
def ChatterLimits : Prop :=
  ∀ (who : LeafId) (i : BitVec 4) (b c : Nat),
    LeafDoes (.alarmEdge who i) who
      (fun l => Leaf.asleep l = false ∧ (Leaf.input l i.toNat).level = false ∧ (Leaf.input l i.toNat).limiter = false ∧
        (Leaf.input l i.toNat).edges.take 2 = [b, c] ∧ Leaf.now l ≤ c + 1000)
      (fun l =>
        let x := Leaf.input l i.toNat
        let n := Leaf.now l
        Leaf.setInput l i.toNat { x with level := true, since := n, edges := [n, b, c], lastTriple := n, lastChatter := n, limiter := true,
                                         chatter := satAdd32 x.chatter 1, suppressed := x.suppressed + 1 })

/-- A release is no event; it clears the stuck flag and arms the input again (R90). -/
def AlarmReleases : Prop :=
  ∀ (who : LeafId) (i : BitVec 5), i.toNat < 24 →
    LeafDoes (.alarmRelease who i) who
      (fun l => Leaf.asleep l = false ∧ (Leaf.input l i.toNat).level = true ∧ calm (Leaf.input l i.toNat) (Leaf.now l))
      (fun l => Leaf.setInput l i.toNat { edged (Leaf.input l i.toNat) (Leaf.now l) with level := false, stuck := false })

/-- 10 ms of activity raise STUCK_ACTIVE once (R90). -/
def StuckActive : Prop :=
  ∀ (who : LeafId) (i : BitVec 5), i.toNat < 24 →
    LeafDoes (.stuckActiveTimeout who i) who
      (fun l => Leaf.awake l = true ∧ (Leaf.input l i.toNat).level = true ∧ (Leaf.input l i.toNat).stuck = false ∧
        (Leaf.input l i.toNat).since + 10000000 ≤ Leaf.now l)
      (fun l => Leaf.raise (Leaf.setInput l i.toNat { Leaf.input l i.toNat with stuck := true }) 0x09 (Leaf.input l i.toNat).unit
        (if i.toNat < 16 then i.toNat else (i.toNat - 16) + 16))

/-- One CHATTER record each ms while the limiter is engaged, with the edges suppressed since the last one (R91). -/
def ChatterRecords : Prop :=
  ∀ (who : LeafId) (i : BitVec 5), i.toNat < 24 →
    LeafDoes (.chatterRecordTimer who i) who
      (fun l => Leaf.awake l = true ∧ (Leaf.input l i.toNat).limiter = true ∧ (Leaf.input l i.toNat).lastChatter + 1000000 ≤ Leaf.now l)
      (fun l =>
        let x := Leaf.input l i.toNat
        Leaf.raise (Leaf.setInput l i.toNat { x with suppressed := 0, lastChatter := Leaf.now l }) 0x0A x.unit (min x.suppressed 0xFFFFFF))

/-- 1 ms without three edges within 1,000 ns releases the limiter, with a final record (R91). -/
def ChatterReleases : Prop :=
  ∀ (who : LeafId) (i : BitVec 5), i.toNat < 24 →
    LeafDoes (.chatterRelease who i) who
      (fun l => Leaf.awake l = true ∧ (Leaf.input l i.toNat).limiter = true ∧ (Leaf.input l i.toNat).lastTriple + 1000000 ≤ Leaf.now l ∧
        Cells.wf Input.reset l.inputs = true)
      (fun l =>
        let x := Leaf.input l i.toNat
        let u := Leaf.setInput l i.toNat { x with limiter := false, edges := [] }
        Leaf.raise (Leaf.setInput u i.toNat { x with limiter := false, edges := [], suppressed := 0, lastChatter := Leaf.now l }) 0x0A x.unit
          (min x.suppressed 0xFFFFFF))

/-! heartbeats -/

/-- A heartbeat edge refreshes its heartbeat; a hung one raises HANG_CLEAR (R119, R120). -/
def HeartbeatRefreshes : Prop :=
  ∀ (who : LeafId) (hb : BitVec 3),
    LeafDoes (.heartbeatEdge who hb) who
      (fun l => Leaf.asleep l = false ∧ (Leaf.input l (16 + hb.toNat)).level = false ∧ calm (Leaf.input l (16 + hb.toNat)) (Leaf.now l))
      (fun l =>
        let x := Leaf.input l (16 + hb.toNat)
        let u := Leaf.setInput l (16 + hb.toNat) { edged x (Leaf.now l) with level := true, since := Leaf.now l }
        let b := Leaf.beat l hb.toNat
        let u' := Leaf.setBeat u hb.toNat { b with armed := Leaf.beatEn l hb.toNat, last := Leaf.now l, hung := false }
        if b.hung = true then Leaf.raise u' 0x0C (Leaf.input u (16 + hb.toNat)).unit hb.toNat else u')

/-- A heartbeat not refreshed within its timeout raises HANG, and asks for its dump unless one is queued or runs (R119, R120). -/
def HeartbeatHangs : Prop :=
  ∀ (hb : BitVec 3),
    LeafDoes (.heartbeatTimeout .ring hb) .ring
      (fun l => l.kind = .ring ∧ Leaf.awake l = true ∧ (Leaf.beat l hb.toNat).ctl.getLsbD 0 = true ∧ (Leaf.beat l hb.toNat).armed = true ∧
        (Leaf.beat l hb.toNat).hung = false ∧
        (Leaf.beat l hb.toNat).last + bits (Leaf.beat l hb.toNat).ctl.toNat 27 2 * 1000 ≤ Leaf.now l)
      (fun l =>
        let b := Leaf.beat l hb.toNat
        let u := Leaf.raise (Leaf.setBeat l hb.toNat { b with hung := true, armed := false }) 0x0B (Leaf.input l (16 + hb.toNat)).unit hb.toNat
        if b.ctl.getLsbD 1 = true ∧ DumpSt.hasFor u.dump hb.toNat = false then
          { u with dump.queue := insertDump { hb := BitVec.ofNat 8 hb.toNat, start := Beat.segStart b, count := Beat.segCount b,
                                              at' := TimeDom.ns64 u.time, tq := Leaf.tq u } u.dump.queue }
        else u)

/-- A heartbeat control in range is taken; its low word disarms when it clears en, and restarts the count of an armed one (R119). -/
def HeartbeatControls : Prop :=
  ∀ (who : LeafId) (id : BitVec 4) (hb : BitVec 3) (v : DWord),
    LeafDoes (.hbCtlWrite who (.host id) hb (.full v)) who
      (fun l => Leaf.TakesHost l (0x200 + 8 * hb.toNat) ∧ hbLowOk (v.setWidth 32) = true)
      (fun l => Leaf.answer (Leaf.setBeat l hb.toNat
        (Beat.writeHigh (Beat.writeLow (Leaf.beat l hb.toNat) (v.setWidth 32) (Leaf.now l)) ((v >>> 32).setWidth 32))) 0) ∧
    LeafDoes (.hbCtlWrite who (.host id) hb (.full v)) who
      (fun l => Leaf.TakesHost l (0x200 + 8 * hb.toNat) ∧ hbLowOk (v.setWidth 32) = false) Leaf.answerError

/-! trace -/

/-- A cycle of an enabled trace port (R107, R108): a cycle that breaks R107 is counted and reported, any other accumulates its outcomes. -/
def BranchCycles : Prop :=
  ∀ (who : LeafId) (c : BitVec 3) (x : BranchCycle),
    LeafDoes (.branchRetireCycle who c x) who (fun l => l.trace.ctl.getLsbD c.toNat = true ∧ BranchCycle.bad x = true)
      (fun l => Leaf.setTrcPort l c.toNat { Leaf.trcPort l c.toNat with
        ifErrors := satAdd32 (Leaf.trcPort l c.toNat).ifErrors 1, ifErrPending := true }) ∧
    LeafDoes (.branchRetireCycle who c x) who
      (fun l => l.trace.ctl.getLsbD c.toNat = true ∧ BranchCycle.bad x = false ∧ x.ev = 0 ∧ (Leaf.trcPort l c.toNat).syncReq = false ∧
        (Leaf.trcPort l c.toNat).acc.length + x.cnt.toNat < 24)
      (fun l => Leaf.setTrcPort l c.toNat { Leaf.trcPort l c.toNat with
        retired := true, acc := (Leaf.trcPort l c.toNat).acc ++ (List.range x.cnt.toNat).map fun i => x.taken.getLsbD i })

/-- The encoder takes the head of an enabled port's queue (R114). -/
def TraceEncodes : Prop :=
  ∀ (who : LeafId) (c : BitVec 3) (e : TEntry) (r : List TEntry),
    LeafDoes (.traceEntryEncode who c) who
      (fun l => (Leaf.trcPort l c.toNat).queue = e :: r ∧ Leaf.asleep l = false ∧ l.trace.ctl.getLsbD c.toNat = true)
      (fun l => Leaf.setTrcPort l c.toNat (TracePort.encodeEntry { Leaf.trcPort l c.toNat with queue := r } (Leaf.encCtx l c.toNat) e))

/-- 10 µs idle flush the open run and the pending outcomes (R114). -/
def TraceFlushes : Prop :=
  ∀ (who : LeafId) (c : BitVec 3),
    LeafDoes (.traceFlushIdle who c) who
      (fun l => Leaf.awake l = true ∧ l.trace.ctl.getLsbD c.toNat = true ∧ (Leaf.trcPort l c.toNat).loss = none ∧
        ((Leaf.trcPort l c.toNat).run ≠ none ∨ (Leaf.trcPort l c.toNat).pending ≠ []) ∧ (Leaf.trcPort l c.toNat).lastActive + 10000 ≤ Leaf.now l)
      (fun l => Leaf.setTrcPort l c.toNat (TracePort.putAll { Leaf.trcPort l c.toNat with pending := [], run := none } (Leaf.encCtx l c.toNat)
        (flushPackets (Leaf.trcPort l c.toNat).pending (Leaf.trcPort l c.toNat).run)))

/-- 1 ms after the last SYNC, with content since, a SYNC is asked for (R113). -/
def SyncsPeriodic : Prop :=
  ∀ (who : LeafId) (c : BitVec 3),
    LeafDoes (.syncPeriodic who c) who
      (fun l => Leaf.awake l = true ∧ l.trace.ctl.getLsbD c.toNat = true ∧ (Leaf.trcPort l c.toNat).started = true ∧
        (Leaf.trcPort l c.toNat).retired = true ∧ (Leaf.trcPort l c.toNat).lastSync + 1000000 ≤ Leaf.now l)
      (fun l => Leaf.setTrcPort l c.toNat { Leaf.trcPort l c.toNat with
        syncReq := true, sinceSync := max (Leaf.trcPort l c.toNat).sinceSync (2 ^ (8 + bits l.trace.ctl.toNat 10 8)) })

/-- A trace frame closes 100 µs after its first packet (R115). -/
def TraceFramesClose : Prop :=
  ∀ (who : LeafId) (c : BitVec 3),
    LeafDoes (.traceFrameCloseTimer who c) who
      (fun l => Leaf.awake l = true ∧ (Leaf.trcPort l c.toNat).frame ≠ [] ∧ (Leaf.trcPort l c.toNat).frameAt + 100000 ≤ Leaf.now l)
      (fun l =>
        let p := Leaf.trcPort l c.toNat
        Leaf.setTrcPort l c.toNat { p with
          frames := p.frames ++ [(.trace (BitVec.ofNat 3 c.toNat) (p.offset - w32 p.frame.length) p.frame, p.frameTotals)], frame := [],
          frameTotals := (0, 0, 0) })

/-- LF_TRC_CTL is written through the host port; a value that enables the same ports changes the SYNC limit alone (R114). -/
def TraceControls : Prop :=
  ∀ (who : LeafId) (id : BitVec 4) (v : Word),
    LeafDoes (.trcCtlWrite who (.host id) v) who (fun l => Leaf.TakesHost l 0x160) (fun l => Leaf.answer (Leaf.writeTrcCtl l v) 0) ∧
    ∀ l : Leaf, (v &&& 0x7FF).setWidth 8 = l.trace.ctl.setWidth 8 → Leaf.writeTrcCtl l v = { l with trace.ctl := (v &&& 0x7FF).setWidth _ }

/-! dumps -/

/-- A manual dump request waits behind those queued; one at a time (R124). -/
def DumpCommanded : Prop :=
  ∀ (who : LeafId) (id : BitVec 4) (v : Word),
    LeafDoes (.dumpCmdWrite who (.host id) v) who
      (fun l => Leaf.TakesHost l 0x1A0 ∧ l.dump.queue.any (fun r => decide (r.hb = 0xFF)) = false)
      (fun l => Leaf.answer { l with dump.queue := l.dump.queue ++ [{
        hb := 0xFF, start := bits v.toNat 15 0, count := min (bits v.toNat 31 16 + 1) (65536 - bits v.toNat 15 0),
        at' := TimeDom.ns64 l.time, tq := Leaf.tq l }] } 0) ∧
    LeafDoes (.dumpCmdWrite who (.host id) v) who
      (fun l => Leaf.TakesHost l 0x1A0 ∧ l.dump.queue.any (fun r => decide (r.hb = 0xFF)) = true) Leaf.answerError

/-- The next queued request starts a walk under the next dump number (R120, R122, R125). -/
def WalkStarts : Prop :=
  ∀ (who : LeafId) (r : DumpReq) (rest : List DumpReq),
    LeafDoes (.dumpWalkStart who) who
      (fun l => l.dump.walk = none ∧ l.dump.queue = r :: rest ∧ Leaf.awake l = true ∧ l.pwr.cellar = 0)
      (fun l => Leaf.driveWalk { l with dump.queue := rest, dump.lastId := l.dump.lastId + 1,
                                        dump.walk := some { Walk.reset with req := r, id := l.dump.lastId + 1, entry := r.start } })

/-- A walk at an entry reads it through the initiator (R121, R122). -/
def WalkReadsEntry : Prop :=
  ∀ (l : Leaf) (w : Walk), l.dump.walk = some w → w.phase = 0 → HostPort.busyWith l.hp (fun p => p = 0 || p = 4) = false →
    Leaf.hasHolder l = true → DumpSt.room l.dump = true → l.pwr.cellar = 0 → Leaf.mayIssue l 16 = true →
    Leaf.driveWalk l = Leaf.issue { l with dump.walk := some { w with paused := false } } 0 (l.dump.base + w64 (16 * w.entry)) 16 none

/-- A paused walk goes on, or starts again from its segment's first entry when its port had gone down (R125, R126). -/
def WalkResumes : Prop :=
  ∀ (who : LeafId) (w : Walk),
    LeafDoes (.dumpWalkResume who) who (fun l => l.dump.walk = some w ∧ w.needRestart = false) Leaf.driveWalk ∧
    LeafDoes (.dumpWalkResume who) who (fun l => l.dump.walk = some w ∧ w.needRestart = true ∧ Leaf.pathUp l = true)
      (fun l => Leaf.driveWalk { l with
        dump.walk := some { Walk.reset with req := w.req, id := w.id, entry := w.req.start, restarted := true }, dump.frames := [],
        hp := HostPort.orphan l.hp fun p => p = 0 || p = 4 })

/-- A read of the walk that is not answered in time ends with status 2 (R123). -/
def DumpReadsTimeOut : Prop :=
  ∀ (who : LeafId) (tag : BitVec 5) (r : InitReq),
    LeafDoes (.dumpReadTimeout who tag) who
      (fun l => Cells.get none l.hp.outstanding tag.toNat = some r ∧ r.purpose = 0 ∧ r.at' + l.dump.rdTmo * 1000 ≤ Leaf.now l)
      (fun l => Leaf.driveWalk (Leaf.walkRead { l with hp.outstanding := Cells.set none l.hp.outstanding tag.toNat none } r.len 2 []))

/-- The scan-done signal completes a trigger entry, and a late one fails it with status 4 (R122, R123). -/
def ScansEnd : Prop :=
  ∀ (who : LeafId) (w : Walk),
    LeafDoes (.scanDone who) who (fun l => l.dump.walk = some w ∧ w.phase = 2 ∧ Leaf.awake l = true)
      (fun l =>
        let r := Leaf.dumpFrame l w 0 w.address []
        Leaf.driveWalk (Leaf.nextEntry r.1 r.2 false)) ∧
    LeafDoes (.scanDoneTimeout who) who (fun l => l.dump.walk = some w ∧ w.phase = 2 ∧ w.scanAt + l.dump.scanTmo * 1000000 ≤ Leaf.now l)
      (fun l =>
        let r := Leaf.dumpFrame l w 4 w.address []
        Leaf.driveWalk (Leaf.nextEntry r.1 r.2 true))

/-- A response to no outstanding request is a LEAF_FAULT; the data of the walk's read is read when its last beat came (R122, R123, R449). -/
def InitiatorAnswers : Prop :=
  ∀ (who : LeafId) (tag : BitVec 5) (err last : Bool) (data : List Byte) (r : InitReq),
    LeafDoes (.lhpInitiatorResponse who tag err last data) who (fun l => Cells.get none l.hp.outstanding tag.toNat = none)
      (fun l => Leaf.leafFault l 0xFF0B 0 0) ∧
    LeafDoes (.lhpInitiatorResponse who tag false false data) who (fun l => Cells.get none l.hp.outstanding tag.toNat = some r)
      (fun l => { l with hp.outstanding := Cells.set none l.hp.outstanding tag.toNat (some { r with data := r.data ++ data }) }) ∧
    LeafDoes (.lhpInitiatorResponse who tag err true data) who (fun l => Cells.get none l.hp.outstanding tag.toNat = some r ∧ r.purpose = 0)
      (fun l => Leaf.driveWalk (Leaf.walkRead { l with hp.outstanding := Cells.set none l.hp.outstanding tag.toNat none } r.len
        (if err then 1 else 0) (r.data ++ data)))

/-! ### Leases of a leaf, register frames and the lock -/

/-! leases and register frames at a leaf -/

/-- A leaf takes a LEASE_REQ: a ring end sends it to the leaf's DID, and no relay asks but for a fence (R22, R147, R349). -/
def takesLease (l : Leaf) (rx : Rx) (p : LeaseReqP) : Prop :=
  Leaf.Receives l rx (.leaseReq p) ∧ p.did = (Leaf.received l rx).ring.did ∧ 14 ≤ rx.hdr.src.toNat ∧ (rx.hdr.flags.getLsbD 0 = false ∨ p.op = 3)

/-- An acquire is granted when no lease is live or the requester holds it: the next epoch begins under the requester, and LEASE_GRANT 0 tells both ends
(R147, R148). -/
def LeaseAcquired : Prop :=
  ∀ (who : LeafId) (rx : Rx) (p : LeaseReqP),
    LeafDoes (.leaseAcquire who rx p) who
      (fun l => takesLease l rx { p with op := 0 } ∧ (Leaf.leaseLive (Leaf.received l rx) = false ∨ Leaf.isHolder (Leaf.received l rx) rx.hdr = true))
      (fun l =>
        let l := Leaf.received l rx
        Leaf.newEpoch (Leaf.sendGrant (Leaf.setLease l {
          holder := rx.hdr.src.setWidth 8, holderDid := rx.hdr.srcDid, epoch := nextEpoch l.ring.lease.epoch, duration := p.duration,
          expiry := BitVec.ofNat 64 (Leaf.now l + p.duration.toNat * 1000000) }) 0)) ∧
    LeafDoes (.leaseAcquire who rx p) who
      (fun l => takesLease l rx { p with op := 0 } ∧ Leaf.leaseLive (Leaf.received l rx) = true ∧ Leaf.isHolder (Leaf.received l rx) rx.hdr = false)
      (fun l => Leaf.sendGrant (Leaf.received l rx) 2)

/-- The holder renews its lease from the time of the request, under the epoch it names; anyone else gets 3 (R147). -/
def LeaseRenewed : Prop :=
  ∀ (who : LeafId) (rx : Rx) (p : LeaseReqP),
    LeafDoes (.leaseRenew who rx p) who
      (fun l => takesLease l rx { p with op := 1 } ∧ Leaf.isHolder (Leaf.received l rx) rx.hdr = true ∧ p.epoch = (Leaf.received l rx).ring.lease.epoch)
      (fun l =>
        let l := Leaf.received l rx
        Leaf.sendGrant (Leaf.setLease l { l.ring.lease with
          duration := p.duration, expiry := BitVec.ofNat 64 (Leaf.now l + p.duration.toNat * 1000000) }) 1) ∧
    LeafDoes (.leaseRenew who rx p) who
      (fun l => takesLease l rx { p with op := 1 } ∧ (Leaf.isHolder (Leaf.received l rx) rx.hdr = false ∨ p.epoch ≠ (Leaf.received l rx).ring.lease.epoch))
      (fun l => Leaf.sendGrant (Leaf.received l rx) 3)

/-- The holder releases its lease; a fence and an expiry end whatever lease is held (R147). -/
def LeaseEnds : Prop :=
  ∀ (who : LeafId) (rx : Rx) (p : LeaseReqP),
    LeafDoes (.leaseRelease who rx p) who
      (fun l => takesLease l rx { p with op := 2 } ∧ Leaf.isHolder (Leaf.received l rx) rx.hdr = true ∧ p.epoch = (Leaf.received l rx).ring.lease.epoch)
      (fun l => Leaf.sendGrant (Leaf.dropLease (Leaf.received l rx)) 4) ∧
    LeafDoes (.leaseRelease who rx p) who
      (fun l => takesLease l rx { p with op := 2 } ∧ (Leaf.isHolder (Leaf.received l rx) rx.hdr = false ∨ p.epoch ≠ (Leaf.received l rx).ring.lease.epoch))
      (fun l => Leaf.sendGrant (Leaf.received l rx) 3) ∧
    LeafDoes (.leaseFence who rx p) who (fun l => takesLease l rx { p with op := 3 })
      (fun l => Leaf.sendGrant (Leaf.dropLease (Leaf.received l rx)) 5) ∧
    LeafDoes (.leaseExpiry who) who (fun l => Leaf.hasHolder l = true ∧ l.ring.lease.expiry.toNat ≤ Leaf.now l)
      (fun l => Leaf.sendGrant (Leaf.dropLease l) 6)

/-- A LEASE_GRANT states the lease as it stands: no duration without a holder (R148). -/
def GrantStates : Prop :=
  ∀ (l : Leaf) (result : Byte) (q : Nat), l.ring.position = some q →
    Leaf.sendGrant l result = Leaf.sendBoth l (.leaseGrant {
      result := result, holder := l.ring.lease.holder, epoch := l.ring.lease.epoch,
      duration := if l.ring.lease.holder = 0xFF then 0 else l.ring.lease.duration, position := BitVec.ofNat 8 (Leaf.pos l),
      ringLen := BitVec.ofNat 8 l.ring.length, expiry := l.ring.lease.expiry, serial := l.fuses.serial, did := l.ring.did, tq := Leaf.tq l })

/-- A REG_RD to the leaf's DID is answered with the words it names, or with status 3 when its range is bad (R156). -/
def RegistersRead : Prop :=
  ∀ (who : LeafId) (rx : Rx) (did : Did) (off count : Half),
    LeafDoes (.regRd who rx did off count) who
      (fun l => Leaf.Receives l rx (.regRd did off count) ∧ did = (Leaf.received l rx).ring.did ∧ regRangeOk off.toNat count.toNat = true)
      (fun l =>
        let r := Leaf.readWords (Leaf.received l rx) (Requester.num (.ring rx)) off.toNat (count.toNat / 4)
        Leaf.respond r.1 rx 0 false r.2) ∧
    LeafDoes (.regRd who rx did off count) who
      (fun l => Leaf.Receives l rx (.regRd did off count) ∧ did = (Leaf.received l rx).ring.did ∧ regRangeOk off.toNat count.toNat = false)
      (fun l => Leaf.respond (Leaf.received l rx) rx 3 false [])

/-- A plain REG_WR that the leaf takes writes its words in order (R156); a repeat of a kept tag is answered from what was kept, and a sender other than
the holder gets 2 (R144, R161). -/
def RegistersWritten : Prop :=
  ∀ (who : LeafId) (rx : Rx) (did : Did) (off : Nat) (ws : List Word),
    LeafDoes (.regWr who rx did (BitVec.ofNat 16 off) (BitVec.ofNat 16 (4 * ws.length)) (ws.flatMap fun w => le 4 w.toNat)) who
      (fun l => Leaf.TakesWrite l rx did off ws)
      (fun l => Leaf.ringAnswer rx (Leaf.writeWords (Leaf.received l rx) (.ring rx) off ws))

/-- The answers to a REG_WR that is not carried out (R144, R161). -/
def WritesAnswered : Prop :=
  ∀ (who : LeafId) (rx : Rx) (did : Did) (off count : Half) (data : List Byte) (st : Byte) (kept : List Byte),
    LeafDoes (.regWr who rx did off count data) who
      (fun l => Leaf.Receives l rx (.regWr did 0 off count data) ∧ did = (Leaf.received l rx).ring.did ∧
        Leaf.keptTag (Leaf.received l rx) rx.hdr = some (st, kept))
      (fun l => Leaf.respond (Leaf.received l rx) rx st true kept) ∧
    LeafDoes (.regWr who rx did off count data) who
      (fun l => Leaf.Receives l rx (.regWr did 0 off count data) ∧ did = (Leaf.received l rx).ring.did ∧
        Leaf.keptTag (Leaf.received l rx) rx.hdr = none ∧ Leaf.fromHolder (Leaf.received l rx) rx.hdr = false ∧ timePath off.toNat count.toNat = false)
      (fun l => Leaf.respond (Leaf.received l rx) rx 2 false [])

/-! the set-up lock -/

/-- A lock op of a ring end, as a REG_WR of count 0 from the holder (R144, R161, R394). -/
def takesLockOp (l : Leaf) (rx : Rx) (did : Did) (op : Byte) : Prop :=
  Leaf.Receives l rx (.regWr did op 0 0 []) ∧ did = (Leaf.received l rx).ring.did ∧ Leaf.keptTag (Leaf.received l rx) rx.hdr = none ∧
  Leaf.fromHolder (Leaf.received l rx) rx.hdr = true ∧ rx.hdr.length = 8

/-- The answer of LF_LOCK: the outcome stands in its result field (R439). -/
def lockAnswer (r : Leaf × Byte) : Leaf := Leaf.answer (Leaf.setLock r.1 { r.1.cfg.lock with result := r.2 }) 0

/-- Acquire takes a free lock with an empty shadow bank; its owner may acquire it again; another requester gets 4 (R394). -/
def LockTaken : Prop :=
  (∀ (who : LeafId) (id : BitVec 4) (did : Did),
    LeafDoes (.lockAcquire who (.host id) did) who (fun l => Leaf.portOpen l = true) (fun l => lockAnswer (Leaf.lockAcquire l (.host id)))) ∧
  (∀ (who : LeafId) (rx : Rx) (did : Did),
    LeafDoes (.lockAcquire who (.ring rx) did) who (fun l => takesLockOp l rx did 1)
      (fun l =>
        let r := Leaf.lockAcquire (Leaf.received l rx) (.ring rx)
        Leaf.ringAnswer rx (r.1, r.2, []))) ∧
  ∀ (l : Leaf) (rq : Requester),
    (l.cfg.lock.owner = 0 → Leaf.lockAcquire l rq = (Leaf.setLock l { l.cfg.lock with
      owner := Requester.owner rq, shadow := [], overflow := false, lastOk := Leaf.now l }, 0)) ∧
    (l.cfg.lock.owner ≠ 0 → l.cfg.lock.owner = Requester.owner rq →
      Leaf.lockAcquire l rq = (Leaf.setLock l { l.cfg.lock with lastOk := Leaf.now l }, 0)) ∧
    (l.cfg.lock.owner ≠ 0 → l.cfg.lock.owner ≠ Requester.owner rq → Leaf.lockAcquire l rq = (l, 4))

/-- The owner's writes collect in the shadow bank; no lock gives 5, and an offset outside the set-up area 3 (R394). -/
def LockedWrites : Prop :=
  (∀ (who : LeafId) (id : BitVec 4) (did : Did) (off : Half) (ws : List Word),
    LeafDoes (.lockedWrite who (.host id) did off (ws.flatMap fun w => le 4 w.toNat)) who
      (fun l => Leaf.portOpen l = true ∧ off ≠ 0x54 ∧ Leaf.owns l (.host id) = true ∧ unlocked off.toNat = false)
      (fun l =>
        let r := Leaf.lockedWords l (.host id) off.toNat ws
        if r.2 = 0 then Leaf.answer r.1 0 else Leaf.answerError r.1)) ∧
  (∀ (who : LeafId) (rx : Rx) (did : Did) (off : Half) (ws : List Word),
    LeafDoes (.lockedWrite who (.ring rx) did off (ws.flatMap fun w => le 4 w.toNat)) who
      (fun l => Leaf.Receives l rx (.regWr did 2 off (BitVec.ofNat 16 (4 * ws.length)) (ws.flatMap fun w => le 4 w.toNat)) ∧
        did = (Leaf.received l rx).ring.did ∧ Leaf.keptTag (Leaf.received l rx) rx.hdr = none ∧ Leaf.fromHolder (Leaf.received l rx) rx.hdr = true ∧
        rx.hdr.length.toNat = 8 + 4 * ws.length ∧ 0 < ws.length ∧ regRangeOk off.toNat (4 * ws.length) = true)
      (fun l =>
        let r := Leaf.lockedWords (Leaf.received l rx) (.ring rx) off.toNat ws
        Leaf.ringAnswer rx (r.1, r.2, []))) ∧
  ∀ (l : Leaf) (rq : Requester) (off : Nat) (ws : List Word),
    (Leaf.owns l rq = false → Leaf.lockedWords l rq off ws = (l, 5)) ∧
    (Leaf.owns l rq = true → 0x6800 < off + 4 * ws.length → Leaf.lockedWords l rq off ws = (l, 3)) ∧
    ∀ w : Word, Leaf.owns l rq = true → off + 4 ≤ 0x6800 → l.cfg.lock.shadow.any (fun e => decide (e.1 = Leaf.shadowKey l off)) = false →
      l.cfg.lock.shadow.length < 2048 →
      Leaf.lockedWords l rq off [w] = (Leaf.setLock l { l.cfg.lock with
        shadow := l.cfg.lock.shadow ++ [(Leaf.shadowKey l off, w)], lastOk := Leaf.now l }, 0)

/-- A commit by the owner applies the shadow bank when the set-up would stand its checks, and frees the lock either way; abandon frees it alone
(R394). -/
def LockEnds : Prop :=
  (∀ (who : LeafId) (id : BitVec 4) (did : Did),
    LeafDoes (.lockCommit who (.host id) did) who (fun l => Leaf.portOpen l = true) (fun l => lockAnswer (Leaf.lockCommit l (.host id))) ∧
    LeafDoes (.lockAbandon who (.host id) did) who (fun l => Leaf.portOpen l = true) (fun l => lockAnswer (Leaf.lockAbandon l (.host id)))) ∧
  (∀ (who : LeafId) (rx : Rx) (did : Did),
    LeafDoes (.lockCommit who (.ring rx) did) who (fun l => takesLockOp l rx did 3)
      (fun l =>
        let r := Leaf.lockCommit (Leaf.received l rx) (.ring rx)
        Leaf.ringAnswer rx (r.1, r.2, [])) ∧
    LeafDoes (.lockAbandon who (.ring rx) did) who (fun l => takesLockOp l rx did 4)
      (fun l =>
        let r := Leaf.lockAbandon (Leaf.received l rx) (.ring rx)
        Leaf.ringAnswer rx (r.1, r.2, []))) ∧
  ∀ (l : Leaf) (rq : Requester),
    (Leaf.owns l rq = false → Leaf.lockCommit l rq = (l, 5) ∧ Leaf.lockAbandon l rq = (l, 5)) ∧
    (Leaf.owns l rq = true → Leaf.lockAbandon l rq = (Leaf.setLock l { l.cfg.lock with owner := 0, shadow := [], overflow := false }, 0)) ∧
    (Leaf.owns l rq = true → l.cfg.lock.overflow = false → Leaf.commitOk (l.cfg.lock.shadow.foldl (Leaf.applyShadow rq) l) = true →
      Leaf.lockCommit l rq =
        (let m := l.cfg.lock.shadow.foldl (Leaf.applyShadow rq) l
         Leaf.freeLock { m with cfg := { m.cfg with commits := satAdd16 m.cfg.commits 1 } }, 0)) ∧
    (Leaf.owns l rq = true → Leaf.commitOk (l.cfg.lock.shadow.foldl (Leaf.applyShadow rq) l) = false →
      Leaf.lockCommit l rq = (Leaf.freeLock l, 1))

/-- A ring end that lets 10 ms pass loses the lock with LOCK_LOST cause 1 (R395). -/
def LockTimesOut : Prop :=
  ∀ who : LeafId,
    LeafDoes (.lockTimeout who) who (fun l => (l.cfg.lock.owner = 14 ∨ l.cfg.lock.owner = 15) ∧ l.cfg.lock.lastOk + 10000000 ≤ Leaf.now l)
      (fun l => Leaf.raise (Leaf.freeLock l) 0x1B 0xFF00
        (1 + 256 * l.cfg.lock.owner.toNat + 65536 * Nat.min l.cfg.lock.shadow.length 255))

/-! ### Captures of a leaf, health records and the guardband -/

/-! captures and verdicts at a leaf -/

/-- LF_STEP takes the step; a pending rate exponent takes effect with it, and a change is counted and stamped with the step (R300). -/
def StepWritten : Prop :=
  (∀ (who : LeafId) (id : BitVec 4) (v : DWord),
    LeafDoes (.stepWrite who (.host id) (.full v)) who (fun l => Leaf.TakesHost l 0x100) (fun l => Leaf.answer (Leaf.writeStep l v) 0)) ∧
  ∀ (l : Leaf) (v : DWord),
    (l.assay.pending = false → Leaf.writeStep l v = { l with assay.step := v }) ∧
    (l.assay.pending = true → l.assay.kNext ≠ l.assay.k →
      Leaf.writeStep l v = { l with assay := { l.assay with
        step := v, pending := false, k := l.assay.kNext, changes := l.assay.changes + 1, stepAt := v } }) ∧
    (l.assay.pending = true → l.assay.kNext = l.assay.k →
      Leaf.writeStep l v = { l with assay := { l.assay with step := v, pending := false } })

/-- A post is taken with the next capture ID while captures are enabled, its address is a multiple of 64 and fewer than 64 wait; otherwise it is
refused and counted (R303, R306). -/
def CapturesPosted : Prop :=
  ∀ (who : LeafId) (id : BitVec 4) (v : DWord),
    LeafDoes (.capPostWrite who id (.full v)) who
      (fun l => Leaf.TakesHost l 0x110 ∧ l.assay.capCtl.getLsbD 0 = true ∧ v.toNat % 64 = 0 ∧ (l.assay.posts.filter fun p => !p.done).length < 64)
      (fun l => Leaf.answer { l with assay := { l.assay with
        posts := l.assay.posts ++ [{ Post.reset with id := l.assay.nextId, address := v, at' := Leaf.now l }], nextId := l.assay.nextId + 1 } } 0) ∧
    LeafDoes (.capPostWrite who id (.full v)) who
      (fun l => Leaf.TakesHost l 0x110 ∧
        (l.assay.capCtl.getLsbD 0 = false ∨ v.toNat % 64 ≠ 0 ∨ 64 ≤ (l.assay.posts.filter fun p => !p.done).length))
      (fun l => Leaf.answerError (Leaf.countCap l 0))

/-- The next post's header is read through the initiator, never across a 64-byte boundary (R304, R449). -/
def CapturesPull : Prop :=
  ∀ (who : LeafId) (p : Post),
    LeafDoes (.captureProcess who) who
      (fun l => Leaf.pullsOpen l = true ∧ LeafAssay.nextHeader l.assay = some p ∧ LeafAssay.nextInput l.assay = none ∧ l.assay.fetches = [] ∧
        HostPort.busyWith l.hp (· = 1) = false ∧
        Leaf.mayIssue l (readLen (p.address + w64 p.hdr.length) (Post.hdrLen p - p.hdr.length)) = true)
      (fun l =>
        let a := p.address + w64 p.hdr.length
        Leaf.issue l 1 a (readLen a (Post.hdrLen p - p.hdr.length)) none) ∧
    LeafDoes (.captureProcess who) who
      (fun l => Leaf.pullsOpen l = true ∧ LeafAssay.nextHeader l.assay = none ∧ LeafAssay.nextInput l.assay = some p ∧ l.assay.fetches = [] ∧
        HostPort.busyWith l.hp (· = 2) = false ∧
        Leaf.mayIssue l (readLen (p.address + w64 (Post.inputOff p + p.sent)) (min (Post.len p - p.sent) (2040 - p.part.length))) = true)
      (fun l =>
        let a := p.address + w64 (Post.inputOff p + p.sent)
        Leaf.issue l 2 a (readLen a (min (Post.len p - p.sent) (2040 - p.part.length))) none)

/-- A capture pull has waited for its answer for the read timeout (R123, R304). -/
def pullDue (l : Leaf) : Option InitReq → Bool
  | some r => (r.purpose = 1 || r.purpose = 2 || r.purpose = 3) && decide (r.at' + l.dump.rdTmo * 1000 ≤ Leaf.now l)
  | none => false

/-- A pull unanswered for the read timeout fails: its capture is abandoned and counted, and the late answer will be dropped (R304). -/
def PullsTimeOut : Prop :=
  ∀ (who : LeafId) (tag : Nat) (r : InitReq),
    LeafDoes (.capturePullTimeout who) who
      (fun l => l.hp.outstanding.find? (fun e => pullDue l e.2) = some (tag, some r))
      (fun l => Leaf.drivePulls (Leaf.pullEnd
        { l with hp.outstanding := Cells.set none l.hp.outstanding tag (some { r with purpose := 5 }) } r.purpose false []))

/-- A capture is released at its hold limit and counted (R307). -/
def HoldsExpire : Prop :=
  ∀ (who : LeafId) (id : Word) (p : Post),
    LeafDoes (.captureHoldExpiry who id) who
      (fun l => l.assay.posts.find? (fun q => decide (q.id = id)) = some p ∧ p.released = false ∧
        p.at' + bits l.assay.capCtl.toNat 10 1 * 1000000 ≤ Leaf.now l)
      (fun l => Leaf.countCap { l with assay := LeafAssay.prune (LeafAssay.setPost l.assay { p with released := true }) } 4)

/-- The holder's fetch of a retained output of a capture not yet released waits for the pulls; the output's length is not in the header (R308). -/
def RetainedFetched : Prop :=
  ∀ (who : LeafId) (rx : Rx) (did : Did) (v : DWord) (p : Post),
    LeafDoes (.capFetchWrite who (.ring rx) did (.full v)) who
      (fun l => Leaf.TakesWrite l rx did 0x118 [v.setWidth 32, (v >>> 32).setWidth 32] ∧
        (Leaf.received l rx).assay.posts.find? (fun q => decide (q.id = v.setWidth 32) && !q.released) = some p ∧
        Post.hdrLen p ≤ p.hdr.length ∧ bits v.toNat 37 32 < Post.n p ∧ field p.hdr (76 + 16 * bits v.toNat 37 32) 4 ≠ 0)
      (fun l =>
        let l := Leaf.received l rx
        let ret := field p.hdr (76 + 16 * bits v.toNat 37 32) 4
        Leaf.ringAnswer rx ({ l with
          free := l.free + 1,
          assay := { l.assay with fetches := l.assay.fetches ++ [{
            id := v.setWidth 32, address := p.address + w64 (64 * ret), remaining := 1 + Config.retainedLength l.free % 16777216,
            offset := w32 (64 * ret - Post.inputOff p), part := [] }] } }, 0, []))

/-- A verdict releases its capture; MATCH is only counted, and another verdict raises its record (R319, R185). -/
def VerdictsArrive : Prop :=
  ∀ (who : LeafId) (rx : Rx) (did : Did) (c : Word) (r : VerdictRec) (p : Post),
    LeafDoes (.verdictFrame who rx did c r) who
      (fun l => Leaf.Receives l rx (.verdict did c r) ∧ did = (Leaf.received l rx).ring.did ∧
        (Leaf.received l rx).assay.posts.find? (fun q => decide (q.id = c)) = some p)
      (fun l =>
        let l := Leaf.received l rx
        let l := { l with assay := LeafAssay.prune (LeafAssay.setPost l.assay { p with released := true }) }
        if r.verdict = 0 then Leaf.countCap l 5
        else if r.verdict = 1 then Leaf.raiseError (Leaf.countCap l 6) (Leaf.hostRecord l 0x03 r.unit r.operation (r.checkpoint.setWidth 24))
        else Leaf.raiseRec (Leaf.countCap l 7) (Leaf.hostRecord l 0x04 r.unit r.operation (r.verdict.setWidth 24)))

/-! health at a leaf -/

/-- A host error report of a unit, severity 0 or 1, enters with its class; one for a reserved unit, of another severity or to a nearly full store is
refused (R188, R189). -/
def ErrorsReported : Prop :=
  ∀ (id : BitVec 4) (v : DWord),
    EitherLeafDoes (fun w => .errRptWrite w (.host id) (.full v))
      (fun l => Leaf.TakesHost l 0x108 ∧ (v.setWidth 16 : Half) ≠ 0 ∧ (v.setWidth 16 : Half).toNat < 0xFF00 ∧ bits v.toNat 57 56 < 2 ∧
        l.health.store.length ≤ 448)
      (fun l => Leaf.answer (Leaf.raiseError l (Leaf.hostRecord l (if bits v.toNat 57 56 = 0 then 0x01 else 0x02) (v.setWidth 16)
        (BitVec.ofNat 16 (bits v.toNat 31 16)) (BitVec.ofNat 24 (bits v.toNat 55 32)))) 0) ∧
    EitherLeafDoes (fun w => .errRptWrite w (.host id) (.full v))
      (fun l => Leaf.TakesHost l 0x108 ∧ ((v.setWidth 16 : Half) = 0 ∨ 0xFF00 ≤ (v.setWidth 16 : Half).toNat ∨ 2 ≤ bits v.toNat 57 56 ∨
        448 < l.health.store.length))
      Leaf.answerError

/-- The store takes the records held, in the order raised, up to 512 (R188). -/
def HeldAdmitted : Prop :=
  ∀ who : LeafId,
    LeafDoes (.healthStoreAdmit who) who (fun _ => True)
      (fun l =>
        let n := 512 - l.health.store.length
        { l with health := { l.health with store := l.health.store ++ l.health.held.take n, held := l.health.held.drop n } })

/-! the guardband port -/

/-- The next request goes to the port when none is in progress and the last acknowledgement has gone low (R195). -/
def GuardbandRequests : Prop :=
  ∀ (who : LeafId) (h : Handshake) (r : List Handshake),
    LeafDoes (.guardbandRequestStart who) who
      (fun l => l.gb.cur = none ∧ l.gb.queue = h :: r ∧ l.gb.ackLow = false ∧ Leaf.asleep l = false)
      (fun l => Leaf.emit { l with gb := { l.gb with cur := some { h with t0 := Leaf.now l }, queue := r, req := true } }
        (.gbRequest h.group h.kind h.value))

/-- An acknowledgement ends the request in progress with its GUARDBAND_STEP record; applied, refused and conflict have their effects, and result 0b11
counts as refused (R192, R193, R195, R198). -/
def GuardbandAnswers : Prop :=
  ∀ (h : Handshake) (res : BitVec 2),
    EitherLeafDoes (fun w => .guardbandAck w res) (fun l => l.gb.cur = some h ∧ h.acked = false)
      (fun l =>
        let l := { l with gb := { l.gb with
          req := false, ackLow := true, cur := none, badRes := if res = 3 then satAdd32 l.gb.badRes 1 else l.gb.badRes } }
        match res.toNat with
        | 0 => Leaf.gbApplied (Leaf.gbStep l h 0) h
        | 2 => Leaf.conflict (Leaf.gbStep l h 2) h.group
        | _ => Leaf.gbRefused (Leaf.gbStep l h 1) h)

/-- The guardband step, 8-bit value, group and result of a record (R186). -/
def GuardbandStepRecord : Prop :=
  ∀ (l : Leaf) (h : Handshake) (n : Nat),
    Leaf.gbStep l h n = Leaf.raiseRec l (Leaf.record l (TimeDom.ns64 l.time) 0x11 0xFF0A 0
      (BitVec.ofNat 24 (h.value.toNat + 256 * h.group.toNat + 65536 * n)) 0)

/-- The low phases of the two handshakes, the timeout that is told once, and a conflict on its channel (R195, R198). -/
def GuardbandEvents : Prop :=
  (∀ who : LeafId,
    LeafDoes (.guardbandAckLow who) who (fun _ => True) (fun l => { l with gb.ackLow := false }) ∧
    LeafDoes (.conflictRequestLow who) who (fun _ => True) (fun l => { l with gb.cfAck := false })) ∧
  (∀ h : Handshake,
    EitherLeafDoes .guardbandTimeout
      (fun l => l.gb.cur = some h ∧ h.timedOut = false ∧ h.t0 + GbPort.tmo l.gb * 1000000 ≤ Leaf.now l)
      (fun l => Leaf.gbStep { l with gb.cur := some { h with timedOut := true } } h 3)) ∧
  ∀ g : Byte,
    EitherLeafDoes (fun w => .guardbandConflict w g) (fun l => l.gb.cfAck = false)
      (fun l => Leaf.fenceGroup (Leaf.raise { l with gb.cfAck := true } 0x12 0xFF0A (256 * g.toNat)) g)

/-- After the port's reset a request in progress starts again, before the requests of the held groups in ascending order (R196, R452). -/
def GuardbandResets : Prop :=
  ∀ h : Handshake,
    EitherLeafDoes .guardbandPortReset (fun l => l.gb.cur = some h)
      (fun l => Leaf.requestHeldGroups { l with gb := { l.gb with
        cur := none, queue := { h with timedOut := false } :: l.gb.queue, req := false, ackLow := false, cfAck := false } }) ∧
    EitherLeafDoes .guardbandPortReset (fun l => l.gb.cur = none)
      (fun l => Leaf.requestHeldGroups { l with gb := { l.gb with req := false, ackLow := false, cfAck := false } })

/-- LF_GB_ACCEPT with its complement names a unit's lower step: ACCEPT_RISK is raised, and the step falls only once that record commits (R199). -/
def RisksAccepted : Prop :=
  ∀ (who : LeafId) (id : BitVec 4) (v : DWord) (i : Nat),
    LeafDoes (.gbAcceptWrite who (.host id) (.full v)) who
      (fun l => Leaf.TakesHost l 0x188 ∧ LedgerSt.entryOf l.led (v.setWidth 16) = some i ∧
        ((v >>> 32).setWidth 32 : Word) = (v.setWidth 32 : Word) ^^^ 0xA5A55A5A ∧
        bits v.toNat 20 16 < (LedgerSt.entry l.led i).step.toNat ∧ l.led.decisions.length < 2048)
      (fun l =>
        let r := Leaf.record l (TimeDom.ns64 l.time) 0x14 (v.setWidth 16) (0xF000 + id.setWidth 16)
          (BitVec.ofNat 24 (bits v.toNat 20 16 + 256 * (LedgerSt.entry l.led i).step.toNat)) 0
        Leaf.answer (Leaf.raiseRec { l with gb.accepts := l.gb.accepts ++ [(v.setWidth 16, BitVec.ofNat 8 (bits v.toNat 20 16), r)] } r) 0)

/-! ### The Ledger, attestation, check values and the sequencer -/

/-! the Ledger -/

/-- A page write may start (R179, R180): none is in progress, VNV is high, and the leaf is in service. -/
def writeMayStart (l : Leaf) : Prop :=
  l.led.write = none ∧ l.led.vnvLow = false ∧ l.led.cellarPaused = false ∧ Leaf.asleep l = false

/-- The sequencer's next due change. -/
def seqNext (l : Leaf) : Option (Nat × Nat × Bool) := if l.seq.running then l.led.dirty.find? (LedgerSt.due l.led) else none

/-- The sequencer's page writes and LF_LDG_CMD's alternate while both wait (R170, R179). -/
def PageWritesStart : Prop :=
  ∀ (who : LeafId) (p : Nat) (e : Nat × Nat × Bool),
    LeafDoes (.pageWriteStart who) who (fun l => writeMayStart l ∧ l.led.user = some p ∧ seqNext l = none)
      (fun l => { l with led := LedgerSt.beginUser l.led p }) ∧
    LeafDoes (.pageWriteStart who) who (fun l => writeMayStart l ∧ l.led.user = none ∧ seqNext l = some e) (fun l => Leaf.beginSeq l e) ∧
    LeafDoes (.pageWriteStart who) who (fun l => writeMayStart l ∧ l.led.user = some p ∧ seqNext l = some e)
      (fun l => if l.led.userLast then Leaf.beginSeq l e else { l with led := LedgerSt.beginUser l.led p })

/-- A write begins by clearing the commit trailer of its page (R170). -/
def WriteClearsTrailer : Prop :=
  ∀ (d : LedgerSt) (w : PageWrite), Cells.wf Page.reset d.pages = true →
    (LedgerSt.begin d w).write = some w ∧ LedgerSt.page (LedgerSt.begin d w) w.phys = { LedgerSt.page d w.phys with trailer := [] } ∧
    ∀ q, q ≠ w.phys → LedgerSt.page (LedgerSt.begin d w) q = LedgerSt.page d q

/-- A page write that verifies puts its data and its commit trailer; one that does not leaves no trailer and its page is retired (R170, R182). -/
def PageWritesEnd : Prop :=
  ∀ (who : LeafId) (w : PageWrite),
    LeafDoes (.pageWriteComplete who true) who
      (fun l => l.led.write = some w ∧ l.led.vnvLow = false ∧ w.torn = false ∧ l.led.refusing.contains (w.kind, w.logical) = false ∧
        w.wear.toNat < 100000)
      (fun l =>
        let d := { l.led with
          pages := Cells.set Page.reset l.led.pages w.phys { data := w.data, trailer := trailerOf w.kind w.logical w.generation w.wear w.data },
          write := none }
        Leaf.pageCommitted { l with led := if w.user then LedgerSt.setStatus d 0 else d } w) ∧
    LeafDoes (.pageWriteComplete who false) who
      (fun l => l.led.write = some w ∧ l.led.vnvLow = false ∧ w.torn = false ∧ l.led.refusing.contains (w.kind, w.logical) = false)
      (fun l => Leaf.retirePage { l with led := { l.led with
        pages := Cells.set Page.reset l.led.pages w.phys { data := w.data, trailer := [] } } } w)

/-- VNV sag holds the Ledger's writes; below 1.60 V the chunk being written is torn, and the write starts again at resumption (R172, R180). -/
def VnvEvents : Prop :=
  ∀ (who : LeafId) (w : PageWrite) (n : Nat),
    LeafDoes (.vnvSag who false n) who (fun _ => True) (fun l => { l with led.vnvLow := true }) ∧
    LeafDoes (.vnvSag who true n) who (fun l => l.led.write = some w ∧ w.torn = false)
      (fun l =>
        let l := Leaf.tear { l with led.vnvLow := true } w n
        { l with led.write := some { w with torn := true } }) ∧
    LeafDoes (.vnvSag who true n) who (fun l => l.led.write = none) (fun l => { l with led.vnvLow := true }) ∧
    LeafDoes (.vnvResume who) who (fun _ => True)
      (fun l => { l with led := { l.led with vnvLow := false, write := l.led.write.map fun w => { w with torn := false } } })

/-- Operating time counts each 1/64 hour of leaf time, and the header is written (R176). -/
def OperatingTime : Prop :=
  ∀ who : LeafId,
    LeafDoes (.operatingTimeTick who) who (fun l => l.led.lastTick < Leaf.now l / 56250000000)
      (fun l => { l with led := LedgerSt.mark { l.led with
        lastTick := Leaf.now l / 56250000000, header := { l.led.header with op := satAdd32 l.led.header.op 1 } } 2 0 true })

/-- LF_LDG_CMD reads a page and its trailer into LF_LDG_BUF, with status 0 when the page is committed and 1 when it is not (R177). -/
def LedgerPagesRead : Prop :=
  ∀ (who : LeafId) (id : BitVec 4) (page : BitVec 12),
    LeafDoes (.ldgReadPage who (.host id) page) who (fun l => Leaf.TakesHost l 0x184 ∧ LedgerSt.busy l.led = false)
      (fun l => Leaf.answer (Leaf.ldgRead l page.toNat) 0) ∧
    LeafDoes (.ldgReadPage who (.host id) page) who (fun l => Leaf.TakesHost l 0x184 ∧ LedgerSt.busy l.led = true) Leaf.answerError ∧
    ∀ l : Leaf, (Leaf.ldgRead l page.toNat).led.buf =
      padTo 256 (LedgerSt.page l.led page.toNat).data ++ padTo 16 (LedgerSt.page l.led page.toNat).trailer

/-- LF_LDG_CMD programs a page of the inactive image only: status 3 outside the images, and 2 in the image that executes (R177). -/
def LedgerPagesProgrammed : Prop :=
  ∀ (who : LeafId) (id : BitVec 4) (page : BitVec 12),
    LeafDoes (.ldgProgramPage who (.host id) page) who (fun l => Leaf.TakesHost l 0x184 ∧ LedgerSt.busy l.led = false)
      (fun l => Leaf.answer
        (if 768 ≤ page.toNat % 2048 then { l with led.status := 3 }
         else if SeqSt.executing l.seq = some (page.toNat / 2048) then { l with led.status := 2 }
         else { l with led.user := some page.toNat }) 0)

/-! attestation -/

/-- A word of LF_ATT_NONCE is taken while no signature is in progress; the last word starts the signature (R202). -/
def NonceWritten : Prop :=
  ∀ (who : LeafId) (id : BitVec 4) (k : BitVec 4) (v : Word), k.toNat < 12 →
    LeafDoes (.attNonceWrite who (.host id) k v) who (fun l => Leaf.TakesHost l (0x1700 + 4 * k.toNat) ∧ l.att.busy = false)
      (fun l => Leaf.answer { l with att := { l.att with
        nonce := setBytes l.att.nonce (4 * k.toNat) (le 4 v.toNat), busy := if k = 11 then true else l.att.busy,
        done := if k = 11 then false else l.att.done } } 0) ∧
    LeafDoes (.attNonceWrite who (.host id) k v) who (fun l => Leaf.TakesHost l (0x1700 + 4 * k.toNat) ∧ l.att.busy = true) Leaf.answerError

/-- The signature covers the nonce, the identity, the power and operating counts, the DID and the lease epoch; the header of the last power-up is
written first (R176, R202). -/
def AttestationSigns : Prop :=
  ∀ who : LeafId,
    LeafDoes (.attestationSigned who) who (fun l => l.att.busy = true ∧ l.seq.running = true ∧ l.seq.headerDue = false)
      (fun l =>
        let m := l.att.nonce ++ l.fuses.identity ++ le 8 l.fuses.serial.toNat ++ le 4 l.led.header.power.toNat ++ le 4 l.led.header.op.toNat
          ++ le 3 l.ring.did.toNat ++ [0] ++ le 2 l.ring.lease.epoch.toNat ++ zeros 2
        { l with att := { l.att with busy := false, done := true, sig := Config.ecdsaSign l.fuses.privateKey m } })

/-! check-value engines -/

/-- A start opens the context with the polynomial's initial value and the next alive count; LF_CV_CTL takes the polynomial and closes it (R408,
R410). -/
def CheckValuesStart : Prop :=
  ∀ (who : LeafId) (id : BitVec 4) (e : BitVec 2) (v : Word),
    LeafDoes (.cvStart who (.host id) e) who (fun l => Leaf.TakesHost l (0x1504 + 32 * e.toNat))
      (fun l =>
        let c := Leaf.cvEngine l e.toNat
        Leaf.answer (Leaf.setCv l e.toNat { c with run := cvInit c.poly, alive := c.alive + 1, readOnce := false, reread := false, open' := true }) 0) ∧
    LeafDoes (.cvCtlWrite who (.host id) e v) who (fun l => Leaf.TakesHost l (0x1500 + 32 * e.toNat))
      (fun l => Leaf.answer (Leaf.setCv l e.toNat { Leaf.cvEngine l e.toNat with poly := v.setWidth 2, open' := false }) 0)

/-- Bytes fed to an open context enter its running value, lowest address first; without one the write is refused (R409). -/
def CheckValuesFeed : Prop :=
  ∀ (who : LeafId) (id : BitVec 4) (e : BitVec 2) (w : Word) (b : Byte) (h : Half),
    LeafDoes (.cvFeed who (.host id) e (.b4 w)) who (fun l => Leaf.TakesHost l (0x1508 + 32 * e.toNat) ∧ (Leaf.cvEngine l e.toNat).open' = true)
      (fun l =>
        let c := Leaf.cvEngine l e.toNat
        Leaf.answer (Leaf.setCv l e.toNat { c with run := (le 4 w.toNat).foldl (cvByte c.poly) c.run }) 0) ∧
    LeafDoes (.cvFeed who (.host id) e (.b4 w)) who (fun l => Leaf.TakesHost l (0x1508 + 32 * e.toNat) ∧ (Leaf.cvEngine l e.toNat).open' = false)
      Leaf.answerError ∧
    LeafDoes (.cvFeed who (.host id) e (.b1 b)) who (fun l => Leaf.portOpen l = true ∧ l.cfg.lock.owner = 0 ∧ (Leaf.cvEngine l e.toNat).open' = true)
      (fun l =>
        let c := Leaf.cvEngine l e.toNat
        Leaf.answer (Leaf.setCv l e.toNat { c with run := cvByte c.poly c.run b }) 0) ∧
    LeafDoes (.cvFeed who (.host id) e (.b2 h)) who (fun l => Leaf.portOpen l = true ∧ l.cfg.lock.owner = 0 ∧ (Leaf.cvEngine l e.toNat).open' = true)
      (fun l =>
        let c := Leaf.cvEngine l e.toNat
        Leaf.answer (Leaf.setCv l e.toNat { c with run := (le 2 h.toNat).foldl (cvByte c.poly) c.run }) 0)

/-- A read of LF_CV_RES answers the result and marks a reread; one of LF_CV_VAL answers the running value and changes nothing; both show the alive count
for polynomials 0, 1 and 3 (R410). -/
def CheckValuesRead : Prop :=
  ∀ (who : LeafId) (id : BitVec 4) (e : BitVec 2),
    LeafDoes (.cvResultRead who (.host id) e) who (fun l => Leaf.portOpen l = true)
      (fun l =>
        let c := Leaf.cvEngine l e.toNat
        Leaf.answer (Leaf.setCv l e.toNat { c with readOnce := true, reread := c.reread || c.readOnce })
          (CvEngine.shown c (cvResult c.poly c.run))) ∧
    LeafDoes (.cvSave who (.host id) e) who (fun l => Leaf.portOpen l = true)
      (fun l =>
        let c := Leaf.cvEngine l e.toNat
        Leaf.answer l (CvEngine.shown c c.run))

/-- A write of LF_CV_VAL opens the context with the saved running value and alive count; polynomial 2 takes its alive count through LF_CV_ALIVE
(R410). -/
def CheckValuesRestore : Prop :=
  ∀ (who : LeafId) (id : BitVec 4) (e : BitVec 2) (v : DWord) (alive : Byte),
    LeafDoes (.cvRestore who (.host id) e v alive) who
      (fun l => Leaf.TakesHost l (0x1518 + 32 * e.toNat) ∧ (Leaf.cvEngine l e.toNat).poly ≠ 2)
      (fun l =>
        let c := Leaf.cvEngine l e.toNat
        Leaf.answer (Leaf.setCv l e.toNat { c with
          run := if c.poly = 3 then v &&& 0xFFFF else v &&& 0xFFFFFFFF, alive := alive, readOnce := false, reread := false, open' := true }) 0) ∧
    LeafDoes (.cvRestore who (.host id) e v alive) who
      (fun l => Leaf.TakesHost l (0x1518 + 32 * e.toNat) ∧ (Leaf.cvEngine l e.toNat).poly = 2 ∧ Cells.wf CvEngine.reset l.cv = true)
      (fun l =>
        let c := { Leaf.cvEngine l e.toNat with run := v, readOnce := false, reread := false, open' := true }
        Leaf.answer (Leaf.setCv (Leaf.answer (Leaf.setCv l e.toNat c) 0) e.toNat { c with alive := alive }) 0)

/-! the sequencer -/

/-- A restart through LF_SEQ_CTL or by the watchdog stops the sequencer: what its SRAM held is lost, and the cause and the count show it (R426,
R427). -/
def SequencerStops : Prop :=
  (∀ (who : LeafId) (id : BitVec 4),
    LeafDoes (.seqRestartCurrent who (.host id)) who (fun l => Leaf.TakesHost l 0x13C) (fun l => Leaf.answer (Leaf.seqStop l 6 false) 0) ∧
    LeafDoes (.seqRestartOther who (.host id)) who (fun l => Leaf.TakesHost l 0x13C) (fun l => Leaf.answer (Leaf.seqStop l 6 true) 0) ∧
    LeafDoes (.sequencerWatchdog who) who (fun l => l.seq.running = true)
      (fun l => Leaf.seqStop l 5 (decide (Leaf.now l < l.seq.bootAt + 1000000000)))) ∧
  ∀ (l : Leaf) (cause : BitVec 3) (other : Bool),
    Leaf.seqStop l cause other = { l with
      seq := { l.seq with running := false, other := other }, led := { l.led with units := [], decisions := [], gbState := [], life := [], dirty := [] },
      pwr := { l.pwr with cause := cause, count := l.pwr.count + 1 } }

/-- The image of the higher version boots, image A when equal, the other one after a restart that names it; without a valid image no firmware runs
(R427). -/
def SequencerBoots : Prop :=
  (∀ who : LeafId,
    LeafDoes (.sequencerBoot who) who (fun l => l.seq.running = false ∧ l.led.write = none ∧ Leaf.asleep l = false ∧ Leaf.bootImage l = none)
      (fun l => { l with seq.noFw := true }) ∧
    ∀ i : Nat,
      LeafDoes (.sequencerBoot who) who
        (fun l => l.seq.running = false ∧ l.led.write = none ∧ Leaf.asleep l = false ∧ Leaf.bootImage l = some i)
        (fun l =>
          let m := { l with seq := { l.seq with running := true, image := decide (i = 1), noFw := false, bootAt := Leaf.now l, other := false } }
          let r := Leaf.loadHeader m
          Leaf.replayDeferral (Leaf.requestHeldGroups (Leaf.checkIdentity (Leaf.ensureEntry0 (Leaf.loadLife (Leaf.loadGuardband
            (Leaf.loadDecisions (Leaf.loadUnits (Leaf.powerUpHeader r.1) r.2.2) r.2.1)))))))) ∧
  ∀ (l : Leaf) (a b : Nat), LedgerSt.imageVersion l.led 0 = some a → LedgerSt.imageVersion l.led 1 = some b → l.seq.other = false →
    Leaf.bootImage l = some (if a < b then 1 else 0)

/-! ### Registers, Cellar and resets of a leaf -/

/-! register accesses at a leaf -/

/-- A register access by a 32-bit read answers the word; the low half of a wider value latches its high half for the requester (R73, R433). -/
def LeafWordsRead : Prop :=
  ∀ (who : LeafId) (id : BitVec 4) (off : Nat),
    LeafDoes (.lowWordRead (.leaf who (.host id) off)) who
      (fun l => Leaf.portOpen l = true ∧ wideAt off = true ∧ off % 8 = 0 ∧ off ≠ 0x28 ∧ (off < 0x1500 ∨ 0x1580 ≤ off))
      (fun l => Leaf.answer { l with cfg.latches := Cells.set 0 l.cfg.latches id.toNat (Leaf.peek l (off + 4)) } ((Leaf.peek l off).setWidth 64)) ∧
    LeafDoes (.lowWordRead (.leaf who (.host id) off)) who (fun l => Leaf.portOpen l = true ∧ wideAt off = true ∧ off % 8 ≠ 0)
      (fun l => Leaf.answer l ((Cells.get 0 l.cfg.latches id.toNat).setWidth 64)) ∧
    LeafDoes (.lowWordRead (.leaf who (.host id) off)) who (fun l => Leaf.portOpen l = true ∧ wideAt off = false ∧ off ≠ 0x30)
      (fun l => Leaf.answer l ((Leaf.peek l off).setWidth 64)) ∧
    LeafDoes (.lowWordRead (.leaf who (.host id) off)) who (fun l => Leaf.portOpen l = false) (fun l => l)

/-- A plain write of an RWL register has no effect but its count; a low word of a wider register is held until its high word comes (R433,
R434). -/
def LeafWordsWritten : Prop :=
  ∀ (id : BitVec 4) (off : Nat) (w : Word),
    EitherLeafDoes (fun who => .registerWrite (.leaf who (.host id) off) (.low w)) (fun l => Leaf.TakesHost l off ∧ isRwl off = true)
      (fun l => Leaf.answerError { l with cfg := { l.cfg with plainRwl := satAdd16 l.cfg.plainRwl 1 } }) ∧
    EitherLeafDoes (fun who => .registerWrite (.leaf who (.host id) off) (.low w))
      (fun l => Leaf.TakesHost l off ∧ isRwl off = false ∧ onlyWhole off = false ∧ (off < 0x200 ∨ 0x240 ≤ off) ∧ wideWritable off = true ∧ off % 8 = 0)
      (fun l => Leaf.answer (Leaf.holdLow l (.host id) off w) 0)

/-- The register writes of a ring end are REG_WR frames to the leaf's DID, and its reads REG_RD frames (R433). -/
def RingWrites : Prop :=
  ∀ (who : LeafId) (rx : Rx) (did : Did) (w : Word) (d : DWord) (e : BitVec 2) (hb : BitVec 3) (page : BitVec 12) (s : State),
    let own := (State.leafNow s who).ring.did
    let wr (did : Did) (off : Nat) (ws : List Word) : Res :=
      exec (.regWr who rx did (BitVec.ofNat 16 off) (BitVec.ofNat 16 (4 * ws.length)) (ws.flatMap fun x => le 4 x.toNat)) s
    let hl : List Word := [d.setWidth 32, (d >>> 32).setWidth 32]
    exec (.snapAckWrite who (.ring rx) did w) s = wr did 0x164 [w] ∧
    exec (.snapResendWrite who (.ring rx) did w) s = wr did 0x168 [w] ∧
    exec (.snapNowWrite who (.ring rx) did w) s = wr did 0x1A8 [w] ∧
    exec (.hbCtlWrite who (.ring rx) hb (.full d)) s = wr own (0x200 + 8 * hb.toNat) hl ∧
    exec (.trcCtlWrite who (.ring rx) w) s = wr own 0x160 [w] ∧
    exec (.dumpCmdWrite who (.ring rx) w) s = wr own 0x1A0 [w] ∧
    exec (.stepWrite who (.ring rx) (.full d)) s = wr own 0x100 hl ∧
    exec (.capFetchWrite who (.ring rx) did (.full d)) s = wr did 0x118 hl ∧
    exec (.gbAcceptWrite who (.ring rx) (.full d)) s = wr own 0x188 hl ∧
    exec (.ldgReadPage who (.ring rx) page) s = wr own 0x184 [w32 (0x1000 + page.toNat)] ∧
    exec (.ldgProgramPage who (.ring rx) page) s = wr own 0x184 [w32 (0x2000 + page.toNat)] ∧
    exec (.cvStart who (.ring rx) e) s = wr own (0x1504 + 32 * e.toNat) [0] ∧
    exec (.cvCtlWrite who (.ring rx) e w) s = wr own (0x1500 + 32 * e.toNat) [w] ∧
    exec (.cvFeed who (.ring rx) e (.b4 w)) s = wr own (0x1508 + 32 * e.toNat) [w] ∧
    exec (.seqRestartCurrent who (.ring rx)) s = wr own 0x13C [1] ∧
    exec (.seqRestartOther who (.ring rx)) s = wr own 0x13C [2] ∧
    exec (.cvResultRead who (.ring rx) e) s = exec (.regRd who rx own (BitVec.ofNat 16 (0x1510 + 32 * e.toNat)) 8) s ∧
    exec (.cvSave who (.ring rx) e) s = exec (.regRd who rx own (BitVec.ofNat 16 (0x1518 + 32 * e.toNat)) 8) s

/-! Cellar and resets of a leaf -/

/-- A wake phrase wakes a leaf in Cellar at once or after its entry; one that finds it in service is only counted (R164). -/
def WakePhrases : Prop :=
  ∀ who : LeafId,
    LeafDoes (.wakePhrase who) who (fun l => l.pwr.cellar = 0) (fun l => { l with pwr := { l.pwr with phrases := satAdd32 l.pwr.phrases 1 } }) ∧
    LeafDoes (.wakePhrase who) who (fun l => l.pwr.cellar ≠ 0) (fun l => { l with pwr := { l.pwr with phrase := true, phraseAt := Leaf.now l } })

/-- The commit takes the leaf into Cellar once no page write holds it up; the set-up lock is lost with cause 4 (R395, R420). -/
def CellarCommits : Prop :=
  ∀ who : LeafId,
    LeafDoes (.cellarCommit who) who (fun l => l.pwr.cellar = 1 ∧ Leaf.commitReady l = true)
      (fun l =>
        let m := Leaf.loseLock l 4
        { m with pwr := { m.pwr with cellar := 2, committedAt := Leaf.now m },
                 led := { m.led with write := m.led.write.map fun w => { w with torn := true } } }) ∧
    ∀ l : Leaf, (l.led.write = none ∨ l.led.vnvLow = true ∨ l.pwr.firedAt + 120000 ≤ Leaf.now l) → Leaf.commitReady l = true

/-- Waking starts 3 µs after the commit at the earliest, notes hd_lc_good, and completes 8 µs after it, or 10 µs when it was more than 15 µs late
(R164, R420, R422). -/
def WakeBegins : Prop :=
  (∀ who : LeafId,
    LeafDoes (.leafWakeStart who) who (fun l => l.pwr.cellar = 2 ∧ l.pwr.phrase = true ∧ l.pwr.committedAt + 3000 ≤ Leaf.now l)
      (fun l => { l with pwr := { l.pwr with cellar := 4, wakeAt := Leaf.now l, lcGoodAt := none, phrase := false } }) ∧
    LeafDoes (.hdLcGood who) who (fun l => l.pwr.cellar = 4 ∧ l.pwr.lcGoodAt = none)
      (fun l => { l with pwr := { l.pwr with lcGoodAt := some (Leaf.now l) } })) ∧
  ∀ (l : Leaf) (g : Nat), l.pwr.lcGoodAt = some g →
    (Leaf.wakeReady l = true ↔ g + (if l.pwr.wakeAt + 15000 < g then 10000 else 8000) ≤ Leaf.now l)

/-- When waking completes the leaf is in service again: SLEEPING state 1 goes to both ends, heartbeats wait to be armed, and skipped firings are told
(R59, R163, R421, R422). -/
def WakeCompletes : Prop :=
  ∀ who : LeafId,
    LeafDoes (.leafWakeComplete who) who
      (fun l => l.pwr.cellar = 4 ∧ Leaf.wakeReady l = true ∧ l.pwr.retentionLost = false ∧ l.pwr.skipped = 0)
      (fun l =>
        let m := { l with
          pwr := { l.pwr with cellar := 0, lateWake := if LeafPower.late l.pwr then satAdd16 l.pwr.lateWake 1 else l.pwr.lateWake,
                              retentionLost := false, skipped := 0 },
          led := { l.led with cellarPaused := false, write := l.led.write.map fun w => { w with torn := false } },
          dump := { l.dump with
                    beats := (l.dump.beats.map fun e => (e.1, { e.2 with armed := false, last := Leaf.now l })).filter
                      fun e => decide (e.2 ≠ Beat.reset) } }
        Leaf.sendEndDue (Leaf.sendBoth m (.sleeping { state := 1, refType := 0, refTag := 0, time := TimeDom.ns64 l.time }))) ∧
    LeafGives (.leafWakeComplete who) who
      (fun l => l.pwr.cellar = 4 ∧ Leaf.wakeReady l = true ∧ l.pwr.retentionLost = true) (fun l l' =>
        l' = (let m := Leaf.coreReset l 4 false
              let m := { m with
                pwr := { m.pwr with cellar := 0, lateWake := if LeafPower.late l.pwr then satAdd16 m.pwr.lateWake 1 else m.pwr.lateWake,
                                    retentionLost := false, skipped := 0 },
                led := { m.led with cellarPaused := false, write := m.led.write.map fun w => { w with torn := false } },
                dump := { m.dump with
                          beats := (m.dump.beats.map fun e => (e.1, { e.2 with armed := false, last := Leaf.now m })).filter
                            fun e => decide (e.2 ≠ Beat.reset) } }
              let m := Leaf.sendBoth m (.sleeping { state := 1, refType := 0, refTag := 0, time := TimeDom.ns64 m.time })
              Leaf.sendEndDue (if l.pwr.skipped = 0 then m else Leaf.raise m 0x1A 0xFF00 l.pwr.skipped.toNat)))

/-- VDD_LC lost outside Cellar is a core reset with cause 3 and a power-up; retention lost in Cellar is noted until the leaf wakes (R423, R424). -/
def PowerLosses : Prop :=
  ∀ who : LeafId,
    LeafDoes (.vddLcLoss who) who (fun l => Leaf.asleep l = false) (fun l => Leaf.coreReset l 3 true) ∧
    LeafDoes (.retentionLoss who) who (fun l => Leaf.asleep l = true) (fun l => { l with pwr := { l.pwr with retentionLost := true } })

/-- A cold reset keeps the fuses and the Ledger's pages and nothing else of a leaf; the first 128 failing counters take spares, and each further one
raises LEAF_FAULT (R75, R426, R427). -/
def LeafColdResets : Prop :=
  ∀ (who : LeafId) (cause : ColdCause),
    LeafDoes (.leafColdReset who cause []) who (fun l => l.led.write = none)
      (fun l => { Leaf.reset with
        kind := l.kind, fuses := l.fuses, led := { LedgerSt.reset with pages := l.led.pages }, out := l.out, free := l.free,
        cnt := Counting.reset, pwr := { LeafPower.reset with cause := ColdCause.code cause } }) ∧
    ∀ fs : List Nat, (∀ i ∈ fs, i < 4096) → fs.length ≤ 128 →
      LeafDoes (.leafColdReset who cause fs) who (fun l => l.led.write = none)
        (fun l => { Leaf.reset with
          kind := l.kind, fuses := l.fuses, led := { LedgerSt.reset with pages := l.led.pages }, out := l.out, free := l.free,
          cnt := { Counting.reset with spared := fs }, pwr := { LeafPower.reset with cause := ColdCause.code cause } })

/-- A core reset clears the core's set and keeps the always-on set; what it lost is told (R184, R188, R426). -/
def LeafCoreResets : Prop :=
  ∀ who : LeafId,
    LeafDoes (.leafCoreReset who) who
      (fun l => l.health.store = [] ∧ l.health.deferral = [] ∧ LedgerSt.pendingFolds l.led = 0)
      (fun l =>
        let m := Leaf.coreClear { l with pwr := { l.pwr with cellar := 0 } }
        { m with pwr := { m.pwr with cause := 3, count := m.pwr.count + 1 } }) ∧
    ∀ l : Leaf, l.led.write = none →
      let m := Leaf.coreClear l
      m.ring = l.ring ∧ m.appts = l.appts ∧ m.time = l.time ∧ m.fuses = l.fuses ∧ m.det = l.det ∧ m.led.pages = l.led.pages ∧
      m.cfg.words = l.cfg.words ∧ m.cfg.units = l.cfg.units ∧ m.health = HealthSt.reset ∧ m.trace = TraceSt.reset ∧ m.dump = DumpSt.reset ∧
      m.assay = LeafAssay.reset ∧ m.att = AttSt.reset ∧ m.cnt.counters = [] ∧ m.cnt.hists = [] ∧ m.snap.store = [] ∧ m.seq.running = false

/-- The host port's reset ends a lock of host firmware with cause 2, and its release opens the port (R395, R449). -/
def HostPortResets : Prop :=
  ∀ who : LeafId,
    LeafDoes (.hostPortReset who) who (fun l => l.hp.outstanding = [] ∧ (l.cfg.lock.owner = 0 ∨ LockState.byEnd l.cfg.lock = true))
      (fun l =>
        let drop (k : Nat) : Bool := decide (k / 65536 < 16) && (decide (k % 65536 = 0x108) || decide (0x7000 ≤ k % 65536))
        { l with
          cfg := { l.cfg with
                   latches := Cells.dropKeys (fun k => decide (k < 16)) l.cfg.latches,
                   timeStat := Cells.dropKeys (fun k => decide (k < 16)) l.cfg.timeStat, held := Cells.dropKeys drop l.cfg.held },
          hp := { l.hp with inReset := true, releasedAt := none }, pwr := { l.pwr with count := l.pwr.count + 1 } }) ∧
    LeafDoes (.hostPortResetRelease who) who (fun l => l.hp.inReset = true)
      (fun l => { l with hp := { l.hp with inReset := false, releasedAt := some (Leaf.now l) } }) ∧
    LeafDoes (.hostPortResetRelease who) who (fun l => l.hp.inReset = false) (fun l => l)

/-- A station's reset clears its pre-counters and its queue, and a trace port's its outcomes and queue (R451). -/
def PortPulses : Prop :=
  ∀ (who : LeafId) (i : Nat) (c : BitVec 3),
    LeafDoes (.stationReset who i) who (fun _ => True)
      (fun l => Leaf.setStn l i { Leaf.stn l i with
        prev := 0xFFFFFFFFFFFFFFFF, pre := [], drain := [], queue := [], rr := 0, old := none }) ∧
    LeafDoes (.tracePortReset who c) who (fun _ => True)
      (fun l => Leaf.setTrcPort l c.toNat { Leaf.trcPort l c.toNat with acc := [], queue := [], ctx := 0, syncReq := false })

/-! the internal leaf -/

/-- A steward's missed heartbeat is a HANG of the internal leaf, and the steward is declared hung (R119, R209). -/
def StewardsHang : Prop :=
  ∀ hb : BitVec 3,
    TvDoes (.heartbeatTimeout .internal hb)
      (fun t => hb.toNat < 4 ∧ (Leaf.beat t.ileaf hb.toNat).hung = false ∧
        (Leaf.beat (Leaf.heartbeatTimeout (Tervon.ileafNow t) hb.toNat) hb.toNat).hung = true)
      (fun t =>
        let u := Tervon.onIleaf t fun l => Leaf.heartbeatTimeout l hb.toNat
        { u with pwr.hung := (u.pwr.hung.filter fun h => decide (h.1 ≠ hb.toNat)) ++ [(hb.toNat, Tervon.now u, DumpSt.hasFor u.ileaf.dump hb.toNat)] })

/-- The internal leaf's temperatures also limit its Tervon's power (R429, R463). -/
def TervonTemperatures : Prop :=
  ∀ xs : List ThermalSample,
    TvDoes (.thermalReading .internal xs) (fun _ => True) (fun t => Tervon.thermalLimit (Tervon.onIleaf t fun l => Leaf.thermal l xs) xs)

/-! ### Leases and requests of a Tervon -/

/-! leases as a Tervon keeps them -/

/-- The non-preferred end acquires at the end of its takeover delay, unless the position's fence hold-off runs (R347, R350). -/
def TakeoversEnd : Prop :=
  ∀ a : Nat,
    KeyDoes .takeoverDelayExpiry (fun k t => (Tervon.lease t k).takeoverAt = some a ∧ a ≤ Tervon.now t ∧ Tervon.stewardHung t 1 = false)
      (fun k t =>
        let u := Tervon.setLease t k { Tervon.lease t k with takeoverAt := none }
        if Tervon.fenced u k then u else Tervon.acquire u k)

/-- A held lease is renewed at half its duration, and again when the request timed out (R348). -/
def LeasesRenew : Prop :=
  KeyDoes .leaseRenewDue
    (fun k t =>
      let e := Tervon.lease t k
      e.held = true ∧ e.refused = false ∧ Tervon.stewardHung t 1 = false ∧ Tervon.now t < e.expiry ∧
      (e.renewAt = none ∧ e.granted + e.dur * 500000 ≤ Tervon.now t ∨ ∃ r, e.renewAt = some r ∧ r + Tervon.tmo t ≤ Tervon.now t))
    (fun k t => Tervon.sendLease (Tervon.setLease t k { Tervon.lease t k with renewAt := some (Tervon.now t) }) k 1 (Tervon.leafDid t k))

/-- A lease is lost at its expiry, and the fence hold-off ends at its time (R348, R350). -/
def LeasesLapse : Prop :=
  KeyDoes .leaseLostLocal (fun k t => (Tervon.lease t k).held = true ∧ (Tervon.lease t k).expiry ≤ Tervon.now t)
    (fun k t => Tervon.loseLease t k) ∧
  ∀ a : Nat,
    KeyDoes .fenceHoldExpiry (fun k t => (Tervon.lease t k).fenceUntil = some a ∧ a ≤ Tervon.now t)
      (fun k t => Tervon.setLease t k { Tervon.lease t k with fenceUntil := none })

/-- What a LEASE_GRANT tells of its leaf: its DID and serial. -/
def told (e : TvLease) (p : LeaseGrantP) : TvLease := { e with known := true, grantDid := p.did, serial := p.serial }

/-- A LEASE_GRANT from a leaf: granted to this end, granted to the other end, or renewed (R347, R348, R353). -/
def GrantsTaken : Prop :=
  ∀ (rx : Rx) (p : LeaseGrantP) (key : Nat), rxKey rx = some key →
    FrameDoes (.leaseGrant rx p) rx (.leaseGrant p) (fun t => p.result = 0 ∧ p.holder.toNat = Tervon.endCode t)
      (fun t =>
        let u := Tervon.loseLease t key
        let u := Tervon.setLease u key { told (Tervon.lease t key) p with
          held := true, epoch := p.epoch, expiry := p.expiry.toNat, granted := Tervon.now t, epochAt := Tervon.now t, dur := p.duration.toNat,
          refused := false, renewAt := none, takeoverAt := none, budgets := false, lockBy := none }
        Tervon.gained (Tervon.touch u (Tervon.leaseItem u key)) key) ∧
    FrameDoes (.leaseGrant rx p) rx (.leaseGrant p) (fun t => p.result = 0 ∧ p.holder.toNat ≠ Tervon.endCode t)
      (fun t => Tervon.loseLease (Tervon.setLease t key { told (Tervon.lease t key) p with takeoverAt := none }) key) ∧
    FrameDoes (.leaseGrant rx p) rx (.leaseGrant p)
      (fun t => p.result = 1 ∧ p.holder.toNat = Tervon.endCode t ∧ (Tervon.lease t key).held = true)
      (fun t =>
        let u := Tervon.setLease t key { told (Tervon.lease t key) p with
          epoch := p.epoch, expiry := p.expiry.toNat, granted := Tervon.now t, dur := p.duration.toNat, refused := false, renewAt := none }
        Tervon.touch u (Tervon.leaseItem u key))

/-- A refusal, and the end of a lease at its leaf: without a holder this end wants the lease, and a fence's requests complete (R347, R350). -/
def GrantsRefused : Prop :=
  ∀ (rx : Rx) (p : LeaseGrantP) (key : Nat), rxKey rx = some key →
    FrameDoes (.leaseGrant rx p) rx (.leaseGrant p) (fun _ => p.result = 2 ∧ p.holder = 0xFF)
      (fun t => Tervon.wantLease (Tervon.setLease t key (told (Tervon.lease t key) p)) key) ∧
    FrameDoes (.leaseGrant rx p) rx (.leaseGrant p) (fun _ => p.result = 2 ∧ p.holder ≠ 0xFF)
      (fun t => Tervon.setLease t key (told (Tervon.lease t key) p)) ∧
    FrameDoes (.leaseGrant rx p) rx (.leaseGrant p) (fun _ => p.result = 3 ∧ p.holder = 0xFF)
      (fun t => Tervon.wantLease (Tervon.loseLease
        (Tervon.setLease t key { told (Tervon.lease t key) p with refused := true, renewAt := none }) key) key) ∧
    FrameDoes (.leaseGrant rx p) rx (.leaseGrant p) (fun _ => p.result = 4 ∨ p.result = 6)
      (fun t => Tervon.wantLease (Tervon.loseLease (Tervon.setLease t key (told (Tervon.lease t key) p)) key) key) ∧
    FrameDoes (.leaseGrant rx p) rx (.leaseGrant p) (fun _ => p.result = 5)
      (fun t => Tervon.wantLease (Tervon.relayFenced (Tervon.fenceDone
        (Tervon.loseLease (Tervon.setLease t key (told (Tervon.lease t key) p)) key) key) rx.hdr key (.leaseGrant p)) key)

/-- The preferred end of a ring acquires a lease that it wants at once, the other after its takeover delay, and none during a fence hold-off (R347,
R350). -/
def LeasesWanted : Prop :=
  ∀ (t : Tervon) (k : Nat),
    (Tervon.fenced t k = true → Tervon.wantLease t k = t) ∧
    (Tervon.fenced t k = false → Tervon.preferred t k = true → Tervon.wantLease t k = Tervon.sendLease t k 0 (Tervon.leafDid t k)) ∧
    (Tervon.fenced t k = false → Tervon.preferred t k = false →
      Tervon.wantLease t k = Tervon.setLease t k { Tervon.lease t k with takeoverAt := some (Tervon.now t + Tervon.takeover t) })

/-- The answer to the nonce: none in 10 ms is a conflict of cause 5; one that fails a check makes the position suspect; the identity of an EMPTY
position, and of one whose outcome check 1 has decided, is kept for admission (R360, R361, R363; log entry 84). -/
def AttestationsChecked : Prop :=
  ∀ (a : AttestAnswer) (b : Nat),
    KeyDoes (fun ring pos => .attestationCheck ring pos none)
      (fun k t => (Tervon.lease t k).attestBy = some b ∧ b ≤ Tervon.now t ∧ Tervon.stewardHung t 1 = false ∧ (Tervon.lease t k).decided = false)
      (fun k t => Tervon.suspect (Tervon.setLease t k { Tervon.lease t k with attestBy := none }) k 5 0 0) ∧
    KeyDoes (fun ring pos => .attestationCheck ring pos (some a))
      (fun k t => (Tervon.lease t k).attestBy = some b ∧ Tervon.now t < b ∧ Tervon.stewardHung t 1 = false ∧ (Tervon.ent t k).state = 0)
      (fun k t =>
        let u := Tervon.setLease t k { Tervon.lease t k with attestBy := none }
        Tervon.assignBudgets (Tervon.setEnt u k { Tervon.ent u k with observed := some a }) k) ∧
    KeyDoes (fun ring pos => .attestationCheck ring pos (some a))
      (fun k t => (Tervon.lease t k).attestBy = some b ∧ Tervon.now t < b ∧ Tervon.stewardHung t 1 = false ∧ (Tervon.ent t k).state ≠ 0
        ∧ (Tervon.lease t k).decided = true)
      (fun k t =>
        let u := Tervon.setLease t k { Tervon.lease t k with attestBy := none }
        Tervon.setEnt u k { Tervon.ent u k with observed := some a }) ∧
    ∀ c : Nat,
      KeyDoes (fun ring pos => .attestationCheck ring pos (some a))
        (fun k t => (Tervon.lease t k).attestBy = some b ∧ Tervon.now t < b ∧ Tervon.stewardHung t 1 = false ∧ (Tervon.ent t k).state ≠ 0 ∧
          (Tervon.lease t k).decided = false ∧
          let u := Tervon.setLease t k { Tervon.lease t k with attestBy := none }
          Tervon.attestFails (Tervon.setEnt u k { Tervon.ent u k with observed := some a }) k a = some c)
        (fun k t =>
          let u := Tervon.setLease t k { Tervon.lease t k with attestBy := none }
          Tervon.suspect (Tervon.setEnt u k { Tervon.ent u k with observed := some a }) k c a.serial.toNat a.powerCount.toNat)

/-- The checks of an answer in their order: signature, identity, DID, power count (R361). -/
def AttestationOrder : Prop :=
  ∀ (t : Tervon) (k : Nat) (a : AttestAnswer),
    let e := Tervon.ent t k
    let l := Tervon.lease t k
    let good := Config.ecdsaVerify (if e.state = 1 then e.key else a.publicKey) (attMessageOf l.nonce a l.epoch) a.signature
    (good = false → Tervon.attestFails t k a = some 5) ∧
    (good = true → AttestAnswer.digest a ≠ padTo 16 e.ident → Tervon.attestFails t k a = some 3) ∧
    (good = true → AttestAnswer.digest a = padTo 16 e.ident → a.did ≠ e.did → Tervon.attestFails t k a = some 6) ∧
    (good = true → AttestAnswer.digest a = padTo 16 e.ident → a.did = e.did → a.powerCount.toNat < e.power.toNat → Tervon.attestFails t k a = some 4) ∧
    (good = true → AttestAnswer.digest a = padTo 16 e.ident → a.did = e.did → e.power.toNat ≤ a.powerCount.toNat → Tervon.attestFails t k a = none)

/-! requests to leaves -/

/-- An answer ends the request that its tag names; one that no request awaits goes back to the Tervon that it was relayed for, or is counted as late
(R159, R160). -/
def AnswersTaken : Prop :=
  ∀ (rx : Rx) (p : RegRspP) (r : TvReq),
    FrameDoes (.regRsp rx p) rx (.regRsp p) (fun t => Tervon.reqOf t rx.hdr.tag (rxKey rx) rx.hdr.srcDid = some r)
      (fun t => Tervon.reqDone t r p.status.toNat p.duplicate p.data) ∧
    ∀ key : Nat, rxKey rx = some key →
      FrameDoes (.regRsp rx p) rx (.regRsp p)
        (fun t => Tervon.reqOf t rx.hdr.tag (some key) rx.hdr.srcDid = none ∧
          t.ros.relayed.find? (fun e => decide (e.tag = rx.hdr.tag) && decide (e.key = key) && !e.fence) = none)
        (fun t => { t with ros.lateRsp := satAdd32 t.ros.lateRsp 1 })

/-- A request unanswered for its time is sent again once through the buddy, and then fails (R159). -/
def RequestsTimeOut : Prop :=
  ∀ (tag : Half) (leaf : Did) (r : TvReq),
    let due (t : Tervon) : Prop :=
      t.ros.reqs.find? (fun r => decide (r.tag = tag) && decide (r.did = leaf) && !r.held && !r.asleep && decide (r.at' + Tervon.tmo t ≤ Tervon.now t)) = some r
    TvDoes (.ringRequestTimeout tag leaf) (fun t => due t ∧ r.retried = false ∧ r.port ≠ 13)
      (fun t => Tervon.retryReq (Tervon.setReq t { r with retried := true, at' := Tervon.now t }) r) ∧
    TvDoes (.ringRequestTimeout tag leaf) (fun t => due t ∧ (r.retried = true ∨ r.port = 13)) (fun t => Tervon.reqDone t r 256 false [])

/-- A leaf asleep keeps the refused request waiting; when it wakes, what waited is sent again in order (R162, R163). -/
def SleepersWait : Prop :=
  ∀ (rx : Rx) (p : SleepingP) (key : Nat), rxKey rx = some key →
    FrameDoes (.sleeping rx p) rx (.sleeping p)
      (fun t => p.state = 0 ∧ t.ros.reqs.any (fun r =>
        decide (r.tag = p.refTag) && decide ((Payload.code r.pay).toNat = p.refType.toNat) && !r.held && TvReq.goesTo r (some key) rx.hdr.srcDid) = true)
      (fun t =>
        let u := Tervon.setLease t key { Tervon.lease t key with asleep := true }
        { u with ros.reqs := u.ros.reqs.map fun r =>
            if decide (r.tag = p.refTag) && decide ((Payload.code r.pay).toNat = p.refType.toNat) && !r.held && TvReq.goesTo r (some key) rx.hdr.srcDid
            then { r with asleep := true } else r }) ∧
    FrameDoes (.sleeping rx p) rx (.sleeping p)
      (fun t => p.state = 1 ∧ t.ros.reqs.any (fun r => r.asleep && TvReq.goesTo r (some key) 0) = false ∧
        (Tervon.leafRec t (Tervon.keyDid t key)).queued = [])
      (fun t =>
        let u := Tervon.setLease t key { Tervon.lease t key with asleep := false }
        let d := Tervon.keyDid u key
        Tervon.setLeafRec u d { Tervon.leafRec u d with queued := [], sent := (Tervon.leafRec u d).sent })

/-! ### Host rings -/

/-! host rings -/

/-- A doorbell of a running ring moves its producer or consumer index when it is within bounds, and stops the ring with BAD_DOORBELL when it is not; it
reads back the value written (R376, R377). -/
def CommandDoorbells : Prop :=
  ∀ (f i : Nat) (w : Word), f ≤ 16 → i ≤ 3 →
    let within (r : HostRing) : Prop := (w - r.tail).toNat ≤ HostRing.n r - (r.tail - r.head).toNat
    TvDoes (.commandDoorbell f i w) (fun t => (Tervon.ring t f i).state = 1 ∧ within (Tervon.ring t f i))
      (fun t => Tervon.setRing (Tervon.setRing t f i { Tervon.ring t f i with bell := w }) f i { Tervon.ring t f i with bell := w, tail := w }) ∧
    TvDoes (.commandDoorbell f i w) (fun t => (Tervon.ring t f i).state = 1 ∧ ¬ within (Tervon.ring t f i))
      (fun t => Tervon.stopRing (Tervon.setRing t f i { Tervon.ring t f i with bell := w }) f i 2) ∧
    TvDoes (.commandDoorbell f i w) (fun t => (Tervon.ring t f i).state ≠ 1) (fun t => Tervon.setRing t f i { Tervon.ring t f i with bell := w })

/-- The completion doorbell frees slots: completions that wait are written and jobs start; the record doorbell lets the LOSS record be written and
checkpoints go on (R26, R376, R381, R391). -/
def HostDoorbells : Prop :=
  ∀ (f : Nat) (w : Word), f ≤ 16 →
    TvDoes (.completionDoorbell f w)
      (fun t => (Tervon.ring t f 4).state = 1 ∧ (w - (Tervon.ring t f 4).tail).toNat ≤ HostRing.used (Tervon.ring t f 4))
      (fun t => Tervon.startJobs (Tervon.flushCompletions (Tervon.setRing
        (Tervon.setRing t f 4 { Tervon.ring t f 4 with bell := w }) f 4 { Tervon.ring t f 4 with bell := w, tail := w }) f) f) ∧
    TvDoes (.recordDoorbell f w)
      (fun t => (Tervon.ring t f 5).state = 1 ∧ (w - (Tervon.ring t f 5).tail).toNat ≤ HostRing.used (Tervon.ring t f 5))
      (fun t => Tervon.resumeCheckpoints (Tervon.writeLoss (Tervon.setRing
        (Tervon.setRing t f 5 { Tervon.ring t f 5 with bell := w }) f 5 { Tervon.ring t f 5 with bell := w, tail := w }) f) f)

/-- The next descriptor of a running ring is fetched: it becomes a job, a poisoned one too, and a read error stops the ring with cause 3 (R377, R381,
R393). -/
def DescriptorsFetched : Prop :=
  ∀ (f i : Nat) (bs : List Byte),
    let live (t : Tervon) : Prop :=
      f ≤ 16 ∧ i ≤ 3 ∧ (Tervon.ring t f i).state = 1 ∧ (Tervon.ring t f i).draining = false ∧ (Tervon.fn t f).bme = true ∧
      (Tervon.ring t f i).head ≠ (Tervon.ring t f i).tail ∧ t.pwr.cellar = false ∧ t.pwr.entering = none ∧ Tervon.stewardHung t 2 = false
    let job (t : Tervon) (p : Bool) : Tervon :=
      let r := Tervon.ring t f i
      let u := Tervon.setRing t f i { r with head := r.head + 1 }
      Tervon.startJobs { u with jobs := u.jobs ++ [{ Job.reset with ref := ⟨f, i, r.head⟩, desc := padTo 64 bs, poison := p }] } f
    TvDoes (.descriptorFetch f i (.read bs)) live (fun t => job t false) ∧
    TvDoes (.descriptorFetch f i (.poisoned bs)) live (fun t => job t true) ∧
    TvDoes (.descriptorFetch f i .error) live (fun t => Tervon.stopRing t f i 3)

/-- A ring is enabled from index 0 and disabled; a record ring's sequence starts at 0 again, and a command ring is DISABLED once its started jobs have
completed (R374, R445). -/
def RingsEnabled : Prop :=
  ∀ f i : Nat, f ≤ 16 →
    TvDoes (.ringEnWrite f i true) (fun t => i ≤ 4 ∧ (Tervon.ring t f i).state = 0)
      (fun t => Tervon.setRing t f i { Tervon.ring t f i with state := 1, cause := 0, head := 0, tail := 0, bell := 0, draining := false }) ∧
    TvDoes (.ringEnWrite f 5 true) (fun t => (Tervon.ring t f 5).state = 0)
      (fun t =>
        let x := { Tervon.fn t f with recSeq := 0 }
        Tervon.writeLoss (Tervon.setFn t f (HostFn.setRing x 5
          { Tervon.ring t f 5 with state := 1, cause := 0, head := 0, tail := 0, bell := 0, draining := false })) f) ∧
    TvDoes (.ringEnWrite f 5 false) (fun t => (Tervon.ring t f 5).state ≠ 0)
      (fun t => Tervon.setRing t f 5 { Tervon.ring t f 5 with state := 0, cause := 0 }) ∧
    TvDoes (.ringEnWrite f 4 false) (fun t => (Tervon.ring t f 4).state ≠ 0 ∧ ∀ k < 4, (Tervon.ring t f k).state = 0)
      (fun t => Tervon.setRing t f 4 { Tervon.ring t f 4 with state := 0, cause := 0 }) ∧
    TvDoes (.ringEnWrite f i false) (fun t => i ≤ 3 ∧ (Tervon.ring t f i).state ≠ 0)
      (fun t => Tervon.settleRing (Tervon.setRing
        { t with jobs := t.jobs.filter fun j => j.started || decide (j.ref.fn ≠ f) || decide (j.ref.ring ≠ i) } f i
        { Tervon.ring t f i with draining := true }) f i)

/-- A stopped ring runs again while Bus Master Enable is set; completions that wait and the LOSS record come first (R377, R391, R445). -/
def RingsArm : Prop :=
  ∀ f i : Nat, f ≤ 16 → i ≤ 5 →
    TvDoes (.ringArm f i) (fun t => (Tervon.ring t f i).state = 2 ∧ (Tervon.fn t f).bme = true)
      (fun t => Tervon.startJobs (Tervon.writeLoss (Tervon.flushCompletions
        (Tervon.setRing t f i { Tervon.ring t f i with state := 1, cause := 0 }) f) f) f)

/-- At the end of a coalescing interval a signal that is wanted is sent and begins the next one (R373). -/
def CoalescingEnds : Prop :=
  ∀ (f v e : Nat),
    TvDoes (.msixCoalesceExpiry f v)
      (fun t => (Cells.get MsixVec.reset (Tervon.fn t f).vecs v).endsAt = some e ∧ e ≤ Tervon.now t ∧
        (Cells.get MsixVec.reset (Tervon.fn t f).vecs v).wanted = true) (fun t => Tervon.sendSignal t f v) ∧
    TvDoes (.msixCoalesceExpiry f v)
      (fun t => (Cells.get MsixVec.reset (Tervon.fn t f).vecs v).endsAt = some e ∧ e ≤ Tervon.now t ∧
        (Cells.get MsixVec.reset (Tervon.fn t f).vecs v).wanted = false)
      (fun t =>
        let x := Tervon.fn t f
        Tervon.setFn t f { x with vecs := Cells.set MsixVec.reset x.vecs v { Cells.get MsixVec.reset x.vecs v with endsAt := none } })

/-- NOP completes with status 0. ABORT stops a job that it can stop and completes 0; it completes 3 for an index that its ring does not know, and 2 for
a job that is gone or runs to its own completion (R382, R385). -/
def JobsAbort : Prop :=
  JobDoes .nop 0x00 (fun _ _ => True) (fun j t => Tervon.complete t j 0) ∧
  JobDoes .abort 0x17 (fun j t => 3 < Job.byte j 40 ∨ HostRing.knows (Tervon.ring t j.ref.fn (Job.byte j 40)) (BitVec.ofNat 32 (Job.u32 j 44)) = false)
    (fun j t => Tervon.settled (Tervon.complete t j 3)) ∧
  (∀ k : Job,
    let named (j : Job) (t : Tervon) : Prop :=
      Job.byte j 40 ≤ 3 ∧ HostRing.knows (Tervon.ring t j.ref.fn (Job.byte j 40)) (BitVec.ofNat 32 (Job.u32 j 44)) = true ∧
      Tervon.job? t ⟨j.ref.fn, Job.byte j 40, BitVec.ofNat 32 (Job.u32 j 44)⟩ = some k ∧ Job.op k ≠ 0x17
    JobDoes .abort 0x17 (fun j t => named j t ∧ k.started = false)
      (fun j t => Tervon.settled (Tervon.complete (Tervon.finish t k 1 0 0 0 0) j 0)) ∧
    JobDoes .abort 0x17 (fun j t => named j t ∧ k.started = true ∧ indivisible (Job.op k) = true) (fun j t => Tervon.settled (Tervon.complete t j 2)) ∧
    JobDoes .abort 0x17 (fun j t => named j t ∧ k.started = true ∧ indivisible (Job.op k) = false)
      (fun j t => Tervon.settled (Tervon.complete (Tervon.stopJob t k 1) j 0))) ∧
  JobDoes .abort 0x17
    (fun j t => Job.byte j 40 ≤ 3 ∧ HostRing.knows (Tervon.ring t j.ref.fn (Job.byte j 40)) (BitVec.ofNat 32 (Job.u32 j 44)) = true ∧
      Tervon.job? t ⟨j.ref.fn, Job.byte j 40, BitVec.ofNat 32 (Job.u32 j 44)⟩ = none)
    (fun j t => Tervon.settled (Tervon.complete t j 2))

/-- A completion leaves the queue of jobs and is posted with its phase; what it lets start, starts (R375, R381, R383). -/
def CompletionsPosted : Prop :=
  ∀ (t : Tervon) (j : Job) (status d0 d1 d2 flags : Nat),
    Tervon.complete t j status d0 d1 d2 flags = Tervon.startJobs (Tervon.settleRing (Tervon.postCompletion (Tervon.dropJob t j.ref) j.ref.fn
      (le 4 (Job.tag j) ++ le 2 status ++ [BitVec.ofNat 8 flags, BitVec.ofNat 8 j.ref.ring] ++ le 4 j.ref.idx.toNat ++ le 4 d0 ++ le 8 d1 ++ le 8 d2)
      (Job.quiet j)) j.ref.fn j.ref.ring) j.ref.fn

/-- Without Bus Master Enable every ring in use stops with cause 1, and the jobs that still need host memory complete MASTER_DISABLED (R391). -/
def BusMasterEnds : Prop :=
  ∀ f : Nat, f ≤ 16 →
    TvDoes (.busMasterDisable f) (fun t => (Tervon.fn t f).bme = true)
      (fun t =>
        let stop (t : Tervon) (i : Nat) : Tervon :=
          if (Tervon.ring t f i).state = 0 then t else Tervon.setRing t f i { Tervon.ring t f i with state := 2, cause := 1 }
        let u := [0, 1, 2, 3, 4, 5].foldl stop (Tervon.setFn t f { Tervon.fn t f with bme := false })
        Tervon.settled ((u.jobs.filter fun j => decide (j.ref.fn = f) && Job.needsMemory j).foldl (fun t j => Tervon.stopJob t j 26) u))

/-- A function-level reset abandons the locks of its descriptors, ends its jobs without a completion, and resets its rings, vectors and latches; the
bases and sizes of its rings stay (R392). -/
def FunctionsReset : Prop :=
  ∀ f : Nat, f ≤ 16 →
    TvDoes (.functionLevelReset f) (fun _ => True)
      (fun t =>
        let u := Tervon.abandonLocks t fun b => decide (b.1 = f)
        let u := (u.jobs.filter fun j => decide (j.ref.fn = f)).foldl (fun t j => Tervon.clearJob t j) u
        let u := { u with jobs := u.jobs.filter fun j => decide (j.ref.fn ≠ f) }
        let x := Tervon.fn u f
        let again (r : HostRing) : HostRing := { HostRing.reset with base := r.base, size := r.size }
        let rings := (List.range 6).foldl (fun m i => Cells.set HostRing.reset m i (again (Cells.get HostRing.reset m i))) x.rings
        Tervon.settled (Tervon.setFn u f
          { x with rings := rings, bme := false, vecs := [], heldComp := [], heldWr := [], latch := [], noTiles := decide (f ≠ 0) }))

/-! ### Leaf jobs, Larder and roster -/

/-! jobs that reach leaves -/

/-- The route table was read for a job's DID, unless it is the internal leaf's (R20, R413). -/
def looked (j : Job) (t : Tervon) : Tervon := if Job.did j = t.boot.ileafDid then t else (Tervon.routeRead t (Job.did j)).1

/-- A DID that resolves to no leaf completes its job with 7 or 8 (R20). -/
def JobsUnrouted : Prop :=
  ∀ (status : Nat) (x : HostData),
    JobDoes .leafRegRead 0x02
      (fun j t => j.phase = 0 ∧ regRangeOk (Job.u16 j 40) (Job.u16 j 42) = true ∧ Tervon.resolve t (Job.did j) = .fails status)
      (fun j t => Tervon.complete (looked j t) j status) ∧
    JobDoes .ledgerRead 0x11
      (fun j t => j.phase = 0 ∧ Job.u16 j 42 ≠ 0 ∧ Job.u16 j 40 + Job.u16 j 42 ≤ 4096 ∧ Tervon.resolve t (Job.did j) = .fails status)
      (fun j t => Tervon.complete (looked j t) j status) ∧
    JobDoes .snapshotNow 0x05 (fun j t => j.phase = 0 ∧ Job.byte j 40 ≤ 15 ∧ Tervon.resolve t (Job.did j) = .fails status)
      (fun j t => Tervon.complete (looked j t) j status) ∧
    JobDoes (fun r => .leafCfgApply r x) 0x01
      (fun j t => Job.inputOk j x = true ∧ j.phase = 0 ∧ x.poisoned = false ∧ (cfgImage x.bytes).isSome = true ∧ Tervon.resolve t (Job.did j) = .fails status)
      (fun j t => Tervon.complete (looked j t) j status)

/-- LEAF_REG_READ sends REG_RD to its leaf; a range that R156 refuses completes BAD_OPERAND (R156, R382). -/
def LeafReads : Prop :=
  ∀ k : Nat,
    JobDoes .leafRegRead 0x02
      (fun j t => j.phase = 0 ∧ regRangeOk (Job.u16 j 40) (Job.u16 j 42) = true ∧ Tervon.resolve t (Job.did j) = .key k)
      (fun j t => Tervon.jobSend (looked j t) j 1 (.key k) (.regRd (Job.did j) (BitVec.ofNat 16 (Job.u16 j 40)) (BitVec.ofNat 16 (Job.u16 j 42)))) ∧
    JobDoes .leafRegRead 0x02 (fun j _ => j.phase = 0 ∧ regRangeOk (Job.u16 j 40) (Job.u16 j 42) = false) (fun j t => Tervon.complete t j 3)

/-- LEAF_REG_WRITE sends REG_WR with its lock op; another ring's lock refuses it with 11, and a write without the lock with 12 (R156, R382, R395). -/
def LeafWrites : Prop :=
  ∀ (x : HostData) (k : Nat),
    let form (j : Job) (t : Tervon) : Prop :=
      Job.inputOk j x = true ∧ j.phase = 0 ∧ Job.u16 j 40 % 4 = 0 ∧ Job.inLen j % 4 = 0 ∧ Job.inLen j ≤ 512 ∧ Job.u16 j 40 + Job.inLen j ≤ 65536 ∧
      x.poisoned = false ∧ Tervon.resolve t (Job.did j) = .key k
    JobDoes (fun r => .leafRegWrite r x) 0x03 (fun j t => form j t ∧ Tervon.lockRefused (looked j t) (.key k) j (Job.byte j 42) = none)
      (fun j t =>
        let u := looked j t
        let u := if Job.byte j 42 = 1 then Tervon.setLease u k { Tervon.lease u k with lockBy := some (j.ref.fn, j.ref.ring) } else u
        Tervon.jobSend u j 1 (.key k)
          (.regWr (Job.did j) (BitVec.ofNat 8 (Job.byte j 42)) (BitVec.ofNat 16 (Job.u16 j 40)) (BitVec.ofNat 16 (Job.inLen j)) x.bytes)) ∧
    ∀ s : Nat,
      JobDoes (fun r => .leafRegWrite r x) 0x03 (fun j t => form j t ∧ Tervon.lockRefused (looked j t) (.key k) j (Job.byte j 42) = some s)
        (fun j t => Tervon.complete (looked j t) j s)

/-- APPOINT with DID 0 acts on the Tervon's own slot, and its status is the completion's detail; another DID's goes to its leaf (R56, R158, R382). -/
def AppointJobs : Prop :=
  JobDoes .appoint 0x04 (fun j _ => j.phase = 0 ∧ Job.did j = 0)
    (fun j t =>
      let a := Appointment.parse (slice j.desc 40 24)
      let st := apptStatus false (Tervon.tq t) (Tervon.now t) (Tervon.slot t a.slot.toNat) a
      Tervon.complete (if st = 0 then Tervon.setSlot t a.slot.toNat (Slot.accept (Tervon.slot t a.slot.toNat) a) else t) j 0 st) ∧
  ∀ k : Nat,
    JobDoes .appoint 0x04 (fun j t => j.phase = 0 ∧ Job.did j ≠ 0 ∧ Job.did j ≠ didAll ∧ Tervon.resolve t (Job.did j) = .key k)
      (fun j t => Tervon.jobSend (looked j t) j 1 (.key k) (.appoint (Job.did j) (Appointment.parse (slice j.desc 40 24))))

/-- SNAPSHOT_NOW writes its leaf's LF_SNAP_NOW; LEDGER_READ commands its first page; LEAF_CFG_APPLY first reads the leaf's host-die type, and an image
that is malformed completes BAD_OPERAND (R177, R382, R386, R464). -/
def LeafJobs : Prop :=
  ∀ (k : Nat) (x : HostData),
    JobDoes .snapshotNow 0x05 (fun j t => j.phase = 0 ∧ Job.byte j 40 ≤ 15 ∧ Tervon.resolve t (Job.did j) = .key k)
      (fun j t => Tervon.jobSend (looked j t) j 1 (.key k) (.regWr (Job.did j) 0 0x1A8 4 (le 4 (Job.byte j 40)))) ∧
    JobDoes .ledgerRead 0x11
      (fun j t => j.phase = 0 ∧ Job.u16 j 42 ≠ 0 ∧ Job.u16 j 40 + Job.u16 j 42 ≤ 4096 ∧ Tervon.resolve t (Job.did j) = .key k)
      (fun j t => Tervon.ledgerPage (looked j t) j) ∧
    JobDoes (fun r => .leafCfgApply r x) 0x01
      (fun j t => Job.inputOk j x = true ∧ j.phase = 0 ∧ x.poisoned = false ∧ (cfgImage x.bytes).isSome = true ∧ Tervon.resolve t (Job.did j) = .key k)
      (fun j t => Tervon.jobSend (looked j t) { j with input := x.bytes } 1 (.key k) (.regRd (Job.did j) 0 16)) ∧
    JobDoes (fun r => .leafCfgApply r x) 0x01 (fun j _ => Job.inputOk j x = true ∧ j.phase = 0 ∧ x.poisoned = false ∧ cfgImage x.bytes = none)
      (fun j t => Tervon.complete t j 3) ∧
    JobDoes (fun r => .leafCfgApply r x) 0x01 (fun j _ => Job.inputOk j x = true ∧ j.phase = 0 ∧ x.poisoned = true) (fun j t => Tervon.complete t j 25)

/-- The answers to these jobs: data out with status 0, and each REG_RSP status as its completion status (R157, R384). -/
def LeafAnswers : Prop :=
  ∀ (t : Tervon) (j : Job) (st : Nat) (dup : Bool) (data : List Byte),
    (Job.op j = 0x02 → Tervon.jobAnswer t j 0 dup data = Tervon.complete (Tervon.output t j data) j 0) ∧
    (Job.op j = 0x02 → st ≠ 0 → Tervon.jobAnswer t j st dup data = Tervon.complete t j (rspStatus st) (rspDetail st)) ∧
    (Job.op j = 0x03 → Tervon.jobAnswer t j st dup data = Tervon.complete (Tervon.lockAnswer t j st) j (rspStatus st) (rspDetail st) (b2n dup)) ∧
    (Job.op j = 0x05 → st ≠ 0 → Tervon.jobAnswer t j st dup data = Tervon.complete t j (rspStatus st)) ∧
    (Job.op j = 0x05 → Tervon.jobAnswer t j 0 dup data = if field data 4 1 = 0 then Tervon.complete t j 0 (field data 0 4) else Tervon.complete t j 16) ∧
    (rspStatus 0 = 0 ∧ rspStatus 1 = 13 ∧ rspStatus 2 = 10 ∧ rspStatus 3 = 13 ∧ rspStatus 4 = 11 ∧ rspStatus 5 = 12 ∧ rspStatus 6 = 14 ∧ rspStatus 256 = 9)

/-! the Larder -/

/-- 128 indexes move to a cache below 128, and back from one above 448 (R399). -/
def CachesRefill : Prop :=
  ∀ k : Nat, k ≤ 4 →
    TvDoes (.larderFreeRingRefill k) (fun t => Cells.get 0 t.lard.cached k < 128)
      (fun t =>
        let c := Cells.get 0 t.lard.cached k
        { t with lard.cached := Cells.set 0 t.lard.cached k (c + min 128 (Tervon.poolFree t k - c)) }) ∧
    TvDoes (.larderFreeRingRefill k) (fun t => 448 < Cells.get 0 t.lard.cached k)
      (fun t => { t with lard.cached := Cells.set 0 t.lard.cached k (Cells.get 0 t.lard.cached k - 128) }) ∧
    TvDoes (.larderFreeRingRefill k) (fun t => 128 ≤ Cells.get 0 t.lard.cached k ∧ Cells.get 0 t.lard.cached k ≤ 448) (fun t => t)

/-- A buffer is granted within the owner's minimum, or when the pool keeps what it owes to the others; otherwise the request is refused and counted
(R398). -/
def BuffersGranted : Prop :=
  ∀ (t : Tervon) (n owner k : Nat), poolFor n = some k → 1 ≤ n →
    ((1 ≤ Tervon.poolFree t k ∧ (LarderSt.heldBy t.lard k owner < Tervon.larderMin t owner k ∨ Tervon.owed t k owner + 1 ≤ Tervon.poolFree t k)) →
      ∃ h, (Tervon.larderAlloc t n owner).2 = some h) ∧
    ((Tervon.poolFree t k = 0 ∨ (Tervon.larderMin t owner k ≤ LarderSt.heldBy t.lard k owner ∧ Tervon.poolFree t k ≤ Tervon.owed t k owner)) →
      Tervon.larderAlloc t n owner = ({ t with lard.refused := Cells.modify 0 t.lard.refused k fun c => satAdd32 c 1 }, none))

/-- The first complete dump of a leaf and a number that is still kept. -/
def dumpNamed (j : Job) (t : Tervon) : Option TvDump :=
  t.lard.dumps.find? fun d => decide (d.did = Job.did j) && decide (d.id.toNat = Job.u32 j 40) && d.complete && !d.gone

/-- The function holds a dump's buffer, or may free it. -/
def holdsDump (j : Job) (t : Tervon) (d : TvDump) : Bool :=
  match Tervon.buf? t d.handle with
  | some b => b.holders.contains j.ref.fn || decide (b.final = some j.ref.fn)
  | none => false

/-- DUMP_FETCH answers as much of the dump as its output takes and how much is left; no such dump, or one that the function does not hold, completes 28
(R379, R384, R401). -/
def DumpsFetched : Prop :=
  ∀ d : TvDump,
    JobDoes .dumpFetch 0x10 (fun j t => dumpNamed j t = some d ∧ holdsDump j t d = true ∧ bit (Job.byte j 48) 0 = false ∧ bit (Job.byte j 48) 1 = false)
      (fun j t =>
        let bs := (d.bytes.drop (Job.u32 j 44)).take (Job.outSize j)
        Tervon.complete (Tervon.output t j bs) j 0 bs.length (d.bytes.length - Job.u32 j 44 - bs.length)) ∧
    JobDoes .dumpFetch 0x10 (fun j t => dumpNamed j t = some d ∧ holdsDump j t d = true ∧ bit (Job.byte j 48) 0 = true ∧ bit (Job.byte j 48) 1 = false)
      (fun j t =>
        let bs := (d.bytes.drop (Job.u32 j 44)).take (Job.outSize j)
        Tervon.complete (Tervon.larderDrop (Tervon.output t j bs) d.handle j.ref.fn) j 0 bs.length (d.bytes.length - Job.u32 j 44 - bs.length)) ∧
    JobDoes .dumpFetch 0x10 (fun j t => dumpNamed j t = none) (fun j t => Tervon.complete t j 28) ∧
    JobDoes .dumpFetch 0x10
      (fun j t => dumpNamed j t = some d ∧ holdsDump j t d = false ∧ bit (Job.byte j 48) 0 = false ∧ bit (Job.byte j 48) 1 = false)
      (fun j t => Tervon.complete t j 28) ∧
    JobDoes .dumpFetch 0x10 (fun j t => dumpNamed j t = some d ∧ holdsDump j t d = false ∧ bit (Job.byte j 48) 1 = true)
      (fun j t => Tervon.complete t j 27)

/-! the roster -/

/-- The position that a roster job names. -/
def placed (j : Job) : Nat := posKey (Job.byte j 40) (Job.byte j 41)

/-- ROSTER_ADMIT writes the entry from the identity given, or from the one observed; without one it completes 20, and for a bad place 3 (R363). -/
def RosterAdmits : Prop :=
  ∀ (x : HostData) (a : AttestAnswer),
    JobDoes (fun r => .rosterAdmitGiven r x) 0x12
      (fun j t => Job.byte j 42 = 0 ∧ Job.inputOk j x = true ∧ j.phase = 0 ∧ Tervon.admitOk t j = true ∧ x.poisoned = false)
      (fun j t => Tervon.enterRoster t j (slice x.bytes 0 16) (slice x.bytes 16 96) 0 0) ∧
    JobDoes (fun r => .rosterAdmitGiven r x) 0x12 (fun j t => Job.byte j 42 = 0 ∧ Job.inputOk j x = true ∧ j.phase = 0 ∧ Tervon.admitOk t j = false)
      (fun j t => Tervon.complete t j 3) ∧
    JobDoes .rosterAdmitObserved 0x12
      (fun j t => Job.byte j 42 = 1 ∧ j.phase = 0 ∧ Tervon.admitOk t j = true ∧ (Tervon.ent t (placed j)).observed = some a)
      (fun j t => Tervon.enterRoster t j (AttestAnswer.digest a) a.publicKey a.powerCount a.opTime) ∧
    JobDoes .rosterAdmitObserved 0x12
      (fun j t => Job.byte j 42 = 1 ∧ j.phase = 0 ∧ Tervon.admitOk t j = true ∧ (Tervon.ent t (placed j)).observed = none)
      (fun j t => Tervon.complete t j 20)

/-- ROSTER_FENCE asks the leaf for a fence, and any other op but 0 and 1 is BAD_OPERAND; ROSTER_RETIRE empties the position and its route (R350, R360,
R363, R382). -/
def RosterFences : Prop :=
  JobDoes .rosterFence 0x12
    (fun j t => Job.byte j 42 = 2 ∧ j.phase = 0 ∧ Tervon.placeOk t (Job.byte j 40) (Job.byte j 41) = true)
    (fun j t =>
      let u := Tervon.setJob t { j with phase := 1 }
      Tervon.issue u (placed j) (.leaseReq { op := 3, duration := 0, epoch := 0, did := Tervon.leafDid u (placed j) }) (some j.ref)) ∧
  JobDoes .rosterFence 0x12 (fun j _ => 3 ≤ Job.byte j 42) (fun j t => Tervon.complete t j 3) ∧
  JobDoes .rosterRetire 0x13
    (fun j t => j.phase = 0 ∧ Tervon.placeOk t (Job.byte j 40) (Job.byte j 41) = false) (fun j t => Tervon.complete t j 3) ∧
  JobDoes .rosterRetire 0x13
    (fun j t => j.phase = 0 ∧ Tervon.placeOk t (Job.byte j 40) (Job.byte j 41) = true ∧ (Tervon.ent t (placed j)).state = 0 ∧
      (Tervon.ent t (placed j)).did = 0 ∧ (Tervon.lease t (placed j)).held = false)
    (fun j t =>
      let e := Tervon.ent t (placed j)
      Tervon.complete (Tervon.markWarm (Tervon.setEnt t (placed j) { RosterEnt.reset with
        changed := e.changed, seenAt := e.seenAt, observed := e.observed, quarantined := e.quarantined,
        raised := e.raised.filter fun c => decide (c = 2) })) j 0) ∧
  JobDoes .rosterRetire 0x13
    (fun j t => j.phase = 0 ∧ Tervon.placeOk t (Job.byte j 40) (Job.byte j 41) = true ∧ (Tervon.ent t (placed j)).state ≠ 0 ∧
      (Tervon.ent t (placed j)).did ≠ 0 ∧ (Tervon.lease (Tervon.setState t (placed j) 0) (placed j)).held = false)
    (fun j t =>
      let e := Tervon.ent t (placed j)
      let u := Tervon.setRoute (Tervon.setState t (placed j) 0) e.did 0
      Tervon.complete (Tervon.markWarm (Tervon.setEnt u (placed j) { RosterEnt.reset with
        changed := Tervon.now u, seenAt := e.seenAt, observed := e.observed, quarantined := e.quarantined,
        raised := e.raised.filter fun c => decide (c = 2) })) j 0) ∧
  JobDoes .rosterRetire 0x13
    (fun j t => j.phase = 0 ∧ Tervon.placeOk t (Job.byte j 40) (Job.byte j 41) = true ∧ (Tervon.ent t (placed j)).state ≠ 0 ∧
      (Tervon.ent t (placed j)).did ≠ 0 ∧ (Tervon.lease (Tervon.setState t (placed j) 0) (placed j)).held = true)
    (fun j t =>
      let e := Tervon.ent t (placed j)
      let u := Tervon.setRoute (Tervon.setState t (placed j) 0) e.did 0
      let u := Tervon.markWarm (Tervon.setEnt u (placed j) { RosterEnt.reset with
        changed := Tervon.now u, seenAt := e.seenAt, observed := e.observed, quarantined := e.quarantined,
        raised := e.raised.filter fun c => decide (c = 2) })
      Tervon.issue (Tervon.setJob u { j with phase := 1 }) (placed j) (.regWr (Tervon.leafDid u (placed j)) 0 0x18 4 (zeros 4)) (some j.ref))

/-- An admitted position from which nothing was heard for the silent time raises a conflict of cause 1 (R360, R362). -/
def RosterSilence : Prop :=
  KeyDoes .rosterSilentTimeout
    (fun k t => k ≠ ileafKey ∧ (Tervon.ent t k).state = 1 ∧ (Tervon.ent t k).seenAt.getD (Tervon.ent t k).changed + Tervon.silentNs t ≤ Tervon.now t)
    (fun k t => Tervon.conflict t k 1 (Tervon.ent t k).did 0 0)

/-- A changed warm roster is copied to HBM, and to NOR in place of the older of two copies under the next generation, with its digest (R369). -/
def WarmRosters : Prop :=
  TvDoes .warmRosterHbmUpdate (fun t => t.warm.hbmDirty ≠ none)
    (fun t => { t with warm := { t.warm with hbmDirty := none, hbmCopy := some (Tervon.warmNow t), digest := Tervon.digestOf t (Tervon.warmNow t) } }) ∧
  TvDoes .warmRosterHbmUpdate (fun t => t.warm.hbmDirty = none) (fun t => t) ∧
  (∀ (g : Nat) (c : WarmCopy) (r : List (Nat × WarmCopy)),
    TvDoes .warmRosterNorUpdate (fun t => t.warm.norDirty ≠ none ∧ t.warm.nor = (g, c) :: r)
      (fun t => { t with warm := { t.warm with
        norDirty := none, nor := ((g + 1, Tervon.warmNow t) :: (g, c) :: r).take 2, digest := Tervon.digestOf t (Tervon.warmNow t) } })) ∧
  TvDoes .warmRosterNorUpdate (fun t => t.warm.norDirty ≠ none ∧ t.warm.nor = [])
    (fun t => { t with warm := { t.warm with norDirty := none, nor := [(1, Tervon.warmNow t)], digest := Tervon.digestOf t (Tervon.warmNow t) } })

/-! ### Frames of leaves -/

/-! frames of leaves at their holder -/

/-- A frame of classes 1 to 3 under another epoch is counted and dropped (R351); one from a position that is not admitted is quarantined: counted
for the Tervon and for its position (R360). -/
def Gated (c : Instr) (rx : Rx) (p : Payload) (wrap : Tervon → Tervon) : Prop :=
  ∀ key : Nat, rxKey rx = some key →
    TvDoes c (fun t => Tervon.Receives t rx p ∧ Tervon.epochOk (Tervon.received t rx) key rx.hdr = false)
      (fun t =>
        let t := Tervon.received t rx
        wrap { t with ros.staleEpoch := satAdd32 t.ros.staleEpoch 1 }) ∧
    TvDoes c (fun t => Tervon.Receives t rx p ∧ Tervon.epochOk (Tervon.received t rx) key rx.hdr = true ∧ key ≠ ileafKey ∧
        (Tervon.ent (Tervon.received t rx) key).state ≠ 1)
      (fun t =>
        let t := Tervon.received t rx
        let e := Tervon.ent t key
        wrap (Tervon.setEnt { t with ros.quarantined := satAdd32 t.ros.quarantined 1 } key { e with quarantined := satAdd32 e.quarantined 1 }))

def FramesGated : Prop :=
  ∀ rx : Rx,
    (∀ (h : TallyHdr) (bs : List Byte), Gated (.tallyFrame rx h bs) rx (.tally h bs) Tervon.settled) ∧
    (∀ (h : HistHdr) (bs : List Byte), Gated (.histFrame rx h bs) rx (.hist h bs) id) ∧
    (∀ p : TallyEndP, Gated (.tallyEndFrame rx p) rx (.tallyEnd p) Tervon.settled) ∧
    (∀ (core : BitVec 3) (off : Word) (bs : List Byte), Gated (.traceFrame rx core off bs) rx (.trace core off bs) id) ∧
    (∀ bs : List Byte, Gated (.traceLossFrame rx bs) rx (.traceLoss bs) id) ∧
    (∀ (i : Word) (e : Half) (k st : Byte) (a : DWord) (bs : List Byte), Gated (.dumpFrame rx i e k st a bs) rx (.dump i e k st a bs) id) ∧
    (∀ (i n f : Word) (h : List Byte), Gated (.captureDesc rx i n f h) rx (.captureDesc i n f h) id) ∧
    (∀ (i o : Word) (bs : List Byte), Gated (.captureData rx i o bs) rx (.captureData i o bs) id)

/-- A TALLY frame joins the reception of its snapshot: frame 0 starts it anew with the header's kind, flags and reference (R149). -/
def TallyReceived : Prop :=
  ∀ (rx : Rx) (h : TallyHdr) (bs : List Byte),
    let put (a : Asm) (k : Nat) (t : Tervon) : Tervon :=
      let d := Tervon.keyDid t k
      let r := Tervon.leafRec t d
      Tervon.setLeafRec t d { r with asm := (r.asm.filter fun x => decide (x.seq ≠ h.seq)) ++ [{ a with parts := a.parts ++ [(h.offset.toNat, bs)], count := a.count + 1 }] }
    LeafFrameDoes (.tallyFrame rx h bs) rx (.tally h bs) (fun _ _ => h.index = 0)
      (fun k t => Tervon.settled (put { seq := h.seq, kind := h.kind, flags := h.flags, refSeq := h.refSeq, parts := [], count := 0, hists := [],
                                        port := rxPortNo rx, epoch := rx.hdr.epoch } k t)) ∧
    ∀ a : Asm, LeafFrameDoes (.tallyFrame rx h bs) rx (.tally h bs)
      (fun k t => h.index ≠ 0 ∧ (Tervon.leafRec t (Tervon.keyDid t k)).asm.find? (fun x => decide (x.seq = h.seq)) = some a)
      (fun k t => Tervon.settled (put a k t))

/-- A HIST frame joins the reception of its snapshot (R151). -/
def HistReceived : Prop :=
  ∀ (rx : Rx) (h : HistHdr) (bs : List Byte) (a : Asm),
    LeafFrameDoes (.histFrame rx h bs) rx (.hist h bs)
      (fun k t => (Tervon.leafRec t (Tervon.keyDid t k)).asm.find? (fun x => decide (x.seq = h.seq)) = some a)
      (fun k t =>
        let d := Tervon.keyDid t k
        let r := Tervon.leafRec t d
        Tervon.setLeafRec t d { r with asm := (r.asm.filter fun x => decide (x.seq ≠ h.seq)) ++ [{ a with hists := a.hists ++ [(h.histogram.toNat, h.absolute, bs)] }] })

/-- The record of a leaf without the reception of a snapshot. -/
def endReception (t : Tervon) (k : Nat) (q : Word) : Tervon :=
  let d := Tervon.keyDid t k
  let r := Tervon.leafRec t d
  Tervon.setLeafRec t d { r with asm := r.asm.filter fun x => decide (x.seq ≠ q) }

/-- The reception of a snapshot, when its frames are complete, its CRC holds and its reference is held (R152, R234). -/
def accepted (t : Tervon) (k : Nat) (p : TallyEndP) : Option (TallyVals × RefVals × List (Nat × List Nat)) :=
  let r := Tervon.leafRec t (Tervon.keyDid t k)
  (r.asm.find? fun a => decide (a.seq = p.seq)).bind fun a => LeafRec.accept { r with asm := r.asm.filter fun x => decide (x.seq ≠ p.seq) } a p

/-- TALLY_END: an instant without a snapshot is settled; a Tally that does not hold is fetched again by LF_SNAP_REFETCH, and one that holds is
acknowledged by LF_SNAP_ACK and taken (R97, R152, R234). -/
def TallyEnds : Prop :=
  ∀ (rx : Rx) (p : TallyEndP),
    LeafFrameDoes (.tallyEndFrame rx p) rx (.tallyEnd p) (fun _ _ => p.flags.getLsbD 2 = true)
      (fun k t => Tervon.settled (Tervon.settle t (Tervon.keyDid t k) p.instant.toNat)) ∧
    LeafFrameDoes (.tallyEndFrame rx p) rx (.tallyEnd p) (fun k t => p.flags.getLsbD 2 = false ∧ accepted t k p = none)
      (fun k t => Tervon.settled (Tervon.writeLeaf (endReception t k p.seq) k 0x168 (le 4 p.seq.toNat))) ∧
    ∀ (v : TallyVals) (x : RefVals) (hs : List (Nat × List Nat)),
      LeafFrameDoes (.tallyEndFrame rx p) rx (.tallyEnd p) (fun k t => p.flags.getLsbD 2 = false ∧ accepted t k p = some (v, x, hs))
        (fun k t => Tervon.settled (Tervon.refetchNext
          (Tervon.tallyComplete (Tervon.writeLeaf (endReception t k p.seq) k 0x164 (le 4 p.seq.toNat)) k p rx.hdr.epoch v x hs) k p.seq))

/-- The watermark advances to an instant that lies the lag back, and nothing changes before (R235, R237). -/
def WatermarkLags : Prop :=
  ∀ i : Ns,
    TvDoes (.watermarkLagExpiry i) (fun t => Tervon.now t < i.toNat + t.str.lag * 1000) Tervon.settled ∧
    TvDoes (.watermarkLagExpiry i) (fun t => i.toNat + t.str.lag * 1000 ≤ Tervon.now t ∧ i.toNat ≤ t.str.wm) Tervon.settled ∧
    TvDoes (.watermarkLagExpiry i) (fun t => i.toNat + t.str.lag * 1000 ≤ Tervon.now t ∧ t.str.wm < i.toNat) fun t =>
      let due := t.str.waiting.filter fun h => decide (h.instant ≤ i.toNat)
      let u := due.foldl Tervon.applySamples { t with str.wm := i.toNat, str.waiting := t.str.waiting.filter fun h => !decide (h.instant ≤ i.toNat) }
      let u := if Tervon.modeAt u i.toNat then Tervon.sweep u i.toNat false else u
      let is := (Tervon.instants u).filter fun k => decide (k ≤ i.toNat) && Tervon.modeAt u k
      Tervon.settled (Tervon.handResults (Tervon.glnWatermark (is.foldl Tervon.formOwn u)))

/-- While the mode is off the sweep visits every primed entry against the Tervon's time; while it is on the command changes nothing (R237). -/
def AgingSweeps : Prop :=
  TvDoes .streamAgingSweep (fun t => t.det.det = false) (fun t =>
    let u := { t with str.sweepAt := Tervon.now t }
    ((Tervon.streamView u).filter fun e => StreamEnt.primed e.2).foldl (fun v e => Tervon.sweepOne (Tervon.now t) true v e.1) u) ∧
  TvDoes .streamAgingSweep (fun t => t.det.det = true) id

/-- Health records go to the record rings of the functions whose DID sets hold their DID, and those of a quarantined position to the physical
function's, flagged (R153, R219, R360). The records here do not say that the ends of a ring disagree (R47). -/
def HealthReceived : Prop :=
  ∀ (rx : Rx) (rs : List HealthRec),
    LeafFrameDoes (.healthFrame rx rs) rx (.health rs) (fun _ _ => ∀ r ∈ rs, r.cls ≠ 0x1C)
      (fun _ t => rs.foldl (fun t r => Tervon.recordDid t 1 0 r.did (HealthRec.bytes r)) t) ∧
    ∀ key : Nat, rxKey rx = some key →
      FrameDoes (.healthFrame rx rs) rx (.health rs) (fun t => Tervon.epochOk t key rx.hdr = true ∧ key ≠ ileafKey ∧ (Tervon.ent t key).state ≠ 1)
        (fun t => rs.foldl (fun t r => Tervon.record t 0 1 4 r.did (HealthRec.bytes r)) t)

/-- The trace offset that follows a frame's bytes is expected next (R115). -/
def traceNext (t : Tervon) (k : Nat) (core : BitVec 3) (off : Word) (bs : List Byte) : Tervon :=
  let d := Tervon.keyDid t k
  let r := Tervon.leafRec t d
  Tervon.setLeafRec t d { r with traceOff := Cells.insert r.traceOff core.toNat (off + BitVec.ofNat 32 bs.length) }

/-- Trace at the offset expected, or at the start of a stream, gives a TRACE_CHUNK; a gap before it gives a LOSS record of its bytes (R115). A loss
entry gives a TRACE_CHUNK with its lost bit, at the offset that the stream has reached (R117). -/
def TraceReceived : Prop :=
  ∀ (rx : Rx) (core : BitVec 3) (off : Word) (bs : List Byte),
    LeafFrameDoes (.traceFrame rx core off bs) rx (.trace core off bs)
      (fun k t => ∀ e ∈ (Tervon.leafRec t (Tervon.keyDid t k)).traceOff, e.1 = core.toNat → e.2 = off ∨ off = 0)
      (fun k t => Tervon.traceChunk (traceNext t k core off bs) (Tervon.keyDid t k) core.toNat false off.toNat bs) ∧
    (∀ x : Word, LeafFrameDoes (.traceFrame rx core off bs) rx (.trace core off bs)
      (fun k t => (Tervon.leafRec t (Tervon.keyDid t k)).traceOff.find? (fun e => decide (e.1 = core.toNat)) = some (core.toNat, x) ∧ x ≠ off ∧ off ≠ 0)
      (fun k t =>
        let u := traceNext t k core off bs
        Tervon.traceChunk (Tervon.recordDid u 9 0 (Tervon.keyDid t k) (lossBody 3 (rxPortNo rx) (off - x).toNat (Tervon.now t) (Tervon.now t) (Tervon.tq t)))
          (Tervon.keyDid t k) core.toNat false off.toNat bs)) ∧
    LeafFrameDoes (.traceLossFrame rx bs) rx (.traceLoss bs) (fun _ _ => True)
      (fun k t =>
        let c := bits (field bs 0 1) 2 0
        Tervon.recordDid t 0x0B 0 (Tervon.keyDid t k) ([BitVec.ofNat 8 c, 1, 0, 0]
          ++ le 4 (Cells.get 0 (Tervon.leafRec t (Tervon.keyDid t k)).traceOff c).toNat ++ le 4 bs.length ++ zeros 4 ++ bs))

/-- A dump frame is stored, or waits with its port's class 3 credits withheld: behind frames of the same port that wait, or when the Larder gives it
no buffer (R125, R400). -/
def DumpReceived : Prop :=
  ∀ (rx : Rx) (i : Word) (e : Half) (kd st : Byte) (a : DWord) (bs : List Byte),
    let p : Payload := .dump i e kd st a bs
    let n := rxPortNo rx
    let hold (d : Did) (t : Tervon) : Tervon := Tervon.hold3 { t with lard.waiting := t.lard.waiting ++ [(n, d, p)] } n true
    LeafFrameDoes (.dumpFrame rx i e kd st a bs) rx p (fun _ t => t.lard.waiting.any (fun w => decide (w.1 = n)) = true)
      (fun k t => hold (Tervon.keyDid t k) t) ∧
    ∀ b : Bool, LeafFrameDoes (.dumpFrame rx i e kd st a bs) rx p
      (fun k t => t.lard.waiting.any (fun w => decide (w.1 = n)) = false ∧ (Tervon.dumpTake t n (Tervon.keyDid t k) p).2 = b)
      (fun k t => let u := (Tervon.dumpTake t n (Tervon.keyDid t k) p).1
        if b then u else hold (Tervon.keyDid t k) u)

/-! ### Captures, Assayer and Cooper -/

/-! captures and the Assayer -/

/-- The first partition, in ascending number, whose DID set holds the leaf and whose store holds the model (R310). -/
def capPart (t : Tervon) (d : Did) (h : List Byte) : Option Nat :=
  (Tervon.partsOf t d).find? fun p => (Tervon.model? t p (capModel h) (capDigest h)).isSome

/-- A capture as its CAPTURE_DESC gives it. -/
def newCap (t : Tervon) (k : Nat) (rx : Rx) (id total : Word) (h : List Byte) : TvCap :=
  { TvCap.reset with did := Tervon.keyDid t k, id := id, port := rxPortNo rx, pos := rx.hdr.src, hdr := h, total := total.toNat, descAt := Tervon.now t,
                     part := capPart t (Tervon.keyDid t k) h }

/-- A capture announced: a skip gets its verdict with reason 6 at once; a capture without a partition is kept without a buffer; one with a partition
gets its Larder buffer, or its data is discarded; and one that is complete already is left as it is (R305, R310, R400). -/
def CapturesAnnounced : Prop :=
  ∀ (rx : Rx) (id total frames : Word) (h : List Byte),
    let Does := LeafFrameDoes (.captureDesc rx id total frames h) rx (.captureDesc id total frames h)
    let new (k : Nat) (t : Tervon) : Prop := Tervon.cap? t (Tervon.keyDid t k) id = none
    Does (fun k t => new k t ∧ total = 0)
      (fun k t => Tervon.commitVerdict t (newCap t k rx id total h) (verdictOf h (Tervon.keyDid t k) id t.det.det 3 6) false) ∧
    Does (fun k t => new k t ∧ total ≠ 0 ∧ capPart t (Tervon.keyDid t k) h = none)
      (fun k t => { t with assay.caps := t.assay.caps ++ [newCap t k rx id total h] }) ∧
    (∀ p : Nat, Does (fun k t => new k t ∧ total ≠ 0 ∧ capPart t (Tervon.keyDid t k) h = some p)
      (fun k t =>
        let (u, b) := Tervon.larderAlloc t ((64 + 16 * capN h + 63) / 64 * 64 + total.toNat) p
        { u with assay.caps := u.assay.caps ++ [{ newCap t k rx id total h with handle := b, dropped := b.isNone }] })) ∧
    ∀ c : TvCap, Does (fun k t => Tervon.cap? t (Tervon.keyDid t k) id = some c ∧ (c.fullAt.isSome = true ∨ c.done = true)) fun _ t => t

/-- A capture with more of its input. -/
def grown (c : TvCap) (off : Word) (bs : List Byte) : TvCap := { c with got := c.got ++ [(off.toNat, bs)] }

/-- Input bytes join a capture; the last ones complete it: without a partition it is UNASSAYABLE with reason 1, and it starts a batch when its model's
policy has as many captures (R310, R312). Bytes beyond the input are the retained output of a fetch (R308). -/
def CapturesFill : Prop :=
  ∀ (rx : Rx) (id off : Word) (bs : List Byte) (c : TvCap),
    let Does := LeafFrameDoes (.captureData rx id off bs) rx (.captureData id off bs)
    let g := grown c off bs
    let fills (k : Nat) (t : Tervon) : Prop :=
      Tervon.cap? t (Tervon.keyDid t k) id = some c ∧ c.done = false ∧ c.dropped = false ∧ c.fullAt = none ∧ off.toNat < c.total
    let full (t : Tervon) : Tervon := Tervon.setCap (Tervon.setCap t g) { g with fullAt := some (Tervon.now t) }
    Does (fun k t => fills k t ∧ (g.bytesFrom 0).length < c.total) (fun _ t => Tervon.setCap t g) ∧
    Does (fun k t => fills k t ∧ c.total ≤ (g.bytesFrom 0).length ∧ c.part = none)
      (fun _ t => Tervon.commitVerdict (full t) g (verdictOf c.hdr c.did c.id t.det.det 3 1) false) ∧
    (∀ p : Nat, Does (fun k t => fills k t ∧ c.total ≤ (g.bytesFrom 0).length ∧ c.part = some p)
      (fun _ t =>
        let u := full t
        let b := Tervon.batchOf u p (capModel c.hdr) (capDigest c.hdr)
        if (Tervon.policy u p).batch ≤ b.length then Tervon.startBatch u (b.take (Tervon.policy u p).batch) else u)) ∧
    Does (fun k t => Tervon.cap? t (Tervon.keyDid t k) id = some c ∧ c.done = false ∧ c.total ≤ off.toNat ∧ c.fetching.isSome = true)
      (fun _ t => Tervon.setCap t g)

/-- The oldest captures of a model start as a batch when one of them has waited the policy's batch wait (R311, R312). -/
def BatchesWait : Prop :=
  ∀ (p : Nat) (m : Word) (d : DWord),
    let old (t : Tervon) : Bool :=
      (Tervon.batchOf t p m d).any fun c => decide (c.fullAt.getD 0 + (Tervon.policy t p).batchWait * 100000 ≤ Tervon.now t)
    TvDoes (.batchWaitExpiry p m d) (fun t => old t = true)
      (fun t => Tervon.startBatch t ((Tervon.batchOf t p m d).take (Tervon.policy t p).batch)) ∧
    TvDoes (.batchWaitExpiry p m d) (fun t => old t = false) id

/-- A capture that a batch starts runs with the mode in force and the store's entry as it stands (R309, R341). -/
def BatchesRun : Prop :=
  ∀ (p : Nat) (m : Word) (d : DWord) (c : TvCap),
    TvDoes (.batchWaitExpiry p m d)
      (fun t => Tervon.batchOf t p m d = [c] ∧ c.fullAt.getD 0 + (Tervon.policy t p).batchWait * 100000 ≤ Tervon.now t ∧
        (Tervon.policy t p).batch ≠ 0 ∧ Tervon.stewardHung t 3 = false)
      (fun t => Tervon.setCap t { c with running := true, mode := t.det.det,
                                         model := c.part.bind fun q => Tervon.model? t q (capModel c.hdr) (capDigest c.hdr) })

/-- A capture whose window ends commits the MISMATCH whose fetch it awaits, or a TIMEOUT: reason 2 when all its bytes had arrived and 1 when not. One
whose recomputation runs is kept until that ends (R312 to R314). -/
def WindowsExpire : Prop :=
  ∀ (d : Did) (cid : Word) (c : TvCap),
    let due (t : Tervon) : Prop :=
      Tervon.cap? t d cid = some c ∧ c.done = false ∧ c.fullAt.getD c.descAt + Tervon.capWindow t c ≤ Tervon.now t
    (∀ r : VerdictRec, TvDoes (.captureWindowExpiry d cid) (fun t => due t ∧ c.pending = some r) (fun t => Tervon.commitVerdict t c r false)) ∧
    TvDoes (.captureWindowExpiry d cid) (fun t => due t ∧ c.pending = none ∧ c.running = false)
      (fun t => Tervon.commitVerdict t c (verdictOf c.hdr d cid t.det.det 4 (if c.fullAt.isSome then 2 else 1)) false) ∧
    TvDoes (.captureWindowExpiry d cid) (fun t => due t ∧ c.pending = none ∧ c.running = true)
      (fun t => Tervon.commitVerdict t c (verdictOf c.hdr d cid c.mode 4 (if c.fullAt.isSome then 2 else 1)) true) ∧
    TvDoes (.captureWindowExpiry d cid)
      (fun t => Tervon.cap? t d cid = some c ∧ c.done = false ∧ Tervon.now t < c.fullAt.getD c.descAt + Tervon.capWindow t c) id

/-- A recomputation ends: its verdict is committed, or waits for the retained output that it fetches; after the window it is counted as late
(R313 to R315). -/
def RecomputesEnd : Prop :=
  ∀ (d : Did) (cid : Word) (c : TvCap),
    let runs (t : Tervon) : Prop := Tervon.cap? t d cid = some c ∧ c.running = true ∧ c.fetching = none
    let res (t : Tervon) : VerdictRec × Option Tensor :=
      assaySteps c.hdr ((c.bytesFrom 0).take c.total) false c.model (!(Tervon.workTiles t (c.part.getD 0)).isEmpty) d cid c.mode
    TvDoes (.recomputeComplete d cid) (fun t => runs t ∧ c.done = false ∧ (res t).2 = none) (fun t => Tervon.commitVerdict t c (res t).1 false) ∧
    (∀ x : Tensor, TvDoes (.recomputeComplete d cid)
      (fun t => runs t ∧ c.done = false ∧ (res t).2 = some x ∧ (Tervon.fetchRetained t c (res t).1 x).2 = true)
      (fun t => (Tervon.fetchRetained t c (res t).1 x).1)) ∧
    (∀ x : Tensor, TvDoes (.recomputeComplete d cid)
      (fun t => runs t ∧ c.done = false ∧ (res t).2 = some x ∧ (Tervon.fetchRetained t c (res t).1 x).2 = false)
      (fun t => Tervon.commitVerdict (Tervon.fetchRetained t c (res t).1 x).1 c (res t).1 false)) ∧
    TvDoes (.recomputeComplete d cid) (fun t => runs t ∧ c.done = true)
      (fun t => Tervon.assayCount { t with assay.caps := t.assay.caps.filter fun k => !(decide (k.did = d) && decide (k.id = cid)) } (TvCap.owner c) 5)

/-- The retained output of a fetch arrives in full: the verdict is committed with the comparison of the two outputs (R313, R318). -/
def FetchesComplete : Prop :=
  ∀ (d : Did) (cid : Word) (c : TvCap) (k off : Nat) (ours : List Byte) (r : VerdictRec) (m : ModelEnt) (x : Tensor),
    let has (t : Tervon) : Prop := Tervon.cap? t d cid = some c ∧ c.fetching = some (k, off, ours) ∧ c.pending = some r ∧ c.model = some m
    TvDoes (.retainedFetchComplete d cid) (fun t => has t ∧ (c.bytesFrom off).length < ours.length) id ∧
    TvDoes (.retainedFetchComplete d cid)
      (fun t => has t ∧ ours.length ≤ (c.bytesFrom off).length ∧ aInput m.image ((c.bytesFrom 0).take c.total) = some x)
      (fun t =>
        let o := aOp m.image (capOpOf c.hdr m.image k)
        let dims := match o.dims with
          | 0 :: ds => x.dims.getD 0 0 :: ds
          | ds => ds
        Tervon.commitVerdict t c (VerdictRec.compare r ⟨o.fmt, dims, ours⟩ ((c.bytesFrom off).take ours.length)) false)

/-- The steps of R313 on a capture, in their order: no model 1, not sampled 5, malformed 4, an input digest that differs (an ERROR of the input), no
tile 7, poison 3, an op outside the table 2, a MATCH, and a MISMATCH at the first checkpoint that differs. -/
def AssayOrder : Prop :=
  ∀ (h input : List Byte) (poison : Bool) (e : ModelEnt) (tiles : Bool) (d : Did) (id : Word) (mode : Bool),
    let v (a b : Nat) : VerdictRec := verdictOf h d id mode a b
    let S (m : Option ModelEnt) := assaySteps h input poison m tiles d id mode
    S none = (v 3 1, none) ∧
    (capSampled h = false → S (some e) = (v 3 5, none)) ∧
    (capSampled h = true → capOk h e.image = false → S (some e) = (v 3 4, none)) ∧
    (capSampled h = true → capOk h e.image = true → (crc64 input).toNat ≠ field h 48 8 → S (some e) = (v 2 0, none)) ∧
    (capSampled h = true → capOk h e.image = true → (crc64 input).toNat = field h 48 8 →
      (tiles = false → S (some e) = (v 3 7, none)) ∧
      (tiles = true → (e.poisoned = true ∨ poison = true) → S (some e) = (v 3 3, none)) ∧
      (tiles = true → e.poisoned = false → poison = false →
        (runStage e.image input = none → S (some e) = (v 3 2, none)) ∧
        ∀ outs : List Tensor, runStage e.image input = some outs →
          (firstDiffers h e.image outs = none → S (some e) = (v 0 0, none)) ∧
          ∀ k : Nat, firstDiffers h e.image outs = some k →
            S (some e) = ({ v 1 0 with checkpoint := BitVec.ofNat 16 k, operation := BitVec.ofNat 16 (aOp e.image (capOpOf h e.image k)).code,
                                       unit := BitVec.ofNat 16 (if k < capN h then (capEntry h k).2.2.1 else field h 12 2),
                                       flags := BitVec.ofNat 8 (2 + 4 * b2n mode) }, outs[capOpOf h e.image k]?)))

/-- ASSAY_MODEL_LOAD: an image that does not hold is BAD_OPERAND, another function's key CONFLICT, and a store without room NO_RESOURCE; otherwise the
image replaces the entry of its key (R309). -/
def ModelsLoaded : Prop :=
  ∀ x : HostData,
    let key (j : Job) (t : Tervon) : Option ModelEnt := Tervon.model? t (Job.byte j 44) (aModel x.bytes) (aDigest x.bytes)
    let ok (j : Job) : Prop := Job.inLen j ≠ 0 ∧ Job.inputOk j x = true ∧ modelOk x.bytes = true ∧ (aModel x.bytes).toNat = Job.u32 j 40
    let room (j : Job) (t : Tervon) (freed : Nat) : Prop :=
      Tervon.hbmUsed t (Job.byte j 44) 65536 + x.bytes.length ≤ 1073741824 * (Tervon.part t (Job.byte j 44)).hbm + freed
    let put (j : Job) (t : Tervon) : Tervon :=
      let u := Tervon.dropModel t (Job.byte j 44) (aModel x.bytes) (aDigest x.bytes)
      let e : ModelEnt := ⟨j.ref.fn, Job.byte j 44, aModel x.bytes, aDigest x.bytes, x.bytes, x.poisoned⟩
      Tervon.complete { u with assay.models := u.assay.models ++ [e] } j 0
    JobDoes (.assayModelLoad · x) 0x0B (fun j _ => Job.inLen j ≠ 0 ∧ Job.inputOk j x = true ∧
      (modelOk x.bytes = false ∨ (aModel x.bytes).toNat ≠ Job.u32 j 40)) (fun j t => Tervon.complete t j 3) ∧
    (∀ e : ModelEnt, JobDoes (.assayModelLoad · x) 0x0B (fun j t => ok j ∧ key j t = some e ∧ e.fn ≠ j.ref.fn) (fun j t => Tervon.complete t j 18)) ∧
    JobDoes (.assayModelLoad · x) 0x0B (fun j t => ok j ∧ key j t = none ∧ 4096 ≤ t.assay.models.length) (fun j t => Tervon.complete t j 19) ∧
    JobDoes (.assayModelLoad · x) 0x0B (fun j t => ok j ∧ key j t = none ∧ ¬ room j t 0) (fun j t => Tervon.complete t j 19) ∧
    JobDoes (.assayModelLoad · x) 0x0B (fun j t => ok j ∧ key j t = none ∧ t.assay.models.length < 4096 ∧ room j t 0) put ∧
    ∀ e : ModelEnt, JobDoes (.assayModelLoad · x) 0x0B (fun j t => ok j ∧ key j t = some e ∧ e.fn = j.ref.fn ∧ room j t e.image.length) put

/-- ASSAY_MODEL_LOAD of length 0 unloads the key's entry: NOT_FOUND without one, and CONFLICT when another function holds it (R309). -/
def ModelsUnloaded : Prop :=
  let key (j : Job) (t : Tervon) : Option ModelEnt := Tervon.model? t (Job.byte j 44) (w32 (Job.u32 j 40)) (w64 (Job.u64 j 48))
  JobDoes .assayModelUnload 0x0B (fun j t => Job.inLen j = 0 ∧ key j t = none) (fun j t => Tervon.complete t j 28) ∧
  ∀ e : ModelEnt,
    JobDoes .assayModelUnload 0x0B (fun j t => Job.inLen j = 0 ∧ key j t = some e ∧ e.fn ≠ j.ref.fn) (fun j t => Tervon.complete t j 18) ∧
    JobDoes .assayModelUnload 0x0B (fun j t => Job.inLen j = 0 ∧ key j t = some e ∧ e.fn = j.ref.fn)
      (fun j t => Tervon.complete (Tervon.dropModel t (Job.byte j 44) (w32 (Job.u32 j 40)) (w64 (Job.u64 j 48))) j 0)

/-- ASSAY_POLICY sets the policy of a partition, or with 0xFF the physical function's own, when every field is in range (R311). -/
def PoliciesSet : Prop :=
  let ok (j : Job) : Prop :=
    1 ≤ Job.u16 j 42 ∧ Job.u16 j 42 ≤ 1000 ∧ 1 ≤ Job.u16 j 44 ∧ Job.u16 j 44 ≤ 256 ∧ 1 ≤ Job.u16 j 46 ∧ Job.u16 j 46 ≤ 10 * Job.u16 j 42 ∧
    Job.byte j 48 ≤ 1 ∧ Job.byte j 49 ≤ 1
  JobDoes .assayPolicy 0x0C (fun j _ => ok j)
    (fun j t =>
      let v : Policy := { window := Job.u16 j 42, batch := Job.u16 j 44, batchWait := Job.u16 j 46, fetch := decide (Job.byte j 48 = 1),
                          reportMatch := decide (Job.byte j 49 = 1) }
      Tervon.complete { t with assay.policies := Cells.set Policy.reset t.assay.policies (if Job.byte j 40 = 0xFF then 16 else Job.byte j 40) v } j 0) ∧
  JobDoes .assayPolicy 0x0C (fun j _ => ¬ ok j) (fun j t => Tervon.complete t j 3)

/-- ASSAY_SUBMIT writes the verdict of the record supplied, with its CRC, to the output buffer and nowhere else; its completion carries the verdict
(R313, R382). -/
def SubmitsAssayed : Prop :=
  ∀ x : HostData,
    let h := x.bytes.take (64 + 16 * capN x.bytes)
    let input := slice x.bytes (capInputAt h) (capLen h)
    let model (j : Job) (t : Tervon) : Option ModelEnt := Tervon.model? t (Job.byte j 40) (capModel h) (capDigest h)
    let answer (j : Job) (t : Tervon) (r : VerdictRec) : Tervon :=
      let r := { r with quality := (Tervon.tq t).setWidth 8, time := BitVec.ofNat 64 (Tervon.now t) }
      Tervon.complete (Tervon.output t j (VerdictRec.body r ++ le 4 (crc32c (VerdictRec.body r)).toNat)) j 0 r.verdict.toNat
    let res (j : Job) (t : Tervon) : VerdictRec × Option Tensor :=
      assaySteps h input x.poisoned (model j t) (!(Tervon.workTiles t (Job.byte j 40)).isEmpty) 0 (w32 (Job.tag j)) t.det.det
    JobDoes (.assaySubmit · x) 0x0D (fun j t => Job.inputOk j x = true ∧ input.length = capLen h ∧ (res j t).2 = none)
      (fun j t => answer j t (res j t).1) ∧
    ∀ y : Tensor, JobDoes (.assaySubmit · x) 0x0D
      (fun j t => Job.inputOk j x = true ∧ input.length = capLen h ∧ (res j t).2 = some y ∧ (Tervon.policy t (Job.byte j 40)).fetch = false)
      (fun j t => answer j t (res j t).1)

/-- A stream of a format decodes to the given bytes (R404, R405). -/
def decodesTo (fmt : Nat) (bs y : List Byte) : Bool :=
  match Config.decompress fmt bs with
  | .ok z => decide (z = y)
  | .error _ => false

/-- COOPER_COMPRESS: an operand out of range is BAD_OPERAND and poison POISONED; the stream goes to the output buffer when it fits and decompresses to
its input; one that does not fit is OUTPUT_FULL, and one that does not verify VERIFY_FAILED with a report of its engine (R404, R405, R415). -/
def CooperCompresses : Prop :=
  ∀ x : HostData,
    let out (j : Job) : List Byte := Config.compress (Job.byte j 40) (cooperLevel (Job.byte j 40) (Job.byte j 41)) (Job.u32 j 42) x.bytes
    let ok (j : Job) : Prop := Job.inputOk j x = true ∧ cooperOk (Job.byte j 40) (Job.byte j 41) (Job.u32 j 42) = true
    JobDoes (.cooperCompress · x) 0x0E (fun j _ => Job.inputOk j x = true ∧ cooperOk (Job.byte j 40) (Job.byte j 41) (Job.u32 j 42) = false)
      (fun j t => Tervon.complete t j 3) ∧
    JobDoes (.cooperCompress · x) 0x0E (fun j _ => ok j ∧ x.poisoned = true) (fun j t => Tervon.complete t j 25) ∧
    JobDoes (.cooperCompress · x) 0x0E (fun j _ => ok j ∧ x.poisoned = false)
      (fun j t =>
        if Job.outSize j < (out j).length then Tervon.cooperFail t j 6 0 0
        else if decodesTo (Job.byte j 40) (out j) x.bytes then Tervon.complete (Tervon.output t j (out j)) j 0 (out j).length
        else Tervon.cooperFail (Tervon.hostReport t (0x0800 + Config.cooperEngine j.ref.fn j.ref.idx.toNat % 4) 1 j.ref.idx.toNat) j 23 0 0)

/-- COOPER_DECOMPRESS: the bytes go to the output buffer when they fit; a stream that does not decode is DECODE_ERROR with the bytes written and the
offset of its error (R406). -/
def CooperDecompresses : Prop :=
  ∀ x : HostData,
    let ok (j : Job) : Prop := Job.inputOk j x = true ∧ Job.byte j 40 ≤ 4
    JobDoes (.cooperDecompress · x) 0x0F (fun j _ => Job.inputOk j x = true ∧ 4 < Job.byte j 40) (fun j t => Tervon.complete t j 3) ∧
    JobDoes (.cooperDecompress · x) 0x0F (fun j _ => ok j ∧ x.poisoned = true) (fun j t => Tervon.complete t j 25) ∧
    JobDoes (.cooperDecompress · x) 0x0F (fun j _ => ok j ∧ x.poisoned = false)
      (fun j t => match Config.decompress (Job.byte j 40) x.bytes with
        | .ok y => if Job.outSize j < y.length then Tervon.cooperFail t j 6 0 0 else Tervon.complete (Tervon.output t j y) j 0 y.length
        | .error off =>
          let n := Config.decodedBefore (Job.byte j 40) x.bytes
          if Job.outSize j < n then Tervon.cooperFail t j 6 0 0 else Tervon.cooperFail t j 24 n off)

/-! ### Streams, reductions and early calls -/

/-! commands on streams -/

/-- The stream index of a job. -/
def jobStream (j : Job) : Nat := bits (Job.u32 j 40) 19 0

/-- The Tervon that has brought in the job's stream entry, and the entry (R212). -/
def streamOf (j : Job) (t : Tervon) : Tervon × StreamEnt := Tervon.streamGet t (jobStream j)

/-- The same after the DID's route was looked up (R225). -/
def defineOf (j : Job) (t : Tervon) : Tervon × StreamEnt := Tervon.streamGet (Tervon.streamDid t (Job.did j)).1 (jobStream j)

/-- An aged index forgets that it was evicted. -/
def unevict (t : Tervon) (i : Nat) : Tervon := { t with str.evicted := t.str.evicted.filter fun k => decide (k ≠ i) }

/-- STREAM_DEFINE: 7 for a DID routed elsewhere, 3 for an item that the kind does not have, 19 for a 8,193rd stream of a die, 3 for an index of
another owner; otherwise the entry is defined and unprimed, after the old one went out with STREAM_AGED cause 4 (R225, R226, R242). -/
def StreamsDefined : Prop :=
  let op (j : Job) : Prop := Job.byte j 44 = 0
  let known (j : Job) (t : Tervon) : Prop := (Tervon.streamDid t (Job.did j)).2 = true
  let item (j : Job) : Prop := Job.u16 j 46 < kindItems (Job.byte j 45)
  let again (j : Job) (t : Tervon) : Bool := StreamEnt.defined (defineOf j t).2 && decide ((defineOf j t).2.did = Job.did j)
  let room (j : Job) (t : Tervon) : Prop := again j t = true ∨ (Tervon.streamsOf (defineOf j t).1 (Job.did j)).length < 8192
  let own (j : Job) (t : Tervon) : Prop := Tervon.ownsStream (defineOf j t).1 j.ref.fn (jobStream j) = true
  let put (j : Job) (t : Tervon) : Tervon :=
    let n : StreamEnt := { StreamEnt.reset with did := Job.did j, kind := BitVec.ofNat 4 (Job.byte j 45), item := BitVec.ofNat 16 (Job.u16 j 46), flags := 1,
                                                pset := BitVec.ofNat 4 (Job.byte j 48) }
    Tervon.complete (Tervon.streamKeep (unevict t (jobStream j)) (jobStream j) n) j 0
  JobDoes .streamDefine 0x06 (fun j t => op j ∧ ¬ known j t) (fun j t => Tervon.complete (defineOf j t).1 j 7) ∧
  JobDoes .streamDefine 0x06 (fun j t => op j ∧ known j t ∧ ¬ item j) (fun j t => Tervon.complete (defineOf j t).1 j 3) ∧
  JobDoes .streamDefine 0x06 (fun j t => op j ∧ known j t ∧ item j ∧ ¬ room j t) (fun j t => Tervon.complete (defineOf j t).1 j 19) ∧
  JobDoes .streamDefine 0x06 (fun j t => op j ∧ known j t ∧ item j ∧ room j t ∧ ¬ own j t) (fun j t => Tervon.complete (defineOf j t).1 j 3) ∧
  JobDoes .streamDefine 0x06 (fun j t => op j ∧ known j t ∧ item j ∧ room j t ∧ own j t ∧ StreamEnt.defined (defineOf j t).2 = false)
    (fun j t => put j (defineOf j t).1) ∧
  JobDoes .streamDefine 0x06 (fun j t => op j ∧ known j t ∧ item j ∧ room j t ∧ own j t ∧ StreamEnt.defined (defineOf j t).2 = true)
    (fun j t => put j (Tervon.streamAged (defineOf j t).1 (jobStream j) (defineOf j t).2 4 false))

/-- STREAM_REMOVE: 3 for another owner's index and 28 for an undefined one; otherwise STREAM_AGED cause 2 goes out and the entry is zero (R242). -/
def StreamsRemoved : Prop :=
  let own (j : Job) (t : Tervon) : Prop := Tervon.ownsStream (streamOf j t).1 j.ref.fn (jobStream j) = true
  JobDoes .streamRemove 0x06 (fun j t => Job.byte j 44 = 1 ∧ ¬ own j t) (fun j t => Tervon.complete (streamOf j t).1 j 3) ∧
  JobDoes .streamRemove 0x06 (fun j t => Job.byte j 44 = 1 ∧ own j t ∧ StreamEnt.defined (streamOf j t).2 = false)
    (fun j t => Tervon.complete (streamOf j t).1 j 28) ∧
  JobDoes .streamRemove 0x06 (fun j t => Job.byte j 44 = 1 ∧ own j t ∧ StreamEnt.defined (streamOf j t).2 = true)
    (fun j t =>
      let u := unevict (Tervon.streamAged (streamOf j t).1 (jobStream j) (streamOf j t).2 2 false) (jobStream j)
      Tervon.complete (Tervon.streamPut u (jobStream j) StreamEnt.reset) j 0)

/-- STREAM_RESTORE: a copy whose key is not the entry's is BAD_OPERAND and a poisoned one POISONED; otherwise the entry takes it, with one gap
(R242, R415). -/
def StreamsRestored : Prop :=
  ∀ x : HostData,
    let c := StreamEnt.parse x.bytes
    let ok (j : Job) (t : Tervon) : Prop :=
      Job.inputOk j x = true ∧ Job.byte j 44 = 2 ∧ Tervon.ownsStream (streamOf j t).1 j.ref.fn (jobStream j) = true ∧ StreamEnt.defined (streamOf j t).2 = true
    let key (e : StreamEnt) : Prop :=
      c.did = e.did ∧ c.kind = e.kind ∧ c.item = e.item ∧ StreamEnt.defined c = true ∧ field x.bytes 6 1 < 128 ∧ field x.bytes 7 1 < 16
    JobDoes (.streamRestore · x) 0x06 (fun j t => ok j t ∧ x.poisoned = true) (fun j t => Tervon.complete (streamOf j t).1 j 25) ∧
    JobDoes (.streamRestore · x) 0x06 (fun j t => ok j t ∧ x.poisoned = false ∧ ¬ key (streamOf j t).2) (fun j t => Tervon.complete (streamOf j t).1 j 3) ∧
    JobDoes (.streamRestore · x) 0x06 (fun j t => ok j t ∧ x.poisoned = false ∧ key (streamOf j t).2)
      (fun j t => Tervon.complete (Tervon.streamKeep (streamOf j t).1 (jobStream j) (StreamEnt.addGaps c 1)) j 0)

/-- STREAM_QUERY writes the entry's 64 bytes, and with bit 0 of byte 44 clears its two report flags; its completion carries ND (R240). -/
def StreamsQueried : Prop :=
  let may (j : Job) (t : Tervon) : Prop := j.ref.fn = 0 ∨ Tervon.ownsStream (streamOf j t).1 j.ref.fn (jobStream j) = true
  let nd (j : Job) (t : Tervon) : Nat := 2 * b2n (StreamEnt.nd (streamOf j t).2)
  JobDoes .streamQuery 0x07 (fun j t => ¬ may j t) (fun j t => Tervon.complete (streamOf j t).1 j 3) ∧
  JobDoes .streamQuery 0x07 (fun j t => may j t ∧ StreamEnt.defined (streamOf j t).2 = false) (fun j t => Tervon.complete (streamOf j t).1 j 28) ∧
  JobDoes .streamQuery 0x07 (fun j t => may j t ∧ StreamEnt.defined (streamOf j t).2 = true ∧ bit (Job.byte j 44) 0 = false)
    (fun j t => Tervon.complete (Tervon.output (streamOf j t).1 j (StreamEnt.bytes (streamOf j t).2)) j 0 0 0 0 (nd j t)) ∧
  JobDoes .streamQuery 0x07 (fun j t => may j t ∧ StreamEnt.defined (streamOf j t).2 = true ∧ bit (Job.byte j 44) 0 = true)
    (fun j t =>
      let u := Tervon.output (streamOf j t).1 j (StreamEnt.bytes (streamOf j t).2)
      Tervon.complete (Tervon.streamPut u (jobStream j) (StreamEnt.setFlag (StreamEnt.setFlag (streamOf j t).2 4 false) 5 false)) j 0 0 0 0 (nd j t))

/-- CHECKPOINT refuses a range outside the table, and begins one within it at its first index (R241). -/
def Checkpoints : Prop :=
  let inside (j : Job) : Prop := Job.u32 j 40 < 1048576 ∧ 0 < Job.u32 j 44 ∧ Job.u32 j 40 + Job.u32 j 44 ≤ 1048576
  JobDoes .checkpoint 0x16 (fun j _ => j.phase = 0 ∧ ¬ inside j) (fun j t => Tervon.complete t j 3) ∧
  JobDoes .checkpoint 0x16 (fun j _ => j.phase = 0 ∧ inside j)
    (fun j t => Tervon.checkpointOn j.ref (Tervon.setJob t { j with phase := 1, waiting := Job.u32 j 40 })) ∧
  JobDoes .checkpoint 0x16 (fun j _ => j.phase ≠ 0) fun _ t => t

/-- A checkpoint's next entry: it pauses while less than a quarter of the record ring is free, copies a defined entry with STREAM_AGED cause 1, and
completes after the last one with its count and the times of the first and last (R241). -/
def CheckpointCopies : Prop :=
  ∀ (r : JobRef) (j : Job) (t : Tervon) (i : Nat) (rest : List Nat), Tervon.job? t r = some j →
    let ring := Tervon.ring t r.fn 5
    let u := (Tervon.streamGet t i).1
    let e := (Tervon.streamGet t i).2
    Tervon.copyFrom r t [] = Tervon.complete t j 0 j.d0 j.d1 (fromLe j.result) ∧
    (4 * HostRing.free ring < HostRing.n ring → Tervon.copyFrom r t (i :: rest) = Tervon.setJob t { j with waiting := i }) ∧
    (HostRing.n ring ≤ 4 * HostRing.free ring → StreamEnt.defined e = true →
      Tervon.copyFrom r t (i :: rest) = Tervon.copyFrom r (Tervon.setJob (Tervon.streamAged u i e 1 false)
        { j with d0 := j.d0 + 1, d1 := if j.d0 = 0 then Tervon.now u else j.d1, result := le 8 (Tervon.now u) }) rest) ∧
    (HostRing.n ring ≤ 4 * HostRing.free ring → StreamEnt.defined e = false → Tervon.copyFrom r t (i :: rest) = Tervon.copyFrom r u rest)

/-! reductions -/

/-- A definition as a job gives it: its byte 1 is zero, and so is the die type without the filter (R243). -/
def jobRedDef (j : Job) : RedDef :=
  let b := setAt (slice j.desc 40 10) 1 0
  { fn := j.ref.fn, bytes := if bit (Job.byte j 48) 0 then b else setAt (setAt b 6 0) 7 0 }

/-- REDUCE_DEFINE keeps a definition whose item, kind and report Tervon exist, and answers its digest; op 1 removes one with its runs (R243). -/
def ReductionsDefined : Prop :=
  let ok (j : Job) (t : Tervon) : Prop :=
    let d := jobRedDef j
    RedDef.item d < sourceItems (RedDef.source d) ∧ RedDef.kind d ≤ 15 ∧ RedDef.reportX d < (Tervon.shape t).1 ∧ RedDef.reportY d < (Tervon.shape t).2 ∧
    Tervon.absent t (RedDef.reportX d) (RedDef.reportY d) = false
  JobDoes .reduceDefine 0x08 (fun j t => Job.byte j 41 = 0 ∧ ok j t)
    (fun j t => Tervon.complete { t with red.defs := Cells.insert t.red.defs (RedDef.id (jobRedDef j)) (jobRedDef j) } j 0
      (RedDef.digest (jobRedDef j) (bits t.red.ctl.toNat 5 0)).toNat) ∧
  JobDoes .reduceDefine 0x08 (fun j t => Job.byte j 41 = 0 ∧ ¬ ok j t) (fun j t => Tervon.complete t j 3) ∧
  JobDoes .reduceRemove 0x08 (fun j _ => Job.byte j 41 = 1)
    (fun j t => Tervon.complete { t with red.defs := Cells.erase t.red.defs (Job.byte j 40), red.runs := t.red.runs.filter fun r => decide (r.id ≠ Job.byte j 40) } j 0)

/-- After the local wait, in mode off, the Tervon forms its own contributions, and starts the full snapshot's reductions of an instant of which
nothing came; before it, and in mode on, nothing changes (R246). -/
def LocalWaits : Prop :=
  ∀ i : Ns,
    let n := i.toNat
    let due (t : Tervon) : Prop := Tervon.modeAt t n = false ∧ n + Tervon.localWait t ≤ Tervon.now t
    TvDoes (.reduceLocalWaitExpiry i) (fun t => due t ∧ (t.red.runs.any fun r => decide (r.instant = n)) = true)
      (fun t => Tervon.settled (Tervon.handResults (Tervon.formOwn t n))) ∧
    TvDoes (.reduceLocalWaitExpiry i) (fun t => due t ∧ (t.red.runs.any fun r => decide (r.instant = n)) = false)
      (fun t => Tervon.settled (Tervon.handResults (Tervon.formOwn (Tervon.startKind t n 0) n))) ∧
    TvDoes (.reduceLocalWaitExpiry i) (fun t => ¬ due t) (fun t => Tervon.settled (Tervon.handResults t))

/-- The runs of an instant whose deadline to send upward has passed: T0 and one hop wait for each level below (R248). -/
def lateRuns (t : Tervon) (n : Nat) : List Nat :=
  (t.red.runs.filter fun r => decide (r.instant = n) && !r.sent && !RedRun.over r &&
    (match distOf (Tervon.distances t r.root) (Tervon.me t) with
      | some d => decide (Tervon.t0 t n + (depthOf (Tervon.distances t r.root) - d) * Tervon.hopWait t ≤ Tervon.now t)
      | none => false)).map RedRun.id

/-- At its deadline a run is sent with what it has (R248). -/
def PartDeadlines : Prop :=
  ∀ i : Ns,
    TvDoes (.reducePartDeadline i) (fun t => lateRuns t i.toNat = []) (fun t => Tervon.settled (Tervon.handResults t)) ∧
    TvDoes (.reducePartDeadline i) (fun t => lateRuns t i.toNat ≠ [])
      (fun t => Tervon.settled (Tervon.handResults
        ((lateRuns t i.toNat).foldl (fun u id => Tervon.trySend u i.toNat id true) (Tervon.formOwn t i.toNat))))

/-- The neighbour behind a peer port. -/
def neighbour (t : Tervon) (k : Nat) : Nat × Nat := Tervon.peerOf t (Tervon.x t) (Tervon.y t) k

/-- A partial from a child joins its run, and the run is sent when it is complete; one of a run that is sent or over is late (R248). Element bytes of
another length make the frame malformed (R253). -/
def PartsArrive : Prop :=
  ∀ (rx : Rx) (p : ReduceP) (k : Nat), rx.port = .tv k →
    let n := p.instant.toNat
    let id := p.id.toNat
    let st (t : Tervon) : Tervon := Tervon.startRun t n id
    FrameDoes (.reducePart rx p) rx (.reducePart p) (fun t => Tervon.elemsOk t p = false)
      (fun t => Tervon.settled (Tervon.modPort t k fun q => { q with malformed := satAdd32 q.malformed 1 })) ∧
    FrameDoes (.reducePart rx p) rx (.reducePart p) (fun t => Tervon.elemsOk t p = true ∧ 9 ≤ k ∧ Tervon.runOf (st t) n id = none)
      (fun t => Tervon.settled (Tervon.handResults { st t with str.redLate := satAdd32 (st t).str.redLate 1 })) ∧
    ∀ r : RedRun,
      FrameDoes (.reducePart rx p) rx (.reducePart p)
        (fun t => Tervon.elemsOk t p = true ∧ 9 ≤ k ∧ Tervon.runOf (st t) n id = some r ∧ (r.sent = true ∨ RedRun.over r = true))
        (fun t => Tervon.settled (Tervon.handResults { st t with str.redLate := satAdd32 (st t).str.redLate 1 })) ∧
      FrameDoes (.reducePart rx p) rx (.reducePart p)
        (fun t => Tervon.elemsOk t p = true ∧ 9 ≤ k ∧ Tervon.runOf (st t) n id = some r ∧ r.sent = false ∧ RedRun.over r = false ∧
          (Tervon.childrenOf (st t) (Tervon.distances (st t) r.root) (Tervon.me (st t))).contains (neighbour t k) = true ∧
          (r.parts.any fun e => decide ((e.1, e.2.1) = neighbour t k)) = false)
        (fun t => Tervon.settled (Tervon.handResults
          (Tervon.trySend (Tervon.setRun (st t) { r with parts := r.parts ++ [((neighbour t k).1, (neighbour t k).2, p)] }) n id false)))

/-- A result from the parent is held, passed to the children and reported; one from elsewhere, or a second one, is not (R248, R249). -/
def ResultsArrive : Prop :=
  ∀ (rx : Rx) (p : ReduceP) (k : Nat) (r : RedRun), rx.port = .tv k →
    let st (t : Tervon) : Tervon := Tervon.startRun t p.instant.toNat p.id.toNat
    let parent (t : Tervon) : Prop := Tervon.parentOf (st t) (Tervon.distances (st t) r.root) (Tervon.me (st t)) = some (neighbour t k)
    FrameDoes (.reduceResult rx p) rx (.reduceResult p)
      (fun t => Tervon.elemsOk t p = true ∧ 9 ≤ k ∧ Tervon.runOf (st t) p.instant.toNat p.id.toNat = some r ∧ r.result = none ∧ r.lost = false ∧ parent t)
      (fun t => Tervon.settled (Tervon.handResults (Tervon.takeResult (st t) r p))) ∧
    FrameDoes (.reduceResult rx p) rx (.reduceResult p)
      (fun t => Tervon.elemsOk t p = true ∧ 9 ≤ k ∧ Tervon.runOf (st t) p.instant.toNat p.id.toNat = some r ∧ (r.result.isSome = true ∨ ¬ parent t))
      (fun t => Tervon.settled (Tervon.handResults (st t)))

/-- Results that did not come in time are lost: counted, and the report Tervon writes LOSS in their place (R249). -/
def ResultsLost : Prop :=
  ∀ (i : Ns) (id : Nat) (r : RedRun) (d : RedDef),
    TvDoes (.reduceResultLost i) (fun t => Tervon.lostNow t i.toNat = []) (fun t => Tervon.settled (Tervon.handResults t)) ∧
    TvDoes (.reduceResultLost i)
      (fun t => Tervon.lostNow t i.toNat = [id] ∧ Tervon.runOf t i.toNat id = some r ∧ Tervon.redDef? t id = some d)
      (fun t =>
        let u := { Tervon.setRun t { r with lost := true } with red.lostCount := satAdd32 t.red.lostCount 1 }
        Tervon.settled (Tervon.handResults (if (RedDef.reportX d, RedDef.reportY d) = Tervon.me t then
          Tervon.record u d.fn 9 0 didNone (lossBody 4 0 1 i.toNat i.toNat (Tervon.tq u)) else u)))

/-! early calls -/

/-- The early wait of a straggler class: each held die without its Tally is called early, once; nothing changes before the wait, in deterministic mode,
or for a class of another type (R268). -/
def EarlyWaits : Prop :=
  ∀ (c : Nat) (i : Ns),
    let n := i.toNat
    let due (t : Tervon) : Prop :=
      c ≤ 63 ∧ clsType (Tervon.glnClass t c) = 2 ∧ Tervon.glnOn t = true ∧ t.gln.ctl.getLsbD 1 = true ∧ Tervon.modeAt t n = false ∧ t.det.det = false ∧
      (Tervon.classKind t c).isSome = true ∧ n + clsEarly (Tervon.glnClass t c) ≤ Tervon.now t ∧ Tervon.now t ≤ n + keepNs ∧ t.gln.earlyDone.contains (c, n) = false
    let dies (t : Tervon) : List Nat := (Tervon.heldLeaves t n).filter fun key => (Tervon.lease t key).held && Tervon.judged t c key
    TvDoes (.earlyWaitExpiry c i) (fun t => ¬ due t) id ∧
    TvDoes (.earlyWaitExpiry c i) (fun t => due t ∧ dies { t with gln.earlyDone := (c, n) :: t.gln.earlyDone } = [])
      (fun t => { t with gln.earlyDone := (c, n) :: t.gln.earlyDone }) ∧
    ∀ k : Nat, TvDoes (.earlyWaitExpiry c i)
      (fun t =>
        let u := { t with gln.earlyDone := (c, n) :: t.gln.earlyDone }
        due t ∧ dies u = [k] ∧ Tervon.dieTally? u (Tervon.keyDid u k) n = none)
      (fun t =>
        let u := { t with gln.earlyDone := (c, n) :: t.gln.earlyDone }
        let did := Tervon.keyDid u k
        let (v, id) := Tervon.newCall u
        let red := clsRed (Tervon.glnClass t c)
        let v := { v with gln.suspects := v.gln.suspects ++ [{ Suspect.reset with did := did, cls := c, instant := n, call := id, red := red, open' := true }] }
        Tervon.post v did 1 1 (callBytes n did 1 id 1 (Tervon.tq v).toNat c red 0 []))

/-- At the close of an instant a suspect that is still open is confirmed (R268). -/
def ClosesConfirm : Prop :=
  ∀ (c : Nat) (i : Ns) (x : Suspect),
    let n := i.toNat
    let mine (s : Suspect) : Bool := s.open' && decide (s.cls = c) && decide (s.instant = n)
    TvDoes (.closeExpiry c i) (fun t => Tervon.now t < n + clsClose (Tervon.glnClass t c)) id ∧
    TvDoes (.closeExpiry c i)
      (fun t => n + clsClose (Tervon.glnClass t c) ≤ Tervon.now t ∧ t.gln.suspects.filter mine = [x])
      (fun t =>
        let u := { t with gln.suspects := t.gln.suspects.map fun s => if mine s then { s with open' := false } else s }
        let u := { u with gln.confirms := satAdd32 u.gln.confirms 1 }
        let g := (Tervon.glnStat? u c n).getD GlnStat.reset
        let flags := 11 + 4 * b2n g.partial'
        Tervon.post u x.did 2 flags (callBytes n x.did 2 x.call flags (Tervon.tq u).toNat c x.red 0 (callValues 0 g.med g.mad 0 g.leavesIn g.leavesOut)))

/-! ### Kale, stored data and partitions -/

/-! Kale -/

/-- The Tervon with an ensemble's entries cleared and the ensemble as given. -/
def renewed (t : Tervon) (id : Nat) (e : Ensemble) : Tervon := Tervon.setEns (Tervon.clearEntries t id) id e

/-- KALE_LOAD: an image that does not hold is BAD_OPERAND, another function's ensemble CONFLICT, a partition without tiles TILE_ABSENT and one without
room NO_RESOURCE. Otherwise the trees are placed over the partition's tiles (completion 0), or the ensemble is streamed (completion 1) where its windows
are free (R285, R287, R294). -/
def EnsemblesLoaded : Prop :=
  ∀ x : HostData,
    let id (j : Job) : Nat := Job.u16 j 40
    let p (j : Job) : Nat := Job.byte j 42
    let op (j : Job) : Prop := Job.inputOk j x = true ∧ Job.byte j 43 = 0
    let image (j : Job) : Prop := kaleImageOk x.bytes = true ∧ field x.bytes 6 2 = id j
    let mine (j : Job) (t : Tervon) : Prop := Ensemble.loaded (Tervon.ens t (id j)) = false ∨ (Tervon.ens t (id j)).fn = j.ref.fn
    let tiles (j : Job) (t : Tervon) : Prop := (Tervon.usable t (p j)).isEmpty = false
    let room (j : Job) (t : Tervon) : Prop := Tervon.hbmUsed t (p j) (id j) + x.bytes.length ≤ 1073741824 * (Tervon.part t (p j)).hbm
    let ok (j : Job) (t : Tervon) : Prop := op j ∧ image j ∧ mine j t ∧ tiles j t ∧ room j t
    let e (j : Job) : Ensemble := { Ensemble.reset with fn := j.ref.fn, part := p j, image := x.bytes, resident := true, poisoned := x.poisoned }
    let start (j : Job) (t : Tervon) : Tervon := renewed t (id j) (e j)
    let blocked (j : Job) (t : Tervon) : Prop := Tervon.streams? (start j t) (p j) (id j) = false ∧ Tervon.windowsBlocked (start j t) (p j) = true
    JobDoes (.kaleLoad · x) 0x09 (fun j _ => op j ∧ ¬ image j) (fun j t => Tervon.complete t j 3) ∧
    JobDoes (.kaleLoad · x) 0x09 (fun j t => op j ∧ image j ∧ ¬ mine j t) (fun j t => Tervon.complete t j 18) ∧
    JobDoes (.kaleLoad · x) 0x09 (fun j t => op j ∧ image j ∧ mine j t ∧ ¬ tiles j t) (fun j t => Tervon.complete t j 17) ∧
    JobDoes (.kaleLoad · x) 0x09 (fun j t => op j ∧ image j ∧ mine j t ∧ tiles j t ∧ ¬ room j t) (fun j t => Tervon.complete t j 19) ∧
    JobDoes (.kaleLoad · x) 0x09 (fun j t => ok j t ∧ (Tervon.placeAll (start j t) (id j) (p j) x.bytes).isSome = true)
      (fun j t => Tervon.complete ((Tervon.placeAll (start j t) (id j) (p j) x.bytes).getD t) j 0 0) ∧
    JobDoes (.kaleLoad · x) 0x09 (fun j t => ok j t ∧ Tervon.placeAll (start j t) (id j) (p j) x.bytes = none ∧ blocked j t)
      (fun j t => Tervon.complete t j 19) ∧
    JobDoes (.kaleLoad · x) 0x09 (fun j t => ok j t ∧ Tervon.placeAll (start j t) (id j) (p j) x.bytes = none ∧ ¬ blocked j t)
      (fun j t => Tervon.complete (Tervon.setEns (start j t) (id j) { e j with resident := false }) j 0 1)

/-- KALE_LOAD op 1 takes the ensemble and its entries out: NOT_FOUND without one, CONFLICT for another function's (R285). -/
def EnsemblesUnloaded : Prop :=
  let en (j : Job) (t : Tervon) : Ensemble := Tervon.ens t (Job.u16 j 40)
  JobDoes .kaleUnload 0x09 (fun j t => Job.byte j 43 = 1 ∧ Ensemble.loaded (en j t) = false) (fun j t => Tervon.complete t j 28) ∧
  JobDoes .kaleUnload 0x09 (fun j t => Job.byte j 43 = 1 ∧ Ensemble.loaded (en j t) = true ∧ (en j t).fn ≠ j.ref.fn) (fun j t => Tervon.complete t j 18) ∧
  JobDoes .kaleUnload 0x09 (fun j t => Job.byte j 43 = 1 ∧ Ensemble.loaded (en j t) = true ∧ (en j t).fn = j.ref.fn)
    (fun j t => Tervon.complete (renewed t (Job.u16 j 40) Ensemble.reset) j 0)

/-- A placement ends: every tree has its entries again, or the ensemble is streamed; without a placement under way nothing changes (R286). -/
def PlacementsEnd : Prop :=
  ∀ (fn : Nat) (id : Half),
    let e (t : Tervon) : Ensemble := Tervon.ens t id.toNat
    let start (t : Tervon) : Tervon := renewed t id.toNat { e t with placing := false, place := [] }
    TvDoes (.kalePlacementComplete fn id) (fun t => (e t).placing = false ∨ (e t).fn ≠ fn) Tervon.settled ∧
    TvDoes (.kalePlacementComplete fn id)
      (fun t => (e t).placing = true ∧ (e t).fn = fn ∧ (Tervon.placeAll (start t) id.toNat (e t).part (e t).image).isSome = true)
      (fun t => Tervon.settled ((Tervon.placeAll (start t) id.toNat (e t).part (e t).image).getD t)) ∧
    TvDoes (.kalePlacementComplete fn id)
      (fun t => (e t).placing = true ∧ (e t).fn = fn ∧ Tervon.placeAll (start t) id.toNat (e t).part (e t).image = none)
      (fun t => Tervon.settled (Tervon.setEns (start t) id.toNat { e t with placing := false, place := [], resident := false }))

/-- KALE_SCORE: its checks in order, and the results of every sample in order for a resident ensemble, with how many features were out of range; a
streamed one starts its first batch (R273, R287, R290, R291). -/
def ScoresGiven : Prop :=
  ∀ x : HostData,
    let n : Nat := x.bytes.length / 272
    let id (j : Job) : Nat := Job.u16 j 40
    let en (j : Job) (t : Tervon) : Ensemble := Tervon.ens t (id j)
    let go (j : Job) : Prop := Job.inputOk j x = true ∧ j.phase = 0
    let shape (j : Job) : Prop := x.bytes.length % 272 = 0 ∧ 0 < n ∧ n ≤ 65536 ∧ Job.byte j 42 ≤ 2
    let out (j : Job) : Prop := 16 * n ≤ Job.outSize j
    let may (j : Job) (t : Tervon) : Prop := j.ref.fn = 0 ∨ j.ref.fn = (en j t).fn ∨ j.ref.fn = (en j t).part + 1
    let tiles (j : Job) (t : Tervon) : Prop := (Tervon.workTiles t (en j t).part).isEmpty = false
    let ok (j : Job) (t : Tervon) : Prop := go j ∧ shape j ∧ out j ∧ Ensemble.loaded (en j t) = true ∧ may j t ∧ tiles j t
    let oor (j : Job) (t : Tervon) : Nat := ((kSamples x.bytes).map (kOutOfRange (en j t).image)).sum
    JobDoes (.kaleScore · x) 0x0A (fun j _ => go j ∧ ¬ shape j) (fun j t => Tervon.settled (Tervon.complete t j 3)) ∧
    JobDoes (.kaleScore · x) 0x0A (fun j _ => go j ∧ shape j ∧ ¬ out j) (fun j t => Tervon.settled (Tervon.complete t j 5)) ∧
    JobDoes (.kaleScore · x) 0x0A (fun j t => go j ∧ shape j ∧ out j ∧ Ensemble.loaded (en j t) = false)
      (fun j t => Tervon.settled (Tervon.complete t j 28)) ∧
    JobDoes (.kaleScore · x) 0x0A (fun j t => go j ∧ shape j ∧ out j ∧ Ensemble.loaded (en j t) = true ∧ ¬ may j t)
      (fun j t => Tervon.settled (Tervon.complete t j 4)) ∧
    JobDoes (.kaleScore · x) 0x0A (fun j t => go j ∧ shape j ∧ out j ∧ Ensemble.loaded (en j t) = true ∧ may j t ∧ ¬ tiles j t)
      (fun j t => Tervon.settled (Tervon.complete t j 17)) ∧
    JobDoes (.kaleScore · x) 0x0A (fun j t => ok j t ∧ (en j t).resident = true)
      (fun j t =>
        let u := Tervon.healFor t (en j t)
        let e := Tervon.ens u (id j)
        let r := (kSamples x.bytes).foldl (fun (a : Tervon × List Byte) s =>
          let r := Tervon.scoreResident a.1 (id j) (Job.byte j 42) e s x.poisoned
          (r.1, a.2 ++ kResult e.image s r.2)) (u, [])
        Tervon.settled (Tervon.complete (Tervon.output r.1 j r.2) j 0 n (oor j t))) ∧
    JobDoes (.kaleScore · x) 0x0A (fun j t => ok j t ∧ (en j t).resident = false)
      (fun j t =>
        let u := Tervon.setJob t { j with phase := 1, d1 := oor j t }
        let r : KaleRun := { KaleRun.reset with job := j.ref, ens := id j, image := (en j t).image, form := Job.byte j 42, samples := kSamples x.bytes,
                                                bad := x.poisoned, poison := (en j t).poisoned }
        Tervon.settled (Tervon.kaleAdvance u (Tervon.kaleBatch u r) 65))

/-- A window is loaded: the batch is searched against its trees, and the tile's other window loads the next ones (R287). -/
def WindowsLoaded : Prop :=
  ∀ (l : Nat) (r : KaleRun) (w : KaleWin),
    TvDoes (.kaleWindowLoaded l) (fun t => (t.kruns.any fun r => r.wins.any fun w => decide (w.tile = l)) = false) Tervon.settled ∧
    TvDoes (.kaleWindowLoaded l)
      (fun t => t.kruns.find? (fun r => r.wins.any fun w => decide (w.tile = l)) = some r ∧ r.wins.find? (fun w => decide (w.tile = l)) = some w)
      (fun t =>
        let s := KaleRun.search r w.load
        let u := Tervon.reportTrees t l s.2
        let k := kPack s.1.image 1024 w.todo
        let rest := s.1.wins.erase w
        let wins := if k.1 = [] then rest else { w with todo := k.2, load := k.1, win := 1 - w.win } :: rest
        Tervon.settled (Tervon.kaleAdvance u { s.1 with wins := wins } 65))

/-- The scrub of a tile's next entry: one that is sound, or is not there, only moves the scrub on; one that differs from its golden copy is rewritten as
after a parity error (R293, R416). -/
def ScrubCompares : Prop :=
  ∀ l : Nat,
    TvDoes (.kaleScrubCompare l) (fun t => Tervon.phys t l = none) Tervon.settled ∧
    ∀ p : Nat,
      let moved (t : Tervon) : Tervon :=
        let x := Tervon.ktile t p
        Tervon.setKtile t p { x with scrub := (x.scrub + 1) % 8192 }
      let cur (t : Tervon) : Option KEntry := ((Tervon.ktile t p).assoc.find? fun k => decide (k.1 = (Tervon.ktile t p).scrub)).map Prod.snd
      let gold (t : Tervon) := Tervon.goldenRead (moved t) p (Tervon.ktile t p).scrub
      let same (k g : KEntry) : Prop := k.bad = false ∧ k.slots = g.slots ∧ k.tree = g.tree ∧ k.val = g.val
      TvDoes (.kaleScrubCompare l) (fun t => Tervon.phys t l = some p ∧ cur t = none) (fun t => Tervon.settled (moved t)) ∧
      ∀ k : KEntry,
        TvDoes (.kaleScrubCompare l) (fun t => Tervon.phys t l = some p ∧ cur t = some k ∧ ((gold t).2.2 = true ∨ same k (gold t).2.1))
          (fun t => Tervon.settled (gold t).1) ∧
        TvDoes (.kaleScrubCompare l) (fun t => Tervon.phys t l = some p ∧ cur t = some k ∧ (gold t).2.2 = false ∧ ¬ same k (gold t).2.1)
          (fun t => Tervon.settled (Tervon.healEntry (gold t).1 p (Tervon.ktile t p).scrub))

/-! stored data -/

/-- The scrub of an SRAM word: a good one stays, a corrected one is written back and reported, and an uncorrectable one is reported (R411, R413,
R416). -/
def SramScrubs : Prop :=
  ∀ r : ScrubRead,
    let word (t : Tervon) := EccWord.read (Tervon.sramRaw t r.target r.tile r.addr)
    let unit := if r.target = 1 then gsramUnit r.addr else 0x0102 + 16 * r.tile
    let here : Prop := r.target = 1 ∨ r.target = 2
    TvDoes (.sramPatrolScrub r) (fun _ => ¬ here) Tervon.settled ∧
    TvDoes (.sramPatrolScrub r) (fun t => here ∧ (word t).2 = 0) Tervon.settled ∧
    TvDoes (.sramPatrolScrub r) (fun t => here ∧ (word t).2 = 1)
      (fun t => Tervon.settled (Tervon.eccReport (Tervon.setSram t r.target r.tile r.addr (eccGood (word t).1)) unit 0 (r.addr / 8))) ∧
    TvDoes (.sramPatrolScrub r) (fun t => here ∧ (word t).2 = 2) (fun t => Tervon.settled (Tervon.eccReport t unit 1 (r.addr / 8)))

/-- The scrub of an HBM unit reads its four words: one without a fault of any word changes nothing, and a corrected or uncorrectable word is reported,
as of its row (R366, R413, R416). -/
def HbmScrubs : Prop :=
  ∀ a : Nat,
    let b := a / 32 * 32
    let clean (t : Tervon) (o : Nat) : Prop := Cells.get none t.ecc.hbm ((b + o) / 8) = none
    TvDoes (.hbmPatrolScrub a) (fun t => clean t 0 ∧ clean t 8 ∧ clean t 16 ∧ clean t 24) Tervon.settled ∧
    ∀ w : EccWord,
      TvDoes (.hbmPatrolScrub a) (fun t => t.ecc.hbm = [(b / 8, some w)] ∧ (EccWord.read w).2 = 1)
        (fun t =>
          let u := { t with ecc.hbm := Cells.set none t.ecc.hbm (b / 8) (some (eccGood (EccWord.read w).1)) }
          let u := Tervon.noteRow (Tervon.eccReport u (hbmUnit b) 0 (hbmPlace b).2.2) b false
          Tervon.settled ([8, 16, 24].foldl (fun t o => (Tervon.hbmWord t (b + o) (Tervon.hbmPlain t (b + o))).1) u)) ∧
      TvDoes (.hbmPatrolScrub a) (fun t => t.ecc.hbm = [(b / 8, some w)] ∧ (EccWord.read w).2 = 2)
        (fun t =>
          let u := Tervon.noteRow (Tervon.eccReport t (hbmUnit b) 1 (hbmPlace b).2.2) b true
          Tervon.settled ([8, 16, 24].foldl (fun t o => (Tervon.hbmWord t (b + o) (Tervon.hbmPlain t (b + o))).1) u))

/-- The state when a row's data went back: each word that reads is sound, each one that does not is poisoned, and the row is no more under repair. -/
def rowBack (t : Tervon) (s c r : Nat) : Tervon :=
  let back (w : EccWord) : EccWord := if (EccWord.read w).2 = 2 then eccPoison (EccWord.read w).1 else eccGood (EccWord.read w).1
  { t with ecc.hbm       := t.ecc.hbm.map fun e => if inRow s c r e.1 then (e.1, Option.map back e.2) else e,
           ecc.repairing := t.ecc.repairing.filter fun x => decide (x ≠ (s, c, r)),
           ecc.rowErrs   := t.ecc.rowErrs.filter fun x => decide ((x.1, x.2.1, x.2.2.1) ≠ (s, c, r)) }

/-- A row repair ends: the data goes back, poisoned where it cannot be corrected, and the row takes a repair row while the channel has one. After that
its unit of 4 KiB is remapped, or reported where it lies in a fixed region or every spare unit is in use; a row that is not under repair stays
(R366; log entry 42 for the number of repair rows). -/
def RowsRepaired : Prop :=
  ∀ s c r : Nat,
    TvDoes (.hbmRowRepairComplete s c r) (fun t => t.ecc.repairing.contains (s, c, r) = false) id ∧
    TvDoes (.hbmRowRepairComplete s c r) (fun t => t.ecc.repairing.contains (s, c, r) = true)
      (fun t =>
        let u := rowBack t s c r
        let base : Nat := (r * 32 + c) * 24576 + s * 4096
        if (t.ecc.hard.filter fun x => decide (x.1 = s) && decide (x.2.1 = c)).length < Config.repairRows s c then
          { u with ecc.hard := t.ecc.hard ++ [(s, c, r)] }
        else if base < 0x100000 ∨ (0x4000000 ≤ base ∧ base < 0x8000000) ∨ (0xC000000 ≤ base ∧ base < 0x10000000) ∨ 16384 ≤ t.ecc.remapped then
          Tervon.hostReport u (hbmUnit base) 1 r
        else { u with ecc.remapped := t.ecc.remapped + 1 })

/-- TV_ECC_TEST: the physical function alone writes it; a refused setting is counted and ignored. Without en the fields alone change; with en an access
out of the target is counted, a read latches the raw word and check byte, and a write stores them raw (R417). -/
def EccTests : Prop :=
  ∀ v : DWord,
    let n := v.toNat
    let target := bits n 2 1
    let tile := bits n 9 4
    let ok (t : Tervon) : Prop := (bit n 0 = true → Tervon.allEmpty t = true) ∧ target ≠ 3 ∧ tile ≤ 35
    let set (t : Tervon) : Tervon := { t with ecc.test := v &&& 0xFF03F7 }
    let m := (v &&& 0xFF03F7 : DWord).toNat
    let word (t : Tervon) : EccWord :=
      if bits m 2 1 = 0 then Tervon.hbmRaw (set t) t.ecc.addr.toNat else Tervon.sramRaw (set t) (bits m 2 1) (bits m 9 4) t.ecc.addr.toNat
    (∀ f : Nat, f ≠ 0 → TvDoes (.eccTestRead f v) (fun _ => True) Tervon.settled ∧ TvDoes (.eccTestWrite f v) (fun _ => True) id) ∧
    TvDoes (.eccTestRead 0 v) (fun t => ¬ ok t) (fun t => Tervon.settled { t with ecc.testRefused := satAdd32 t.ecc.testRefused 1 }) ∧
    TvDoes (.eccTestWrite 0 v) (fun t => ¬ ok t) (fun t => { t with ecc.testRefused := satAdd32 t.ecc.testRefused 1 }) ∧
    TvDoes (.eccTestRead 0 v) (fun t => ok t ∧ bit n 0 = false) (fun t => Tervon.settled (set t)) ∧
    TvDoes (.eccTestWrite 0 v) (fun t => ok t ∧ bit n 0 = false) set ∧
    TvDoes (.eccTestRead 0 v) (fun t => ok t ∧ bit n 0 = true ∧ eccAddrOk (bits m 2 1) t.ecc.addr.toNat = true)
      (fun t => Tervon.settled { set t with ecc.data := (word t).data, ecc.test := ((v &&& 0xFF03F7) &&& 0xFFFFFFFFFF00FFFF) ||| ((word t).chk.setWidth 64 <<< 16) }) ∧
    TvDoes (.eccTestWrite 0 v) (fun t => ok t ∧ bit n 0 = true ∧ eccAddrOk (bits m 2 1) t.ecc.addr.toNat = true ∧ bits m 2 1 = 0)
      (fun t => { set t with ecc.hbm := Cells.set none t.ecc.hbm (t.ecc.addr.toNat / 8) (some ⟨t.ecc.data, BitVec.ofNat 8 (bits m 23 16)⟩) }) ∧
    TvDoes (.eccTestWrite 0 v) (fun t => ok t ∧ bit n 0 = true ∧ eccAddrOk (bits m 2 1) t.ecc.addr.toNat = true ∧ bits m 2 1 ≠ 0)
      (fun t => Tervon.setSram (set t) (bits m 2 1) (bits m 9 4) t.ecc.addr.toNat ⟨t.ecc.data, BitVec.ofNat 8 (bits m 23 16)⟩) ∧
    TvDoes (.eccTestWrite 0 v) (fun t => ok t ∧ bit n 0 = true ∧ eccAddrOk (bits m 2 1) t.ecc.addr.toNat = false)
      (fun t => { set t with ecc.testIgnored := satAdd32 t.ecc.testIgnored 1 })

/-! partitions and tiles -/

/-- PARTITION_COMMIT: its checks in order (POISONED, BAD_OPERAND, TILE_ABSENT, CONFLICT, NO_RESOURCE with the resource's number), and the configuration
takes effect when all pass (R216, R387). -/
def PartitionsCommit : Prop :=
  ∀ x : HostData,
    let c := partParse x.bytes
    let p (j : Job) : Nat := Job.byte j 40
    let go (j : Job) : Prop := Job.inputOk j x = true ∧ j.phase = 0
    let form (t : Tervon) : Prop := 64 ≤ x.bytes.length ∧ x.bytes.length = 64 + 8 * field x.bytes 10 2 ∧ Tervon.partRanges t c = true
    let absent (j : Job) (t : Tervon) : Bool := (tileList (c.tiles &&& ~~~(Tervon.part t (p j)).tiles)).any fun l => (Tervon.phys t l).isNone
    let taken (j : Job) (t : Tervon) : Bool := (tileList c.tiles).any fun l => Tervon.tileTaken t (p j) l
    JobDoes (.partitionCommit · x) 0x14 (fun j _ => go j ∧ x.poisoned = true) (fun j t => Tervon.complete t j 25) ∧
    JobDoes (.partitionCommit · x) 0x14 (fun j t => go j ∧ x.poisoned = false ∧ ¬ form t) (fun j t => Tervon.complete t j 3) ∧
    JobDoes (.partitionCommit · x) 0x14 (fun j t => go j ∧ x.poisoned = false ∧ form t ∧ absent j t = true) (fun j t => Tervon.complete t j 17) ∧
    JobDoes (.partitionCommit · x) 0x14 (fun j t => go j ∧ x.poisoned = false ∧ form t ∧ absent j t = false ∧ taken j t = true)
      (fun j t => Tervon.complete t j 18) ∧
    (∀ n : Nat, JobDoes (.partitionCommit · x) 0x14
      (fun j t => go j ∧ x.poisoned = false ∧ form t ∧ absent j t = false ∧ taken j t = false ∧
        (Tervon.partSums t (p j) c = some n ∨ (Tervon.partSums t (p j) c = none ∧ Tervon.partUsed t (p j) c = some n)))
      (fun j t => Tervon.complete t j 19 n)) ∧
    JobDoes (.partitionCommit · x) 0x14
      (fun j t => go j ∧ x.poisoned = false ∧ form t ∧ absent j t = false ∧ taken j t = false ∧ Tervon.partSums t (p j) c = none ∧
        Tervon.partUsed t (p j) c = none)
      (fun j t => Tervon.partApply t (p j) c j)

/-- At the end of the drain wait the jobs still on removed tiles complete ABORTED; nothing changes before it (R217). -/
def DrainsEnd : Prop :=
  ∀ p : Nat,
    TvDoes (.partitionDrainTimeout p) (fun t => (Tervon.part t p).drainBy = none) id ∧
    ∀ e : Nat,
      TvDoes (.partitionDrainTimeout p) (fun t => (Tervon.part t p).drainBy = some e ∧ Tervon.now t < e) id ∧
      TvDoes (.partitionDrainTimeout p) (fun t => (Tervon.part t p).drainBy = some e ∧ e ≤ Tervon.now t)
        (fun t =>
          let late := t.kruns.filter fun r => r.wins.any fun w => (Tervon.part t p).draining.contains w.tile
          Tervon.partsSettle (late.foldl (fun t r => match Tervon.job? t r.job with
            | some j => Tervon.stopJob t j 1
            | none => t) (Tervon.setPart t p { Tervon.part t p with drainBy := none })))

/-- A tile's memories are clear: its associative memory and golden copy hold nothing, and it is free (R207). -/
def TilesCleared : Prop :=
  ∀ l : Nat,
    TvDoes (.tileClearComplete l) (fun t => t.tiles.clearing.contains l = false) id ∧
    ∀ p : Nat, TvDoes (.tileClearComplete l) (fun t => t.tiles.clearing.contains l = true ∧ Tervon.phys t l = some p)
      (fun t =>
        let u := Tervon.setKtile t p { Tervon.ktile t p with assoc := [], golden := [], scrub := 0 }
        Tervon.partsSettle (Tervon.freeTile { u with ecc.tsram := Cells.dropKeys (fun k => decide (k / 1048576 = p)) u.ecc.tsram } l))

/-- A spare that passes its test joins at an epoch mark; one that fails is dead and another one is tried (R364). -/
def SparesTested : Prop :=
  ∀ (s l : Nat) (e : Nat × Nat), e = (l, s) →
    let past (t : Tervon) : Tervon := { t with tiles.testing := t.tiles.testing.filter fun e => decide (e.2 ≠ s) }
    TvDoes (.spareTileBistComplete s true) (fun t => t.tiles.testing.find? (fun e => decide (e.2 = s)) = some e)
      (fun t => { past t with tiles.joining := t.tiles.joining ++ [(l, s, Tervon.now t)] }) ∧
    TvDoes (.spareTileBistComplete s false) (fun t => t.tiles.testing.find? (fun e => decide (e.2 = s)) = some e)
      (fun t => Tervon.testSpare { past t with tiles.dead := t.tiles.dead ++ [s] } l) ∧
    ∀ b : Bool, TvDoes (.spareTileBistComplete s b) (fun t => t.tiles.testing.find? (fun e => decide (e.2 = s)) = none) id

/-! ### Mirroring and time adjustment -/

/-! mirroring and the buddy -/

/-- MIRROR_PERIOD: the items changed go out in frames of at most 28 on the buddy port, 27 as ROUTED; an unmirrored Tervon sends none, and nothing happens
before the period, in Cellar or before the commit (R353, R355, R357). -/
def MirrorPeriods : Prop :=
  let due (t : Tervon) : Prop := Tervon.committed t = true ∧ t.pwr.cellar = false ∧ t.mir.lastPeriod + Tervon.mirrorNs t ≤ Tervon.now t
  let mute (t : Tervon) : Prop := t.mir.unmirrored = true ∨ Tervon.absent t (Tervon.x t) (Tervon.y t) = true
  TvDoes .mirrorPeriod (fun t => ¬ due t) id ∧
  TvDoes .mirrorPeriod (fun t => due t ∧ mute t) (fun t => { t with mir.lastPeriod := Tervon.now t }) ∧
  TvDoes .mirrorPeriod (fun t => due t ∧ ¬ mute t ∧ t.mir.dirty = []) (fun t => { t with mir.lastPeriod := Tervon.now t }) ∧
  TvDoes .mirrorPeriod (fun t => due t ∧ ¬ mute t ∧ t.mir.dirty ≠ [])
    (fun t =>
      let u := { t with mir.lastPeriod := Tervon.now t, mir.dirty := [] }
      (chunks (if Tervon.linkUp? t 8 then 28 else 27) t.mir.dirty).foldl (fun v items =>
        Tervon.sendBuddy { v with mir.seq := v.mir.seq + 1, mir.unacked := v.mir.unacked ++ [(v.mir.seq, t.mir.dirtySince)] } 0 0 (.mirror v.mir.seq items)) u)

/-- MIRROR from the buddy: each item of a leaf that this Tervon does not hold is applied, and the others are counted; MIRROR_ACK answers the sequence and
the count. A pair frame on another port has no effect (R353, R354, R357). -/
def MirrorsApply : Prop :=
  ∀ (rx : Rx) (q : Word) (items : List MirrorItem),
    (rx.port = .tv 8 → FrameDoes (.mirror rx q items) rx (.mirror q items) (fun _ => True)
      (fun t =>
        let u := items.foldl Tervon.applyItem t
        let u := { u with mir.applied := some q }
        Tervon.sendBuddy u 0 0 (.mirrorAck q u.mir.discarded))) ∧
    (rx.port ≠ .tv 8 → FrameDoes (.mirror rx q items) rx (.mirror q items) (fun _ => True) id)

/-- How an item of each kind is applied: not where the lease is held, and otherwise a stream entry at the same index, an image item, and the lease's epoch
and expiry (R227, R353). -/
def ItemsApply : Prop :=
  ∀ (t : Tervon) (i : MirrorItem),
    (Tervon.holdsDid t (MirrorItem.owner i) = true → Tervon.applyItem t i = { t with mir.discarded := t.mir.discarded + 1 }) ∧
    (Tervon.holdsDid t (MirrorItem.owner i) = false → Tervon.applyItem t i = match i with
      | .stream n e => Tervon.streamPut (Tervon.streamGet t n.toNat).1 n.toNat (StreamEnt.parse (padTo 64 e))
      | .image d s k v at' q => Tervon.applyImage t d s.toNat k.toNat v.toNat at'.toNat q
      | .lease d ep ex => { t with mir.leases := Cells.insert t.mir.leases d.toNat (ep.toNat, ex.toNat) })

/-- MIRROR_ACK covers the frames up to its sequence; when it covers the last one of a full resend the mark is cleared and MIRRORED raised, and without a
resend under way one may start (R354, R355). -/
def MirrorsAcked : Prop :=
  ∀ (rx : Rx) (q d : Word), rx.port = .tv 8 →
    let past (t : Tervon) : Tervon := { t with mir.unacked := t.mir.unacked.filter fun e => !covers q e.1 }
    (∀ s : Word, FrameDoes (.mirrorAck rx q d) rx (.mirrorAck q d) (fun t => t.mir.resend = some s ∧ covers q s = true)
      (fun t => Tervon.rosterEvent { past t with mir.unmirrored := false, mir.resend := none } 3 0 0 0 0 0 0 0)) ∧
    (∀ s : Word, FrameDoes (.mirrorAck rx q d) rx (.mirrorAck q d) (fun t => t.mir.resend = some s ∧ covers q s = false) past) ∧
    FrameDoes (.mirrorAck rx q d) rx (.mirrorAck q d) (fun t => t.mir.resend = none) (fun t => Tervon.remirror (past t))

/-- The lag passes its limit: the Tervon is unmirrored, with UNMIRRORED raised at the change; nothing changes within the limit (R354, R355). -/
def LagLimits : Prop :=
  let out (t : Tervon) : Prop := Tervon.lagOver t (Tervon.lagLimNs t) = true
  let mark (t : Tervon) : Tervon := { t with mir.unmirrored := true, mir.resend := none, mir.dirty := [] }
  TvDoes .mirrorLagLimit (fun t => ¬ out t) id ∧
  TvDoes .mirrorLagLimit (fun t => out t ∧ t.mir.unmirrored = false) (fun t => Tervon.rosterEvent (mark t) 2 0 0 0 0 0 0 0) ∧
  TvDoes .mirrorLagLimit (fun t => out t ∧ t.mir.unmirrored = true ∧ t.mir.resend.isSome = true) mark ∧
  TvDoes .mirrorLagLimit (fun t => out t ∧ t.mir.unmirrored = true ∧ t.mir.resend = none) id

/-- The fields of BUDDY_STATE as a Tervon sends it (R357). -/
def buddyStateOf (t : Tervon) : BuddyStateP :=
  let flag (b : Bool) (n : Nat) : Nat := if b then n else 0
  { time := BitVec.ofNat 64 (Tervon.now t), did := t.boot.did,
    flags := BitVec.ofNat 8 (flag t.mir.unmirrored 1 + flag (Tervon.lagOver t 1000000) 2 + flag (Tervon.podLocked t) 4),
    lastSent := t.mir.seq - 1, lastApp := t.mir.applied.getD 0,
    leases := BitVec.ofNat 64 (((List.range 64).filter fun k => (Tervon.lease t k).held).map (2 ^ ·)).sum }

/-- Every 100 µs after the commit the Tervon sends BUDDY_STATE (R357). -/
def StatesSent : Prop :=
  let due (t : Tervon) : Prop := Tervon.committed t = true ∧ t.mir.lastSent + 100000 ≤ Tervon.now t
  TvDoes .buddyStatePeriod (fun t => ¬ due t) id ∧
  TvDoes .buddyStatePeriod due
    (fun t => Tervon.sendBuddy { t with mir.lastSent := Tervon.now t } 0 0 (.buddyState (buddyStateOf t)))

/-- BUDDY_STATE is kept with its time, and the full resend starts when the cause of the mark has ended: with no item to send the mark is cleared at
once (R355). -/
def StatesHeard : Prop :=
  ∀ (rx : Rx) (p : BuddyStateP), rx.port = .tv 8 →
    let heard (t : Tervon) : Tervon := { t with mir.lastState := some (Tervon.now t), mir.buddy := some p }
    FrameDoes (.buddyState rx p) rx (.buddyState p) (fun t => t.mir.unmirrored = false) heard ∧
    FrameDoes (.buddyState rx p) rx (.buddyState p)
      (fun t => t.mir.unmirrored = true ∧ t.mir.resend = none ∧ Tervon.linkUp? t 8 = true ∧ Tervon.lagOver t (Tervon.lagLimNs t) = false ∧
        Tervon.allItems (heard t) = [])
      (fun t => Tervon.rosterEvent { heard t with mir.unmirrored := false, mir.resend := none } 3 0 0 0 0 0 0 0) ∧
    FrameDoes (.buddyState rx p) rx (.buddyState p)
      (fun t => t.mir.unmirrored = true ∧ t.mir.resend = none ∧ Tervon.linkUp? t 8 = true ∧ Tervon.lagOver t (Tervon.lagLimNs t) = false ∧
        Tervon.allItems (heard t) ≠ [])
      (fun t =>
        let u := Tervon.sendMirrors (heard t) (Tervon.now t) (Tervon.allItems (heard t))
        { u with mir.resend := some (u.mir.seq - 1) })

/-- No BUDDY_STATE for 1 ms: unmirrored, and no ACK is awaited; no frame of the buddy for 1 ms: BUDDY_SILENT once (R355, R358). -/
def BuddyLost : Prop :=
  let late (t : Tervon) : Prop := Tervon.committed t = true ∧ t.mir.lastState.getD 0 + 1000000 < Tervon.now t
  let quiet (t : Tervon) : Prop := Tervon.committed t = true ∧ t.mir.silent = false ∧ t.mir.lastFrame.getD 0 + 1000000 < Tervon.now t
  TvDoes .buddyStateAbsent (fun t => ¬ late t) id ∧
  TvDoes .buddyStateAbsent (fun t => late t ∧ t.mir.unmirrored = false)
    (fun t => Tervon.rosterEvent { t with mir.unmirrored := true, mir.resend := none, mir.dirty := [], mir.unacked := [] } 2 0 0 0 0 0 0 0) ∧
  TvDoes .buddyStateAbsent (fun t => late t ∧ t.mir.unmirrored = true ∧ t.mir.resend = none) id ∧
  TvDoes .buddySilent (fun t => ¬ quiet t) id ∧
  TvDoes .buddySilent quiet (fun t => Tervon.rosterEvent { t with mir.silent := true } 4 0 0 0 0 0 0 0)

/-- A replacement Tervon keeps each chunk of its bulk load; STATE_DONE lets the sections take effect when their bytes and CRC agree, and otherwise the
load starts again (R368). -/
def BulkLoads : Prop :=
  ∀ (rx : Rx) (sect : Byte) (off : Word) (data : List Byte) (bm : Word) (total : DWord) (crc : Word), rx.port = .tv 8 →
    let all (t : Tervon) : List Byte := ((List.range 5).filter (bit bm.toNat)).flatMap (Tervon.loadBytes t)
    let whole (t : Tervon) : Prop := (all t).length = total.toNat ∧ crc32c (all t) = crc
    FrameDoes (.stateLoad rx sect off data) rx (.stateLoad sect off data) (fun _ => sect.toNat < 5)
      (fun t => { t with mir.loadedAt := none,
                         mir.load     := (t.mir.load.filter fun c => !(decide (c.1 = sect.toNat) && decide (c.2.1 = off.toNat))) ++ [(sect.toNat, off.toNat, data)] }) ∧
    FrameDoes (.stateLoad rx sect off data) rx (.stateLoad sect off data) (fun _ => 5 ≤ sect.toNat) id ∧
    FrameDoes (.stateDone rx bm total crc) rx (.stateDone bm total crc) whole
      (fun t =>
        let u := Tervon.loadApply t
        { u with mir.load := [], mir.loadedAt := some (Tervon.now t) }) ∧
    FrameDoes (.stateDone rx bm total crc) rx (.stateDone bm total crc) (fun t => ¬ whole t)
      (fun t => { t with mir.load := [], mir.loadedAt := none })

/-! adjusting the time -/

/-- TIME_ADJUST set-second: NOT_ROOT elsewhere than at a root and BUSY once the time is set; a building root takes the second at its next edge, and
another root at once, with the steer it kept (R34, R35, R388). -/
def SecondsSet : Prop :=
  let sec (j : Job) : DWord := BitVec.ofNat 64 (Job.u64 j 48)
  let Does (H : Job → Tervon → Prop) (E : Job → Tervon → Tervon) : Prop :=
    JobDoes .timeAdjustSetSecond 0x15 H fun j t => Tervon.noteClass (E j t)
  let root (t : Tervon) : Prop := TimeDom.isRoot t.time = true ∧ t.time.valid = false
  Does (fun j t => Job.byte j 40 = 0 ∧ TimeDom.isRoot t.time = false) (fun j t => Tervon.complete t j 22) ∧
  Does (fun j t => Job.byte j 40 = 0 ∧ TimeDom.isRoot t.time = true ∧ t.time.valid = true) (fun j t => Tervon.complete t j 21) ∧
  Does (fun j t => Job.byte j 40 = 0 ∧ root t ∧ Tervon.building t = true)
    (fun j t => Tervon.complete { t with time.root.second := some (sec j) } j 0) ∧
  Does (fun j t => Job.byte j 40 = 0 ∧ root t ∧ Tervon.building t = false ∧ t.time.root.kept = none)
    (fun j t => Tervon.complete (Tervon.setSecond t (sec j) (TimeDom.ns t.time : Rat)) j 0) ∧
  (∀ k, Does (fun j t => Job.byte j 40 = 0 ∧ root t ∧ Tervon.building t = false ∧ t.time.root.kept = some k)
    (fun j t =>
      let u := Tervon.setSecond t (sec j) (TimeDom.ns t.time : Rat)
      Tervon.complete { u with time := TimeDom.applySteer u.time k.1 k.2.1 k.2.2.1 k.2.2.2 } j 0)) ∧
  Does (fun j _ => 3 ≤ Job.byte j 40) (fun j t => Tervon.complete t j 3)

/-- TIME_ADJUST steer: a class other than 3 and 4, or an interval outside 1 to 64,000, is BAD_OPERAND, and a source other than software NOT_ROOT; the
steer applies while the time is set, and is kept until then (R35, R37, R388). -/
def SteersApply : Prop :=
  let off (j : Job) : Rat := ((BitVec.ofNat 64 (Job.u64 j 48)).toInt : Rat) / 65536
  let fr (j : Job) : Option Rat := if Job.byte j 60 % 2 = 1 then some (((BitVec.ofNat 32 (Job.u32 j 56)).toInt : Rat) / 65536 / 1000000) else none
  let ok (j : Job) : Prop := (Job.byte j 41 = 3 ∨ Job.byte j 41 = 4) ∧ 1 ≤ Job.u32 j 44 ∧ Job.u32 j 44 ≤ 64000
  let Does (H : Job → Tervon → Prop) (E : Job → Tervon → Tervon) : Prop := JobDoes .timeAdjustSteer 0x15 H fun j t => Tervon.noteClass (E j t)
  Does (fun j _ => Job.byte j 40 = 1 ∧ ¬ ok j) (fun j t => Tervon.complete t j 3) ∧
  Does (fun j t => Job.byte j 40 = 1 ∧ ok j ∧ TimeDom.src t.time ≠ 2) (fun j t => Tervon.complete t j 22) ∧
  Does (fun j t => Job.byte j 40 = 1 ∧ ok j ∧ TimeDom.src t.time = 2 ∧ t.time.valid = true)
    (fun j t => Tervon.complete { t with time := TimeDom.applySteer t.time (off j) (fr j) (BitVec.ofNat 4 (Job.byte j 41)) (Job.u32 j 44) } j 0) ∧
  Does (fun j t => Job.byte j 40 = 1 ∧ ok j ∧ TimeDom.src t.time = 2 ∧ t.time.valid = false)
    (fun j t => Tervon.complete { t with time.root.kept := some (off j, fr j, BitVec.ofNat 4 (Job.byte j 41), Job.u32 j 44) } j 0)

/-- TIME_ADJUST send-PTP puts the message on the peer port unaltered (R60, R388). -/
def PtpSent : Prop :=
  ∀ x : HostData,
    let Does (H : Job → Tervon → Prop) (E : Job → Tervon → Tervon) : Prop :=
      JobDoes (.timeAdjustSendPtp · x) 0x15 (fun j t => Job.inputOk j x = true ∧ Job.byte j 40 = 2 ∧ H j t) fun j t => Tervon.noteClass (E j t)
    Does (fun j _ => 3 < Job.byte j 41) (fun j t => Tervon.complete t j 3) ∧
    Does (fun j _ => Job.byte j 41 ≤ 3 ∧ x.poisoned = true) (fun j t => Tervon.complete t j 25) ∧
    Does (fun j _ => Job.byte j 41 ≤ 3 ∧ x.poisoned = false) (fun j t => Tervon.complete (Tervon.emit t (.ptp (9 + Job.byte j 41) x.bytes)) j 0)

/-! ### Power, resets and registers of a Tervon -/

/-! power of the Tervon -/

/-- Entry into Cellar, step by step: open captures get TIMEOUT reason 2, the stream cache goes back to HBM, the changed items are mirrored, class 1 to 3
credits are withheld, and a wake time that has passed is cleared (R418, R425). -/
def cellarEntered (t : Tervon) : Tervon :=
  let a := (t.assay.caps.filter fun c => !c.done).foldl (fun t c =>
    Tervon.commitVerdict t c (verdictOf c.hdr c.did c.id (if c.running then c.mode else t.det.det) 4 2) c.running) t
  let b := (a.str.cache.flatMap Prod.snd).foldl Tervon.writeBack a
  let c := { b with str.cache := [] }
  let d := Tervon.withhold (Tervon.mirrorPeriod { c with mir.lastPeriod := Tervon.now c - Tervon.mirrorNs c }) true
  { d with pwr.entering := none, pwr.cellar := true, pwr.waking := false, pwr.wakeAt := if d.pwr.wakeAt.toNat ≤ Tervon.now d then 0 else d.pwr.wakeAt }

/-- 100 ms after the firing the jobs that still run complete ABORTED and the Tervon enters Cellar; nothing changes before it (R425). -/
def CellarTimesOut : Prop :=
  TvDoes .tervonCellarJobTimeout (fun t => t.pwr.entering = none) Tervon.settled ∧
  ∀ a : Nat,
    TvDoes .tervonCellarJobTimeout (fun t => t.pwr.entering = some a ∧ Tervon.now t < a + 100000000) Tervon.settled ∧
    TvDoes .tervonCellarJobTimeout (fun t => t.pwr.entering = some a ∧ a + 100000000 ≤ Tervon.now t)
      (fun t => Tervon.settled (cellarEntered ((t.jobs.filter fun j => j.started).foldl (fun t j => Tervon.stopJob t j 1) t)))

/-- TV_PWR_CTL takes a cap of 200 to 600 W; the wake bit wakes a Tervon in Cellar; another cap is refused and counted; the physical function of a Tervon
that is ready alone writes it (R418, R431, R436). -/
def PowerWritten : Prop :=
  ∀ (f : Nat) (v : DWord),
    let cap := bits v.toNat 9 0
    TvDoes (.pwrWakeWrite f v) (fun t => f ≠ 0 ∨ t.boot.ready = false) id ∧
    TvDoes (.pwrWakeWrite 0 v) (fun t => t.boot.ready = true ∧ (cap < 200 ∨ 600 < cap))
      (fun t => { t with boot.rstBad := satAdd16 t.boot.rstBad 1 }) ∧
    TvDoes (.pwrWakeWrite 0 v) (fun t => t.boot.ready = true ∧ 200 ≤ cap ∧ cap ≤ 600)
      (fun t => { t with pwr.ctl := v &&& 0xBFF, pwr.waking := t.pwr.waking || (v.getLsbD 10 && t.pwr.cellar) })

/-- TV_WAKE_AT reached in Cellar: the Tervon wakes and the register is cleared; nothing happens earlier, or without a wake time (R418). -/
def WakeTimes : Prop :=
  let due (t : Tervon) : Prop := t.pwr.cellar = true ∧ t.pwr.wakeAt ≠ 0 ∧ t.pwr.wakeAt.toNat ≤ Tervon.now t
  TvDoes .wakeAtReached due (fun t => { t with pwr.waking := true, pwr.wakeAt := 0 }) ∧
  TvDoes .wakeAtReached (fun t => ¬ due t) id

/-- The Tervon wakes: credits are granted again, records and jobs go on, the phrase goes to every sleeping leaf while bit 11 of TV_PWR_CTL is set, and the
internal leaf wakes (R164, R425; log entry 60). -/
def TervonWakes : Prop :=
  let up (t : Tervon) : Tervon :=
    (List.range 17).foldl (fun t f => Tervon.startJobs (Tervon.writeLoss t f) f)
      (Tervon.withhold { t with pwr.cellar := false, pwr.waking := false } false)
  let phrases (t : Tervon) : Tervon :=
    ((List.range 64).filter fun k => (Tervon.lease t k).asleep).foldl (fun t k =>
      Tervon.emitAll t ((List.range 8).map fun b => .ctl (.tv (k / 8)) (.wake (BitVec.ofNat 4 (k % 8)) (BitVec.ofNat 3 b)))) t
  TvDoes .tervonWake (fun t => t.pwr.waking = false ∨ t.pwr.cellar = false) id ∧
  TvDoes .tervonWake (fun t => t.pwr.waking = true ∧ t.pwr.cellar = true)
    (fun t =>
      let u := up t
      let v := if u.pwr.ctl.getLsbD 11 then phrases u else u
      if v.ileaf.pwr.cellar = 0 then v else Tervon.onIleaf v Leaf.wakePhrase)

/-- A Tervon after a reset, of the kind and cause given: the fuses, the dead tiles, the NOR copies and the hard repairs stay, a warm reset keeps the warm
roster area too, and everything else is as at reset (R428). -/
def tvReset (t : Tervon) (cause : BitVec 3) (warm : Bool) : Tervon :=
  let boot := { TvBoot.reset with revision := t.boot.revision, serial := t.boot.serial, cause := cause, starts := t.boot.starts + 1,
                                  held := t.boot.held || decide (cause = 4) }
  let ecc := { EccSt.reset with hard := t.ecc.hard, remapped := t.ecc.remapped, hbm := if warm then t.ecc.hbm.filter fun e => inWarmArea e.1 else [],
                                rowErrs := if warm then t.ecc.rowErrs else [] }
  let lard := { LarderSt.reset with withdrawn := if warm then t.lard.withdrawn else [] }
  let nor := { WarmSt.reset with nor := t.warm.nor, hbmCopy := if warm then t.warm.hbmCopy else none }
  let leaf := Leaf.coldReset { t.ileaf with time := TimeDom.reset } (if warm then 2 else 0) []
  { Tervon.reset with boot := boot, tiles := { TvTiles.reset with dead := t.tiles.dead }, ecc := ecc, lard := lard, warm := nor, ileaf := leaf, out := t.out,
                      free := t.free }

/-- The four resets and their causes: power on 0, power good 1, PERST# 2, MCTP 3, thermal trip 4 (R428). -/
def TervonResets : Prop :=
  TvDoes (.tervonColdReset .firstPowerOn) (fun _ => True) (fun t => tvReset t 0 false) ∧
  TvDoes (.tervonColdReset .powerGood) (fun _ => True) (fun t => tvReset t 1 false) ∧
  TvDoes (.tervonColdReset .thermalTrip) (fun _ => True) (fun t => tvReset t 4 false) ∧
  TvDoes .tervonWarmReset (fun _ => True) (fun t => tvReset t 2 true) ∧
  TvDoes .mctpResetRequest (fun _ => True) (fun t => tvReset t 3 true)

/-- A Tervon is ready after its self-test: the tiles that failed are dead and spares take their places, and set-up writes are accepted; one that is ready,
or held until it has cooled, does not start again (R204, R429, R431). -/
def BootsReady : Prop :=
  ∀ failed : List Nat,
    TvDoes (.tervonBootReady failed) (fun t => t.boot.ready = true ∨ t.boot.held = true) id ∧
    TvDoes (.tervonBootReady failed) (fun t => t.boot.ready = false ∧ t.boot.held = false)
      (fun t => Tervon.mapFailed { t with boot.ready := true, boot.stage := 4, boot.tilesFailing := (failed.filter fun p => decide (p < 36)).dedup.length } failed)

/-- The commit of the set-up: ignored without bit 0, before the Tervon is ready, once committed, or while its steward hangs; a check that fails is named in
TV_SETUP_STAT; and otherwise the set-up holds, a warm start restores the roster, and the internal leaf is acquired (R220, R370, R435). -/
def SetupCommits : Prop :=
  ∀ v : Word,
    let may (t : Tervon) : Prop := v.getLsbD 0 = true ∧ t.boot.ready = true ∧ Tervon.committed t = false ∧ Tervon.stewardHung t 0 = false
    TvDoes (.setupCommit v) (fun t => ¬ may t) id ∧
    TvDoes (.setupCommit v) (fun t => may t ∧ Tervon.setupCheck t ≠ 0) (fun t => { t with boot.setup := 2, boot.code := Tervon.setupCheck t }) ∧
    TvDoes (.setupCommit v) (fun t => may t ∧ Tervon.setupCheck t = 0)
      (fun t =>
        let u := Tervon.warmStart { t with boot.setup := 1, boot.code := 0, ileaf.ring.did := t.boot.ileafDid }
        Tervon.acquire (Tervon.setLease u ileafKey { Tervon.lease u ileafKey with known := true, grantDid := u.boot.ileafDid }) ileafKey)

/-- The first check of R435 that fails is the one named: 1 the count of Tervons, 2 the coordinate, 3 the DIDs, 5 the Larder's pools. Check 4, of a
ring's length, holds of every value that its field can have (R435). -/
def SetupChecks : Prop :=
  ∀ t : Tervon,
    (Tervon.countOk t = false → Tervon.setupCheck t = 1) ∧
    (Tervon.countOk t = true → Tervon.coordOk t = false → Tervon.setupCheck t = 2) ∧
    (Tervon.countOk t = true → Tervon.coordOk t = true → Tervon.didsOk t = false → Tervon.setupCheck t = 3) ∧
    (Tervon.countOk t = true → Tervon.coordOk t = true → Tervon.didsOk t = true → Tervon.setupCheck t = if larderCtlOk t.boot.larderCtl then 0 else 5)

/-- A hung steward starts again when its dump has ended, or 100 ms after it was declared hung, and its duties resume; not earlier (R428). -/
def StewardsRestart : Prop :=
  ∀ (n : BitVec 2) (since : Nat) (dumped : Bool) (h : Nat × Nat × Bool), h = (n.toNat, since, dumped) →
    let is (t : Tervon) : Prop := t.pwr.hung.find? (fun h => decide (h.1 = n.toNat)) = some h
    let due (t : Tervon) : Prop := (dumped = true ∧ DumpSt.hasFor t.ileaf.dump n.toNat = false) ∨ since + 100000000 ≤ Tervon.now t
    TvDoes (.stewardRestart n) (fun t => is t ∧ due t)
      (fun t => (List.range 17).foldl Tervon.startJobs { t with pwr.hung := t.pwr.hung.filter fun h => decide (h.1 ≠ n.toNat) }) ∧
    TvDoes (.stewardRestart n) (fun t => is t ∧ ¬ due t) id ∧
    TvDoes (.stewardRestart n) (fun t => t.pwr.hung.find? (fun h => decide (h.1 = n.toNat)) = none) id

/-! registers of the Tervon -/

/-- A read of BAR0 at a register's lowest word answers it and latches the register's upper words for the function; at an upper word it answers the latch.
Nothing is read outside the map or off a word boundary (R73, R371, R433). -/
def BarReads : Prop :=
  ∀ b : BarAccess, b.fn ≤ 16 → b.bar2 = false →
    (barOffset b.fn b.off = none → TvDoes (.lowWordRead (.bar b)) (fun _ => True) (fun t => Tervon.emit t (.barRead b.fn b.off 0))) ∧
    ∀ o : Nat, barOffset b.fn b.off = some o → o % 4 = 0 →
      ((regAt o).1 = o → TvDoes (.lowWordRead (.bar b)) (fun _ => True)
        (fun t =>
          let u := Tervon.touchReg t b.fn o
          let x := Tervon.fn u b.fn
          let latch := (List.range (regAt o).2).foldl (fun m i => if i = 0 then m else Cells.set 0 m i (Tervon.peek u b.fn (o + 4 * i))) x.latch
          Tervon.emit (Tervon.setFn u b.fn { x with latch := latch }) (.barRead b.fn b.off ((Tervon.peek u b.fn o).setWidth 64)))) ∧
      (∀ k : Nat, 0 < k → o = (regAt o).1 + 4 * k → TvDoes (.lowWordRead (.bar b)) (fun _ => True)
        (fun t =>
          let u := Tervon.touchReg t b.fn o
          Tervon.emit u (.barRead b.fn b.off ((Cells.get 0 (Tervon.fn u b.fn).latch k).setWidth 64))))

/-- BAR2 answers the doorbell's last value; another access to it is counted and reads 0 (R371, R372). The Command register answers Bus Master Enable
(R391). -/
def DoorbellReads : Prop :=
  ∀ b : BarAccess, b.fn ≤ 16 → b.bar2 = true →
    (∀ i : Nat, doorbellRing b.off = some i → TvDoes (.lowWordRead (.bar b)) (fun _ => True)
      (fun t => Tervon.emit t (.barRead b.fn b.off ((Tervon.ring t b.fn i).bell.setWidth 64)))) ∧
    (doorbellRing b.off = none → TvDoes (.lowWordRead (.bar b)) (fun _ => True)
      (fun t =>
        let x := Tervon.fn t b.fn
        Tervon.emit (Tervon.setFn t b.fn { x with bar2 := satAdd32 x.bar2 1 }) (.barRead b.fn b.off 0))) ∧
    TvDoes (.lowWordRead (.command b.fn)) (fun _ => True)
      (fun t => Tervon.emit t (.barRead b.fn 4 (BitVec.ofNat 64 (if (Tervon.fn t b.fn).bme then 4 else 0))))

/-- A poisoned write of a BAR is dropped, counted and signalled; a write of BAR2 off a doorbell is counted; and Bus Master Enable follows bit 2 of the
Command register (R371, R391, R393). -/
def BarWritesDropped : Prop :=
  ∀ (b : BarAccess) (w : Word), b.fn ≤ 16 →
    (b.ep = true → TvDoes (.registerWrite (.bar b) (.low w)) (fun _ => True)
      (fun t =>
        let x := Tervon.fn t b.fn
        Tervon.settled (Tervon.emit (Tervon.setFn t b.fn { x with poisonedWr := satAdd32 x.poisonedWr 1 }) (.aer b.fn)))) ∧
    (b.ep = false → b.bar2 = true → doorbellRing b.off = none → TvDoes (.registerWrite (.bar b) (.low w)) (fun _ => True)
      (fun t =>
        let x := Tervon.fn t b.fn
        Tervon.settled (Tervon.setFn t b.fn { x with bar2 := satAdd32 x.bar2 1 }))) ∧
    (w.getLsbD 2 = true → TvDoes (.registerWrite (.command b.fn) (.low w)) (fun _ => True)
      (fun t => Tervon.settled (Tervon.setFn t b.fn { Tervon.fn t b.fn with bme := true }))) ∧
    (w.getLsbD 2 = false → TvDoes (.registerWrite (.command b.fn) (.low w)) (fun _ => True) (fun t => Tervon.settled (Tervon.busMasterOff t b.fn)))

/-- A word of BAR0 that a function may write: a word of a register of one word applies at once, a lower word of a wider one is held, and the highest word
applies the held words with itself; a word that it may not write changes nothing (R433, R446). -/
def BarWritesApply : Prop :=
  ∀ (b : BarAccess) (w : Word) (o : Nat), b.fn ≤ 16 → b.ep = false → b.bar2 = false → barOffset b.fn b.off = some o → o % 4 = 0 →
    let c : Instr := .registerWrite (.bar b) (.low w)
    let k := (o - (regAt o).1) / 4
    let n := (regAt o).2
    let may (t : Tervon) : Prop := Tervon.writable t b.fn o = true
    TvDoes c (fun t => ¬ may t) Tervon.settled ∧
    (n ≤ 1 → TvDoes c may fun t => Tervon.settled (Tervon.poke t b.fn o w)) ∧
    (1 < n → k + 1 < n → TvDoes c may fun t =>
      let x := Tervon.fn t b.fn
      Tervon.settled (Tervon.setFn t b.fn { x with heldWr := Cells.set 0 x.heldWr o w })) ∧
    (1 < n → n ≤ k + 1 → TvDoes c may fun t =>
      let low := ((List.range (n - 1)).map fun i => (Cells.get 0 (Tervon.fn t b.fn).heldWr ((regAt o).1 + 4 * i)).toNat * 2 ^ (32 * i)).sum
      Tervon.settled (Tervon.pokeWide t b.fn (regAt o).1 (low + w.toNat * 2 ^ (32 * (n - 1)))))

/-! ### Sending, forwarding and ROUTED -/

/-! sending, and frames in transit -/

/-- The link after an own frame of a class left: it carries its alive count, the sequence and the epoch that `fill` gives; it waits in the replay buffer
for its ACK, and its class has used its credits and tokens (R132, R135, R139, R166). -/
def sentOwn (p : PortId) (q : LinkPort) (c : Nat) (f : Frame) (rest : List Frame) (now : Nat) (fill : Hdr → Hdr) : LinkRes :=
  let s := LinkPort.stampAlive q { f with hdr := fill f.hdr }
  let g : Frame := { s.2 with hdr := { s.2.hdr with linkSeq := q.txSeq } }
  let u := { s.1 with own          := Quad.set q.own c rest,
                      tokens       := Quad.set q.tokens c (Quad.get q.tokens c - LinkPort.counted q f),
                      deficit      := if c = 0 then q.deficit else Quad.set q.deficit c (Quad.get q.deficit c - LinkPort.counted q f),
                      txSeq        := q.txSeq + 1,
                      lastProgress := if q.replay.isEmpty then now else q.lastProgress,
                      replay       := q.replay ++ [g],
                      credUsed     := Quad.set q.credUsed c (Quad.get q.credUsed c + BitVec.ofNat 16 (credits g.hdr.length.toNat)) }
  (LinkPort.endTurn u, [.tx p false g])

/-- An own frame of class 0 may start: it is the head of its class, and credits, tokens and the replay buffer have room (R132, R135, R166). -/
def mayStart0 (q : LinkPort) (f : Frame) (rest : List Frame) : Prop :=
  q.link = 2 ∧ q.halted = false ∧ q.transit.c0 = [] ∧ q.own.c0 = f :: rest ∧ LinkPort.hasCredit q f = true ∧ LinkPort.shaperOpen q 0 = true ∧
  LinkPort.replayRoom q f = true

/-- A leaf fills in the epoch of its lease, and 0 without a holder (R143). -/
def leafFill (l : Leaf) (h : Hdr) : Hdr := { h with epoch := if Leaf.hasHolder l then l.ring.lease.epoch else 0 }

/-- At a frame boundary class 0 goes before all others; in a round, the current class sends while its deficit covers its head; and nothing is sent while the
link is not up or its direction is halted (R130, R166). -/
def Scheduled : Prop :=
  (∀ (k : Nat) (f : Frame) (rest : List Frame),
    PortDoes (.frameBoundarySchedule (.tv k)) (.tv k) (fun _ q => q.link ≠ 2 ∨ q.halted = true) (fun _ q => (q, [])) ∧
    (∀ s : State, k ≤ 12 → mayStart0 (Tervon.port s.tv k) f rest →
      exec (.frameBoundarySchedule (.tv k)) s = .next (State.putTv s (Tervon.putLink s.tv k
        (sentOwn (.tv k) (Tervon.port s.tv k) 0 f rest (Tervon.now s.tv) (Tervon.fill s.tv k))))) ∧
    ∀ (s : State) (c : Nat), k ≤ 12 → 1 ≤ c → c ≤ 3 →
      let q := Tervon.port s.tv k
      q.link = 2 → q.halted = false → LinkPort.eligible q 0 = false → q.rrClass = c → q.rrAdded = true → Quad.get q.transit c = [] →
      Quad.get q.own c = f :: rest → LinkPort.hasCredit q f = true → LinkPort.shaperOpen q c = true → LinkPort.replayRoom q f = true →
      LinkPort.counted q f ≤ Quad.get q.deficit c →
      exec (.frameBoundarySchedule (.tv k)) s = .next (State.putTv s (Tervon.putLink s.tv k
        (sentOwn (.tv k) q c f rest (Tervon.now s.tv) (Tervon.fill s.tv k))))) ∧
  ∀ (s : State) (p : PortId) (f : Frame) (rest : List Frame), (p = .west ∨ p = .east) → s.leaf.kind = .ring → mayStart0 (Leaf.fed s.leaf p) f rest →
    f.hdr.cls = 0 →
    exec (.frameBoundarySchedule p) s = .next (State.putLeaf s .ring
      (let r := sentOwn p (Leaf.fed s.leaf p) 0 f rest (Leaf.now s.leaf) (leafFill s.leaf)
       Leaf.putLink s.leaf p ({ r.1 with own := ⟨r.1.own.c0, [], [], []⟩ }, r.2)))

/-- NOP is received and ignored (R144). -/
def NopsIgnored : Prop :=
  ∀ rx : Rx,
    let p : Payload := .nop (zeros rx.hdr.length.toNat)
    LeafDoes (.nopFrame (.leaf .ring) rx) .ring (fun l => Leaf.Receives l rx p) (fun l => Leaf.received l rx) ∧
    FrameDoes (.nopFrame .tervon rx) rx p (fun _ => True) id

/-- A frame that is not for this leaf goes on through its other port, as it came; TIME_SYNC, TIME_FOLLOW and TIME_DELAY_REQ are changed on their way
(R141, R142). -/
def FramesForwarded : Prop :=
  ∀ (p : PortId) (f : Frame), (p = .west ∨ p = .east) →
    Payload.passing f.pay = false → (∀ q, f.pay ≠ .delayReq q) →
    LeafDoes (.frameTransit p f) .ring (fun l => Leaf.Passes l ⟨p, f.hdr, false, false⟩ f.pay)
      (fun l => Leaf.modPort (Leaf.taken l ⟨p, f.hdr, false, false⟩) (otherPort p) fun q =>
        { q with transit := Quad.set q.transit f.hdr.cls.toNat (Quad.get q.transit f.hdr.cls.toNat ++ [f]) })

/-- A frame at a port of a Tervon has the effect of its type's own command (R141, R143, R250). -/
def TransitRuns : Prop :=
  ∀ (k : Nat) (h : Hdr) (s : State),
    let rx : Rx := ⟨.tv k, h, false, false⟩
    let transit (p : Payload) : Res := exec (.frameTransit (.tv k) ⟨h, p⟩) s
    (∀ q bs, transit (.tally q bs) = exec (.tallyFrame rx q bs) s) ∧ (∀ q, transit (.tallyEnd q) = exec (.tallyEndFrame rx q) s) ∧
    (∀ q bs, transit (.hist q bs) = exec (.histFrame rx q bs) s) ∧ (∀ rs, transit (.health rs) = exec (.healthFrame rx rs) s) ∧
    (∀ c o bs, transit (.trace c o bs) = exec (.traceFrame rx c o bs) s) ∧ (∀ q, transit (.regRsp q) = exec (.regRsp rx q) s) ∧
    (∀ q, transit (.leaseGrant q) = exec (.leaseGrant rx q) s) ∧ (∀ q, transit (.sleeping q) = exec (.sleeping rx q) s) ∧
    (∀ q, transit (.reducePart q) = exec (.reducePart rx q) s) ∧ (∀ q is, transit (.mirror q is) = exec (.mirror rx q is) s) ∧
    (∀ q, transit (.buddyState q) = exec (.buddyState rx q) s) ∧ (∀ q, transit (.timeSync q) = exec (.timeSync .tervon rx q (TimeDom.stamp s.tv.time) 0) s) ∧
    (∀ a b c d e g bs, transit (.routed a b c d e g bs) = exec (.routed rx a b c d e g bs) s)

/-! ROUTED -/

/-- A ROUTED frame for another Tervon goes on through the first usable port with its hop count lowered; with none left, or without a port, it is counted
as misrouted (R250). -/
def RoutedOn : Prop :=
  ∀ (rx : Rx) (dx dy sx sy : BitVec 3) (hop : Byte) (h : Hdr) (body : List Byte),
    let p : Payload := .routed dx dy sx sy hop h body
    let Does (H : Tervon → Prop) (E : Tervon → Tervon) : Prop := FrameDoes (.routed rx dx dy sx sy hop h body) rx p H fun t => Tervon.settled (E t)
    let there (t : Tervon) : Prop := dx.toNat = Tervon.x t ∧ dy.toNat = Tervon.y t
    let port (t : Tervon) : Option Nat := Tervon.routePort t dx.toNat dy.toNat (some (rxPortNo rx))
    (∀ k : Nat, rx.port = .tv k →
      Does (fun t => ¬ there t ∧ (hop = 0 ∨ port t = none)) (fun t => Tervon.modPort t k fun q => { q with misrouted := satAdd32 q.misrouted 1 })) ∧
    ∀ k : Nat, Does (fun t => ¬ there t ∧ hop ≠ 0 ∧ port t = some k)
      (fun t => Tervon.send t k (mkFrame 0 0 0 t.boot.did (.routed dx dy sx sy (hop - 1) h body)))

/-- At its destination a carried frame that is malformed is counted, one whose alive count is stale is counted and dropped, and another one has its effect
there (R139, R140, R252). -/
def RoutedDelivered : Prop :=
  ∀ (rx : Rx) (dx dy sx sy : BitVec 3) (hop : Byte) (h : Hdr) (body : List Byte) (k : Nat), rx.port = .tv k →
    let p : Payload := .routed dx dy sx sy hop h body
    let Does (H : Tervon → Prop) (E : Tervon → Tervon) : Prop := FrameDoes (.routed rx dx dy sx sy hop h body) rx p H fun t => Tervon.settled (E t)
    let there (t : Tervon) : Prop := dx.toNat = Tervon.x t ∧ dy.toNat = Tervon.y t
    let sound (q : Payload) : Prop :=
      body.length ≤ 2020 ∧ h.length.toNat = body.length ∧ h.cls = Payload.cls q ∧ Payload.len q = body.length ∧ Payload.fieldBad q = false
    let malformed (t : Tervon) : Tervon := Tervon.modPort t k fun q => { q with malformed := satAdd32 q.malformed 1 }
    let key : Nat := 4 * (8 * sy.toNat + sx.toNat) + h.cls.toNat
    let fresh (t : Tervon) : Prop := ∀ e, Cells.get none t.routeRx key = some e → h.flags.getLsbD 2 = true ∨ (h.alive - e).toNat < 128
    Does (fun t => there t ∧ Payload.parse h.type.toNat body = none) malformed ∧
    ∀ q : Payload, Payload.parse h.type.toNat body = some q →
      Does (fun t => there t ∧ ¬ sound q) malformed ∧
      Does (fun t => there t ∧ sound q ∧ ¬ fresh t) (fun t => { t with routeStale := satAdd32 t.routeStale 1 }) ∧
      Does (fun t => there t ∧ sound q ∧ fresh t)
        (fun t => Tervon.carried rx (sx.toNat, sy.toNat) h q { t with routeRx := Cells.set none t.routeRx key (some (h.alive + 1)) })

/-! ### The block as a whole -/

/-- The machine: its step and its state after reset. -/
def machine : Host.Core := { State := State, Fault := Fault, Refusal := Refusal, step := step, reset := State.reset }

/-- The effect is one of the ring leaf alone: what it makes of that leaf depends on nothing else, and nothing else changes. -/
def OfLeaf (e : State → Res) : Prop := ∃ f : Leaf → Leaf, ∀ s : State, e s = .next { s with leaf := f s.leaf }

/-- The effect is one of the Tervon, with its internal leaf, alone: what it makes of it depends on nothing else, and nothing else changes. -/
def OfTervon (e : State → Res) : Prop := ∃ f : Tervon → Tervon, ∀ s : State, e s = .next { s with tv := f s.tv }

/-- The effects of commands, one after the other; each takes the queue as it finds it. -/
def runAll : List Instr → State → Res
  | [], s => .next s
  | c :: cs, s =>
    match exec c s with
    | .next t => runAll cs t
    | .fault r => .fault r
    | .refused r => .refused r

/-! ### Elements of a reduction -/

/-- An element that its operator gives out: its size, and the bits that its encoding says are 0 (R244). -/
def elemOk (o : RedOp) (b : List Byte) : Prop :=
  b.length = RedOp.size o ∧
  match o with
  | .satsum40 => bits (fromLe b) 62 40 = 0
  | .min | .max => b[19]? = some 0
  | _ => True

/-- The elements of a source, each as its operator gives it out (R243, R244). -/
def elemsOk : List RedOp → List Byte → Prop
  | [], b => b = []
  | o :: r, b => elemOk o (b.take (RedOp.size o)) ∧ elemsOk r (b.drop (RedOp.size o))

/-- A way to combine contributions. -/
inductive Combining where
  | one (elems : List Byte)
  | join (a b : Combining)

/-- The contributions that a way combines, in the order that they stand in it. -/
def Combining.parts : Combining → List (List Byte)
  | .one e => [e]
  | .join a b => Combining.parts a ++ Combining.parts b

/-- What it gives for a source. -/
def Combining.value (source : Nat) : Combining → List Byte
  | .one e => e
  | .join a b => combineElems (redOps source) (Combining.value source a) (Combining.value source b)

/-! ### Payloads that a ROUTED frame carries -/

/-- A payload of a type that one Tervon sends another, within what its layout can say: the lengths of its lists fit their fields (R146 to R163, R253,
R357). -/
def Carried : Payload → Prop
  | .regRsp p => p.data.length < 65536
  | .mirror _ items => items.length < 65536 ∧ ∀ (i : BitVec 20) (e : List Byte), MirrorItem.stream i e ∈ items → e.length = 64
  | .calReport p => p.thetaB.length = 8
  | .leaseReq _ | .leaseGrant _ | .verdict .. | .regRd .. | .regWr .. | .appoint .. | .sleeping _ | .reducePart _ | .reduceResult _ | .mirrorAck ..
  | .buddyState _ | .stateLoad .. | .stateDone .. => True
  | _ => False

/-! ### What a station holds -/

/-- Counts on their way through a station: in its pre-counters, in the drain bank of a freeze, and in its queue. The marker of a freeze, source 68, is no
count (R65, R93). -/
def held (s : Station) : Nat :=
  ((List.range 68).map fun i => (Cells.get 0 s.pre i).toNat).sum
    + ((s.drain.filter fun e => decide (e.1 < 68)).map fun e => e.2.toNat).sum
    + ((s.queue.filter fun e => decide (e.1 < 68)).map fun e => e.2.toNat).sum

end Sys2Proof.Claims

/-! ## The statements -/

/-- A step with a command in front of the queue is the effect of that command on the state with the queue's rest. -/
def Obligations.StepRunsFrontCommand : Prop :=
  ∀ (c : Instr) (cs : List Instr) (s : State), s.pending = c :: cs → step s = exec c { s with pending := cs }

/-- With no command waiting, a step is one cycle of the time domains, which is the model's choice (log entry 2): each part's time gains the increment
1 ns × (1 − rate), rounded to a multiple of 2^−40 ns (R461), the internal leaf's is the Tervon's (R220), and nothing else changes. -/
def Obligations.EmptyQueueRunsOneCycle : Prop :=
  ∀ s : State, s.pending = [] → ∃ t : State, step s = .next t ∧
    t.leaf = { s.leaf with time.now := s.leaf.time.now + BitVec.ofInt 104 (roundEven ((1 - s.leaf.time.rate) * (2 : Rat) ^ 40)) } ∧
    t.tv = { s.tv with time.now := s.tv.time.now + BitVec.ofInt 104 (roundEven ((1 - s.tv.time.rate) * (2 : Rat) ^ 40)),
                       ileaf := { s.tv.ileaf with kind := .internal, time := t.tv.time } } ∧
    t.pending = []

/-- Every command completes in every state, and leaves the queue as it finds it: no command stops the block. -/
def Obligations.EveryCommandCompletes : Prop :=
  ∀ (c : Instr) (s : State), ∃ t : State, exec c s = .next t ∧ t.pending = s.pending

/-- Every command acts on one part, and what it does there depends on that part alone: no command carries anything from the ring leaf to the Tervon or
back, since the two are not wired to each other (log entry 1). -/
def Obligations.CommandsActOnOnePart : Prop :=
  ∀ c : Instr, Claims.OfLeaf (exec c) ∨ Claims.OfTervon (exec c)

/-- Commands that wait run in the order in which they stand, one a step, and none is lost or run twice. -/
def Obligations.QueueRunsInOrder : Prop :=
  ∀ (cs : List Instr) (s : State), s.pending = cs → ∃ t : State,
    Host.Core.run Claims.machine cs.length s = .next t ∧ t.pending = [] ∧ Claims.runAll cs { s with pending := [] } = .next t

/-- Every step keeps the block wired as it is built: a leaf on a ring, and a Tervon whose internal leaf takes its time directly from the Tervon's
time domain (R220). -/
def Obligations.StepsKeepTheWiring : Prop :=
  ∀ s t : State, Wired s → step s = .next t → Wired t

/-- Right after reset the block is wired, no command waits, no time is set and both classes are 0 (R31, R32), no lease is held (R147, R347), no
snapshot, sample or record waits, no Tally waits for its rest, the Larder and the host rings hold nothing, and no stored word and no Ledger page is listed. -/
def Obligations.ResetState : Prop :=
  Wired State.reset ∧ State.reset.pending = [] ∧
  Leaf.tq State.reset.leaf = 0 ∧ Tervon.tq State.reset.tv = 0 ∧
  State.reset.leaf.ring.lease.holder = 0xFF ∧ State.reset.tv.ros.leases = [] ∧ State.reset.leaf.snap.store = [] ∧ State.reset.leaf.cnt.samples = [] ∧
  State.reset.leaf.health.store = [] ∧ State.reset.tv.recs = [] ∧ State.reset.tv.jobs = [] ∧ State.reset.tv.ecc.hbm = [] ∧
  State.reset.tv.red.ctl.toNat = 4 * 65536 + 50 * 64

/-- The elements of a reduction are the same bits for any tree and any order in which the same contributions are combined, with every operator of R244
and for every source of R243. -/
def Obligations.ReductionsIgnoreTreeAndOrder : Prop :=
  ∀ (source : Nat) (a b : Claims.Combining),
    (∀ e ∈ Claims.Combining.parts a, Claims.elemsOk (redOps source) e) → List.Perm (Claims.Combining.parts a) (Claims.Combining.parts b) →
    Claims.Combining.value source a = Claims.Combining.value source b ∧ Claims.elemsOk (redOps source) (Claims.Combining.value source a)

/-- A stored word reads as it was stored, and as good; with one of its 64 data bits or 8 check bits inverted it reads as it was stored, and as
corrected; with two of them inverted, and with poison, it reads as uncorrectable (R411, R415). -/
def Obligations.StoredWordsSurviveOneError : Prop :=
  ∀ d : DWord,
    let w := eccGood d
    let flip (w : EccWord) (i : Nat) : EccWord := if i < 64 then { w with data := w.data ^^^ (1#64 <<< i) } else { w with chk := w.chk ^^^ (1#8 <<< (i - 64)) }
    EccWord.read w = (d, 0) ∧
    (∀ i : Nat, i < 72 → EccWord.read (flip w i) = (d, 1)) ∧
    (∀ i j : Nat, i < j → j < 72 → (EccWord.read (flip (flip w i) j)).2 = 2) ∧
    (EccWord.read (eccPoison d)).2 = 2

/-- Every payload that a ROUTED frame can carry is read back from its bytes as it was (R252). -/
def Obligations.CarriedFramesReadBack : Prop :=
  ∀ p : Payload, Claims.Carried p → Payload.parse (Payload.code p).toNat (Payload.bytes p) = some p

/-- The changes of a Tally stream are read back from their bitmaps and LEB128 values as they were, whatever follows them in the stream (R101, R150). -/
def Obligations.TallyChangesReadBack : Prop :=
  ∀ (w : Nat) (cs : List Nat) (rest : List Byte), w ≤ 98 → (∀ c ∈ cs, c < 2 ^ w) →
    unChanges (widths cs.length w) (encodeChanges cs ++ rest) = some (cs, rest)

/-- No edge of a station loses an increment unseen: what the station holds after the edge, with the increments that the edge adds to the lost count, is
what it held before and the increments of the edge (R64 to R66). -/
def Obligations.CountsAreConserved : Prop :=
  ∀ (s : Station) (lines : DWord) (vld : Bool) (slots : Half), Cells.wf 0 s.pre = true → (∀ i : Nat, 68 ≤ i → Cells.get 0 s.pre i = 0) →
    let e := Station.edge s lines vld slots
    Claims.held e.1 + e.2 = Claims.held s + ((StnCfg.increments s.cfg s.prev lines vld slots).map Prod.snd).sum ∧
    Cells.wf 0 e.1.pre = true ∧ ∀ i : Nat, 68 ≤ i → Cells.get 0 e.1.pre i = 0

/-- A station from which no freeze marker has arrived by T + 10 µs: its counters freeze at their applied values, and it is marked stalled with edge
time 0. What it still holds stays in it. Before that time, or for a station that no freeze awaits, nothing changes (R95). -/
def Obligations.StalledStationsFreeze : Prop :=
  ∀ (who : LeafId) (n : Nat) (f : Freeze) (c : StnCfg) (st : Bool) (e : Stamp),
    LeafGives (.stationStallTimeout who n) who
      (fun l => l.snap.freeze = some f ∧ f.waiting.contains n = true ∧ f.instant.toNat + 10000 ≤ Leaf.now l ∧
        f.edges.find? (fun x => decide (x.1 = n)) = some (n, c, st, e))
      (fun l l' => ∃ g, l' = { l with snap.freeze := some g } ∧ n ∉ g.waiting ∧
        g.counters = f.counters ++ c.binds.map (fun b => (b.1, Leaf.counter l b.1)) ∧
        g.edges = f.edges.map (fun x => if x.1 = n then (x.1, x.2.1, true, (⟨0, 0⟩ : Stamp)) else x)) ∧
    LeafDoes (.stationStallTimeout who n) who
      (fun l => l.snap.freeze = some f ∧ (f.waiting.contains n = false ∨ Leaf.now l < f.instant.toNat + 10000)) id

/-- The transmit time of a software PTP message joins a queue of 32 entries; when the queue is full it is dropped and counted, and the entries stay. The
Tervon that receives one writes a TIME_EVENT with its identifier, its port and its receive time to the physical function's record ring (R60). -/
def Obligations.PtpTimesAreQueued : Prop := Claims.PtpStamped ∧ Claims.PtpReceived

/-- A read of ENTRY0 latches the oldest entry into the four ENTRY registers, and ENTRY1 to ENTRY3 return the latched copy. A pop removes the oldest entry
when the latch shows an entry, and has no effect otherwise. An entry queued in between changes neither the latch nor the entry that it shows (R442). -/
def Obligations.PtpEntriesReadWhole : Prop :=
  Claims.PtpQueueReads ∧ TimeDoes .ptpTxqPop (fun t => t.tt.txqLatch = none) id ∧
  (∀ k : Nat, 1 ≤ k → k ≤ 3 →
    ∀ ep : Bool, TvGives (.lowWordRead (.bar ⟨0, false, 0x160 + 4 * k, ep⟩)) (fun _ => True)
      (fun t u => u.out = .barRead 0 (0x160 + 4 * k) (BitVec.ofNat 64 (field (Tervon.ptpEntry t) (4 * k) 4)) :: t.out ∧ u.tt = t.tt)) ∧
  ∀ (id : Half) (port : BitVec 2) (a : Stamp) (s t : State), s.tv.tt.txqLatch = s.tv.tt.txq.head? → s.tv.tt.txqLatch ≠ none →
    exec (.softwarePtpTransmit id port a) s = .next t → t.tv.tt.txqLatch = s.tv.tt.txqLatch ∧ t.tv.tt.txqLatch = t.tv.tt.txq.head?

/-- When no frame from the buddy has arrived for 1 ms a Tervon raises ROSTER_EVENT BUDDY_SILENT, once, and changes no lease on that account (R358). A
frame of any type counts as one, at the buddy port or carried by ROUTED from the buddy's coordinate. -/
def Obligations.QuietBuddiesKeepTheirLeases : Prop :=
  TvDoes .buddySilent (fun t => Tervon.committed t = true ∧ t.mir.silent = false ∧ t.mir.lastFrame.getD 0 + 1000000 < Tervon.now t)
    (fun t => Tervon.rosterEvent { t with mir.silent := true } 4 0 0 0 0 0 0 0) ∧
  (∀ s t : State, exec .buddySilent s = .next t → t.tv.ros = s.tv.ros ∧ t.tv.ports = s.tv.ports) ∧
  (∀ (t : Tervon) (rx : Rx), rx.port = .tv 8 → (Tervon.noteFrame t rx).mir.lastFrame = some (Tervon.now t)) ∧
  ∀ (t : Tervon) (rx : Rx) (h : Hdr) (p : Payload),
    Tervon.carried rx (Tervon.buddyXY t) h p t = Tervon.carriedAct rx (Tervon.buddyXY t) h p (Tervon.noteCarried t (Tervon.buddyXY t)) ∧
    (Tervon.noteCarried t (Tervon.buddyXY t)).mir.lastFrame = some (Tervon.now t)

/-- The link layer: ACK, NAK, replay, damaged frames and the ACK timer (R132, R133, R134, R140). -/
def Obligations.LinkAcknowledgesAndReplays : Prop :=
  Claims.AckReleases ∧ Claims.NakReplays ∧ Claims.ReplayTimeoutReplays ∧ Claims.AckTimerAcks ∧ Claims.DamagedFrameNaks ∧
  Claims.MalformedCounted

/-- The link layer: credits, their advertisement, token refill and the schedule at a frame boundary (R129, R130, R131, R135, R166, R167). Clauses that
follow the model's own choices: log entries 15, 21, 76. -/
def Obligations.LinkCreditsAndShaping : Prop :=
  Claims.CreditSets ∧ Claims.CreditAdvertised ∧ Claims.ShaperRefills ∧ Claims.Scheduled ∧ Claims.UnknownBlockCounted

/-- Lanes: the move to a spare, its end at both ends, recalibration (R45, R55, R129, R130). -/
def Obligations.LanesMoveAndRecalibrate : Prop :=
  Claims.SpareAlignedAnswers ∧ Claims.LaneSwapSwaps ∧ Claims.LeafLaneReady ∧ Claims.TervonLaneReady ∧ Claims.RecalCompletes ∧
  Claims.LanesRecalibrate ∧ Claims.RecalibrationForms

/-- A link that loses its codewords retrains; a port that does not come back goes down and is emptied (R25, R48, R134, R364). Clauses that follow the
model's own choices: log entries 16, 76. -/
def Obligations.LinksRetrainAndGoDown : Prop :=
  Claims.CodewordLossRetrains ∧ Claims.ResumeReplays ∧ Claims.LeafRetrainCompletes ∧ Claims.LeafPortDown ∧ Claims.TervonPortDown ∧
  Claims.PortDownEmpties ∧ Claims.LeafTrainingRetryFails

/-- Links come up, probes are echoed or passed on, and a frame for another position goes on (R43, R131, R135, R144, R164, R430). Clauses that follow the
model's own choices: log entry 87. -/
def Obligations.LinksTrainAndDiscover : Prop :=
  Claims.LeafLinkTrained ∧ Claims.TervonLinkTrained ∧ Claims.ProbeEchoed ∧ Claims.DiscoveryPassesOn ∧ Claims.LeafProbeEcho ∧
  Claims.WakeBurstForwarded ∧ Claims.NopsIgnored

/-- Frames in transit: forwarded on a ring, taken by their type, and ROUTED from Tervon to Tervon (R139, R140, R141, R142, R143, R250, R252). Clauses that
follow the model's own choices: log entries 62, 63. -/
def Obligations.FramesTravel : Prop :=
  Claims.FramesForwarded ∧ Claims.TransitRuns ∧ Claims.RoutedOn ∧ Claims.RoutedDelivered

/-- Event stations: the clock edge, the queue and the counters (R64, R65, R66, R67, R68). -/
def Obligations.StationsCount : Prop :=
  Claims.StationEdges ∧ Claims.EdgeCounts ∧ Claims.EntryDrains

/-- A freeze of the counting: stations, markers, histograms, and the snapshot that it gives (R71, R84, R93, R94, R97, R184). Clauses that follow the
model's own choices: log entry 75. -/
def Obligations.StationsFreeze : Prop :=
  Claims.FreezeEdges ∧ Claims.FreezeAcks ∧ Claims.MarkersApply ∧ Claims.FrozenCounters ∧ Claims.HistogramsFreeze ∧ Claims.SnapshotsComplete ∧
  Claims.FinishedSubset

/-- Histogram samples, timing pairs and sensor sites (R73, R80, R81, R82, R83, R85, R87, R88, R463). Clauses that follow the model's own choices: log
entry 75. -/
def Obligations.SamplesAndSensors : Prop :=
  Claims.ValuePortWrites ∧ Claims.SampleQueue ∧ Claims.SamplesApply ∧ Claims.TimingStarts ∧ Claims.TimingStops ∧ Claims.ThermalReads ∧
  Claims.SupplyReads ∧ Claims.DroopsStamped

/-- Time: the exchange period, the frames of an exchange at a leaf and at a Tervon, and what a leaf that forwards one adds (R39, R142, R145, R462). -/
def Obligations.TimeIsExchanged : Prop :=
  Claims.ExchangePeriods ∧ Claims.ExchangeFrames ∧ Claims.LeafSyncs ∧ Claims.TervonSyncs ∧ Claims.LeafFollows ∧ Claims.TervonFollows ∧
  Claims.TervonAnswersDelay ∧ Claims.LeafSyncPasses ∧ Claims.LeafFollowPasses ∧ Claims.LeafDelayReqPasses

/-- Time: a completed exchange at a leaf or a Tervon, its values, and holdover (R39, R47, R48, R49, R52). Clauses that follow the model's own choices: log
entry 6. -/
def Obligations.ExchangesSteer : Prop :=
  Claims.LeafExchangeEnds ∧ Claims.TervonExchangeEnds ∧ Claims.ExchangeValues ∧ Claims.HoldoverBegins ∧ Claims.HoldoverLong ∧
  Claims.PrimaryFails

/-- Time: pulses, the 10 MHz input, steers, and TIME_ADJUST at a root (R33, R34, R35, R37, R38, R60, R388). Clauses that follow the model's own choices:
log entry 29. -/
def Obligations.RootsTakeTheirTime : Prop :=
  Claims.PpsAccepted ∧ Claims.Ref10M ∧ Claims.PpsDisqualified ∧ Claims.SteerExpires ∧ Claims.PpsOut ∧ Claims.SecondsSet ∧ Claims.SteersApply ∧
  Claims.PtpSent

/-- Time: TIME_CTL, path constants and the calibration of a ring (R41, R43, R44, R45, R46, R436, R440). Clauses that follow the model's own choices: log
entries 6, 28, 74. -/
def Obligations.TimeIsControlledAndCalibrated : Prop :=
  Claims.TimeCtlWritten ∧ Claims.TimeCtlApplies ∧ Claims.PortLatencyMeasured ∧ Claims.CalReportKept ∧ Claims.RingCalibrated ∧
  Claims.CalibrationReruns ∧ Claims.PathSums

/-- Appointments: the answer to APPOINT, and SNAPSHOT and MARK slots (R55, R56, R57, R59, R92, R158, R161, R367). Clauses that follow the model's own
choices: log entries 23, 30, 75. -/
def Obligations.AppointmentsAreMadeAndFire : Prop :=
  Claims.AppointStored ∧ Claims.AppointStatus ∧ Claims.LeafSnapshots ∧ Claims.LeafSkips ∧ Claims.TervonSnapshots ∧ Claims.MarksFire ∧
  Claims.SlotsAdvance

/-- Appointments: CELLAR_ENTER, MODE_SWITCH and SAMPLING_RATE slots (R300, R340, R341, R345, R420, R425). Clauses that follow the model's own choices: log
entry 69. -/
def Obligations.ModesSwitchAtTheirInstants : Prop :=
  Claims.LeafEntersCellar ∧ Claims.TervonEntersCellar ∧ Claims.LeafModeSwitches ∧ Claims.TervonModeSwitches ∧ Claims.SamplingRates

/-- The snapshot registers: acknowledge, send again, and take one now (R98, R464). Clauses that follow the model's own choices: log entry 75. -/
def Obligations.SnapshotsAreAcknowledged : Prop :=
  Claims.SnapAcks ∧ Claims.SnapResends ∧ Claims.SnapNows ∧ Claims.SnapHostRefused

/-- Digital inputs: alarms, the rate limiter, the stuck flag and heartbeats (R89, R90, R91, R119, R120). -/
def Obligations.AlarmsAndHeartbeats : Prop :=
  Claims.AlarmRaised ∧ Claims.ChatterLimits ∧ Claims.AlarmReleases ∧ Claims.StuckActive ∧ Claims.ChatterRecords ∧ Claims.ChatterReleases ∧
  Claims.HeartbeatRefreshes ∧ Claims.HeartbeatHangs ∧ Claims.HeartbeatControls

/-- Trace: cycles, packets, flushes, SYNC, frames and LF_TRC_CTL (R107, R108, R113, R114, R115). Clauses that follow the model's own choices: log entries
17, 54. -/
def Obligations.TraceIsEncoded : Prop :=
  Claims.BranchCycles ∧ Claims.TraceEncodes ∧ Claims.TraceFlushes ∧ Claims.SyncsPeriodic ∧ Claims.TraceFramesClose ∧ Claims.TraceControls

/-- Dumps: the request, the walk, its reads and scans (R120, R121, R122, R123, R124, R125, R126, R449). Clauses that follow the model's own choices: log
entry 19. -/
def Obligations.DumpsAreWalked : Prop :=
  Claims.DumpCommanded ∧ Claims.WalkStarts ∧ Claims.WalkReadsEntry ∧ Claims.WalkResumes ∧ Claims.DumpReadsTimeOut ∧ Claims.ScansEnd ∧
  Claims.InitiatorAnswers

/-- The lease at its leaf: acquire, renew, release, fence, expiry, and what LEASE_GRANT states (R147, R148). Clauses that follow the model's own choices:
log entries 20, 78. -/
def Obligations.LeavesGrantLeases : Prop :=
  Claims.LeaseAcquired ∧ Claims.LeaseRenewed ∧ Claims.LeaseEnds ∧ Claims.GrantStates

/-- REG_RD, REG_WR and the set-up lock of a leaf (R144, R156, R161, R394, R395). Clauses that follow the model's own choices: log entry 77. -/
def Obligations.RegisterFramesAndTheLock : Prop :=
  Claims.RegistersRead ∧ Claims.RegistersWritten ∧ Claims.WritesAnswered ∧ Claims.LockTaken ∧ Claims.LockedWrites ∧ Claims.LockEnds ∧
  Claims.LockTimesOut

/-- Captures of a leaf: posts, pulls, holds, retained outputs and verdicts (R185, R300, R303, R304, R306, R307, R308, R319, R449). Clauses that follow the
model's own choices: log entry 18. -/
def Obligations.LeavesCapture : Prop :=
  Claims.StepWritten ∧ Claims.CapturesPosted ∧ Claims.CapturesPull ∧ Claims.PullsTimeOut ∧ Claims.HoldsExpire ∧ Claims.RetainedFetched ∧
  Claims.VerdictsArrive

/-- Health records and the guardband port of a leaf (R186, R188, R189, R192, R193, R195, R196, R198, R199, R452). Clauses that follow the model's own
choices: log entry 79. -/
def Obligations.HealthAndGuardband : Prop :=
  Claims.ErrorsReported ∧ Claims.HeldAdmitted ∧ Claims.GuardbandRequests ∧ Claims.GuardbandAnswers ∧ Claims.GuardbandStepRecord ∧
  Claims.GuardbandEvents ∧ Claims.GuardbandResets ∧ Claims.RisksAccepted

/-- The Ledger: page writes, VNV, the operating time and LF_LDG_CMD (R170, R172, R176, R177, R179, R180, R182). Clauses that follow the model's own
choices: log entry 11. -/
def Obligations.LedgerPagesAreWritten : Prop :=
  Claims.PageWritesStart ∧ Claims.WriteClearsTrailer ∧ Claims.PageWritesEnd ∧ Claims.VnvEvents ∧ Claims.OperatingTime ∧ Claims.LedgerPagesRead
  ∧ Claims.LedgerPagesProgrammed

/-- Attestation, check-value engines and the sequencer of a leaf (R176, R202, R408, R409, R410, R426, R427). Clauses that follow the model's own choices:
log entry 70. -/
def Obligations.LeavesAttestAndCheck : Prop :=
  Claims.NonceWritten ∧ Claims.AttestationSigns ∧ Claims.CheckValuesStart ∧ Claims.CheckValuesFeed ∧ Claims.CheckValuesRead ∧
  Claims.CheckValuesRestore ∧ Claims.SequencerStops ∧ Claims.SequencerBoots

/-- Registers of a leaf: reads and writes of words, and what a ring end's accesses are (R73, R433, R434). Clauses that follow the model's own choices: log
entry 77. -/
def Obligations.LeafRegistersAreAccessed : Prop :=
  Claims.LeafWordsRead ∧ Claims.LeafWordsWritten ∧ Claims.RingWrites

/-- Cellar, waking, loss of power and the resets of a leaf (R59, R75, R163, R164, R184, R188, R395, R420, R421, R422, R423, R424, R426, R427, R449, R451).
Clauses that follow the model's own choices: log entries 22, 80. -/
def Obligations.LeavesSleepWakeAndReset : Prop :=
  Claims.WakePhrases ∧ Claims.CellarCommits ∧ Claims.WakeBegins ∧ Claims.WakeCompletes ∧ Claims.PowerLosses ∧ Claims.LeafColdResets ∧
  Claims.LeafCoreResets ∧ Claims.HostPortResets ∧ Claims.PortPulses

/-- The lease at a Tervon: wanted, granted, refused, renewed, lapsed, taken over (R347, R348, R350, R353). Clauses that follow the model's own choices:
log entries 36, 78. -/
def Obligations.TervonsHoldLeases : Prop :=
  Claims.TakeoversEnd ∧ Claims.LeasesRenew ∧ Claims.LeasesLapse ∧ Claims.GrantsTaken ∧ Claims.GrantsRefused ∧ Claims.LeasesWanted

/-- Requests of a Tervon: answers, late answers, sleepers, and the attestation of a position (R159, R160, R162, R163, R360, R361, R363). Clauses that
follow the model's own choices: log entries 33, 34, 37, 84. -/
def Obligations.TervonsAskTheirLeaves : Prop :=
  Claims.AttestationsChecked ∧ Claims.AttestationOrder ∧ Claims.AnswersTaken ∧ Claims.RequestsTimeOut ∧ Claims.SleepersWait

/-- Host rings: doorbells, fetches, enables, stops, coalescing and completions (R26, R373, R374, R375, R376, R377, R381, R383, R391, R393, R445). Clauses
that follow the model's own choices: log entry 86. -/
def Obligations.HostRingsRun : Prop :=
  Claims.CommandDoorbells ∧ Claims.HostDoorbells ∧ Claims.DescriptorsFetched ∧ Claims.RingsEnabled ∧ Claims.RingsArm ∧ Claims.CoalescingEnds ∧
  Claims.CompletionsPosted

/-- NOP and ABORT, Bus Master Enable, and the function-level reset (R382, R385, R391, R392). Clauses that follow the model's own choices: log entries 65,
73, 86. -/
def Obligations.FunctionsStop : Prop :=
  Claims.JobsAbort ∧ Claims.BusMasterEnds ∧ Claims.FunctionsReset

/-- Jobs on a leaf: register jobs, APPOINT, SNAPSHOT_NOW, LEDGER_READ, LEAF_CFG_APPLY and their answers (R20, R56, R156, R157, R158, R177, R382, R384,
R386, R395, R464). Clauses that follow the model's own choices: log entry 72. -/
def Obligations.JobsReachLeaves : Prop :=
  Claims.JobsUnrouted ∧ Claims.LeafReads ∧ Claims.LeafWrites ∧ Claims.AppointJobs ∧ Claims.LeafJobs ∧ Claims.LeafAnswers

/-- The Larder's buffers and dumps, and the roster (R350, R360, R362, R363, R369, R379, R382, R384, R398, R399, R401). Clauses that follow the model's own
choices: log entries 32, 35, 84. -/
def Obligations.LarderAndRoster : Prop :=
  Claims.CachesRefill ∧ Claims.BuffersGranted ∧ Claims.DumpsFetched ∧ Claims.RosterAdmits ∧ Claims.RosterFences ∧ Claims.RosterSilence ∧
  Claims.WarmRosters

/-- Frames of leaves: Tallies, histograms, health, trace and dumps, the watermark and the aging sweep (R47, R97, R115, R117, R125, R149, R151, R152, R153,
R219, R234, R235, R237, R360, R400). Clauses that follow the model's own choices: log entries 27, 38, 39, 41, 54, 81. -/
def Obligations.LeafFramesAreTaken : Prop :=
  Claims.TallyReceived ∧ Claims.HistReceived ∧ Claims.TallyEnds ∧ Claims.WatermarkLags ∧ Claims.AgingSweeps ∧ Claims.HealthReceived ∧
  Claims.TraceReceived ∧ Claims.DumpReceived

/-- Captures at a Tervon: announced, filled, batched, run and judged (R305, R308, R309, R310, R311, R312, R313, R314, R315, R318, R341, R400). Clauses
that follow the model's own choices: log entries 24, 48, 51. -/
def Obligations.CapturesAreAssayed : Prop :=
  Claims.CapturesAnnounced ∧ Claims.CapturesFill ∧ Claims.BatchesWait ∧ Claims.BatchesRun ∧ Claims.WindowsExpire ∧ Claims.RecomputesEnd ∧
  Claims.FetchesComplete ∧ Claims.AssayOrder

/-- The Assayer's and Cooper's commands (R309, R311, R313, R382, R404, R405, R406, R415). Clauses that follow the model's own choices: log entries 50, 52,
53, 10. -/
def Obligations.AssayerJobs : Prop :=
  Claims.ModelsLoaded ∧ Claims.ModelsUnloaded ∧ Claims.PoliciesSet ∧ Claims.SubmitsAssayed ∧ Claims.CooperCompresses ∧
  Claims.CooperDecompresses

/-- Streams: define, remove, restore, query and checkpoint (R225, R226, R240, R241, R242, R415). Clauses that follow the model's own choices: log entries
45, 81. -/
def Obligations.StreamsAreTabled : Prop :=
  Claims.StreamsDefined ∧ Claims.StreamsRemoved ∧ Claims.StreamsRestored ∧ Claims.StreamsQueried ∧ Claims.Checkpoints ∧
  Claims.CheckpointCopies

/-- Pod reductions, and Gleaner's early calls (R243, R246, R248, R249, R253, R268). Clauses that follow the model's own choices: log entries 40, 82, 83. -/
def Obligations.ReductionsRun : Prop :=
  Claims.ReductionsDefined ∧ Claims.LocalWaits ∧ Claims.PartDeadlines ∧ Claims.PartsArrive ∧ Claims.ResultsArrive ∧ Claims.ResultsLost ∧
  Claims.EarlyWaits ∧ Claims.ClosesConfirm

/-- Kale: load, unload, placement, score, windows and its scrub (R273, R285, R286, R287, R290, R291, R293, R294, R416). Clauses that follow the model's
own choices: log entry 44. -/
def Obligations.KaleScores : Prop :=
  Claims.EnsemblesLoaded ∧ Claims.EnsemblesUnloaded ∧ Claims.PlacementsEnd ∧ Claims.ScoresGiven ∧ Claims.WindowsLoaded ∧ Claims.ScrubCompares

/-- Stored data: the patrol scrubs, row repair and the ECC test registers (R366, R411, R413, R416, R417). Clauses that follow the model's own choices: log
entries 42, 43, 56. -/
def Obligations.StoredDataIsRepaired : Prop :=
  Claims.SramScrubs ∧ Claims.HbmScrubs ∧ Claims.RowsRepaired ∧ Claims.EccTests

/-- Partitions, tiles and spares (R207, R216, R217, R364, R387). Clauses that follow the model's own choices: log entries 55, 88. -/
def Obligations.PartitionsAndTiles : Prop :=
  Claims.PartitionsCommit ∧ Claims.DrainsEnd ∧ Claims.TilesCleared ∧ Claims.SparesTested

/-- The buddy: mirroring, its lag, BUDDY_STATE and the bulk load (R227, R353, R354, R355, R357, R358, R368). Clauses that follow the model's own choices:
log entries 31, 57, 58, 85. -/
def Obligations.PairsMirror : Prop :=
  Claims.MirrorPeriods ∧ Claims.MirrorsApply ∧ Claims.ItemsApply ∧ Claims.MirrorsAcked ∧ Claims.LagLimits ∧ Claims.StatesSent ∧
  Claims.StatesHeard ∧ Claims.BuddyLost ∧ Claims.BulkLoads

/-- Cellar, wake, resets, set-up and stewards of a Tervon (R119, R164, R204, R209, R220, R370, R418, R425, R428, R429, R431, R435, R436, R463). Clauses
that follow the model's own choices: log entries 60, 61, 66, 67. -/
def Obligations.TervonsSleepAndReset : Prop :=
  Claims.CellarTimesOut ∧ Claims.PowerWritten ∧ Claims.WakeTimes ∧ Claims.TervonWakes ∧ Claims.TervonResets ∧ Claims.BootsReady ∧
  Claims.SetupCommits ∧ Claims.SetupChecks ∧ Claims.StewardsRestart ∧ Claims.StewardsHang ∧ Claims.TervonTemperatures

/-- Registers of a Tervon: reads and writes of its BARs and of the Command register (R73, R371, R372, R391, R393, R433, R446). Clauses that follow the
model's own choices: log entries 25, 59. -/
def Obligations.TervonRegistersAreAccessed : Prop :=
  Claims.BarReads ∧ Claims.DoorbellReads ∧ Claims.BarWritesDropped ∧ Claims.BarWritesApply
end

