-- ==== Sys2Proof/Laws/Cells.lean ====
section
/-! SUPPORT. The laws of the sparse tables: a read after a write of the same key gives the value written, a write leaves every other key alone, and
every operation keeps the canonical form, in which equal tables are equal data. -/

namespace Sys2Proof.Machine

variable {α : Type}

@[simp] theorem Cells.get_nil (d : α) (k : Nat) : Cells.get d [] k = d := rfl

theorem Cells.get_insert_same (d : α) (m : Cells α) (k : Nat) (v : α) : Cells.get d (Cells.insert m k v) k = v := by
  induction m with
  | nil => simp [Cells.insert, Cells.get]
  | cons e r ih =>
    obtain ⟨k', v'⟩ := e
    simp only [Cells.insert]
    split
    · simp [Cells.get]
    · split
      · simp [Cells.get]
      · rename_i h1 h2
        have : k' ≠ k := fun h => h2 h.symm
        simp [Cells.get, this, ih]

theorem Cells.get_insert_ne (d : α) (m : Cells α) (k j : Nat) (v : α) (h : j ≠ k) : Cells.get d (Cells.insert m k v) j = Cells.get d m j := by
  induction m with
  | nil => simp [Cells.insert, Cells.get, h.symm]
  | cons e r ih =>
    obtain ⟨k', v'⟩ := e
    simp only [Cells.insert]
    split
    · simp [Cells.get, h.symm]
    · split
      · rename_i h1 h2; subst h2; simp [Cells.get, h.symm]
      · by_cases hk : k' = j
        · simp [Cells.get, hk]
        · simp only [Cells.get, hk, if_false, ih]

theorem Cells.get_erase_ne (d : α) (m : Cells α) (k j : Nat) (h : j ≠ k) : Cells.get d (Cells.erase m k) j = Cells.get d m j := by
  induction m with
  | nil => rfl
  | cons e r ih =>
    obtain ⟨k', v'⟩ := e
    by_cases hk : k' = k
    · subst hk; simp [Cells.erase, Cells.get, h.symm]
    · simp only [Cells.erase, hk, if_false, Cells.get, ih]

variable [DecidableEq α]

/-- A write leaves every other key alone. -/
theorem Cells.get_set_ne (d : α) (m : Cells α) (k j : Nat) (v : α) (h : j ≠ k) : Cells.get d (Cells.set d m k v) j = Cells.get d m j := by
  unfold Cells.set
  split
  · exact Cells.get_erase_ne d m k j h
  · exact Cells.get_insert_ne d m k j v h

/-- Below every listed key a table in canonical form reads as the default. -/
theorem Cells.get_below (d : α) (m : Cells α) (lo : Nat) (h : Cells.wfFrom d (some lo) m = true) (j : Nat) (hj : j ≤ lo) : Cells.get d m j = d := by
  induction m generalizing lo with
  | nil => rfl
  | cons e r ih =>
    obtain ⟨k', v'⟩ := e
    simp only [Cells.wfFrom, Bool.and_eq_true, decide_eq_true_eq] at h
    have : k' ≠ j := by omega
    simp only [Cells.get, this, if_false]
    exact ih k' h.2 (by omega)

theorem Cells.wfFrom_weaken (d : α) (m : Cells α) (lo lo' : Nat) (h : Cells.wfFrom d (some lo) m = true) (hl : lo' ≤ lo) :
    Cells.wfFrom d (some lo') m = true := by
  cases m with
  | nil => rfl
  | cons e r =>
    obtain ⟨k, v⟩ := e
    simp only [Cells.wfFrom, Bool.and_eq_true, decide_eq_true_eq] at h ⊢
    exact ⟨⟨by omega, h.1.2⟩, h.2⟩

theorem Cells.wfFrom_none (d : α) (m : Cells α) (lo : Nat) (h : Cells.wfFrom d (some lo) m = true) : Cells.wfFrom d none m = true := by
  cases m with
  | nil => rfl
  | cons e r =>
    obtain ⟨k, v⟩ := e
    simp only [Cells.wfFrom, Bool.and_eq_true] at h ⊢
    exact ⟨⟨trivial, h.1.2⟩, h.2⟩

theorem Cells.get_erase_same (d : α) (m : Cells α) (k : Nat) (h : Cells.wf d m = true) : Cells.get d (Cells.erase m k) k = d := by
  have gen : ∀ lo, Cells.wfFrom d lo m = true → Cells.get d (Cells.erase m k) k = d := by
    induction m with
    | nil => intro _ _; rfl
    | cons e r ih =>
      obtain ⟨k', v'⟩ := e
      intro lo hw
      simp only [Cells.wfFrom, Bool.and_eq_true] at hw
      by_cases hk : k' = k
      · subst hk; simp only [Cells.erase, if_true]; exact Cells.get_below d r _ hw.2 _ (Nat.le_refl _)
      · simp only [Cells.erase, hk, if_false, Cells.get]
        exact ih (Cells.wfFrom_none d r _ hw.2) _ hw.2
  exact gen none h

/-- A read after a write of the same key gives the value written. -/
theorem Cells.get_set_same (d : α) (m : Cells α) (k : Nat) (v : α) (h : Cells.wf d m = true) : Cells.get d (Cells.set d m k v) k = v := by
  unfold Cells.set
  split
  · rename_i hv; rw [Cells.get_erase_same d m k h, hv]
  · exact Cells.get_insert_same d m k v

theorem Cells.wfFrom_insert (d : α) (m : Cells α) (lo : Option Nat) (k : Nat) (v : α) (h : Cells.wfFrom d lo m = true)
    (hk : ∀ l, lo = some l → l < k) (hv : v ≠ d) : Cells.wfFrom d lo (Cells.insert m k v) = true := by
  induction m generalizing lo with
  | nil =>
    cases lo with
    | none => simp [Cells.insert, Cells.wfFrom, hv]
    | some l => simp [Cells.insert, Cells.wfFrom, hv, hk l rfl]
  | cons e r ih =>
    obtain ⟨k', v'⟩ := e
    simp only [Cells.wfFrom, Bool.and_eq_true, decide_eq_true_eq] at h
    simp only [Cells.insert]
    split
    · rename_i hlt
      cases lo with
      | none => simp [Cells.wfFrom, hv, hlt, h.1.2, h.2]
      | some l => simp [Cells.wfFrom, hv, hlt, h.1.2, h.2, hk l rfl]
    · split
      · rename_i h1 h2
        subst h2
        cases lo with
        | none => simp [Cells.wfFrom, hv, h.2]
        | some l => simp [Cells.wfFrom, hv, h.2, hk l rfl]
      · rename_i h1 h2
        simp only [Cells.wfFrom, Bool.and_eq_true, decide_eq_true_eq]
        exact ⟨h.1, ih (some k') h.2 (fun l hl => by cases hl; omega)⟩

theorem Cells.wfFrom_erase (d : α) (m : Cells α) (lo : Option Nat) (k : Nat) (h : Cells.wfFrom d lo m = true) :
    Cells.wfFrom d lo (Cells.erase m k) = true := by
  induction m generalizing lo with
  | nil => exact h
  | cons e r ih =>
    obtain ⟨k', v'⟩ := e
    simp only [Cells.wfFrom, Bool.and_eq_true, decide_eq_true_eq] at h
    by_cases hk : k' = k
    · simp only [Cells.erase, hk, if_true]
      cases lo with
      | none => exact Cells.wfFrom_none d r _ h.2
      | some l => exact Cells.wfFrom_weaken d r _ _ h.2 (by have := h.1.1; simp at this; omega)
    · simp only [Cells.erase, hk, if_false, Cells.wfFrom, Bool.and_eq_true, decide_eq_true_eq]
      exact ⟨h.1, ih _ h.2⟩

/-- A write keeps the canonical form. -/
theorem Cells.wf_set (d : α) (m : Cells α) (k : Nat) (v : α) (h : Cells.wf d m = true) : Cells.wf d (Cells.set d m k v) = true := by
  unfold Cells.set
  split
  · exact Cells.wfFrom_erase d m none k h
  · rename_i hv; exact Cells.wfFrom_insert d m none k v h (fun l hl => by cases hl) hv

theorem Cells.wf_modify (d : α) (m : Cells α) (k : Nat) (f : α → α) (h : Cells.wf d m = true) : Cells.wf d (Cells.modify d m k f) = true :=
  Cells.wf_set d m k _ h

/-- Dropping keys keeps the canonical form. -/
theorem Cells.wf_dropKeys (d : α) (p : Nat → Bool) (m : Cells α) (h : Cells.wf d m = true) : Cells.wf d (Cells.dropKeys p m) = true := by
  have gen : ∀ lo, Cells.wfFrom d lo m = true → Cells.wfFrom d lo (Cells.dropKeys p m) = true := by
    induction m with
    | nil => intro _ hw; exact hw
    | cons e r ih =>
      obtain ⟨k', v'⟩ := e
      intro lo hw
      simp only [Cells.wfFrom, Bool.and_eq_true, decide_eq_true_eq] at hw
      have hr := ih (Cells.wfFrom_none d r _ hw.2)
      cases hp : p k'
      · simp only [Cells.dropKeys, List.filter, hp, Bool.not_false, Cells.wfFrom, Bool.and_eq_true, decide_eq_true_eq]
        exact ⟨hw.1, hr _ hw.2⟩
      · simp only [Cells.dropKeys, List.filter, hp, Bool.not_true]
        cases lo with
        | none => exact hr none (Cells.wfFrom_none d r _ hw.2)
        | some l => exact hr (some l) (Cells.wfFrom_weaken d r _ _ hw.2 (by have := hw.1.1; simp at this; omega))
  exact gen none h

/-- Tables in canonical form that read alike are equal data. -/
theorem Cells.ext (d : α) (m n : Cells α) (hm : Cells.wf d m = true) (hn : Cells.wf d n = true)
    (h : ∀ k, Cells.get d m k = Cells.get d n k) : m = n := by
  have gen : ∀ (m n : Cells α) lo lo', Cells.wfFrom d lo m = true → Cells.wfFrom d lo' n = true → (∀ k, Cells.get d m k = Cells.get d n k) → m = n := by
    intro m
    induction m with
    | nil =>
      intro n lo lo' _ hn h
      cases n with
      | nil => rfl
      | cons e r =>
        obtain ⟨k, v⟩ := e
        have := h k
        simp [Cells.get] at this
        simp [Cells.wfFrom, this] at hn
    | cons e r ih =>
      obtain ⟨k, v⟩ := e
      intro n lo lo' hm hn h
      cases n with
      | nil =>
        have := h k
        simp [Cells.get] at this
        simp [Cells.wfFrom, this] at hm
      | cons e' r' =>
        obtain ⟨k', v'⟩ := e'
        simp only [Cells.wfFrom, Bool.and_eq_true, decide_eq_true_eq] at hm hn
        have hkk : k = k' := by
          rcases Nat.lt_trichotomy k k' with hlt | heq | hgt
          · have h1 := h k
            have h2 : k' ≠ k := by omega
            simp only [Cells.get, if_true, h2, if_false] at h1
            rw [Cells.get_below d r' k' hn.2 k (by omega)] at h1
            exact absurd h1 hm.1.2
          · exact heq
          · have h1 := h k'
            have h2 : k ≠ k' := by omega
            simp only [Cells.get, if_true, h2, if_false] at h1
            rw [Cells.get_below d r k hm.2 k' (by omega)] at h1
            exact absurd h1.symm hn.1.2
        subst hkk
        have hv := h k
        simp [Cells.get] at hv
        subst hv
        congr 1
        refine ih r' _ _ hm.2 hn.2 ?_
        intro j
        by_cases hj : k = j
        · subst hj; rw [Cells.get_below d r k hm.2 k (Nat.le_refl _), Cells.get_below d r' k hn.2 k (Nat.le_refl _)]
        · have := h j
          simpa [Cells.get, hj] using this
  exact gen m n none none hm hn h

/-! ### The lists of ports -/

theorem getD_setAt {β : Type} (l : List β) (k : Nat) (v d : β) (h : k < l.length) : (setAt l k v).getD k d = v := by
  induction l generalizing k with
  | nil => simp at h
  | cons a r ih => cases k with
    | zero => rfl
    | succ k => simp only [setAt, List.getD_cons_succ]; exact ih k (by simpa using h)

theorem getD_setAt_ne {β : Type} (l : List β) (k j : Nat) (v d : β) (h : j ≠ k) : (setAt l k v).getD j d = l.getD j d := by
  induction l generalizing k j with
  | nil => rfl
  | cons a r ih => cases k with
    | zero => cases j with
      | zero => exact absurd rfl h
      | succ j => rfl
    | succ k => cases j with
      | zero => rfl
      | succ j => simp only [setAt, List.getD_cons_succ]; exact ih k j (by omega)

@[simp] theorem length_setAt {β : Type} (l : List β) (k : Nat) (v : β) : (setAt l k v).length = l.length := by
  induction l generalizing k with
  | nil => rfl
  | cons a r ih => cases k with
    | zero => rfl
    | succ k => simp only [setAt, List.length_cons, ih]

end Sys2Proof.Machine
end

