-- ==== Sys2Proof/Laws/Ops.lean ====
section
/-! SUPPORT. What the shared operations of Machine/Ops.lean can do: each answers a next state, changes the one part it names, and keeps the queue
and the wiring of the block. -/

namespace Sys2Proof.Machine

@[simp] theorem tvStep_eq (f : Tervon → Tervon) (s : State) : tvStep f s = .next (State.putTv s (f s.tv)) := rfl

@[simp] theorem leafStep_eq (who : LeafId) (f : Leaf → Leaf) (s : State) :
    leafStep who f s = .next (State.putLeaf s who (f (State.leafNow s who))) := rfl

@[simp] theorem partStep_leaf (w : LeafId) (f : Leaf → Leaf) (g : Tervon → Tervon) (s : State) : partStep (.leaf w) f g s = leafStep w f s := rfl
@[simp] theorem partStep_tervon (f : Leaf → Leaf) (g : Tervon → Tervon) (s : State) : partStep .tervon f g s = tvStep g s := rfl

@[simp] theorem State.putTv_leaf (s : State) (t : Tervon) : (State.putTv s t).leaf = s.leaf := rfl
@[simp] theorem State.putTv_pending (s : State) (t : Tervon) : (State.putTv s t).pending = s.pending := rfl
@[simp] theorem State.putTv_tv (s : State) (t : Tervon) : (State.putTv s t).tv = Tervon.syncTime t := rfl
@[simp] theorem State.putLeaf_pending (s : State) (who : LeafId) (l : Leaf) : (State.putLeaf s who l).pending = s.pending := by
  cases who <;> rfl
@[simp] theorem State.putLeaf_ring_leaf (s : State) (l : Leaf) : (State.putLeaf s .ring l).leaf = { l with kind := .ring } := rfl
@[simp] theorem State.putLeaf_ring_tv (s : State) (l : Leaf) : (State.putLeaf s .ring l).tv = s.tv := rfl
@[simp] theorem State.putLeaf_internal_leaf (s : State) (l : Leaf) : (State.putLeaf s .internal l).leaf = s.leaf := rfl
@[simp] theorem State.putLeaf_internal_tv (s : State) (l : Leaf) :
    (State.putLeaf s .internal l).tv = Tervon.syncTime { s.tv with ileaf := l } := rfl
@[simp] theorem Tervon.syncTime_idem (t : Tervon) : Tervon.syncTime (Tervon.syncTime t) = Tervon.syncTime t := rfl
@[simp] theorem State.leafNow_ring (s : State) : State.leafNow s .ring = s.leaf := rfl

/-- The time of the internal leaf is the Tervon's, as an operation finds it. -/
@[simp] theorem State.leafNow_internal_time (s : State) : (State.leafNow s .internal).time = s.tv.time := rfl

/-- A link operation on a port that the block has changes that port alone. -/
theorem portStep_onPort (s : State) (p : PortId) (h : State.hasPort s p) (f : Nat → LinkPort → LinkRes) :
    portStep p (fun l => Leaf.onPort l p (f (Leaf.now l))) (fun k t => Tervon.onPort t k (f (Tervon.now t))) s
      = .next (State.putPort s p (f (State.portNow s p) (State.port s p))) := by
  cases p <;> simp_all [portStep, State.hasPort, State.putPort, State.port, State.portNow, Leaf.onPort, Leaf.hasPort, Leaf.port, Tervon.onPort,
    State.leafNow, Tervon.ileafNow]

/-- The same for an operation that puts nothing out. -/
theorem portStep_modPort (s : State) (p : PortId) (h : State.hasPort s p) (f : Nat → LinkPort → LinkPort) :
    portStep p (fun l => Leaf.modPort l p (f (Leaf.now l))) (fun k t => Tervon.modPort t k (f (Tervon.now t))) s
      = .next (State.putPort s p (f (State.portNow s p) (State.port s p), [])) :=
  portStep_onPort s p h fun n q => (f n q, [])

/-- A command that runs one operation of a leaf does to it what the operation does. -/
theorem leafDoes {c : Instr} {who : LeafId} {H : Leaf → Prop} {E : Leaf → Leaf} (f : Leaf → Leaf)
    (hc : ∀ s, exec c s = leafStep who f s) (h : ∀ l, H l → f l = E l) : LeafDoes c who H E := by
  intro s hs
  rw [hc, leafStep_eq, h _ hs]

theorem leafGives {c : Instr} {who : LeafId} {H : Leaf → Prop} {P : Leaf → Leaf → Prop} (f : Leaf → Leaf)
    (hc : ∀ s, exec c s = leafStep who f s) (h : ∀ l, H l → P l (f l)) : LeafGives c who H P := by
  intro s hs
  exact ⟨_, by rw [hc, leafStep_eq], h _ hs⟩

/-- The same of a Tervon. -/
theorem tvDoes {c : Instr} {H : Tervon → Prop} {E : Tervon → Tervon} (f : Tervon → Tervon)
    (hc : ∀ s, exec c s = tvStep f s) (h : ∀ t, H t → f t = E t) : TvDoes c H E := by
  intro s hs
  rw [hc, tvStep_eq, h _ hs]

theorem timeDoes {c : Instr} {H : Tervon → Prop} {E : Tervon → Tervon} (f : Tervon → Tervon)
    (hc : ∀ s, exec c s = timeStep f s) (h : ∀ t, H t → f t = E t) : TimeDoes c H E :=
  tvDoes (fun t => Tervon.noteClass (f t)) hc fun t ht => by rw [h t ht]

theorem eitherLeafDoes {c : LeafId → Instr} {H : Leaf → Prop} {E : Leaf → Leaf} (f : Leaf → Leaf)
    (hc : ∀ w s, exec (c w) s = leafStepR w f s) (h : ∀ l, H l → f l = E l) : EitherLeafDoes c H E :=
  ⟨leafDoes f (hc .ring) h, tvDoes (fun t => Tervon.partsSettle (Tervon.retireCheck (Tervon.onIleaf t f))) (hc .internal) fun t ht => by
    simp only [Tervon.onIleaf, h _ ht]⟩

theorem tvGives {c : Instr} {H : Tervon → Prop} {P : Tervon → Tervon → Prop} (f : Tervon → Tervon)
    (hc : ∀ s, exec c s = tvStep f s) (h : ∀ t, H t → P t (f t)) : TvGives c H P := by
  intro s hs
  exact ⟨_, by rw [hc, tvStep_eq], h _ hs⟩

/-- Every operation keeps the block wired. -/
theorem Wired.putTv {s : State} (h : Wired s) (t : Tervon) : Wired (State.putTv s t) := ⟨h.1, rfl, rfl⟩
theorem Wired.putLeaf {s : State} (h : Wired s) (who : LeafId) (l : Leaf) : Wired (State.putLeaf s who l) := by
  cases who
  · exact ⟨rfl, h.2.1, h.2.2⟩
  · exact ⟨h.1, rfl, rfl⟩

end Sys2Proof.Machine
end

