-- ==== Sys2Proof/Laws/Recv.lean ====
section
/-! SUPPORT. What receiving a frame does, at a leaf and at a Tervon: a frame received acts on the part after its link layer took it. -/

namespace Sys2Proof.Machine

theorem LinkPort.checkAlive_snd (q q' : LinkPort) (h : Hdr) (e : q'.aliveRx = q.aliveRx) :
    (LinkPort.checkAlive q' h).2 = (LinkPort.checkAlive q h).2 := by
  simp only [LinkPort.checkAlive, e]
  split
  · rfl
  · split
    · rfl
    · split <;> rfl

/-- The alive check reads and writes only the port's alive counts. -/
theorem LinkPort.checkAlive_shape (q : LinkPort) (h : Hdr) :
    LinkPort.checkAlive q h =
      (let c := LinkPort.checkAlive { LinkPort.reset with aliveRx := q.aliveRx, aliveGap := q.aliveGap, gapSrc := q.gapSrc, stale := q.stale } h
       ({ q with aliveRx := c.1.aliveRx, aliveGap := c.1.aliveGap, gapSrc := c.1.gapSrc, stale := c.1.stale }, c.2)) := by
  simp only [LinkPort.checkAlive]
  split
  · rfl
  · split
    · rfl
    · split <;> rfl

theorem LinkPort.acceptSeq_eq (p : PortId) (q : LinkPort) (h : Hdr) (now : Nat) (h2 : q.link = 2) (h3 : h.linkSeq = q.rxSeq) :
    LinkPort.acceptSeq p q h now = some (LinkPort.accepted p q now) := by
  simp only [LinkPort.acceptSeq, LinkPort.up, h2, h3, decide_true, Bool.and_self, if_true, LinkPort.accepted]
  by_cases h16 : 16 ≤ q.sinceAck + 1
  · simp only [if_pos h16, LinkPort.sendAck, BitVec.add_sub_cancel]
  · simp only [if_neg h16]

theorem LinkPort.accepted_alive (p : PortId) (q : LinkPort) (now : Nat) : (LinkPort.accepted p q now).1.aliveRx = q.aliveRx := by
  unfold LinkPort.accepted; simp only []; split <;> rfl

theorem Leaf.frameIn_receives (l : Leaf) (rx : Rx) (p fwd : Payload) (act : Leaf → Leaf) (h : Leaf.Receives l rx p) :
    Leaf.frameIn l rx p fwd act = act (Leaf.received l rx) := by
  obtain ⟨h1, h2, h3, h4, h5, h7, h8, h9⟩ := h
  have key : ∀ (r : LinkRes), LinkPort.acceptSeq rx.port (Leaf.port l rx.port) rx.hdr (Leaf.now l) = some r →
      r.1.aliveRx = (Leaf.port l rx.port).aliveRx →
      Leaf.grantBack (Leaf.setPort (Leaf.putLink l rx.port r) rx.port (LinkPort.checkAlive r.1 rx.hdr).1) rx.port rx.hdr = Leaf.received l rx → 
      Leaf.frameIn l rx p fwd act = act (Leaf.received l rx) := by
    intro r hr ha he
    have hp : Leaf.port (Leaf.putLink l rx.port r) rx.port = r.1 := by
      cases rx.port <;> rfl
    have hm : Leaf.mine (Leaf.putLink l rx.port r) rx.hdr = true := by
      rw [← h5]; cases rx.port <;> rfl
    have hk : (LinkPort.checkAlive r.1 rx.hdr).2 = true := by rw [LinkPort.checkAlive_snd _ _ _ ha, h8]
    have hs : Leaf.asleep (Leaf.received l rx) = Leaf.asleep l := by
      unfold Leaf.received; cases rx.port <;> rfl
    unfold Leaf.frameIn
    simp only [h1, hr]
    unfold Leaf.deliver
    simp only [h4, hm, hp, hk, h7, he, hs, Bool.not_true, Bool.and_false]
    cases hz : Leaf.asleep l
    · rfl
    · rw [h9 hz]; rfl
  have hacc := LinkPort.acceptSeq_eq rx.port _ rx.hdr (Leaf.now l) h2 h3
  refine key _ hacc (LinkPort.accepted_alive ..) ?_
  unfold Leaf.received LinkPort.received
  simp only []
  generalize LinkPort.accepted rx.port (Leaf.port l rx.port) (Leaf.now l) = r
  unfold Leaf.hasPort at h1
  cases hpt : rx.port <;> cases hk : l.kind <;> simp only [hpt, hk] at h1 ⊢ <;> first
    | exact absurd h1 (by decide)
    | rfl
    | simp only [Leaf.grantBack, Leaf.modPort, Leaf.onPort, Leaf.hasPort, Leaf.putLink, Leaf.setPort, Leaf.emitAll, Leaf.port, hk, if_true,
        List.reverse_nil, List.nil_append]

theorem Leaf.frameIn_passes (l : Leaf) (rx : Rx) (p fwd : Payload) (act : Leaf → Leaf) (h : Leaf.Passes l rx p) :
    Leaf.frameIn l rx p fwd act =
      Leaf.forward (if Payload.passing p = true then act (Leaf.taken l rx) else Leaf.taken l rx) rx.port ⟨rx.hdr, fwd⟩ := by
  obtain ⟨h1, h2, h3, h4, h5, h6⟩ := h
  have hm : Leaf.mine (Leaf.taken l rx) rx.hdr = false := by rw [← h5]; unfold Leaf.taken; cases rx.port <;> rfl
  have hb : Leaf.beyond (Leaf.taken l rx) rx.port rx.hdr = true := by
    rw [← h6]; unfold Leaf.taken; cases rx.port <;> cases l.kind <;> rfl
  have hacc := LinkPort.acceptSeq_eq rx.port _ rx.hdr (Leaf.now l) h2 h3
  unfold Leaf.frameIn
  simp only [h1, hacc, Bool.not_true, Bool.false_eq_true, if_false]
  show Leaf.deliver (Leaf.taken l rx) rx p fwd act = _
  unfold Leaf.deliver
  cases hp : Payload.passing p <;> simp only [h4, hm, hb, Bool.not_false, Bool.and_true, Bool.false_eq_true, if_true, if_false]

/-- Receiving a frame changes only the leaf's ports and its output. -/
theorem Leaf.received_shape (l : Leaf) (rx : Rx) :
    ∃ w e o, Leaf.received l rx = { l with ring.west := w, ring.east := e, out := o } := by
  unfold Leaf.received
  cases rx.port <;> exact ⟨_, _, _, rfl⟩

theorem Tervon.frameIn_receives (t : Tervon) (rx : Rx) (p : Payload) (act : Tervon → Tervon) (h : Tervon.Receives t rx p) :
    Tervon.frameIn t rx p act = act (Tervon.received t rx) := by
  obtain ⟨h1, h2⟩ := h
  have comm : ∀ (q : LinkPort) (hd : Hdr) (c n : Nat), (LinkPort.checkAlive (LinkPort.grant q c n) hd).1 = LinkPort.grant (LinkPort.checkAlive q hd).1 c n := by
    intro q hd c n
    rw [LinkPort.checkAlive_shape (LinkPort.grant q c n), LinkPort.checkAlive_shape q]
    unfold LinkPort.grant
    by_cases hc : LinkPort.withholds q c = true
    · rw [if_pos hc]; exact (if_pos hc).symm
    · rw [if_neg hc]; exact (if_neg hc).symm
  have alive : ∀ (q : LinkPort) (c n : Nat), (LinkPort.grant q c n).aliveRx = q.aliveRx := by
    intro q c n; unfold LinkPort.grant; split <;> rfl
  unfold Tervon.frameIn Tervon.received
  cases hp : rx.port with
  | west => simp [hp] at h1
  | east => simp [hp] at h1
  | internal =>
    simp only [hp] at h1
    have e := LinkPort.checkAlive_snd t.ilink (LinkPort.grant t.ilink rx.hdr.cls.toNat (credits rx.hdr.length.toNat)) rx.hdr (alive ..)
    simp [Tervon.rxPort, hp, h2, Tervon.setRxPort, e, h1, Tervon.emitAll]
  | tv k =>
    simp only [hp] at h1
    obtain ⟨hk, hl, hs, ha, hd⟩ := h1
    have hacc := LinkPort.acceptSeq_eq rx.port _ rx.hdr (Tervon.now t) hl hs
    rw [hp] at hacc
    have e : (LinkPort.checkAlive (LinkPort.grant (LinkPort.accepted (.tv k) (Tervon.port t k) (Tervon.now t)).1 rx.hdr.cls.toNat (credits rx.hdr.length.toNat)) rx.hdr).2 = true := by
      rw [LinkPort.checkAlive_snd _ _ _ (alive ..), LinkPort.checkAlive_snd _ _ _ (LinkPort.accepted_alive ..), ha]
    have hr : (decide (k < 8) && (decide (rx.hdr.dst.toNat ≠ Tervon.endCode t) || !(fromLeafType rx.hdr.type || decide (rx.hdr.type = 0x3F) || decide (rx.hdr.type.toNat < 3)))) = false := by
      by_cases h8 : k < 8
      · obtain ⟨a, b⟩ := hd h8
        rcases b with b | b | b <;> simp [a, b]
      · simp [h8]
    have hec : ∀ os, Tervon.endCode (Tervon.emitAll t os) = Tervon.endCode t := fun _ => rfl
    simp only [Tervon.rxPort, hp, hk, if_true, hacc, h2, hec, hr, e, Tervon.setRxPort, LinkPort.received, comm]
    rfl

/-- A frame that a leaf receives and acts on. -/
theorem leafRecv {c : Instr} {who : LeafId} {rx : Rx} {p fwd : Payload} {H : Leaf → Prop} {E : Leaf → Leaf} (act : Leaf → Leaf)
    (hc : ∀ s, exec c s = leafStep who (fun l => Leaf.frameIn l rx p fwd act) s) (h : ∀ l, H l → act l = E l) :
    LeafDoes c who (fun l => Leaf.Receives l rx p ∧ H (Leaf.received l rx)) (fun l => E (Leaf.received l rx)) :=
  leafDoes _ hc fun l hl => by rw [Leaf.frameIn_receives l rx p fwd act hl.1, h _ hl.2]

/-- A frame that a Tervon receives and acts on. -/
theorem tvRecv {c : Instr} {rx : Rx} {p : Payload} {H : Tervon → Prop} {E : Tervon → Tervon} (act : Tervon → Tervon)
    (hc : ∀ s, exec c s = tvStep (fun t => Tervon.frameIn t rx p act) s) (h : ∀ t, H t → act t = E t) :
    TvDoes c (fun t => Tervon.Receives t rx p ∧ H (Tervon.received t rx)) (fun t => E (Tervon.received t rx)) :=
  tvDoes _ hc fun t ht => by rw [Tervon.frameIn_receives t rx p act ht.1, h _ ht.2]

/-- A command of the command ring. -/
theorem jobDoes {c : JobRef → Instr} {op : Nat} {H : Job → Tervon → Prop} {E : Job → Tervon → Tervon} (f : Job → Tervon → Tervon)
    (hc : ∀ r s, exec (c r) s = tvStep (fun t => Tervon.withJob t r op f) s) (h : ∀ j t, H j t → f j t = E j t) : JobDoes c op H E :=
  fun r j => tvDoes _ (hc r) fun t ⟨h1, h2, h3, h4⟩ => by
    unfold Tervon.withJob; rw [h1]; simp only [h2, h3, and_self, if_true]; exact h j t h4

/-- A command of the command ring that takes its input from host memory. -/
theorem inputDoes {c : JobRef → Instr} {op : Nat} {x : HostData} {H : Job → Tervon → Prop} {E : Job → Tervon → Tervon} (f : Job → Tervon → Tervon)
    (hc : ∀ r s, exec (c r) s = tvStep (fun t => Tervon.withInput t r op x f) s) (h : ∀ j t, H j t → Job.inputOk j x = true ∧ f j t = E j t) :
    JobDoes c op H E :=
  fun r j => tvDoes _ (hc r) fun t ⟨h1, h2, h3, h4⟩ => by
    unfold Tervon.withInput Tervon.withJob; rw [h1]; simp only [h2, h3, (h j t h4).1, and_self, if_true]; exact (h j t h4).2

/-- A command that names a position. -/
theorem keyDoes {c : Nat → Nat → Instr} {H : Nat → Tervon → Prop} {E : Nat → Tervon → Tervon} (f : Nat → Tervon → Tervon)
    (hc : ∀ ring pos s, exec (c ring pos) s = tvStep (fun t => Tervon.atKey t ring pos f) s) (h : ∀ k t, H k t → f k t = E k t) : KeyDoes c H E :=
  fun ring pos key hk => tvDoes _ (hc ring pos) fun t ht => by unfold Tervon.atKey; rw [hk]; exact h key t ht

theorem frameDoes {c : Instr} {rx : Rx} {p : Payload} {H : Tervon → Prop} {E : Tervon → Tervon} (act : Tervon → Tervon)
    (hc : ∀ s, exec c s = tvStep (fun t => Tervon.frameIn t rx p act) s) (h : ∀ t, H t → act t = E t) : FrameDoes c rx p H E :=
  tvRecv act hc h

/-- The same of commands after which the Tervon settles its tiles. -/
theorem tvDoesR {c : Instr} {H : Tervon → Prop} {E : Tervon → Tervon} (f : Tervon → Tervon)
    (hc : ∀ s, exec c s = tvStepR f s) (h : ∀ t, H t → f t = E t) : TvDoes c H fun t => Tervon.settled (E t) :=
  tvDoes (fun t => Tervon.settled (f t)) hc fun t ht => by rw [h t ht]

theorem jobDoesR {c : JobRef → Instr} {op : Nat} {H : Job → Tervon → Prop} {E : Job → Tervon → Tervon} (f : Job → Tervon → Tervon)
    (hc : ∀ r s, exec (c r) s = tvStepR (fun t => Tervon.withJob t r op f) s) (h : ∀ j t, H j t → f j t = E j t) :
    JobDoes c op H fun j t => Tervon.settled (E j t) :=
  fun r j => tvDoesR _ (hc r) fun t ⟨h1, h2, h3, h4⟩ => by
    unfold Tervon.withJob; rw [h1]; simp only [h2, h3, and_self, if_true]; exact h j t h4

theorem inputDoesR {c : JobRef → Instr} {op : Nat} {x : HostData} {H : Job → Tervon → Prop} {E : Job → Tervon → Tervon} (f : Job → Tervon → Tervon)
    (hc : ∀ r s, exec (c r) s = tvStepR (fun t => Tervon.withInput t r op x f) s) (h : ∀ j t, H j t → Job.inputOk j x = true ∧ f j t = E j t) :
    JobDoes c op H fun j t => Tervon.settled (E j t) :=
  fun r j => tvDoesR _ (hc r) fun t ⟨h1, h2, h3, h4⟩ => by
    unfold Tervon.withInput Tervon.withJob; rw [h1]; simp only [h2, h3, (h j t h4).1, and_self, if_true]; exact (h j t h4).2

theorem frameDoesR {c : Instr} {rx : Rx} {p : Payload} {H : Tervon → Prop} {E : Tervon → Tervon} (act : Tervon → Tervon)
    (hc : ∀ s, exec c s = tvStepR (fun t => Tervon.frameIn t rx p act) s) (h : ∀ t, H t → act t = E t) :
    FrameDoes c rx p H fun t => Tervon.settled (E t) :=
  tvDoesR _ hc fun t ht => by rw [Tervon.frameIn_receives t rx p act ht.1, h _ ht.2]

theorem Tervon.leafFrame_admitted (t : Tervon) (rx : Rx) (p : Payload) (act quarantine : Nat → Tervon → Tervon) (key : Nat) (hr : Tervon.Receives t rx p)
    (hk : rxKey rx = some key) (he : Tervon.epochOk (Tervon.received t rx) key rx.hdr = true)
    (ha : key = ileafKey ∨ (Tervon.ent (Tervon.received t rx) key).state = 1) :
    Tervon.leafFrame t rx p act quarantine = act key (Tervon.received t rx) := by
  unfold Tervon.leafFrame
  rw [Tervon.frameIn_receives t rx p _ hr]
  simp only [hk, he, Bool.true_eq_false, if_false]
  rw [if_pos ha]

/-- A frame of classes 1 to 3 that a leaf sends. -/
theorem leafFrameDoes {c : Instr} {rx : Rx} {p : Payload} {H : Nat → Tervon → Prop} {E : Nat → Tervon → Tervon} (act quarantine : Nat → Tervon → Tervon)
    (hc : ∀ s, exec c s = tvStep (fun t => Tervon.leafFrame t rx p act quarantine) s) (h : ∀ k t, H k t → act k t = E k t) : LeafFrameDoes c rx p H E :=
  fun key hk => tvDoes _ hc fun t ht => by
    rw [Tervon.leafFrame_admitted t rx p act quarantine key ht.1 hk ht.2.1 ht.2.2.1, h key _ ht.2.2.2]

theorem leafFrameDoesR {c : Instr} {rx : Rx} {p : Payload} {H : Nat → Tervon → Prop} {E : Nat → Tervon → Tervon} (act quarantine : Nat → Tervon → Tervon)
    (hc : ∀ s, exec c s = tvStepR (fun t => Tervon.leafFrame t rx p act quarantine) s) (h : ∀ k t, H k t → act k t = E k t) :
    LeafFrameDoes c rx p H fun k t => Tervon.settled (E k t) :=
  fun key hk => tvDoesR _ hc fun t ht => by
    rw [Tervon.leafFrame_admitted t rx p act quarantine key ht.1 hk ht.2.1 ht.2.2.1, h key _ ht.2.2.2]

end Sys2Proof.Machine
end

