-- ==== Sys2Proof/Laws/Regs.lean ====
section
/-! SUPPORT. What a register write through the leaf host port does: an open port answers, and the write reaches its register. -/

namespace Sys2Proof.Machine

theorem halves_append (d : DWord) : ((d >>> 32).setWidth 32 : Word) ++ (d.setWidth 32 : Word) = d := by
  apply BitVec.eq_of_getLsbD_eq
  intro i hi
  rw [BitVec.getLsbD_append]
  by_cases h : i < 32
  · simp [h]
  · have h1 : i - 32 < 32 := by omega
    have h2 : 32 + (i - 32) = i := by omega
    simp [h, h1, h2]

/-- A single word written through an open host port while the lock does not refuse it. -/
theorem Leaf.hostWrite_word (l : Leaf) (id : BitVec 4) (off : Nat) (w : Word) (hp : Leaf.portOpen l = true) (h5 : off ≠ 0x54)
    (hl : l.cfg.lock.owner = 0 ∨ unlocked off = true) :
    Leaf.hostWrite l id off [w] = Leaf.hostAnswer (Leaf.write32 l (.host id) off w) := by
  simp only [Leaf.hostWrite, hp, Bool.not_true, Bool.false_eq_true, if_false, Leaf.hostWords, if_neg h5, if_pos hl, Leaf.writeWords, Leaf.hostAnswer]

/-- The two words of a 64-bit register written through an open host port. -/
theorem Leaf.hostWrite_wide (l : Leaf) (id : BitVec 4) (off : Nat) (d : DWord) (hp : Leaf.portOpen l = true) (h5 : off ≠ 0x54)
    (hl : l.cfg.lock.owner = 0 ∨ unlocked off = true) (h8 : off % 8 = 0) (hw : wideWritable off = true) (hr : isRwl off = false) :
    Leaf.hostWrite l id off [d.setWidth 32, (d >>> 32).setWidth 32] = Leaf.hostAnswer (Leaf.pokeWide l (.host id) off d) := by
  simp only [Leaf.hostWrite, hp, Bool.not_true, Bool.false_eq_true, if_false, Leaf.hostWords, if_neg h5, if_pos hl, Leaf.writeWords, Leaf.hostAnswer,
    h8, hw, and_self, if_true, Leaf.write64, hr, halves_append, List.append_nil]
  cases h : (Leaf.pokeWide l (.host id) off d).2.1 == 0
  · have : (Leaf.pokeWide l (.host id) off d).2.1 ≠ 0 := by simpa using h
    simp only [if_neg this]
  · have : (Leaf.pokeWide l (.host id) off d).2.1 = 0 := by simpa using h
    simp only [if_pos this, if_true]

/-! ### Writes from a ring end -/

@[simp] theorem le_length (n v : Nat) : (le n v).length = n := by
  induction n generalizing v with
  | zero => rfl
  | succ n ih => simp [le, ih]

/-- Little-endian bytes spell the number back. -/
theorem fromLe_le (n v : Nat) : fromLe (le n v) = v % 256 ^ n := by
  induction n generalizing v with
  | zero => simp [le, fromLe, Nat.mod_one]
  | succ n ih =>
    simp only [le, fromLe, ih, BitVec.toNat_ofNat]
    rw [show (2 : Nat) ^ 8 = 256 from rfl, Nat.pow_succ, Nat.mul_comm (256 ^ n) 256, Nat.mod_mul]

theorem chunksFuel_words (ws : List Word) (f : Nat) (h : ws.length < f) :
    (chunksFuel 4 f (ws.flatMap fun w => le 4 w.toNat)).map (fun c => w32 (fromLe c)) = ws := by
  induction ws generalizing f with
  | nil => cases f with
    | zero => simp at h
    | succ f => rfl
  | cons w r ih =>
    cases f with
    | zero => simp at h
    | succ f =>
      have hw : w32 (fromLe (le 4 w.toNat)) = w := by
        rw [fromLe_le]
        have := w.isLt
        rw [Nat.mod_eq_of_lt (by simpa using this)]
        simp [w32]
      obtain ⟨x, y, hxy⟩ : ∃ x y, (w :: r).flatMap (fun w => le 4 w.toNat) = x :: y := ⟨_, _, rfl⟩
      have e : chunksFuel 4 (f + 1) ((w :: r).flatMap fun w => le 4 w.toNat)
          = ((w :: r).flatMap fun w => le 4 w.toNat).take 4 :: chunksFuel 4 f (((w :: r).flatMap fun w => le 4 w.toNat).drop 4) := by
        rw [hxy]; rfl
      rw [e, List.flatMap_cons, List.take_left' (by simp), List.drop_left' (by simp), List.map_cons, hw, ih f (by simpa using h)]

@[simp] theorem flatMap_le_length (ws : List Word) : (ws.flatMap fun w => le 4 w.toNat).length = 4 * ws.length := by
  induction ws with
  | nil => rfl
  | cons w r ih => rw [List.flatMap_cons, List.length_append, ih, le_length, List.length_cons]; omega

/-- The words of a REG_WR are those written. -/
theorem wordsOf_words (ws : List Word) : wordsOf (ws.flatMap fun w => le 4 w.toNat) = ws := by
  unfold wordsOf chunks
  exact chunksFuel_words ws _ (by rw [flatMap_le_length]; omega)

/-- A REG_WR that a leaf takes writes its words, and its answer is kept under its tag. -/
theorem Leaf.writeBy_ring (l : Leaf) (rx : Rx) (did : Did) (off : Nat) (ws : List Word) (h : Leaf.TakesWrite l rx did off ws) :
    Leaf.writeBy l (.ring rx) did off ws = Leaf.ringAnswer rx (Leaf.writeWords (Leaf.received l rx) (.ring rx) off ws) := by
  obtain ⟨h1, h2, h3, h4, h5, h6, h7, h8, h9⟩ := h
  have hoff : off + 4 * ws.length ≤ 65536 := by
    simp only [regRangeOk, Bool.and_eq_true, decide_eq_true_eq] at h8; exact h8.2
  have e1 : (BitVec.ofNat 16 off).toNat = off := by rw [BitVec.toNat_ofNat, Nat.mod_eq_of_lt]; omega
  have e2 : (BitVec.ofNat 16 (4 * ws.length)).toNat = 4 * ws.length := by rw [BitVec.toNat_ofNat, Nat.mod_eq_of_lt]; omega
  show Leaf.regWrFrame l rx did 0 _ _ _ = _
  show Leaf.frameIn l rx (wordWrite did off ws) (wordWrite did off ws) _ = _
  rw [Leaf.frameIn_receives _ _ _ _ _ h1]
  have h2' : did = (Leaf.received l rx).ring.did ∨ (false = true ∧ did = didAll) := Or.inl h2
  have h10 : ¬ (rx.hdr.length.toNat ≠ 8 + 4 * ws.length ∨ (ws.flatMap fun w => le 4 w.toNat).length ≠ 4 * ws.length) := by
    rw [flatMap_le_length]; omega
  have h11 : ¬ (5 ≤ (0 : Byte).toNat ∨ (decide (4 * ws.length = 0) && !(decide ((0 : Byte).toNat = 1) || decide ((0 : Byte).toNat = 3) || decide ((0 : Byte).toNat = 4))) = true
      ∨ (4 * ws.length ≠ 0 ∧ regRangeOk off (4 * ws.length) = false)) := by
    have hne : ¬ 4 * ws.length = 0 := by omega
    rw [h8]; simp [hne]
  have h12 : ¬ ((Leaf.received l rx).cfg.lock.owner ≠ 0 ∧ unlocked off = false) := by
    rcases h9 with h9 | h9 <;> simp [h9]
  unfold Leaf.withDid
  rw [if_pos h2']
  show Leaf.doRegWr (Leaf.received l rx) rx _ _ _ _ = _
  unfold Leaf.doRegWr
  rw [h3]
  simp only [h4, e1, e2, Bool.not_true, Bool.false_and, Bool.false_eq_true, if_false, if_neg h10]
  have h13 : Leaf.regWrite (Leaf.received l rx) (.ring rx) (0 : Byte).toNat off (4 * ws.length) (ws.flatMap fun w => le 4 w.toNat)
      = Leaf.writeWords (Leaf.received l rx) (.ring rx) off ws := by
    unfold Leaf.regWrite
    simp only [wordsOf_words]
    rw [if_neg h11]
    exact if_neg h12
  rw [h13]; rfl

/-- A word written through a host port that takes it. -/
theorem Leaf.writeBy_host (l : Leaf) (id : BitVec 4) (did : Did) (off : Nat) (w : Word) (h : Leaf.TakesHost l off) :
    Leaf.writeBy l (.host id) did off [w] = Leaf.hostAnswer (Leaf.write32 l (.host id) off w) :=
  Leaf.hostWrite_word l id off w h.1 h.2.1 h.2.2

/-- A 64-bit register written through a host port that takes it. -/
theorem Leaf.writeBy_host_wide (l : Leaf) (id : BitVec 4) (did : Did) (off : Nat) (d : DWord) (h : Leaf.TakesHost l off)
    (h8 : off % 8 = 0) (hw : wideWritable off = true) (hr : isRwl off = false) :
    Leaf.writeDataBy l (.host id) did off (.full d) = Leaf.hostAnswer (Leaf.pokeWide l (.host id) off d) :=
  Leaf.hostWrite_wide l id off d h.1 h.2.1 h.2.2 h8 hw hr

end Sys2Proof.Machine
end

