-- ==== Sys2Proof/Laws/CmdAppoint.lean ====
section
/-! SUPPORT. What each command of one family does, a lemma per command: appointments, snapshots, inputs, trace and dumps. -/

open Sys2Proof Sys2Proof.Machine

namespace Sys2Proof.Claims

theorem appointStored : AppointStored := fun who rx did a => leafDoes _ (fun _ => rfl) fun l ⟨h1, h2, h3, h4⟩ => by
  show Leaf.frameIn l rx (.appoint did a) (.appoint did a) _ = _
  rw [Leaf.frameIn_receives _ _ _ _ _ h1]
  unfold Leaf.withDid
  rw [if_pos (by rcases h2 with h | h <;> simp [h])]
  show Leaf.doAppoint (Leaf.received l rx) rx a = _
  unfold Leaf.doAppoint
  rw [h3]
  simp only [h4, Bool.not_true, Bool.false_eq_true, if_false]

theorem appointStatus : AppointStatus := by
  intro leaf tq now a h1 h2 h3
  have : soon now (Slot.due Slot.reset) = false := rfl
  simp only [apptStatus, h1, if_neg h2, if_neg h3, this, Bool.false_eq_true, if_false]
  by_cases h : now + 50000 ≤ a.instant.toNat
  · rw [if_neg (by omega), if_pos h]
  · rw [if_pos (by omega), if_neg h]

theorem leafSnapshots : LeafSnapshots := fun who i => leafDoes _ (fun _ => rfl) fun l ⟨h1, h2⟩ => by
  simp only [Leaf.snapshotSlot, h1, if_true, Leaf.fireSlot, h2]; rfl

theorem leafSkips : LeafSkips := fun who i => leafDoes _ (fun _ => rfl) fun l ⟨h1, h2⟩ => by
  simp only [Leaf.snapshotSlot, h1, if_true, Leaf.fireSlot, h2]; rfl

theorem tervonSnapshots : TervonSnapshots := fun i => tvDoes _ (fun _ => rfl) fun t ⟨h1, h2⟩ => by
  have h3 : Leaf.asleep (Tervon.ileafNow (Tervon.setSlot t i (Slot.advance (Tervon.slot t i) false))) = false := h2
  simp only [Tervon.snapshotSlot, h1, if_true, Tervon.onIleaf, h3]; rfl

theorem leafEntersCellar : LeafEntersCellar := fun who i => leafDoes _ (fun _ => rfl) fun l ⟨h1, h2⟩ => by
  have h3 : ¬ (Leaf.setSlot l i (Slot.advance (Leaf.slot l i) false)).pwr.cellar ≠ 0 := fun h => h h2
  simp only [Leaf.cellarEnter, h1, if_true, if_neg h3]

theorem tervonEntersCellar : TervonEntersCellar := fun i => tvDoes _ (fun _ => rfl) fun t ⟨h1, h2, h3⟩ => by
  simp only [Tervon.fireAt, Tervon.fire, h1, if_true]
  unfold Tervon.cellarFires
  rw [if_neg]
  simp [Tervon.setSlot, h2, h3]

theorem leafModeSwitches : LeafModeSwitches := fun who i => leafDoes _ (fun _ => rfl) fun l ⟨h1, h2⟩ => by
  simp only [Leaf.fireAt, Leaf.fire, h1, if_true, Leaf.fireSlot, h2, Leaf.modeSwitch, DetStat.switch, Leaf.setSlot, Bool.false_eq_true, if_false]
  by_cases h : bit (Slot.arg (Leaf.slot l i)) 0 = l.det.det <;> simp [h]

theorem tervonModeSwitches : TervonModeSwitches := fun i => tvDoes _ (fun _ => rfl) fun t ⟨h1, h2, h3⟩ => by
  simp only [Tervon.fireAt, Tervon.fire, h1, if_true, Tervon.modeSwitch, DetStat.switch, Tervon.setSlot, h2, h3]
  rfl

theorem samplingRates : SamplingRates := ⟨fun who i => leafDoes _ (fun _ => rfl) fun l ⟨h1, h2⟩ => by
    simp only [Leaf.fire, h1, if_true, Leaf.fireSlot, h2]; rfl, fun i => tvDoes _ (fun _ => rfl) fun t h1 => by
    simp only [Tervon.fire, h1, if_true]⟩

theorem lanesRecalibrate : LanesRecalibrate := ⟨fun who i => leafDoes _ (fun _ => rfl) fun l ⟨h1, h2⟩ => by
    simp only [Leaf.fire, h1, if_true, Leaf.fireSlot, h2, Bool.false_eq_true, if_false, Leaf.laneRecal]; split <;> rfl, fun i => tvDoes _ (fun _ => rfl) fun t h1 => by
    simp only [Tervon.fire, h1, if_true]⟩

theorem recalibrationForms : RecalibrationForms := by
  intro q lane
  refine ⟨fun h => by simp [LinkPort.recalibrate, h], fun h h2 h3 => ?_, fun h h2 => ?_⟩
  · unfold LinkPort.recalibrate LinkPort.startMove
    rw [if_neg h, if_pos h2, if_neg]
    simp [h3, h2]
  · unfold LinkPort.recalibrate
    rw [if_neg h, if_neg (by simp [h2])]

theorem marksFire : MarksFire := ⟨fun who i => leafDoes _ (fun _ => rfl) fun l ⟨h1, h2⟩ => by
    simp only [Leaf.fireAt, Leaf.fire, h1, if_true, Leaf.fireSlot, h2]; rfl, fun i => tvDoes _ (fun _ => rfl) fun t h1 => by
    simp only [Tervon.fireAt, Tervon.fire, h1, if_true, Tervon.markFires]⟩

theorem slotsAdvance : SlotsAdvance := by
  intro s a skip h
  simp only [Slot.advance, h, Appointment.repeats]
  cases h1 : a.flags.getLsbD 0 <;> by_cases h2 : a.count = 0 <;> by_cases h3 : a.count.toNat ≤ s.fired + 1 <;>
    simp only [Bool.not_true, Bool.not_false, Bool.true_or, Bool.false_or, if_true] <;> simp [h2, h3, h] <;> simp_all

theorem snapAcks : SnapAcks := fun who rx did q => ⟨leafDoes _ (fun _ => rfl) fun l h => by
    rw [Leaf.writeBy_ring _ _ _ _ _ h]; rfl, fun l => rfl⟩

theorem snapResends : SnapResends := fun who rx did q => leafDoes _ (fun _ => rfl) fun l h => by
    rw [Leaf.writeBy_ring _ _ _ _ _ h]
    show Leaf.ringAnswer rx (Leaf.write32 _ _ _ _) = _
    have e : Leaf.write32 (Leaf.received l rx) (.ring rx) 0x168 q = ((Leaf.snapResend (Leaf.received l rx) q).1, (Leaf.snapResend (Leaf.received l rx) q).2, []) := rfl
    rw [e]; unfold Leaf.snapResend
    cases (Leaf.received l rx).snap.store.find? (fun s => decide (s.seq = q)) <;> rfl

theorem snapNows : SnapNows := fun who rx did v hv => leafDoes _ (fun _ => rfl) fun l h => by
    rw [Leaf.writeBy_ring _ _ _ _ _ h]
    show Leaf.ringAnswer rx (Leaf.write32 _ _ _ _) = _
    have e : Leaf.write32 (Leaf.received l rx) (.ring rx) 0x1A8 v = ((Leaf.snapNow (Leaf.received l rx) (v.setWidth 8)).1, 0, (Leaf.snapNow (Leaf.received l rx) (v.setWidth 8)).2) :=
      (show _ = _ from (if_pos (⟨rfl, hv⟩ : Requester.isRing (.ring rx) = true ∧ bits v.toNat 7 0 < 16) :
        (if Requester.isRing (.ring rx) = true ∧ bits v.toNat 7 0 < 16 then _ else refusedW (Leaf.received l rx)) = _))
    rw [e]

theorem snapHostRefused : SnapHostRefused := fun who id did v => by
  refine ⟨leafDoes _ (fun _ => rfl) fun l h => ?_, leafDoes _ (fun _ => rfl) fun l h => ?_, leafDoes _ (fun _ => rfl) fun l h => ?_⟩
  · rw [Leaf.writeBy_host _ _ _ _ _ ⟨h, by decide, .inr (by decide)⟩]; rfl
  · rw [Leaf.writeBy_host _ _ _ _ _ ⟨h, by decide, .inr (by decide)⟩]; rfl
  · rw [Leaf.writeBy_host _ _ _ _ _ ⟨h, by decide, .inr (by decide)⟩]
    have e : Leaf.write32 l (.host id) 0x1A8 v = refusedW l :=
      (if_neg (fun h => Bool.noConfusion h.1) : (if Requester.isRing (.host id) = true ∧ bits v.toNat 7 0 < 16 then ((Leaf.snapNow l (v.setWidth 8)).1, 0, (Leaf.snapNow l (v.setWidth 8)).2) else refusedW l) = _)
    rw [e]; rfl

theorem edge_calm (x : Input) (now : Nat) (h : calm x now) : Input.edge x now = (edged x now, true) := by
  obtain ⟨h1, h2⟩ := h
  have e : x.limiter = false := h1
  unfold Input.edge edged
  simp only [h2, h1, Bool.false_and, Bool.or_self, Bool.false_eq_true, if_false]

theorem alarmRaised : AlarmRaised := fun who i => leafDoes _ (fun _ => rfl) fun l ⟨h1, h2, h3⟩ => by
  simp only [Leaf.alarmEdge, Leaf.inputRise, h1, h2, edge_calm _ _ h3, Bool.or_self, Bool.false_eq_true, if_false, if_true]

theorem chatterLimits : ChatterLimits := fun who i b c => leafDoes _ (fun _ => rfl) fun l ⟨h1, h2, h3, h4, h5⟩ => by
  have e : (Leaf.now l :: (Leaf.input l i.toNat).edges).take 3 = [Leaf.now l, b, c] := by rw [List.take_succ_cons, h4]
  simp only [Leaf.alarmEdge, Leaf.inputRise, h1, h2, Input.edge, e, chatters, h5, decide_true, h3, Bool.or_self, Bool.or_true, Bool.not_false, Bool.and_self, Bool.false_eq_true, if_false, if_true]

theorem alarmReleases : AlarmReleases := fun who i hi => leafDoes _ (fun _ => rfl) fun l ⟨h1, h2, h3⟩ => by
  simp only [if_pos hi, Leaf.inputFall, h1, h2, edge_calm _ _ h3, Bool.not_true, Bool.or_self, Bool.false_eq_true, if_false]

theorem stuckActive : StuckActive := fun who i hi => leafDoes _ (fun _ => rfl) fun l ⟨h1, h2, h3, h4⟩ => by
  simp only [if_pos hi, Leaf.stuckActive, h1, h2, h3, h4, decide_true, Bool.not_false, Bool.and_self, if_true]; rfl

theorem chatterRecords : ChatterRecords := fun who i hi => leafDoes _ (fun _ => rfl) fun l ⟨h1, h2, h3⟩ => by
  simp only [if_pos hi]
  exact if_pos (by simp [h1, h2, h3])

theorem chatterReleases : ChatterReleases := fun who i hi => leafDoes _ (fun _ => rfl) fun l ⟨h1, h2, h3, h4⟩ => by
  simp only [if_pos hi, Leaf.chatterRelease, h1, h2, h3, decide_true, Bool.and_self, if_true, Leaf.chatterRecord]
  have e : Leaf.input (Leaf.setInput l i.toNat { Leaf.input l i.toNat with limiter := false, edges := [] }) i.toNat
      = { Leaf.input l i.toNat with limiter := false, edges := [] } := Cells.get_set_same _ _ _ _ h4
  rw [e]; rfl

theorem heartbeatRefreshes : HeartbeatRefreshes := fun who hb => leafDoes _ (fun _ => rfl) fun l ⟨h1, h2, h3⟩ => by
  simp only [Leaf.heartbeatEdge, Leaf.inputRise, hbInput, h1, h2, edge_calm _ _ h3, Bool.or_self, Bool.false_eq_true, if_false, if_true, Leaf.refreshBeat]
  rfl

theorem heartbeatHangs : HeartbeatHangs := fun hb => leafDoes _ (fun _ => rfl) fun l ⟨h0, h1, h2, h3, h4, h5⟩ => by
  have e1 : Leaf.beatEn l hb.toNat = true := by simp [Leaf.beatEn, Beat.en, h2]
  have e2 : Leaf.beatTmo l hb.toNat = bits (Leaf.beat l hb.toNat).ctl.toNat 27 2 := by simp [Leaf.beatTmo, h0, Beat.tmo]
  simp only [Leaf.heartbeatTimeout, h1, e1, h3, h4, e2, h5, decide_true, Bool.not_false, Bool.and_self, if_true, hbInput]
  simp only [Beat.dumpEn, Bool.and_eq_true, Bool.not_eq_true']

theorem heartbeatControls : HeartbeatControls := fun who id hb v => by
  have hh : hb.toNat < 8 := hb.isLt
  have a1 : (0x200 + 8 * hb.toNat) % 8 = 0 := by omega
  have a2 : wideWritable (0x200 + 8 * hb.toNat) = true := by simp [wideWritable]; omega
  have a3 : isRwl (0x200 + 8 * hb.toNat) = false := by simp [isRwl]; omega
  have a4 : 0x200 ≤ 0x200 + 8 * hb.toNat ∧ 0x200 + 8 * hb.toNat < 0x240 := by omega
  have a5 : (0x200 + 8 * hb.toNat - 0x200) / 8 = hb.toNat := by omega
  have p1 : ∀ k, k < 512 → (0x200 + 8 * hb.toNat = k) = False := fun k hk => eq_false (by omega)
  have e : ∀ l rq, Leaf.pokeWide l rq (0x200 + 8 * hb.toNat) v = orError l (Leaf.writeHb l hb.toNat (.full v)) := by
    intro l rq
    simp only [Leaf.pokeWide, p1, if_false, if_pos a4, a5, Nat.reduceLT]
  refine ⟨leafDoes _ (fun _ => rfl) fun l ⟨h1, h2⟩ => ?_, leafDoes _ (fun _ => rfl) fun l ⟨h1, h2⟩ => ?_⟩
  · rw [Leaf.writeBy_host_wide _ _ _ _ _ h1 a1 a2 a3, e]; simp [Leaf.writeHb, h2, orError, Leaf.hostAnswer]
  · rw [Leaf.writeBy_host_wide _ _ _ _ _ h1 a1 a2 a3, e]; simp [Leaf.writeHb, h2, orError, Leaf.hostAnswer]

theorem branchCycles : BranchCycles := fun who c x => by
  refine ⟨leafDoes _ (fun _ => rfl) fun l ⟨h1, h2⟩ => ?_, leafDoes _ (fun _ => rfl) fun l ⟨h1, h2, h3, h4, h5⟩ => ?_⟩
  · simp only [Leaf.branchCycle, Leaf.traced, h1, TracePort.cycle, h2, Bool.not_true, Bool.false_eq_true, if_false, if_true]
  · simp only [Leaf.branchCycle, Leaf.traced, h1, TracePort.cycle, h2, Bool.not_true, Bool.false_eq_true, if_false, h3, if_true, TracePort.addOutcomes]
    have key : ∀ (os : List Bool) (p : TracePort) (b q : Bool) (n : DWord), p.acc.length + os.length < 24 → TracePort.addOutcomes p b q n os = { p with acc := p.acc ++ os } := by
      intro os
      induction os with
      | nil => intro p b q n _; simp [TracePort.addOutcomes]
      | cons o r ih =>
        intro p b q n hl
        simp only [List.length_cons] at hl
        have : ¬ 24 ≤ (p.acc ++ [o]).length := by simp; omega
        simp only [TracePort.addOutcomes, if_neg this]
        rw [ih _ _ _ _ (by simp; omega)]; simp
    rw [key _ _ _ _ _ (by simp [BranchCycle.outcomes]; omega)]
    simp only [h4, Bool.false_and, Bool.false_eq_true, if_false]
    rfl

theorem traceEncodes : TraceEncodes := fun who c e r => leafDoes _ (fun _ => rfl) fun l ⟨h1, h2, h3⟩ => by
  simp only [Leaf.traceEncode, h1, h2, Leaf.traced, h3]; rfl

theorem traceFlushes : TraceFlushes := fun who c => leafDoes _ (fun _ => rfl) fun l ⟨h1, h2, h3, h4, h5⟩ => by
  have e : ((Leaf.trcPort l c.toNat).run.isSome || !(Leaf.trcPort l c.toNat).pending.isEmpty) = true := by
    rcases h4 with h | h
    · cases hr : (Leaf.trcPort l c.toNat).run <;> simp_all
    · cases hr : (Leaf.trcPort l c.toNat).pending <;> simp_all
  have e3 : (Leaf.trcPort l c.toNat).loss.isNone = true := by simp [h3]
  simp only [Leaf.traceFlushIdle, h1, Leaf.traced, h2, e3, e, h5, decide_true, Bool.and_self, if_true]; rfl

theorem syncsPeriodic : SyncsPeriodic := fun who c => leafDoes _ (fun _ => rfl) fun l ⟨h1, h2, h3, h4, h5⟩ => by
  unfold Leaf.syncPeriodic
  rw [if_pos (by simp [h1, Leaf.traced, h2, h3, h4, h5])]
  simp only [Leaf.encCtx]

theorem traceFramesClose : TraceFramesClose := fun who c => leafDoes _ (fun _ => rfl) fun l ⟨h1, h2, h3⟩ => by
  have e : (Leaf.trcPort l c.toNat).frame.isEmpty = false := by cases hr : (Leaf.trcPort l c.toNat).frame <;> simp_all
  simp only [Leaf.traceClose, h1, e, h3, decide_true, Bool.not_false, Bool.and_self, if_true, TracePort.closeFrame, Bool.false_eq_true, if_false]

theorem traceControls : TraceControls := fun who id v => ⟨leafDoes _ (fun _ => rfl) fun l h => by
    rw [Leaf.writeBy_host _ _ _ _ _ h]; rfl, fun l h => by
    unfold Leaf.writeTrcCtl; simp only [h, if_true]; simp⟩

theorem dumpCommanded : DumpCommanded := fun who id v => by
  refine ⟨leafDoes _ (fun _ => rfl) fun l ⟨h, h2⟩ => ?_, leafDoes _ (fun _ => rfl) fun l ⟨h, h2⟩ => ?_⟩
  · rw [Leaf.writeBy_host _ _ _ _ _ h]
    have e : Leaf.write32 l (.host id) 0x1A0 v = orError l (Leaf.manualDump l v) := rfl
    rw [e]; simp only [Leaf.manualDump, h2]; rfl
  · rw [Leaf.writeBy_host _ _ _ _ _ h]
    have e : Leaf.write32 l (.host id) 0x1A0 v = orError l (Leaf.manualDump l v) := rfl
    rw [e]; simp only [Leaf.manualDump, h2]; rfl

theorem walkStarts : WalkStarts := fun who r rest => leafDoes _ (fun _ => rfl) fun l ⟨h1, h2, h3, h4⟩ => by
  unfold Leaf.startWalk; rw [h1, h2]; simp only [h3, h4]; rfl

theorem walkReadsEntry : WalkReadsEntry := by
  intro l w h1 h2 h3 h4 h5 h6 h7
  unfold Leaf.driveWalk; rw [h1]; simp only [h2, h3, h4, h5, h6, h7]; rfl

theorem walkResumes : WalkResumes := fun who w => ⟨leafDoes _ (fun _ => rfl) fun l ⟨h1, h2⟩ => by
    unfold Leaf.resumeWalk; rw [h1]; simp only [h2]; rfl, leafDoes _ (fun _ => rfl) fun l ⟨h1, h2, h3⟩ => by
    unfold Leaf.resumeWalk; rw [h1]; simp only [h2, h3, if_true]; unfold Leaf.restartWalk; rw [h1]; rfl⟩

theorem dumpReadsTimeOut : DumpReadsTimeOut := fun who tag r => leafDoes _ (fun _ => rfl) fun l ⟨h1, h2, h3⟩ => by
  unfold Leaf.dumpTimeout; rw [h1]; simp only [h2, h3, decide_true, Bool.and_self, if_true]

theorem scansEnd : ScansEnd := fun who w => ⟨leafDoes _ (fun _ => rfl) fun l ⟨h1, h2, h3⟩ => by
    unfold Leaf.scanDone; rw [h1]; simp only [h2, h3, decide_true, Bool.and_self, if_true], leafDoes _ (fun _ => rfl) fun l ⟨h1, h2, h3⟩ => by
    unfold Leaf.scanTimeout; rw [h1]; simp only [h2, h3, decide_true, Bool.and_self, if_true]⟩

theorem initiatorAnswers : InitiatorAnswers := fun who tag err last data r => by
  refine ⟨leafDoes _ (fun _ => rfl) fun l h => ?_, leafDoes _ (fun _ => rfl) fun l h => ?_, leafDoes _ (fun _ => rfl) fun l ⟨h, h2⟩ => ?_⟩
  · unfold Leaf.initResponse; rw [h]
  · unfold Leaf.initResponse; rw [h]; rfl
  · unfold Leaf.initResponse; rw [h]; simp only [Bool.not_true, Bool.and_false, Bool.false_eq_true, if_false, h2]

end Sys2Proof.Claims
end

