-- ==== Sys2Proof/Laws/CmdAssay.lean ====
section
/-! SUPPORT. What each command of one family does, a lemma per command: captures, Assayer and Cooper. -/

open Sys2Proof Sys2Proof.Machine

namespace Sys2Proof.Claims

theorem capturesAnnounced : CapturesAnnounced := fun rx id total frames h => by
  refine ⟨leafFrameDoes _ _ (fun _ => rfl) fun k t ⟨h0, h1⟩ => ?_, leafFrameDoes _ _ (fun _ => rfl) fun k t ⟨h0, h1, h2⟩ => ?_, fun p => leafFrameDoes _ _ (fun _ => rfl) fun k t ⟨h0, h1, h2⟩ => ?_, fun c => leafFrameDoes _ _ (fun _ => rfl) fun k t ⟨h0, h1⟩ => ?_⟩
  · unfold Tervon.captureDesc; simp only [h0, Option.filter_none]; rw [if_pos h1]; rfl
  · unfold capPart at h2; unfold Tervon.captureDesc; simp only [h0, Option.filter_none]; rw [if_neg h1]; simp only [h2, newCap, capPart]
  · unfold capPart at h2; unfold Tervon.captureDesc; simp only [h0, Option.filter_none]; rw [if_neg h1]; simp only [h2, newCap, capPart]
  · unfold Tervon.captureDesc; simp only [h0]
    rw [Option.filter_some]; simp [h1]

theorem capturesFill : CapturesFill := fun rx id off bs c => by
  have key : ∀ k t, Tervon.cap? t (Tervon.keyDid t k) id = some c → c.done = false → c.dropped = false → c.fullAt = none → off.toNat < c.total →
      Tervon.captureData id off bs k t = (if c.total ≤ ((grown c off bs).bytesFrom 0).length
        then Tervon.capComplete (Tervon.setCap t (grown c off bs)) (grown c off bs) else Tervon.setCap t (grown c off bs)) := by
    intro k t h0 h1 h2 h3 h4
    unfold Tervon.captureData
    rw [h0]
    show (if c.done = true then _ else _) = _
    rw [if_neg (by simp [h1]), if_neg (by omega), if_neg (by simp [h2, h3])]
    rfl
  refine ⟨leafFrameDoes _ _ (fun _ => rfl) fun k t ⟨⟨h0, h1, h2, h3, h4⟩, h5⟩ => ?_, leafFrameDoes _ _ (fun _ => rfl) fun k t ⟨⟨h0, h1, h2, h3, h4⟩, h5, h6⟩ => ?_, fun p => leafFrameDoes _ _ (fun _ => rfl) fun k t ⟨⟨h0, h1, h2, h3, h4⟩, h5, h6⟩ => ?_, leafFrameDoes _ _ (fun _ => rfl) fun k t ⟨h0, h1, h2, h3⟩ => ?_⟩
  · rw [key k t h0 h1 h2 h3 h4, if_neg (by omega)]
  · rw [key k t h0 h1 h2 h3 h4, if_pos h5]; unfold Tervon.capComplete
    have : (grown c off bs).part = none := h6
    simp only [this]; rfl
  · rw [key k t h0 h1 h2 h3 h4, if_pos h5]; unfold Tervon.capComplete
    have : (grown c off bs).part = some p := h6
    simp only [this]; rfl
  · unfold Tervon.captureData; rw [h0]
    show (if c.done = true then _ else _) = _
    rw [if_neg (by simp [h1]), if_pos h2, if_pos h3]; rfl

theorem batchesWait : BatchesWait := fun p m d => by
  refine ⟨tvDoes _ (fun _ => rfl) fun t h => ?_, tvDoes _ (fun _ => rfl) fun t h => ?_⟩
  · exact if_pos h
  · exact if_neg (by simp [h])

theorem batchesRun : BatchesRun := fun p m d c => tvDoes _ (fun _ => rfl) fun t ⟨h0, h1, h2, h3⟩ => by
  unfold Tervon.batchWait; simp only [h0]; rw [if_pos (by simp [h1])]
  obtain ⟨n, hn⟩ : ∃ n, (Tervon.policy t p).batch = n + 1 := ⟨(Tervon.policy t p).batch - 1, by omega⟩
  rw [hn]; unfold Tervon.startBatch; simp only [h3, Bool.false_eq_true, if_false, List.take_succ_cons, List.take_nil, List.foldl_cons, List.foldl_nil]

theorem windowsExpire : WindowsExpire := fun d id c => by
  refine ⟨fun r => tvDoes _ (fun _ => rfl) fun t ⟨⟨h0, h1, h2⟩, h3⟩ => ?_, tvDoes _ (fun _ => rfl) fun t ⟨⟨h0, h1, h2⟩, h3, h4⟩ => ?_, tvDoes _ (fun _ => rfl) fun t ⟨⟨h0, h1, h2⟩, h3, h4⟩ => ?_, tvDoes _ (fun _ => rfl) fun t ⟨h0, h1, h2⟩ => ?_⟩
  · unfold Tervon.captureWindow; simp only [h0, h3]; rw [if_neg (by simp [h1]; omega)]
  · unfold Tervon.captureWindow; simp only [h0, h3]; rw [if_neg (by simp [h1]; omega)]; simp only [h4, Bool.false_eq_true, if_false]
  · unfold Tervon.captureWindow; simp only [h0, h3]; rw [if_neg (by simp [h1]; omega)]; simp only [h4, if_true]
  · unfold Tervon.captureWindow; simp only [h0]; rw [if_pos (Or.inr h2)]; rfl

theorem recomputesEnd : RecomputesEnd := fun d id c => by
  refine ⟨tvDoes _ (fun _ => rfl) fun t ⟨⟨h0, h1, h2⟩, h3, h4⟩ => ?_, fun x => tvDoes _ (fun _ => rfl) fun t ⟨⟨h0, h1, h2⟩, h3, h4, h5⟩ => ?_, fun x => tvDoes _ (fun _ => rfl) fun t ⟨⟨h0, h1, h2⟩, h3, h4, h5⟩ => ?_, tvDoes _ (fun _ => rfl) fun t ⟨⟨h0, h1, h2⟩, h3⟩ => ?_⟩
  · unfold Tervon.recomputed; simp only [h0]; rw [if_neg (by simp [h1, h2])]; simp only [h3, Bool.false_eq_true, if_false, h4]
  · unfold Tervon.recomputed; simp only [h0]; rw [if_neg (by simp [h1, h2])]; simp only [h3, Bool.false_eq_true, if_false, h4, h5, if_true]
  · unfold Tervon.recomputed; simp only [h0]; rw [if_neg (by simp [h1, h2])]; simp only [h3, Bool.false_eq_true, if_false, h4, h5]
  · unfold Tervon.recomputed; simp only [h0]; rw [if_neg (by simp [h1, h2])]; simp only [h3, if_true]

theorem fetchesComplete : FetchesComplete := fun d id c k off ours r m x => by
  refine ⟨tvDoes _ (fun _ => rfl) fun t ⟨⟨h0, h1, h2, h3⟩, h4⟩ => ?_, tvDoes _ (fun _ => rfl) fun t ⟨⟨h0, h1, h2, h3⟩, h4, h5⟩ => ?_⟩
  · unfold Tervon.retainedFetched; simp only [h0, h1, h2, h3]; rw [if_pos h4]; rfl
  · unfold Tervon.retainedFetched; simp only [h0, h1, h2, h3]; rw [if_neg (by omega)]; (simp only [h5]) <;> rfl

theorem assayOrder : AssayOrder := fun h input poison e tiles d id mode => by
  refine ⟨rfl, fun h1 => ?_, fun h1 h2 => ?_, fun h1 h2 h3 => ?_, fun h1 h2 h3 => ⟨fun h4 => ?_, fun h4 h5 => ?_, fun h4 h5 h6 => ⟨fun h7 => ?_, fun outs h7 => ⟨fun h8 => ?_, fun k h8 => ?_⟩⟩⟩⟩
  all_goals unfold assaySteps; simp only [h1, Bool.true_eq_false, Bool.false_eq_true, if_true, if_false, *]
  · rw [if_pos h3]
  · simp
  · rw [if_neg (by simp)]; rw [if_pos (by simpa using h5)]
  all_goals simp

theorem modelsLoaded : ModelsLoaded := fun x => by
  refine ⟨inputDoes _ (fun _ _ => rfl) fun j t ⟨h0, h1, h2⟩ => ⟨h1, ?_⟩, fun e => inputDoes _ (fun _ _ => rfl) fun j t ⟨⟨h0, h1, h2, h3⟩, h4, h5⟩ => ⟨h1, ?_⟩, inputDoes _ (fun _ _ => rfl) fun j t ⟨⟨h0, h1, h2, h3⟩, h4, h5⟩ => ⟨h1, ?_⟩, inputDoes _ (fun _ _ => rfl) fun j t ⟨⟨h0, h1, h2, h3⟩, h4, h5⟩ => ⟨h1, ?_⟩, inputDoes _ (fun _ _ => rfl) fun j t ⟨⟨h0, h1, h2, h3⟩, h4, h5, h6⟩ => ⟨h1, ?_⟩, fun e => inputDoes _ (fun _ _ => rfl) fun j t ⟨⟨h0, h1, h2, h3⟩, h4, h5, h6⟩ => ⟨h1, ?_⟩⟩
  all_goals beta_reduce; rw [if_neg h0]; unfold Tervon.modelLoad
  · rw [if_pos h2]
  all_goals rw [if_neg (by simp [h2, h3])]; simp only [h4]
  · rw [if_pos (by simp [h5])]
  · simp [h5]
  · simp at h5; simp [h5]
  · simp [h5, h6, Nat.not_le.mpr h5]
    try (intro hx; omega)
  · simp [h5, h6]
    try (intro hx; omega)

theorem modelsUnloaded : ModelsUnloaded := by
  refine ⟨jobDoes _ (fun _ _ => rfl) fun j t ⟨h0, h1⟩ => ?_, fun e => ⟨jobDoes _ (fun _ _ => rfl) fun j t ⟨h0, h1, h2⟩ => ?_, jobDoes _ (fun _ _ => rfl) fun j t ⟨h0, h1, h2⟩ => ?_⟩⟩
  all_goals rw [if_pos h0]; unfold Tervon.modelUnload; simp only [h1]
  · rw [if_pos h2]
  · rw [if_neg (by simp [h2])]

theorem policiesSet : PoliciesSet := by
  refine ⟨jobDoes _ (fun _ _ => rfl) fun j t h => ?_, jobDoes _ (fun _ _ => rfl) fun j t h => ?_⟩
  all_goals unfold Tervon.assayPolicy; simp only []
  · rw [if_neg (by omega)]
  · rw [if_pos (by omega)]

theorem submitsAssayed : SubmitsAssayed := fun x => by
  refine ⟨inputDoes _ (fun _ _ => rfl) fun j t ⟨h1, h2, h3⟩ => ⟨h1, ?_⟩, fun y => inputDoes _ (fun _ _ => rfl) fun j t ⟨h1, h2, h3, h4⟩ => ⟨h1, ?_⟩⟩
  all_goals unfold Tervon.assaySubmit; simp only []; rw [if_neg (by omega)]; simp only [h3]
  · rw [if_pos (Or.inl h4)]

theorem cooperCompresses : CooperCompresses := fun x => by
  refine ⟨inputDoes _ (fun _ _ => rfl) fun j t ⟨h1, h2⟩ => ⟨h1, ?_⟩, inputDoes _ (fun _ _ => rfl) fun j t ⟨⟨h1, h2⟩, h3⟩ => ⟨h1, ?_⟩, inputDoes _ (fun _ _ => rfl) fun j t ⟨⟨h1, h2⟩, h3⟩ => ⟨h1, ?_⟩⟩
  all_goals unfold Tervon.compress; simp only [h2, Bool.true_eq_false, Bool.false_eq_true, if_false, if_true, *]
  rfl

theorem cooperDecompresses : CooperDecompresses := fun x => by
  refine ⟨inputDoes _ (fun _ _ => rfl) fun j t ⟨h1, h2⟩ => ⟨h1, ?_⟩, inputDoes _ (fun _ _ => rfl) fun j t ⟨⟨h1, h2⟩, h3⟩ => ⟨h1, ?_⟩, inputDoes _ (fun _ _ => rfl) fun j t ⟨⟨h1, h2⟩, h3⟩ => ⟨h1, ?_⟩⟩
  all_goals unfold Tervon.decompress
  · simp only [h2, if_true]
  all_goals simp only []; rw [if_neg (by omega)]
  · simp only [h3, if_true]
  · simp only [h3, Bool.false_eq_true, if_false]
    all_goals cases Config.decompress (Job.byte j 40) x.bytes <;> rfl

end Sys2Proof.Claims
end

