-- ==== Sys2Proof/Laws/CmdCount.lean ====
section
/-! SUPPORT. What each command of one family does, a lemma per command: counting, freezing and sensors. -/

open Sys2Proof Sys2Proof.Machine

namespace Sys2Proof.Claims

theorem stationEdges : StationEdges := fun who n lines vld slots => leafDoes _ (fun _ => rfl) fun l _ => rfl

theorem entryDrains : EntryDrains := fun who n src i d r line mode => leafDoes _ (fun _ => rfl) fun l ⟨h1, h2, h3, h4, h5⟩ => by
  simp [Leaf.drainEntry, h1, h2, h4, Leaf.applyEntry, h3, h5, show src ≠ 68 by omega]

theorem freezeEdges : FreezeEdges := fun who n => leafDoes _ (fun _ => rfl) fun l h1 => by
  have : ((Leaf.stn l n).frzSeen == l.snap.strobe) = false := by simpa using h1
  have e : (Leaf.freezeOvf l n).snap.strobe = l.snap.strobe := by
    unfold Leaf.freezeOvf; split <;> [split <;> rfl; rfl]
  simp only [Leaf.freezeEdge, this, e]; rfl

theorem freezeAcks : FreezeAcks := fun who n a f => leafDoes _ (fun _ => rfl) fun l ⟨h1, h2, h3, h4⟩ => by
  simp only [Leaf.freezeAck, h1, h2, h3, h4, beq_self_eq_true]
  rfl

theorem markersApply : MarkersApply := fun who n r d => leafDoes _ (fun _ => rfl) fun l ⟨h1, h2⟩ => by
  simp only [Leaf.markerApplied, h1, h2]
  rfl

theorem frozenCounters : FrozenCounters := by
  intro l f n c b e h hr
  simp [Leaf.freezeStation, h, hr]

theorem histogramsFreeze : HistogramsFreeze := fun who f => leafDoes _ (fun _ => rfl) fun l ⟨h1, h2, h3, h4⟩ => by
  have : l.cnt.samples.any (fun e => decide (e.2.2.toNat < f.instant.toNat)) = false := by
    rw [List.any_eq_false]; intro x hx; have := (List.all_eq_true.1 h3) x hx; simp at this ⊢; omega
  simp [Leaf.histFreeze, h1, h2, this, Nat.not_lt.2 h4]

theorem stationsStall : StationsStall := fun who n f => leafGives _ (fun _ => rfl) fun l ⟨h1, h2, h3⟩ => by
  simp only [Leaf.stallTimeout, h1, h2, h3, decide_true, Bool.and_self, if_true, Leaf.stall]
  refine ⟨_, rfl, ?_, ?_, ?_⟩ <;> simp [Leaf.freezeStation] <;> rfl

theorem snapshotsComplete : SnapshotsComplete := fun who f => leafDoes _ (fun _ => rfl) fun l ⟨h1, h2, h3, h4, h5⟩ => by
  simp [Leaf.snapshotComplete, h1, h2, h3, h4, h5]

theorem finishedSubset : FinishedSubset := by
  intro l f hk hh
  have h2 : (Leaf.takeSnapshot l f).kind ≠ 0 := hk
  have hs' : ∀ (l' : Leaf) x, l'.ring = l.ring → Leaf.sendTally l' x = l' := fun l' x e => by
    unfold Leaf.sendTally; rw [if_neg]; unfold Leaf.hasHolder at *; rw [e, hh]; decide
  simp only [Leaf.finishFreeze, h2, if_false]
  rw [hs']
  rotate_left
  · rfl
  refine ⟨rfl, rfl, rfl, rfl, rfl, ?_, ?_⟩ <;> by_cases hs : 4 ≤ l.snap.store.length <;> simp [hs]

theorem valuePortWrites : ValuePortWrites := fun who id h w => by
  have hb : h.toNat < 256 := h.isLt
  refine ⟨leafDoes _ (fun _ => rfl) fun l hp => ?_, leafDoes _ (fun _ => rfl) fun l ⟨hp, hh⟩ => ?_⟩
  · have e1 : 28672 + 8 * h.toNat ≠ 0x54 := by omega
    have e2 : l.cfg.lock.owner = 0 ∨ unlocked (28672 + 8 * h.toNat) = true := by right; simp [unlocked]; omega
    have e3 : isRwl (28672 + 8 * h.toNat) = false := by simp [isRwl]; omega
    have e4 : onlyWhole (28672 + 8 * h.toNat) = false := by simp [onlyWhole]; omega
    have e5 : wideWritable ((28672 + 8 * h.toNat) / 8 * 8) = true := by simp [wideWritable]; omega
    have e6 : ¬ (0x200 ≤ 28672 + 8 * h.toNat ∧ 28672 + 8 * h.toNat < 0x240) := by omega
    have e7 : (28672 + 8 * h.toNat) % 8 = 0 := by omega
    show Leaf.hostWrite l id (28672 + 8 * h.toNat) [w] = _
    rw [Leaf.hostWrite_word _ _ _ _ hp e1 e2]
    simp only [Leaf.write32, e3, e4, if_neg e6, e5, e7, if_true, Bool.false_eq_true, if_false, Leaf.hostAnswer]
  · have e1 : 28672 + 8 * h.toNat + 4 ≠ 0x54 := by omega
    have e2 : l.cfg.lock.owner = 0 ∨ unlocked (28672 + 8 * h.toNat + 4) = true := by right; simp [unlocked]; omega
    have e3 : isRwl (28672 + 8 * h.toNat + 4) = false := by simp [isRwl]; omega
    have e4 : onlyWhole (28672 + 8 * h.toNat + 4) = false := by simp [onlyWhole]; omega
    have e5 : wideWritable ((28672 + 8 * h.toNat + 4) / 8 * 8) = true := by simp [wideWritable]; omega
    have e6 : ¬ (0x200 ≤ 28672 + 8 * h.toNat + 4 ∧ 28672 + 8 * h.toNat + 4 < 0x240) := by omega
    have e7 : ¬ ((28672 + 8 * h.toNat + 4) % 8 = 0) := by omega
    have e8 : 28672 + 8 * h.toNat + 4 - 4 = 28672 + 8 * h.toNat := by omega
    have e9 : 28672 ≤ 28672 + 8 * h.toNat ∧ 28672 + 8 * h.toNat < 30720 := by omega
    have e10 : (28672 + 8 * h.toNat - 28672) / 8 = h.toNat := by omega
    show Leaf.hostWrite l id (28672 + 8 * h.toNat + 4) [w] = _
    rw [Leaf.hostWrite_word _ _ _ _ hp e1 e2]
    simp only [Leaf.write32, e3, e4, if_neg e6, e5, if_neg e7, if_true, Bool.false_eq_true, if_false, Leaf.hostAnswer, e8]
    have hv : Leaf.pokeWide l (.host id) (28672 + 8 * h.toNat) (w ++ Leaf.heldLow l (.host id) (28672 + 8 * h.toNat))
        = (Leaf.submit l h.toNat (w ++ Leaf.heldLow l (.host id) (28672 + 8 * h.toNat)) (TimeDom.ns64 l.time), 0, []) := by
      have p1 : ∀ k, k < 28672 → (28672 + 8 * h.toNat = k) = False := fun k hk => eq_false (by omega)
      have p2 : (28672 + 8 * h.toNat < 576) = False := eq_false (by omega)
      have p3 : (28672 + 8 * h.toNat < 5504) = False := eq_false (by omega)
      simp only [Leaf.pokeWide, p1, p2, p3, if_false, false_and, and_false, if_pos e9, Leaf.valuePort, e10, hh, if_true, Nat.reduceLT]
    rw [hv]; rfl

theorem sampleQueue : SampleQueue := by
  intro l h v t
  constructor <;> intro hl <;> simp [Leaf.submit, hl]

theorem samplesApply : SamplesApply := fun who h v t r => leafDoes _ (fun _ => rfl) fun l ⟨h1, h2, h3⟩ => by
  simp [Leaf.applySample, h1, h2, h3, Leaf.hist]

theorem timingStarts : TimingStarts := fun who i a => leafDoes _ (fun _ => rfl) fun l ⟨h1, h2⟩ => by
  cases ho : (Leaf.pair l i.toNat).opened <;> simp [Leaf.timingStart, h1, tooClose, h2, ho]

theorem timingStops : TimingStops := fun who i a t0 => ⟨leafDoes _ (fun _ => rfl) fun l ⟨h1, h2, h3⟩ => by
    simp [Leaf.timingStop, h1, tooClose, h2, h3], leafDoes _ (fun _ => rfl) fun l ⟨h1, h2, h3⟩ => by
    simp [Leaf.timingStop, h1, tooClose, h2, h3]⟩

theorem thermalReads : ThermalReads := fun n => leafDoes _ (fun _ => rfl) fun l ⟨h1, h2, h3⟩ => by
  simp [Leaf.thermal, h1, h2, Leaf.thermalSample, Leaf.site] at h3 ⊢
  simp [h3]

theorem supplyReads : SupplyReads := fun who n => leafDoes _ (fun _ => rfl) fun l ⟨h1, h2, h3⟩ => by
  simp [Leaf.supply, h1, h2, Leaf.supplySample, Leaf.site] at h3 ⊢
  simp [h3]

theorem droopsStamped : DroopsStamped := fun who n a => ⟨leafDoes _ (fun _ => rfl) fun l ⟨h1, h2, h3⟩ => by
    simp [Leaf.droopBegin, h1, h2, h3], leafDoes _ (fun _ => rfl) fun l ⟨h1, h2, h3⟩ => by
    simp [Leaf.droopEnd, h1, h2, h3, sensorIndex]⟩

theorem edgeCounts : EdgeCounts := by
  intro s i line mode lines vld slots h1 h2 h3 h4 h5
  have hp : Station.pick s = none := by
    have hf : ∀ (xs : List Nat) (p : Nat → Bool), (∀ x, p x = false) → xs.find? p = none := by
      intro xs p h; rw [List.find?_eq_none]; intro x _; rw [h x]; exact Bool.false_ne_true
    have hz : ∀ x, Cells.get (0 : Byte) s.pre x = 0 := fun x => by rw [h5]; rfl
    unfold Station.pick
    rw [hf _ _ (fun x => by rw [hz x]; rfl), hf _ _ (fun x => by rw [hz x]; rfl)]
    simp
  have he : Station.emitEntry s = s := by
    unfold Station.emitEntry; rw [h4, h3, hp]; rfl
  have hi : StnCfg.increments s.cfg s.prev lines vld slots = [(line.toNat, lineInc mode s.prev lines line.toNat)] := by
    unfold StnCfg.increments; rw [h1, h2]; rfl
  have hb : lineInc mode s.prev lines line.toNat ≤ 15 := by
    have hl : ∀ w j, lineBit w j ≤ 1 := fun w j => by unfold lineBit b2n; split <;> omega
    unfold lineInc; split
    · have := hl lines line.toNat; omega
    · split <;> omega
    · have := hl lines line.toNat; have := hl lines (line.toNat + 1); have := hl lines (line.toNat + 2); have := hl lines (line.toNat + 3); omega
    · omega
  intro e
  have hE : e = ({ s with pre := Cells.set 0 s.pre line.toNat (BitVec.ofNat 8 (min (lineInc mode s.prev lines line.toNat) 255)), prev := lines }, lineInc mode s.prev lines line.toNat - 255) := by
    show Station.edge s lines vld slots = _
    unfold Station.edge
    rw [hi, he]; simp only [List.foldl_cons, List.foldl_nil, Station.addPre]
    rw [show (Cells.get (0 : Byte) s.pre line.toNat) = 0 from by rw [h5]; rfl]
    simp
  rw [hE]
  refine ⟨by simp; omega, ?_, rfl, h4⟩
  simp only [h5]
  rw [Cells.get_set_same _ _ _ _ rfl]
  · rw [BitVec.toNat_ofNat]; omega

end Sys2Proof.Claims
end

