-- ==== Sys2Proof/Laws/CmdFrames.lean ====
section
/-! SUPPORT. What each command of one family does, a lemma per command: frames of leaves. -/

open Sys2Proof Sys2Proof.Machine

namespace Sys2Proof.Claims

theorem gatedAux (c : Instr) (rx : Rx) (p : Payload) (act : Nat → Tervon → Tervon) (wrap : Tervon → Tervon)
    (hc : ∀ s, exec c s = tvStep (fun t => wrap (Tervon.leafFrame t rx p act Tervon.quarantined)) s) : Gated c rx p wrap := by
  intro key hk
  refine ⟨tvDoes _ hc fun t ⟨hr, h1⟩ => ?_, tvDoes _ hc fun t ⟨hr, h1, h2, h3⟩ => ?_⟩
  · unfold Tervon.leafFrame; rw [Tervon.frameIn_receives t rx p _ hr]; simp only [hk, h1, if_true]
  · unfold Tervon.leafFrame; rw [Tervon.frameIn_receives t rx p _ hr]; simp only [hk, h1, Bool.true_eq_false, if_false]
    rw [if_neg (by simp [h2, h3])]; rfl

theorem framesGated : FramesGated := fun rx =>
  ⟨fun _ _ => gatedAux _ _ _ _ _ fun _ => rfl, fun _ _ => gatedAux _ _ _ _ id fun _ => rfl, fun _ => gatedAux _ _ _ _ _ fun _ => rfl,
   fun _ _ _ => gatedAux _ _ _ _ id fun _ => rfl, fun _ => gatedAux _ _ _ _ id fun _ => rfl, fun _ _ _ _ _ _ => gatedAux _ _ _ _ id fun _ => rfl,
   fun _ _ _ _ => gatedAux _ _ _ _ id fun _ => rfl, fun _ _ _ => gatedAux _ _ _ _ id fun _ => rfl⟩

theorem tallyReceived : TallyReceived := fun rx h bs => by
  refine ⟨leafFrameDoesR _ _ (fun _ => rfl) fun k t h0 => ?_, fun a => leafFrameDoesR _ _ (fun _ => rfl) fun k t ⟨h0, h1⟩ => ?_⟩
  · unfold Tervon.tallyFrame; simp only [h0, if_true]; rfl
  · unfold Tervon.tallyFrame; simp only [h0, if_false, h1, Option.getD_some]

theorem histReceived : HistReceived := fun rx h bs a => leafFrameDoes _ _ (fun _ => rfl) fun k t h1 => by
  unfold Tervon.histFrame; simp only [h1]

theorem tallyEnds : TallyEnds := fun rx p => by
  refine ⟨leafFrameDoesR _ _ (fun _ => rfl) fun k t h0 => ?_, leafFrameDoesR _ _ (fun _ => rfl) fun k t ⟨h0, h1⟩ => ?_, fun v x hs => leafFrameDoesR _ _ (fun _ => rfl) fun k t ⟨h0, h1⟩ => ?_⟩
  · unfold Tervon.tallyEnd; simp only [h0, if_true]
  · unfold accepted at h1; unfold Tervon.tallyEnd; simp only [h0, Bool.false_eq_true, if_false, h1]; rfl
  · unfold accepted at h1; unfold Tervon.tallyEnd; simp only [h0, Bool.false_eq_true, if_false, h1]; rfl

theorem watermarkLags : WatermarkLags := fun i => by
  refine ⟨tvDoesR _ (fun _ => rfl) fun t h => ?_, tvDoesR _ (fun _ => rfl) fun t ⟨h, h2⟩ => ?_, tvDoesR _ (fun _ => rfl) fun t ⟨h, h2⟩ => ?_⟩
  · exact if_neg (by omega)
  · unfold Tervon.wmLag Tervon.wmAdvance; rw [if_pos h, if_pos h2]
  · unfold Tervon.wmLag Tervon.wmAdvance; rw [if_pos h, if_neg (by omega)]

theorem agingSweeps : AgingSweeps := ⟨tvDoes _ (fun _ => rfl) fun t h => by unfold Tervon.agingSweep; simp only [h, Bool.false_eq_true, if_false]; rfl,
  tvDoes _ (fun _ => rfl) fun t h => by unfold Tervon.agingSweep; simp only [h, if_true, id]⟩

theorem foldCongr {α β : Type} (f g : β → α → β) (l : List α) (h : ∀ b, ∀ a ∈ l, f b a = g b a) : ∀ b, l.foldl f b = l.foldl g b := by
  induction l with
  | nil => intro b; rfl
  | cons x r ih => intro b; simp only [List.foldl_cons]; rw [h b x (by simp)]; exact ih (fun b a ha => h b a (by simp [ha])) _

theorem healthReceived : HealthReceived := fun rx rs => by
  refine ⟨leafFrameDoes _ _ (fun _ => rfl) fun k t h0 => ?_, fun key hk => tvDoes _ (fun _ => rfl) fun t ⟨hr, h1, h2, h3⟩ => ?_⟩
  · unfold Tervon.healthFrame
    exact foldCongr _ _ rs (fun b r hr => by
      unfold Tervon.healthOne
      have : ¬ r.cls = 0x1C := h0 r hr
      rw [if_neg (fun hx => this hx.1)]; rfl) t
  · unfold Tervon.leafFrame; rw [Tervon.frameIn_receives t rx _ _ hr]; simp only [hk, h1, Bool.true_eq_false, if_false]
    rw [if_neg (by simp [h2, h3])]
    unfold Tervon.healthFrame
    exact foldCongr _ _ rs (fun b r hr => by unfold Tervon.healthOne; simp) _

theorem traceReceived : TraceReceived := fun rx core off bs => by
  refine ⟨leafFrameDoes _ _ (fun _ => rfl) fun k t h0 => ?_, fun x => leafFrameDoes _ _ (fun _ => rfl) fun k t ⟨h0, h1, h2⟩ => ?_, leafFrameDoes _ _ (fun _ => rfl) fun k t h0 => ?_⟩
  · unfold Tervon.traceFrame
    cases hf : (Tervon.leafRec t (Tervon.keyDid t k)).traceOff.find? (fun e => decide (e.1 = core.toNat)) with
    | none => simp only [hf]; rfl
    | some e =>
      have := h0 e (List.mem_of_find?_eq_some hf) (by simpa using List.find?_some hf)
      simp only [hf]; rw [if_pos this]; rfl
  · unfold Tervon.traceFrame; simp only [h0]; rw [if_neg (fun hx => hx.elim h1 h2)]; rfl
  · rfl

theorem dumpReceived : DumpReceived := fun rx i e kd st a bs => by
  refine ⟨leafFrameDoes _ _ (fun _ => rfl) fun k t h0 => ?_, fun b => leafFrameDoes _ _ (fun _ => rfl) fun k t ⟨h0, h1⟩ => ?_⟩
  · unfold Tervon.dumpFrame Tervon.dumpArrive; simp only [h0, if_true]
  · unfold Tervon.dumpFrame Tervon.dumpArrive; simp only [h0, Bool.false_eq_true, if_false, h1]

end Sys2Proof.Claims
end

