-- ==== Sys2Proof/Laws/CmdHealth.lean ====
section
/-! SUPPORT. What each command of one family does, a lemma per command: captures of a leaf, health records and the guardband. -/

open Sys2Proof Sys2Proof.Machine

namespace Sys2Proof.Claims

theorem answered (l : Leaf) (id : BitVec 4) (did : Did) (off : Nat) (v : DWord) (h : Leaf.TakesHost l off) (h8 : off % 8 = 0)
    (hw : wideWritable off = true) (hr : isRwl off = false) (l' : Leaf) (he : Leaf.pokeWide l (.host id) off v = (l', 0, [])) :
    Leaf.writeDataBy l (.host id) did off (.full v) = Leaf.answer l' 0 := by
  rw [Leaf.writeBy_host_wide _ _ _ _ _ h h8 hw hr, he]; rfl

theorem turnedAway (l : Leaf) (id : BitVec 4) (did : Did) (off : Nat) (v : DWord) (h : Leaf.TakesHost l off) (h8 : off % 8 = 0)
    (hw : wideWritable off = true) (hr : isRwl off = false) (l' : Leaf) (he : Leaf.pokeWide l (.host id) off v = (l', 1, [])) :
    Leaf.writeDataBy l (.host id) did off (.full v) = Leaf.answerError l' := by
  rw [Leaf.writeBy_host_wide _ _ _ _ _ h h8 hw hr, he]; rfl

theorem stepWritten : StepWritten := by
  refine ⟨fun who id v => leafDoes _ (fun _ => rfl) fun l h => answered _ _ _ _ _ h rfl rfl rfl _ rfl, fun l v => ⟨fun h => ?_, fun h h2 => ?_, fun h h2 => ?_⟩⟩
  · unfold Leaf.writeStep; simp [h]
  · unfold Leaf.writeStep; simp [h, h2]
  · unfold Leaf.writeStep; simp [h, h2]

theorem capturesPosted : CapturesPosted := fun who id v => by
  refine ⟨leafDoes _ (fun _ => rfl) fun l ⟨h, h1, h2, h3⟩ => answered _ _ _ _ _ h rfl rfl rfl _ ?_, leafDoes _ (fun _ => rfl) fun l ⟨h, h1⟩ => turnedAway _ _ _ _ _ h rfl rfl rfl _ ?_⟩
  · show ((Leaf.capPost l v).1, if (Leaf.capPost l v).2 then 0 else 1, []) = _
    unfold Leaf.capPost; simp only [LeafAssay.en, h1, h2, h3, decide_true, Bool.and_self, if_true]
  · show ((Leaf.capPost l v).1, if (Leaf.capPost l v).2 then 0 else 1, []) = _
    unfold Leaf.capPost; rw [if_neg]
    · rfl
    · simp only [LeafAssay.en, Bool.and_eq_true, decide_eq_true_eq]
      rcases h1 with h | h | h
      · exact fun x => by rw [h] at x; exact Bool.noConfusion x.1.1
      · exact fun x => h x.1.2
      · exact fun x => by omega

theorem capturesPull : CapturesPull := fun who p => by
  refine ⟨leafDoes _ (fun _ => rfl) fun l ⟨h1, h2, h3, h4, h5, h6⟩ => ?_, leafDoes _ (fun _ => rfl) fun l ⟨h1, h2, h3, h4, h5, h6⟩ => ?_⟩
  · unfold Leaf.drivePulls
    simp only [h1, h2, h5, h6, Bool.not_true, Bool.or_self, Bool.false_eq_true, if_false]
    have e : ∀ a n, (Leaf.issue l 1 a n none).assay = l.assay := fun _ _ => rfl
    simp only [e, h3, h4]
  · unfold Leaf.drivePulls
    simp only [h1, h2, h3, h5, h6, Bool.not_true, Bool.or_self, Bool.false_eq_true, if_false]
    have e : ∀ a n, (Leaf.issue l 2 a n none).assay = l.assay := fun _ _ => rfl
    simp only [e, h4]

theorem pullsTimeOut : PullsTimeOut := fun who tag r => leafDoes _ (fun _ => rfl) fun l h1 => by
  unfold Leaf.pullTimeout
  have e : ∀ (P : Nat × Option InitReq → Bool), P = (fun e => pullDue l e.2) → l.hp.outstanding.find? P = some (tag, some r) := fun P h => by rw [h, h1]
  simp only []
  rw [e _ (by funext x; cases hx : x.2 <;> simp only [hx] <;> rfl)]

theorem holdsExpire : HoldsExpire := fun who id p => leafDoes _ (fun _ => rfl) fun l ⟨h1, h2, h3⟩ => by
  unfold Leaf.capHold; rw [h1]; simp only [LeafAssay.hold, h2, h3]; simp

theorem retainedFetched : RetainedFetched := fun who rx did v p => leafDoes _ (fun _ => rfl) fun l ⟨h, h1, h2, h3, h4⟩ => by
  show Leaf.writeBy l (.ring rx) did 0x118 [v.setWidth 32, (v >>> 32).setWidth 32] = _
  rw [Leaf.writeBy_ring _ _ _ _ _ h]
  have e : Leaf.writeWords (Leaf.received l rx) (.ring rx) 0x118 [v.setWidth 32, (v >>> 32).setWidth 32]
      = (let x := orError (Leaf.received l rx) (Leaf.capFetch (Leaf.received l rx) (((v >>> 32).setWidth 32 : Word) ++ (v.setWidth 32 : Word)))
         (x.1, if x.2.1 = 0 then 0 else x.2.1, x.2.2 ++ [])) := rfl
  rw [e, halves_append]
  simp only [Leaf.capFetch, h1]
  rw [if_neg (by omega)]
  rfl

theorem verdictsArrive : VerdictsArrive := fun who rx did c r p => leafDoes _ (fun _ => rfl) fun l ⟨h, h1, h2⟩ => by
  unfold Leaf.verdictFrame; rw [Leaf.frameIn_receives _ _ _ _ _ h]
  unfold Leaf.withDid; rw [if_pos (.inl h1)]; beta_reduce; unfold Leaf.verdict; simp only [h2]
  by_cases h0 : r.verdict = 0
  · simp [h0]
  · by_cases h1 : r.verdict = 1
    · simp [h1]
    · simp only [h0, h1, if_false]
      have n0 : r.verdict.toNat ≠ 0 := fun e => h0 (BitVec.eq_of_toNat_eq e)
      have n1 : r.verdict.toNat ≠ 1 := fun e => h1 (BitVec.eq_of_toNat_eq e)
      split <;> first | contradiction | rfl

theorem errorsReported : ErrorsReported := fun id v => by
  refine ⟨eitherLeafDoes _ (fun _ _ => rfl) fun l ⟨h, h1, h2, h3, h4⟩ => answered _ _ _ _ _ h rfl rfl rfl _ ?_, eitherLeafDoes _ (fun _ _ => rfl) fun l ⟨h, h1⟩ => turnedAway _ _ _ _ _ h rfl rfl rfl _ ?_⟩
  · show orError l (Leaf.errReport l v) = _
    unfold Leaf.errReport
    have n : ¬ ((v.setWidth 16 : Half) = 0 ∨ 0xFF00 ≤ (v.setWidth 16 : Half).toNat ∨ 2 ≤ bits v.toNat 57 56 ∨ 448 < l.health.store.length) := by
      rintro (h | h | h | h)
      · exact h1 h
      all_goals omega
    simp only [n, if_false]; rfl
  · show orError l (Leaf.errReport l v) = _
    unfold Leaf.errReport
    simp only [h1, if_true]; rfl

theorem heldAdmitted : HeldAdmitted := fun who => leafDoes _ (fun _ => rfl) fun l _ => rfl

theorem guardbandRequests : GuardbandRequests := fun who h r => leafDoes _ (fun _ => rfl) fun l ⟨h1, h2, h3, h4⟩ => by
  unfold Leaf.gbStart; rw [h1, h2]; simp only [h3, h4]; rfl

theorem guardbandAnswers : GuardbandAnswers := fun h res => eitherLeafDoes _ (fun _ _ => rfl) fun l ⟨h1, h2⟩ => by
  unfold Leaf.gbAck; rw [h1]; simp only [h2]
  obtain rfl | rfl | rfl | rfl : res = 0 ∨ res = 1 ∨ res = 2 ∨ res = 3 := by revert res; decide
  all_goals rfl

theorem guardbandStepRecord : GuardbandStepRecord := fun _ _ _ => rfl

theorem guardbandEvents : GuardbandEvents := by
  refine ⟨fun who => ⟨leafDoes _ (fun _ => rfl) fun l _ => rfl, leafDoes _ (fun _ => rfl) fun l _ => rfl⟩, fun h => eitherLeafDoes _ (fun _ _ => rfl) fun l ⟨h1, h2, h3⟩ => ?_, fun g => eitherLeafDoes _ (fun _ _ => rfl) fun l h1 => ?_⟩
  · unfold Leaf.gbTimeout; rw [h1]; simp only [h2, h3]; simp
  · unfold Leaf.gbConflict; rw [h1]; rfl

theorem guardbandResets : GuardbandResets := fun h =>
  ⟨eitherLeafDoes _ (fun _ _ => rfl) fun l h1 => by unfold Leaf.gbPortReset; rw [h1],
   eitherLeafDoes _ (fun _ _ => rfl) fun l h1 => by unfold Leaf.gbPortReset; simp only [h1]⟩

theorem risksAccepted : RisksAccepted := fun who id v i => leafDoes _ (fun _ => rfl) fun l ⟨h, h1, h2, h3, h4⟩ => by
  refine answered _ _ _ _ _ h rfl rfl rfl _ ?_
  show orError l (Leaf.gbAccept l (Requester.riskOp (.host id)) v) = _
  unfold Leaf.gbAccept; simp only [h1, h2]
  rw [if_neg (by simp; omega)]; rfl

end Sys2Proof.Claims
end

