-- ==== Sys2Proof/Laws/CmdHost.lean ====
section
/-! SUPPORT. What each command of one family does, a lemma per command: host rings. -/

open Sys2Proof Sys2Proof.Machine

namespace Sys2Proof.Claims

theorem commandDoorbells : CommandDoorbells := fun f i w hf hi => by
  refine ⟨tvDoes _ (fun _ => rfl) fun t ⟨h1, h2⟩ => ?_, tvDoes _ (fun _ => rfl) fun t ⟨h1, h2⟩ => ?_, tvDoes _ (fun _ => rfl) fun t h1 => ?_⟩
  · unfold Tervon.commandDoorbell Tervon.doorbell; rw [if_pos ⟨hf, hi⟩, if_neg (by simp [h1]), if_pos h2]
  · unfold Tervon.commandDoorbell Tervon.doorbell; rw [if_pos ⟨hf, hi⟩, if_neg (by simp [h1]), if_neg h2]
  · unfold Tervon.commandDoorbell Tervon.doorbell; rw [if_pos ⟨hf, hi⟩, if_pos h1]

theorem hostDoorbells : HostDoorbells := fun f w hf => by
  refine ⟨tvDoes _ (fun _ => rfl) fun t ⟨h1, h2⟩ => ?_, tvDoes _ (fun _ => rfl) fun t ⟨h1, h2⟩ => ?_⟩
  · unfold Tervon.completionDoorbell Tervon.doorbell; rw [if_pos hf, if_neg (by simp [h1])]; rw [if_pos (show (w - (Tervon.ring t f 4).tail).toNat ≤ (fun r : HostRing => (r.head - r.tail).toNat) (Tervon.ring t f 4) from h2)]
  · unfold Tervon.recordDoorbell Tervon.doorbell; rw [if_pos hf, if_neg (by simp [h1])]; rw [if_pos (show (w - (Tervon.ring t f 5).tail).toNat ≤ (fun r : HostRing => (r.head - r.tail).toNat) (Tervon.ring t f 5) from h2)]

theorem descriptorsFetched : DescriptorsFetched := fun f i bs => by
  refine ⟨tvDoes _ (fun _ => rfl) fun t ⟨h1, h2, h3, h4, h5, h6, h7, h8, h9⟩ => ?_, tvDoes _ (fun _ => rfl) fun t ⟨h1, h2, h3, h4, h5, h6, h7, h8, h9⟩ => ?_, tvDoes _ (fun _ => rfl) fun t ⟨h1, h2, h3, h4, h5, h6, h7, h8, h9⟩ => ?_⟩ <;>
  · unfold Tervon.descriptorFetch; simp only []; rw [if_neg (by simp [h1, h2, h3, h4, h5, h6, h7, h8, h9])]

theorem ringsEnabled : RingsEnabled := fun f i hf => by
  have n16 : ¬ 16 < f := by omega
  refine ⟨tvDoes _ (fun _ => rfl) fun t ⟨h1, h2⟩ => ?_, tvDoes _ (fun _ => rfl) fun t h1 => ?_, tvDoes _ (fun _ => rfl) fun t h1 => ?_, tvDoes _ (fun _ => rfl) fun t ⟨h1, h2⟩ => ?_, tvDoes _ (fun _ => rfl) fun t ⟨h1, h2⟩ => ?_⟩
  · have h2' : (HostFn.ring (Tervon.fn t f) i).state = 0 := h2
    have i5 : i ≠ 5 := by omega
    unfold Tervon.ringEn; simp only []; rw [if_neg (by omega)]; simp only [if_true, h2', i5, if_false]; rfl
  · have h1' : (HostFn.ring (Tervon.fn t f) 5).state = 0 := h1
    unfold Tervon.ringEn; simp only []; rw [if_neg (by omega)]; simp only [if_true, h1']; rfl
  · have h1' : (HostFn.ring (Tervon.fn t f) 5).state ≠ 0 := h1
    unfold Tervon.ringEn; simp only []; rw [if_neg (by omega)]; simp only [Bool.false_eq_true, if_false, h1', if_true]; rfl
  · have h1' : (HostFn.ring (Tervon.fn t f) 4).state ≠ 0 := h1
    have e : ([0, 1, 2, 3].all fun k => decide ((HostFn.ring (Tervon.fn t f) k).state = 0)) = true := by
      have a := h2 0 (by omega); have b := h2 1 (by omega); have c := h2 2 (by omega); have d := h2 3 (by omega)
      simp only [Tervon.ring] at a b c d
      simp [a, b, c, d]
    unfold Tervon.ringEn; simp only []; rw [if_neg (by omega)]; simp only [Bool.false_eq_true, if_false, h1', e]; rfl
  · have h2' : (HostFn.ring (Tervon.fn t f) i).state ≠ 0 := h2
    have i5 : i ≠ 5 := by omega
    have i4 : i ≠ 4 := by omega
    unfold Tervon.ringEn; simp only []; rw [if_neg (by omega)]; simp only [Bool.false_eq_true, if_false, h2', i5, i4]; rfl

theorem ringsArm : RingsArm := fun f i hf hi => tvDoes _ (fun _ => rfl) fun t ⟨h1, h2⟩ => by
  unfold Tervon.ringArm; simp only []; rw [if_pos ⟨hf, hi, h1, h2⟩]

theorem coalescingEnds : CoalescingEnds := fun f v e => by
  refine ⟨tvDoes _ (fun _ => rfl) fun t ⟨h1, h2, h3⟩ => ?_, tvDoes _ (fun _ => rfl) fun t ⟨h1, h2, h3⟩ => ?_⟩
  · unfold Tervon.coalesceExpiry; simp only [h1, h2, h3, if_true]
  · unfold Tervon.coalesceExpiry; simp only [h1, h2, h3, if_true]; rfl

theorem jobsAbort : JobsAbort := by
  refine ⟨jobDoes _ (fun _ _ => rfl) fun j t _ => rfl, jobDoesR _ (fun _ _ => rfl) fun j t h => ?_, fun k => ⟨jobDoesR _ (fun _ _ => rfl) fun j t ⟨⟨h1, h2, h3, h4⟩, h5⟩ => ?_, jobDoesR _ (fun _ _ => rfl) fun j t ⟨⟨h1, h2, h3, h4⟩, h5, h6⟩ => ?_, jobDoesR _ (fun _ _ => rfl) fun j t ⟨⟨h1, h2, h3, h4⟩, h5, h6⟩ => ?_⟩, jobDoesR _ (fun _ _ => rfl) fun j t ⟨h1, h2, h3⟩ => ?_⟩
  · unfold Tervon.abort; simp only []
    by_cases h3 : 3 < Job.byte j 40
    · rw [if_pos h3]
    · rw [if_neg h3, if_pos (by rcases h with h | h; exact absurd h h3; simp [h])]
  · unfold Tervon.abort; simp only []; rw [if_neg (by omega), if_neg (by simp [h2])]; simp only [h3, if_neg h4, h5, if_true]
  · unfold Tervon.abort; simp only []; rw [if_neg (by omega), if_neg (by simp [h2])]; simp only [h3, if_neg h4, h5, h6, if_true]; rfl
  · unfold Tervon.abort; simp only []; rw [if_neg (by omega), if_neg (by simp [h2])]; simp only [h3, if_neg h4, h5, h6]; rfl
  · unfold Tervon.abort; simp only []; rw [if_neg (by omega), if_neg (by simp [h2])]; simp only [h3]

theorem completionsPosted : CompletionsPosted := fun _ _ _ _ _ _ _ => rfl

theorem busMasterEnds : BusMasterEnds := fun f hf => tvDoesR _ (fun _ => rfl) fun t h => by
  unfold Tervon.busMasterOff; simp only []; rw [if_neg (by simp [h]; omega)]

theorem functionsReset : FunctionsReset := fun f hf => tvDoesR _ (fun _ => rfl) fun t _ => by
  unfold Tervon.functionReset; rw [if_neg (by omega)]

end Sys2Proof.Claims
end

