-- ==== Sys2Proof/Laws/CmdKale.lean ====
section
/-! SUPPORT. What each command of one family does, a lemma per command: Kale, stored data and partitions. -/

open Sys2Proof Sys2Proof.Machine

namespace Sys2Proof.Claims

theorem ensemblesLoaded : EnsemblesLoaded := fun x => by
  have key : ∀ j t, Job.byte j 43 = 0 → (if Job.byte j 43 = 0 then Tervon.kaleLoad x j t else t) = Tervon.kaleLoad x j t := fun j t h => if_pos h
  refine ⟨inputDoes _ (fun _ _ => rfl) fun j t ⟨⟨h0, ho⟩, h1⟩ => ⟨h0, ?_⟩, inputDoes _ (fun _ _ => rfl) fun j t ⟨⟨h0, ho⟩, h1, h2⟩ => ⟨h0, ?_⟩, inputDoes _ (fun _ _ => rfl) fun j t ⟨⟨h0, ho⟩, h1, h2, h3⟩ => ⟨h0, ?_⟩, inputDoes _ (fun _ _ => rfl) fun j t ⟨⟨h0, ho⟩, h1, h2, h3, h4⟩ => ⟨h0, ?_⟩, inputDoes _ (fun _ _ => rfl) fun j t ⟨⟨⟨h0, ho⟩, h1, h2, h3, h4⟩, h5⟩ => ⟨h0, ?_⟩, inputDoes _ (fun _ _ => rfl) fun j t ⟨⟨⟨h0, ho⟩, h1, h2, h3, h4⟩, h5, h6⟩ => ⟨h0, ?_⟩, inputDoes _ (fun _ _ => rfl) fun j t ⟨⟨⟨h0, ho⟩, h1, h2, h3, h4⟩, h5, h6⟩ => ⟨h0, ?_⟩⟩
  all_goals rw [key j t ho]; unfold Tervon.kaleLoad; simp only []
  · rw [if_pos]
    by_contra hx
    rw [not_or, Bool.not_eq_false, ne_eq, not_not] at hx
    exact h1 hx
  all_goals rw [if_neg (by rintro (a | a)
                           · rw [h1.1] at a; exact Bool.noConfusion a
                           · exact a h1.2)]
  · rw [not_or] at h2; rw [if_pos ⟨by simpa using h2.1, h2.2⟩]
  all_goals rw [if_neg (by rintro ⟨a, b⟩; rcases h2 with h | h
                           · rw [a] at h; exact Bool.noConfusion h
                           · exact b h)]
  · rw [if_pos (by simpa using h3)]
  all_goals rw [if_neg (by rw [h3]; simp)]
  all_goals beta_reduce at h4
  · rw [if_pos (by omega)]
  all_goals rw [if_neg (by omega)]
  · unfold renewed at h5
    obtain ⟨v, hv⟩ := Option.isSome_iff_exists.mp h5
    unfold renewed; simp only [hv, Option.getD_some]
  · unfold renewed at h5 h6; simp only [h5]; rw [if_pos h6]
  · unfold renewed at h5 h6; simp only [h5]; rw [if_neg h6]; rfl

theorem ensemblesUnloaded : EnsemblesUnloaded := by
  refine ⟨jobDoes _ (fun _ _ => rfl) fun j t ⟨h0, h1⟩ => ?_, jobDoes _ (fun _ _ => rfl) fun j t ⟨h0, h1, h2⟩ => ?_, jobDoes _ (fun _ _ => rfl) fun j t ⟨h0, h1, h2⟩ => ?_⟩
  all_goals rw [if_pos h0]; unfold Tervon.kaleUnload; simp only []
  · rw [if_pos h1]
  · rw [if_neg (by simp [h1]), if_pos h2]
  · rw [if_neg (by simp [h1]), if_neg (by simp [h2])]; rfl

theorem placementsEnd : PlacementsEnd := fun fn id => by
  refine ⟨tvDoesR _ (fun _ => rfl) fun t h => ?_, tvDoesR _ (fun _ => rfl) fun t ⟨h, h1, h2⟩ => ?_, tvDoesR _ (fun _ => rfl) fun t ⟨h, h1, h2⟩ => ?_⟩
  all_goals unfold Tervon.placementDone; simp only []
  · rw [if_pos h]
  · rw [if_neg (by simp [h, h1])]
    unfold renewed at h2
    obtain ⟨v, hv⟩ := Option.isSome_iff_exists.mp h2
    unfold renewed; simp only [hv, Option.getD_some]
  · rw [if_neg (by simp [h, h1])]; unfold renewed at h2; simp only [h2]; rfl

theorem scoresGiven : ScoresGiven := fun x => by
  refine ⟨inputDoesR _ (fun _ _ => rfl) fun j t ⟨⟨h0, ho⟩, h1⟩ => ⟨h0, ?_⟩, inputDoesR _ (fun _ _ => rfl) fun j t ⟨⟨h0, ho⟩, h1, h2⟩ => ⟨h0, ?_⟩, inputDoesR _ (fun _ _ => rfl) fun j t ⟨⟨h0, ho⟩, h1, h2, h3⟩ => ⟨h0, ?_⟩, inputDoesR _ (fun _ _ => rfl) fun j t ⟨⟨h0, ho⟩, h1, h2, h3, h4⟩ => ⟨h0, ?_⟩, inputDoesR _ (fun _ _ => rfl) fun j t ⟨⟨h0, ho⟩, h1, h2, h3, h4, h5⟩ => ⟨h0, ?_⟩, inputDoesR _ (fun _ _ => rfl) fun j t ⟨⟨⟨h0, ho⟩, h1, h2, h3, h4, h5⟩, h6⟩ => ⟨h0, ?_⟩, inputDoesR _ (fun _ _ => rfl) fun j t ⟨⟨⟨h0, ho⟩, h1, h2, h3, h4, h5⟩, h6⟩ => ⟨h0, ?_⟩⟩
  all_goals unfold Tervon.kaleScore; simp only []; rw [if_neg (by simp [ho])]
  · rw [if_pos (by omega)]
  all_goals rw [if_neg (by omega)]
  · rw [if_pos (by omega)]
  all_goals rw [if_neg (by omega)]
  · rw [if_pos h3]
  all_goals rw [if_neg (by simp [h3])]
  all_goals beta_reduce at h4
  · rw [if_pos (by omega)]
  all_goals rw [if_neg (by omega)]
  · rw [if_pos (by simpa using h5)]
  all_goals rw [if_neg (by rw [h5]; simp)]
  · rw [if_pos h6]
  · rw [if_neg (by simp [h6])]

theorem windowsLoaded : WindowsLoaded := fun l r w => by
  refine ⟨tvDoesR _ (fun _ => rfl) fun t h => ?_, tvDoesR _ (fun _ => rfl) fun t ⟨h, h1⟩ => ?_⟩
  all_goals unfold Tervon.windowLoaded
  · have : t.kruns.find? (fun r => r.wins.any fun w => decide (w.tile = l)) = none := by
      rw [List.find?_eq_none]; intro r hr hx
      rw [List.any_eq_false] at h; exact h r hr hx
    simp only [this]
  · simp only [h, h1]

theorem scrubCompares : ScrubCompares := fun l => by
  refine ⟨tvDoesR _ (fun _ => rfl) fun t h => ?_, fun p => ⟨tvDoesR _ (fun _ => rfl) fun t ⟨h, h1⟩ => ?_, fun k => ⟨tvDoesR _ (fun _ => rfl) fun t ⟨h, h1, h2⟩ => ?_, tvDoesR _ (fun _ => rfl) fun t ⟨h, h1, h2, h3⟩ => ?_⟩⟩⟩
  all_goals unfold Tervon.kaleScrub; simp only [h]
  · cases hf : (Tervon.ktile t p).assoc.find? (fun k => decide (k.1 = (Tervon.ktile t p).scrub)) with
    | none => rfl
    | some e => beta_reduce at h1; rw [hf] at h1; exact absurd h1 (by simp)
  · cases hf : (Tervon.ktile t p).assoc.find? (fun k => decide (k.1 = (Tervon.ktile t p).scrub)) with
    | none => beta_reduce at h1; rw [hf] at h1; exact absurd h1 (by simp)
    | some e =>
      obtain ⟨i, e⟩ := e
      have : e = k := by beta_reduce at h1; rw [hf] at h1; simpa using h1
      subst this
      simp only []
      rw [if_neg]
      rintro ⟨a, b⟩
      rcases h2 with h2 | h2
      · beta_reduce at h2; simp only [] at h2; rw [a] at h2; exact Bool.noConfusion h2
      · obtain ⟨c, d, e, f⟩ := h2
        rcases b with b | b | b | b
        · rw [c] at b; exact Bool.noConfusion b
        · exact b d
        · exact b e
        · exact b f
  · cases hf : (Tervon.ktile t p).assoc.find? (fun k => decide (k.1 = (Tervon.ktile t p).scrub)) with
    | none => beta_reduce at h1; rw [hf] at h1; exact absurd h1 (by simp)
    | some e =>
      obtain ⟨i, e⟩ := e
      have : e = k := by beta_reduce at h1; rw [hf] at h1; simpa using h1
      subst this
      simp only []
      rw [if_pos]
      refine ⟨h2, ?_⟩
      by_contra hx
      simp only [not_or, ne_eq, not_not, Bool.not_eq_true] at hx
      exact h3 hx

theorem sramScrubs : SramScrubs := fun r => by
  refine ⟨tvDoesR _ (fun _ => rfl) fun t h => ?_, tvDoesR _ (fun _ => rfl) fun t ⟨h, h1⟩ => ?_, tvDoesR _ (fun _ => rfl) fun t ⟨h, h1⟩ => ?_, tvDoesR _ (fun _ => rfl) fun t ⟨h, h1⟩ => ?_⟩
  all_goals unfold Tervon.scrubSram
  · rw [if_pos (by omega)]
  all_goals rw [if_neg (by omega)]; simp only [h1]

theorem hbmScrubs : HbmScrubs := fun a => by
  have clean : ∀ t o v, Cells.get none t.ecc.hbm (o / 8) = none → (Tervon.hbmWord t o v).1 = t := by
    intro t o v h; unfold Tervon.hbmWord; rw [h]
  refine ⟨tvDoesR _ (fun _ => rfl) fun t ⟨h0, h1, h2, h3⟩ => ?_, fun w => ⟨tvDoesR _ (fun _ => rfl) fun t ⟨h0, h1⟩ => ?_, tvDoesR _ (fun _ => rfl) fun t ⟨h0, h1⟩ => ?_⟩⟩
  all_goals unfold Tervon.scrubHbm; simp only [List.foldl_cons, List.foldl_nil]
  · rw [clean _ _ _ h0, clean _ _ _ h1, clean _ _ _ h2, clean _ _ _ h3]
  all_goals
    have e : Cells.get none t.ecc.hbm ((a / 32 * 32 + 0) / 8) = some w := by rw [h0]; simp [Cells.get]
    rw [show Tervon.hbmWord t (a / 32 * 32 + 0) _ = _ from by unfold Tervon.hbmWord; rw [e]]
    simp only [h1, Nat.add_zero]

theorem rowsRepaired : RowsRepaired := fun s c r => by
  refine ⟨tvDoes _ (fun _ => rfl) fun t h => ?_, tvDoes _ (fun _ => rfl) fun t h => ?_⟩
  · exact if_pos h
  · unfold Tervon.rowRepaired; rw [if_neg (by rw [h]; simp)]
    rfl

theorem eccTests : EccTests := fun v => by
  refine ⟨fun f hf => ⟨tvDoesR _ (fun _ => rfl) fun t _ => if_pos hf, tvDoes _ (fun _ => rfl) fun t _ => if_pos hf⟩, tvDoesR _ (fun _ => rfl) fun t h => ?_, tvDoes _ (fun _ => rfl) fun t h => ?_, tvDoesR _ (fun _ => rfl) fun t ⟨h, h1⟩ => ?_, tvDoes _ (fun _ => rfl) fun t ⟨h, h1⟩ => ?_, tvDoesR _ (fun _ => rfl) fun t ⟨h, h1, h2⟩ => ?_, tvDoes _ (fun _ => rfl) fun t ⟨h, h1, h2, h3⟩ => ?_, tvDoes _ (fun _ => rfl) fun t ⟨h, h1, h2, h3⟩ => ?_, tvDoes _ (fun _ => rfl) fun t ⟨h, h1, h2⟩ => ?_⟩
  all_goals unfold Tervon.eccTest; simp only []; rw [if_neg (by simp)]
  · rw [if_pos]
    by_contra hx
    simp only [not_or, not_and, Bool.not_eq_false, not_lt] at hx
    exact h hx
  · rw [if_pos]
    by_contra hx
    simp only [not_or, not_and, Bool.not_eq_false, not_lt] at hx
    exact h hx
  all_goals
    rw [if_neg (by
      obtain ⟨a, b, c⟩ := h
      simp only [not_or, not_and, Bool.not_eq_false, not_lt]
      exact ⟨a, b, c⟩)]
    simp only [h1, Bool.false_eq_true, if_true, if_false]
  all_goals
    unfold Tervon.eccAccess; simp only [h2, Bool.false_eq_true, Bool.true_eq_false, if_true, if_false]
  · rfl
  · rw [if_pos h3]
  · rw [if_neg h3]

theorem partitionsCommit : PartitionsCommit := fun x => by
  refine ⟨inputDoes _ (fun _ _ => rfl) fun j t ⟨⟨h0, ho⟩, h1⟩ => ⟨h0, ?_⟩, inputDoes _ (fun _ _ => rfl) fun j t ⟨⟨h0, ho⟩, h1, h2⟩ => ⟨h0, ?_⟩, inputDoes _ (fun _ _ => rfl) fun j t ⟨⟨h0, ho⟩, h1, h2, h3⟩ => ⟨h0, ?_⟩, inputDoes _ (fun _ _ => rfl) fun j t ⟨⟨h0, ho⟩, h1, h2, h3, h4⟩ => ⟨h0, ?_⟩, fun n => inputDoes _ (fun _ _ => rfl) fun j t ⟨⟨h0, ho⟩, h1, h2, h3, h4, h5⟩ => ⟨h0, ?_⟩, inputDoes _ (fun _ _ => rfl) fun j t ⟨⟨h0, ho⟩, h1, h2, h3, h4, h5, h6⟩ => ⟨h0, ?_⟩⟩
  all_goals unfold Tervon.partCommit; simp only []; rw [if_neg (by simp [ho])]
  · rw [if_pos h1]
  all_goals rw [if_neg (by simp [h1])]
  · rw [if_pos]
    by_contra hx
    simp only [not_or, not_lt, ne_eq, not_not, Bool.not_eq_false] at hx
    exact h2 hx
  all_goals
    rw [if_neg (by
      obtain ⟨a, b, c⟩ := h2
      simp only [not_or, not_lt, ne_eq, not_not, Bool.not_eq_false]
      exact ⟨a, b, c⟩)]
  · rw [if_pos h3]
  all_goals rw [if_neg (by simp only [Bool.not_eq_true]; exact h3)]
  · rw [if_pos h4]
  all_goals rw [if_neg (by simp only [Bool.not_eq_true]; exact h4)]
  · rcases h5 with h | ⟨h, h'⟩
    · simp only [h]
    · simp only [h, h']
  · simp only [h5, h6]

theorem drainsEnd : DrainsEnd := fun p => by
  refine ⟨tvDoes _ (fun _ => rfl) fun t h => ?_, fun e => ⟨tvDoes _ (fun _ => rfl) fun t ⟨h, h1⟩ => ?_, tvDoes _ (fun _ => rfl) fun t ⟨h, h1⟩ => ?_⟩⟩
  all_goals unfold Tervon.partDrain; simp only [h]
  · rfl
  · exact if_pos h1
  · (rw [if_neg (by omega)]) <;> rfl

theorem tilesCleared : TilesCleared := fun l => by
  refine ⟨tvDoes _ (fun _ => rfl) fun t h => if_pos h, fun p => tvDoes _ (fun _ => rfl) fun t ⟨h, h1⟩ => ?_⟩
  unfold Tervon.tileCleared; rw [if_neg (by rw [h]; simp)]; simp only [h1]

theorem sparesTested : SparesTested := fun s l e he => by
  subst he
  refine ⟨tvDoes _ (fun _ => rfl) fun t h => ?_, tvDoes _ (fun _ => rfl) fun t h => ?_, fun b => tvDoes _ (fun _ => rfl) fun t h => ?_⟩
  all_goals unfold Tervon.spareTested; simp only [h]
  all_goals rfl

end Sys2Proof.Claims
end

