-- ==== Sys2Proof/Laws/CmdLease.lean ====
section
/-! SUPPORT. What each command of one family does, a lemma per command: leases of a leaf, register frames and the lock. -/

open Sys2Proof Sys2Proof.Machine

namespace Sys2Proof.Claims

theorem leaseTake (l : Leaf) (rx : Rx) (p : LeaseReqP) (act : Leaf → Leaf) (h : takesLease l rx p) :
    Leaf.leaseFrame l rx p act = act (Leaf.received l rx) := by
  obtain ⟨h1, h2, h3, h4⟩ := h
  unfold Leaf.leaseFrame
  rw [Leaf.frameIn_receives _ _ _ _ _ h1]
  unfold Leaf.withDid
  rw [if_pos (.inl h2)]; beta_reduce; rw [if_neg]
  rcases h4 with h | h <;> simp only [h, ne_eq, not_true, decide_false, Bool.false_and, Bool.and_false, Bool.or_false, decide_eq_true_eq] <;> omega

theorem leaseAcquired : LeaseAcquired := fun who rx p => ⟨leafDoes _ (fun _ => rfl) fun l ⟨h1, h2⟩ => by
    rw [leaseTake _ _ _ _ h1]; unfold Leaf.acquire
    rw [if_neg (by rcases h2 with h | h <;> simp [h])]; rfl, leafDoes _ (fun _ => rfl) fun l ⟨h1, h2, h3⟩ => by
    rw [leaseTake _ _ _ _ h1]; unfold Leaf.acquire
    rw [if_pos (by simp [h2, h3])]⟩

theorem leaseRenewed : LeaseRenewed := fun who rx p => ⟨leafDoes _ (fun _ => rfl) fun l ⟨h1, h2, h3⟩ => by
    rw [leaseTake _ _ _ _ h1]; unfold Leaf.renew
    rw [if_pos (by simp [h2, h3])]; rfl, leafDoes _ (fun _ => rfl) fun l ⟨h1, h2⟩ => by
    rw [leaseTake _ _ _ _ h1]; unfold Leaf.renew
    rw [if_neg (by rcases h2 with h | h <;> simp [h])]⟩

theorem leaseEnds : LeaseEnds := fun who rx p => ⟨leafDoes _ (fun _ => rfl) fun l ⟨h1, h2, h3⟩ => by
    rw [leaseTake _ _ _ _ h1]; unfold Leaf.releaseLease
    rw [if_pos (by simp [h2, h3])], leafDoes _ (fun _ => rfl) fun l ⟨h1, h2⟩ => by
    rw [leaseTake _ _ _ _ h1]; unfold Leaf.releaseLease
    rw [if_neg (by rcases h2 with h | h <;> simp [h])], leafDoes _ (fun _ => rfl) fun l h1 => by
    rw [leaseTake _ _ _ _ h1]; rfl, leafDoes _ (fun _ => rfl) fun l ⟨h1, h2⟩ => by
    unfold Leaf.leaseExpiry; rw [if_pos (by simp [h1, h2])]⟩

theorem grantStates : GrantStates := by
  intro l r q h
  unfold Leaf.sendGrant
  rw [if_neg (by simp [h])]
  by_cases h2 : l.ring.lease.holder = 0xFF <;> simp [Leaf.hasHolder, h2]

theorem registersRead : RegistersRead := fun who rx did off count => by
  refine ⟨leafDoes _ (fun _ => rfl) fun l ⟨h1, h2, h3⟩ => ?_, leafDoes _ (fun _ => rfl) fun l ⟨h1, h2, h3⟩ => ?_⟩ <;>
  · unfold Leaf.regRdFrame; simp only []; rw [Leaf.frameIn_receives _ _ _ _ _ h1]
    unfold Leaf.withDid; rw [if_pos (.inl h2)]; unfold Leaf.doRegRd; beta_reduce; rw [h3]; rfl

theorem registersWritten : RegistersWritten := fun who rx did off ws => leafDoes _ (fun _ => rfl) fun l h =>
  Leaf.writeBy_ring l rx did off ws h

theorem writesAnswered : WritesAnswered := fun who rx did off count data st kept => by
  refine ⟨leafDoes _ (fun _ => rfl) fun l ⟨h1, h2, h3⟩ => ?_, leafDoes _ (fun _ => rfl) fun l ⟨h1, h2, h3, h4, h5⟩ => ?_⟩ <;>
  · unfold Leaf.regWrFrame; simp only []; rw [Leaf.frameIn_receives _ _ _ _ _ h1]
    unfold Leaf.withDid; rw [if_pos (.inl h2)]; unfold Leaf.doRegWr; beta_reduce; rw [h3]; try simp [*]

theorem lockFrame (l : Leaf) (rx : Rx) (did : Did) (op : Nat) (ho : op = 1 ∨ op = 3 ∨ op = 4) (h : takesLockOp l rx did (BitVec.ofNat 8 op)) :
    Leaf.lockOpBy l (.ring rx) did op = Leaf.ringAnswer rx (Leaf.regWrite (Leaf.received l rx) (.ring rx) op 0 0 []) := by
  obtain ⟨h1, h2, h3, h4, h5⟩ := h
  show Leaf.regWrFrame _ _ _ _ _ _ _ = _
  unfold Leaf.regWrFrame; simp only []; rw [Leaf.frameIn_receives _ _ _ _ _ h1]
  unfold Leaf.withDid; rw [if_pos (.inl h2)]; unfold Leaf.doRegWr; beta_reduce; rw [h3]
  have e : (BitVec.ofNat 8 op).toNat = op := by rcases ho with h | h | h <;> subst h <;> rfl
  simp only [h4, h5, e]
  rfl

theorem lockTaken : LockTaken := by
  refine ⟨fun who id did => leafDoes _ (fun _ => rfl) fun l h => ?_, fun who rx did => leafDoes _ (fun _ => rfl) fun l h => ?_, fun l rq => ⟨fun h => ?_, fun h h2 => ?_, fun h h2 => ?_⟩⟩
  · show Leaf.hostWrite l id 0x54 [1] = _
    unfold Leaf.hostWrite; simp only [h]; rfl
  · rw [lockFrame l rx did 1 (.inl rfl) h]; rfl
  · unfold Leaf.lockAcquire; rw [if_pos h]
  · unfold Leaf.lockAcquire; rw [if_neg h, if_pos (by simp only [Leaf.owns, h2, decide_true, Bool.and_true, decide_eq_true_eq]; rw [← h2]; exact h)]
  · unfold Leaf.lockAcquire; rw [if_neg h, if_neg (by simp [Leaf.owns, h2])]

theorem lockedWrites : LockedWrites := by
  refine ⟨fun who id did off ws => leafDoes _ (fun _ => rfl) fun l ⟨h1, h2, h3, h4⟩ => ?_, fun who rx did off ws => leafDoes _ (fun _ => rfl) fun l ⟨h1, h2, h3, h4, h5, h6, h7⟩ => ?_, fun l rq off ws => ⟨fun h => ?_, fun h h2 => ?_, fun w h h2 h3 h4 => ?_⟩⟩
  · show Leaf.hostWrite l id off.toNat (wordsOf (ws.flatMap fun w => le 4 w.toNat)) = _
    rw [wordsOf_words]
    have hne : off.toNat ≠ 0x54 := fun e => h2 (BitVec.eq_of_toNat_eq e)
    have ho : l.cfg.lock.owner ≠ 0 := by
      intro e; simp [Leaf.owns, e] at h3
    unfold Leaf.hostWrite Leaf.hostWords
    simp only [h1, if_neg hne, h3, h4, ho, Bool.false_eq_true, or_self, if_false, Bool.not_true, if_true]
    cases h : (Leaf.lockedWords l (.host id) off.toNat ws).2 == 0
    · have : (Leaf.lockedWords l (.host id) off.toNat ws).2 ≠ 0 := by simpa using h
      simp [this]
    · have : (Leaf.lockedWords l (.host id) off.toNat ws).2 = 0 := by simpa using h
      simp [this]
  · show Leaf.regWrFrame _ _ _ _ _ _ _ = _
    have hlen : (BitVec.ofNat 16 (List.flatMap (fun w : Word => le 4 w.toNat) ws).length) = BitVec.ofNat 16 (4 * ws.length) := by
      rw [flatMap_le_length]
    unfold Leaf.regWrFrame; rw [hlen]; simp only []; rw [Leaf.frameIn_receives _ _ _ _ _ h1]
    unfold Leaf.withDid; rw [if_pos (.inl h2)]; unfold Leaf.doRegWr; beta_reduce; rw [h3]
    have hle : 4 * ws.length ≤ 65535 := by
      simp only [regRangeOk, Bool.and_eq_true, decide_eq_true_eq] at h7; omega
    have e2 : (BitVec.ofNat 16 (4 * ws.length)).toNat = 4 * ws.length := by rw [BitVec.toNat_ofNat, Nat.mod_eq_of_lt]; omega
    simp only [h4, e2, flatMap_le_length, h5]
    rw [if_neg (by simp), if_neg (by simp)]
    unfold Leaf.regWrite
    rw [if_neg (by
      rintro (h | h | h)
      · simp at h
      · simp only [beq_iff_eq, decide_eq_true_eq, Bool.and_eq_true] at h; omega
      · rw [h7] at h; simp at h)]
    show Leaf.finishWrite _ rx _ _ = _
    simp only [BitVec.reduceToNat, wordsOf_words]
    rfl
  · unfold Leaf.lockedWords; simp [h]
  · unfold Leaf.lockedWords; rw [if_neg (by simp [h]), if_pos h2]
  · unfold Leaf.lockedWords; rw [if_neg (by simp [h]), if_neg (by simp; omega)]
    have e : Leaf.shadowWord l off w = (Leaf.setLock l { l.cfg.lock with shadow := l.cfg.lock.shadow ++ [(Leaf.shadowKey l off, w)] }, 0) := by
      unfold Leaf.shadowWord; simp only [h3]; rw [if_neg (by simp), if_neg (by omega)]
    simp only [List.zipIdx_cons, List.zipIdx_nil, List.foldl_cons, List.foldl_nil, Nat.mul_zero, Nat.add_zero, e, if_true]
    rfl

theorem lockEnds : LockEnds := by
  refine ⟨fun who id did => ⟨leafDoes _ (fun _ => rfl) fun l h => ?_, leafDoes _ (fun _ => rfl) fun l h => ?_⟩, fun who rx did => ⟨leafDoes _ (fun _ => rfl) fun l h => ?_, leafDoes _ (fun _ => rfl) fun l h => ?_⟩, fun l rq => ⟨fun h => ?_, fun h => ?_, fun h h2 h3 => ?_, fun h h2 => ?_⟩⟩
  · show Leaf.hostWrite l id 0x54 [3] = _
    unfold Leaf.hostWrite; simp only [h]; rfl
  · show Leaf.hostWrite l id 0x54 [4] = _
    unfold Leaf.hostWrite; simp only [h]; rfl
  · rw [lockFrame l rx did 3 (.inr (.inl rfl)) h]; rfl
  · rw [lockFrame l rx did 4 (.inr (.inr rfl)) h]; rfl
  · unfold Leaf.lockCommit Leaf.lockAbandon; simp [h]
  · unfold Leaf.lockAbandon; simp [h, Leaf.freeLock]
  · unfold Leaf.lockCommit; simp [h, h2, h3]
  · unfold Leaf.lockCommit; simp [h, h2]

theorem lockTimesOut : LockTimesOut := fun who => leafDoes _ (fun _ => rfl) fun l ⟨h1, h2⟩ => by
  have hb : LockState.byEnd l.cfg.lock = true := by rcases h1 with h | h <;> simp [LockState.byEnd, h]
  have hz : l.cfg.lock.owner ≠ 0 := by rcases h1 with h | h <;> rw [h] <;> decide
  unfold Leaf.lockTimeout; rw [if_pos (by simp [hb, h2])]
  unfold Leaf.loseLock; rw [if_neg hz]

end Sys2Proof.Claims
end

