-- ==== Sys2Proof/Laws/CmdLink.lean ====
section
/-! SUPPORT. What each command of one family does, a lemma per command: the link layer. -/

open Sys2Proof Sys2Proof.Machine

namespace Sys2Proof.Claims

theorem ackReleases : AckReleases := by
  intro s p seq i h hl hi
  show execAck p seq s = _
  unfold execAck
  rw [portStep_modPort s p h (fun n q => LinkPort.onAck q seq n)]
  simp [LinkPort.onAck, LinkPort.up, hl, LinkPort.release, hi]

theorem nakReplays : NakReplays := by
  intro s p seq h hl hi
  show execNak p seq s = _
  unfold execNak
  rw [portStep_onPort s p h (fun n q => LinkPort.onNak p q n)]
  by_cases hf : (State.port s p).fruitless < 4 <;> simp [LinkPort.onNak, LinkPort.up, hl, LinkPort.replayAll, hi, hf, replayed]
  · rw [if_neg (by omega)]
  · rw [if_pos (by omega)]

theorem replayTimeoutReplays : ReplayTimeoutReplays := by
  intro s p h hl hi hd
  show execReplayTimeout p s = _
  unfold execReplayTimeout
  rw [portStep_onPort s p h (fun n q => LinkPort.replayTimeout p q n)]
  by_cases hf : (State.port s p).fruitless < 4 <;> simp [LinkPort.replayTimeout, LinkPort.up, hl, LinkPort.replayAll, hi, hf, replayed, hd]
  · rw [if_neg (by omega)]
  · rw [if_pos (by omega)]

theorem ackTimerAcks : AckTimerAcks := by
  intro s p h hl hd
  show execAckTimer p s = _
  unfold execAckTimer
  rw [portStep_onPort s p h (fun n q => LinkPort.ackTimer p q n)]
  simp [LinkPort.ackTimer, LinkPort.up, hl, hd, LinkPort.sendAck]

theorem damagedFrameNaks : DamagedFrameNaks := by
  intro s p bad h hl
  show execDamagedFrame p bad s = _
  unfold execDamagedFrame
  rw [portStep_onPort s p h (fun _ q => LinkPort.damaged p q bad)]
  cases bad <;> cases hn : (State.port s p).nakSent <;> simp [LinkPort.damaged, LinkPort.up, hl, hn] <;> rw [← hn]

theorem creditSets : CreditSets := by
  intro s p c n u k h hl
  show execCredit p c n u k s = _
  unfold execCredit
  rw [portStep_modPort s p h (fun _ q => LinkPort.onCredit q c.toNat n u k)]
  simp only [LinkPort.onCredit, LinkPort.up, hl]
  by_cases h1 : u ≤ 4 ∧ k ≤ (State.port s p).laneCtl.toNat
  · rw [if_neg (by decide), if_neg (by omega), if_pos h1]
  · rw [if_neg (by decide), if_pos (by omega), if_neg h1]

theorem creditAdvertised : CreditAdvertised := by
  intro s p c h hl hc
  show execCreditAdvertise p c s = _
  unfold execCreditAdvertise
  rw [portStep_onPort s p h (fun _ q => LinkPort.advertise p q c.toNat)]
  simp [LinkPort.advertise, LinkPort.up, hl, hc]

theorem codewordLossRetrains : CodewordLossRetrains := by
  intro s p h hl
  show execCodewordLoss p s = _
  unfold execCodewordLoss
  rw [portStep_modPort s p h (fun n q => LinkPort.codewordLoss q n)]
  simp [LinkPort.codewordLoss, LinkPort.up, hl, LinkPort.startRetrain]

theorem resumeReplays : ResumeReplays := by
  intro s p seq a b c d i h hr hi
  show execResume p seq _ s = _
  unfold execResume
  rw [portStep_onPort s p h (fun n q => LinkPort.onResume p q seq [a, b, c, d] n)]
  have : (State.port s p).retrain.isNone = false := by cases hq : (State.port s p).retrain <;> simp_all
  simp [LinkPort.onResume, this, hi]

theorem spareAlignedAnswers : SpareAlignedAnswers := by
  intro s p h hl
  show execSpareLaneAligned p s = _
  unfold execSpareLaneAligned
  rw [portStep_onPort s p h (fun _ q => LinkPort.laneAligned p q)]
  simp [LinkPort.laneAligned, LinkPort.up, hl]

theorem laneSwapSwaps : LaneSwapSwaps := by
  intro s p h hl hr
  show execLaneSwap p _ s = _
  unfold execLaneSwap
  rw [portStep_modPort s p h (fun _ q => LinkPort.laneSwap q (State.port s p).rxSpare)]
  have : (State.port s p).rxSpare = 0 ∨ (State.port s p).rxSpare = 1 := by omega
  rcases this with h0 | h0 <;> simp [LinkPort.laneSwap, hl, h0, List.range, List.range.loop]

theorem recalCompletes : RecalCompletes := by
  intro s p h hr
  show execLaneRecalComplete p s = _
  unfold execLaneRecalComplete
  rw [portStep_modPort s p h (fun _ q => LinkPort.recalDone q)]
  have : (State.port s p).recal.isSome = true := by cases hq : (State.port s p).recal <;> simp_all
  simp [LinkPort.recalDone, this]

theorem unknownBlockCounted : UnknownBlockCounted := by
  intro s p b h
  show execUnknownControlBlock p b s = _
  unfold execUnknownControlBlock
  rw [portStep_modPort s p h (fun _ q => if knownBlock b then q else { q with ctlDiscarded := satAdd32 q.ctlDiscarded 1 })]

theorem shaperRefills : ShaperRefills := by
  intro s p h hd
  show execShaperRefill p s = _
  unfold execShaperRefill
  rw [portStep_modPort s p h (fun n q => LinkPort.refill q n)]
  simp only [LinkPort.refill, if_pos hd, LinkPort.refillClass, Quad.get, Quad.set]

end Sys2Proof.Claims
end

