-- ==== Sys2Proof/Laws/CmdMirror.lean ====
section
/-! SUPPORT. What each command of one family does, a lemma per command: mirroring and time adjustment. -/

open Sys2Proof Sys2Proof.Machine

namespace Sys2Proof.Claims

theorem mirrorPeriods : MirrorPeriods := by
  refine ⟨tvDoes _ (fun _ => rfl) fun t h => ?_, tvDoes _ (fun _ => rfl) fun t ⟨⟨h0, h1, h2⟩, h3⟩ => ?_, tvDoes _ (fun _ => rfl) fun t ⟨⟨h0, h1, h2⟩, h3, h4⟩ => ?_, tvDoes _ (fun _ => rfl) fun t ⟨⟨h0, h1, h2⟩, h3, h4⟩ => ?_⟩
  all_goals unfold Tervon.mirrorPeriod
  · rw [if_pos]; · rfl
    by_contra hx
    simp only [not_or, Bool.not_eq_false, Bool.not_eq_true, not_lt] at hx
    exact h hx
  all_goals rw [if_neg (by simp only [not_or, Bool.not_eq_false, Bool.not_eq_true, not_lt]; exact ⟨h0, h1, h2⟩)]
  · exact if_pos h3
  · refine Eq.trans (if_neg h3) ?_
    show Tervon.sendMirrors _ _ t.mir.dirty = _
    rw [h4]
    have : ({ t with mir.lastPeriod := Tervon.now t, mir.dirty := [] } : Tervon) = { t with mir.lastPeriod := Tervon.now t } := by
      have : t.mir = { t.mir with dirty := [] } := by rw [← h4]
      conv_rhs => rw [this]
    exact this
  · exact if_neg h3

theorem mirrorsApply : MirrorsApply := fun rx q items => by
  refine ⟨fun hp => frameDoes _ (fun _ => rfl) fun t _ => ?_, fun hp => frameDoes _ (fun _ => rfl) fun t _ => ?_⟩
  · unfold pairFrame; rw [hp]; rfl
  · unfold pairFrame
    cases h : rx.port with
    | tv k => by_cases h8 : k = 8
              · subst h8; exact absurd h hp
              · match k, h8 with
                | 0, _ | 1, _ | 2, _ | 3, _ | 4, _ | 5, _ | 6, _ | 7, _ => rfl
                | 8, h8 => exact absurd rfl h8
                | n + 9, _ => rfl
    | _ => rfl

theorem itemsApply : ItemsApply := fun t i => by
  refine ⟨fun h => ?_, fun h => ?_⟩
  all_goals unfold Tervon.applyItem; simp only [h, Bool.false_eq_true, if_true, if_false]
  all_goals cases i <;> rfl

theorem mirrorsAcked : MirrorsAcked := fun rx q d hp => by
  refine ⟨fun s => frameDoes _ (fun _ => rfl) fun t ⟨h, h1⟩ => ?_, fun s => frameDoes _ (fun _ => rfl) fun t ⟨h, h1⟩ => ?_, frameDoes _ (fun _ => rfl) fun t h => ?_⟩
  all_goals unfold pairFrame; rw [hp]; simp only []; unfold Tervon.mirrorAcked; simp only [h]
  · rw [if_pos h1]; rfl
  · rw [if_neg (by simp [h1])]

theorem lagLimits : LagLimits := by
  refine ⟨tvDoes _ (fun _ => rfl) fun t h => ?_, tvDoes _ (fun _ => rfl) fun t ⟨h, h1⟩ => ?_, tvDoes _ (fun _ => rfl) fun t ⟨h, h1, h2⟩ => ?_, tvDoes _ (fun _ => rfl) fun t ⟨h, h1, h2⟩ => ?_⟩
  all_goals unfold Tervon.mirrorLag
  · have h' : ¬ Tervon.lagOver t (Tervon.lagLimNs t) = true := h
    rw [if_pos (by simp [h'])]; rfl
  · rw [if_neg (by simp [h, h1])]; unfold Tervon.markUnmirrored; simp only [h1, Bool.false_eq_true, if_false]
  · rw [if_neg (by rw [h, h1]; obtain ⟨v, hv⟩ := Option.isSome_iff_exists.mp h2; rw [hv]; simp)]; unfold Tervon.markUnmirrored; simp only [h1, if_true]
  · rw [if_pos (by simp [h1, h2])]; rfl

theorem statesSent : StatesSent := by
  refine ⟨tvDoes _ (fun _ => rfl) fun t h => ?_, tvDoes _ (fun _ => rfl) fun t ⟨h, h1⟩ => ?_⟩
  all_goals unfold Tervon.buddyPeriod
  · rw [if_pos]; · rfl
    by_contra hx
    simp only [not_or, Bool.not_eq_false, not_lt] at hx
    exact h hx
  · rw [if_neg (by simp only [not_or, Bool.not_eq_false, not_lt]; exact ⟨h, h1⟩)]
    unfold buddyStateOf Tervon.ownState b2n Tervon.heldKeys
    cases t.mir.unmirrored <;> cases Tervon.lagOver t 1000000 <;> cases Tervon.podLocked t <;> rfl

theorem statesHeard : StatesHeard := fun rx p hp => by
  have hl : ∀ t : Tervon, Tervon.linkUp? { t with mir.lastState := some (Tervon.now t), mir.buddy := some p } 8 = Tervon.linkUp? t 8 := fun _ => rfl
  have hg : ∀ t : Tervon, Tervon.lagOver { t with mir.lastState := some (Tervon.now t), mir.buddy := some p } (Tervon.lagLimNs t) = Tervon.lagOver t (Tervon.lagLimNs t) := fun _ => rfl
  have hb : ∀ t : Tervon, Tervon.buddyHeard { t with mir.lastState := some (Tervon.now t), mir.buddy := some p } = true := fun t => by
    unfold Tervon.buddyHeard; simp only [Option.getD_some]
    have : Tervon.now { t with mir.lastState := some (Tervon.now t), mir.buddy := some p } = Tervon.now t := rfl
    rw [this]; simp
  refine ⟨frameDoes _ (fun _ => rfl) fun t h => ?_, frameDoes _ (fun _ => rfl) fun t ⟨h, h1, h2, h3, h4⟩ => ?_, frameDoes _ (fun _ => rfl) fun t ⟨h, h1, h2, h3, h4⟩ => ?_⟩
  all_goals unfold pairFrame; rw [hp]; simp only []; unfold Tervon.buddyIn Tervon.remirror
  · exact if_pos (Or.inl h)
  all_goals
    rw [if_neg (by
      rintro (a | a | a | a | a)
      · have : t.mir.unmirrored = false := a
        rw [h] at this; exact Bool.noConfusion this
      · have : t.mir.resend.isSome = true := a
        rw [h1] at this; exact Bool.noConfusion this
      · rw [hl, h2] at a; exact Bool.noConfusion a
      · rw [hb] at a; exact Bool.noConfusion a
      · have := hg t
        have e : Tervon.lagOver { t with mir.lastState := some (Tervon.now t), mir.buddy := some p } (Tervon.lagLimNs t) = true := a
        rw [hg, h3] at e; exact Bool.noConfusion e)]
  · beta_reduce at h4; rw [h4]; rfl
  · beta_reduce at h4
    cases hi : Tervon.allItems { t with mir.lastState := some (Tervon.now t), mir.buddy := some p } with
    | nil => exact absurd hi h4
    | cons a b => rfl

theorem buddyLost : BuddyLost := by
  refine ⟨tvDoes _ (fun _ => rfl) fun t h => ?_, tvDoes _ (fun _ => rfl) fun t ⟨⟨h, h1⟩, h2⟩ => ?_, tvDoes _ (fun _ => rfl) fun t ⟨⟨h, h1⟩, h2, h3⟩ => ?_, tvDoes _ (fun _ => rfl) fun t h => ?_, tvDoes _ (fun _ => rfl) fun t ⟨h, h1, h2⟩ => ?_⟩
  · unfold Tervon.buddyAbsent Tervon.buddyHeard
    rw [if_pos]; · rfl
    by_contra hx
    simp only [not_or, Bool.not_eq_false, decide_eq_true_eq, not_le] at hx
    exact h ⟨hx.1, hx.2.1⟩
  · unfold Tervon.buddyAbsent Tervon.buddyHeard
    rw [if_neg (by simp [h, h2]; omega)]; unfold Tervon.unmirror Tervon.markUnmirrored; simp only [h2, Bool.false_eq_true, if_false]
  · unfold Tervon.buddyAbsent
    rw [if_pos (by simp [h2, h3])]; rfl
  · unfold Tervon.buddyQuiet
    rw [if_pos]; · rfl
    by_contra hx
    simp only [not_or, Bool.not_eq_false, Bool.not_eq_true, not_le] at hx
    exact h hx
  · unfold Tervon.buddyQuiet
    rw [if_neg (by simp only [not_or, Bool.not_eq_false, Bool.not_eq_true, not_le]; exact ⟨h, h1, h2⟩)]

theorem bulkLoads : BulkLoads := fun rx sect off data bm total crc hp => by
  refine ⟨frameDoes _ (fun _ => rfl) fun t h => ?_, frameDoes _ (fun _ => rfl) fun t h => ?_, frameDoes _ (fun _ => rfl) fun t h => ?_, frameDoes _ (fun _ => rfl) fun t h => ?_⟩
  all_goals unfold pairFrame; rw [hp]; simp only []
  · unfold Tervon.stateLoad; rw [if_neg (by omega)]
  · unfold Tervon.stateLoad; rw [if_pos h]; rfl
  · unfold Tervon.stateDone; exact if_pos h
  · unfold Tervon.stateDone; exact if_neg h

theorem timeJob {c : JobRef → Instr} {op : Nat} {H : Job → Tervon → Prop} {E : Job → Tervon → Tervon} (f : Job → Tervon → Tervon)
    (hc : ∀ r s, exec (c r) s = timeStep (fun t => Tervon.withJob t r op f) s) (h : ∀ j t, H j t → f j t = E j t) :
    JobDoes c op H fun j t => Tervon.noteClass (E j t) :=
  fun r j => timeDoes _ (hc r) fun t ⟨h1, h2, h3, h4⟩ => by
    unfold Tervon.withJob; rw [h1]; simp only [h2, h3, and_self, if_true]; exact h j t h4

theorem secondsSet : SecondsSet := by
  refine ⟨timeJob _ (fun _ _ => rfl) fun j t ⟨h0, h1⟩ => ?_, timeJob _ (fun _ _ => rfl) fun j t ⟨h0, h1, h2⟩ => ?_, timeJob _ (fun _ _ => rfl) fun j t ⟨h0, ⟨h1, h2⟩, h3⟩ => ?_, timeJob _ (fun _ _ => rfl) fun j t ⟨h0, ⟨h1, h2⟩, h3, h4⟩ => ?_, fun k => timeJob _ (fun _ _ => rfl) fun j t ⟨h0, ⟨h1, h2⟩, h3, h4⟩ => ?_, timeJob _ (fun _ _ => rfl) fun j t h0 => ?_⟩
  all_goals try rw [if_pos h0]
  all_goals try unfold Tervon.adjustSecond
  · rw [if_pos h1]
  · rw [if_neg (by simp [h1]), if_pos h2]
  · rw [if_neg (by simp [h1]), if_neg (by simp [h2]), if_pos h3]
  · rw [if_neg (by simp [h1]), if_neg (by simp [h2]), if_neg (by simp [h3])]
    have : (Tervon.setSecond t (BitVec.ofNat 64 (j.u64 48)) (TimeDom.ns t.time : Rat)).time.root.kept = none := h4
    simp only [this]
  · rw [if_neg (by simp [h1]), if_neg (by simp [h2]), if_neg (by simp [h3])]
    have : (Tervon.setSecond t (BitVec.ofNat 64 (j.u64 48)) (TimeDom.ns t.time : Rat)).time.root.kept = some k := h4
    simp only [this]
  · rw [if_neg (by omega)]

theorem steersApply : SteersApply := by
  refine ⟨timeJob _ (fun _ _ => rfl) fun j t ⟨h0, h1⟩ => ?_, timeJob _ (fun _ _ => rfl) fun j t ⟨h0, h1, h2⟩ => ?_, timeJob _ (fun _ _ => rfl) fun j t ⟨h0, h1, h2, h3⟩ => ?_, timeJob _ (fun _ _ => rfl) fun j t ⟨h0, h1, h2, h3⟩ => ?_⟩
  all_goals rw [if_pos h0]; unfold Tervon.adjustSteer; simp only []
  · rw [if_pos (by omega)]
  all_goals rw [if_neg (by omega)]
  · rw [if_pos h2]
  · rw [if_neg (by simp [h2]), if_pos h3]
  · rw [if_neg (by simp [h2]), if_neg (by simp [h3])]

theorem ptpSent : PtpSent := fun x => by
  have hi : ∀ {H : Job → Tervon → Prop} {E : Job → Tervon → Tervon}, (∀ j t, H j t → Tervon.adjustPtp x j t = E j t) →
      JobDoes (.timeAdjustSendPtp · x) 0x15 (fun j t => Job.inputOk j x = true ∧ Job.byte j 40 = 2 ∧ H j t) fun j t => Tervon.noteClass (E j t) := by
    intro H E h
    refine timeJob (fun j t => if Job.inputOk j x then (if Job.byte j 40 = 2 then Tervon.adjustPtp x j t else t) else t) (fun _ _ => rfl) fun j t ⟨h0, h1, h2⟩ => ?_
    rw [if_pos h0, if_pos h1, h j t h2]
  refine ⟨hi fun j t h => ?_, hi fun j t ⟨h, h1⟩ => ?_, hi fun j t ⟨h, h1⟩ => ?_⟩
  all_goals unfold Tervon.adjustPtp; simp only []
  · rw [if_pos h]
  · rw [if_neg (by omega), if_pos h1]
  · rw [if_neg (by omega), if_neg (by simp [h1])]

end Sys2Proof.Claims
end

