-- ==== Sys2Proof/Laws/CmdPower.lean ====
section
/-! SUPPORT. What each command of one family does, a lemma per command: registers, Cellar and resets of a leaf. -/

open Sys2Proof Sys2Proof.Machine

namespace Sys2Proof.Claims

theorem leafWordsRead : LeafWordsRead := fun who id off => by
  have base : ∀ l : Leaf, Leaf.portOpen l = true → Leaf.read32By l (.host id) off = (let r := Leaf.read32 l id.toNat off; Leaf.answer r.1 (r.2.setWidth 64)) := by
    intro l h; show Leaf.hostRead32 l id off = _; unfold Leaf.hostRead32; simp only [h]; rfl
  refine ⟨leafDoes _ (fun _ => rfl) fun l ⟨h, h1, h2, h3, h4⟩ => ?_, leafDoes _ (fun _ => rfl) fun l ⟨h, h1, h2⟩ => ?_, leafDoes _ (fun _ => rfl) fun l ⟨h, h1, h2⟩ => ?_, leafDoes _ (fun _ => rfl) fun l h => ?_⟩
  · have n30 : off ≠ 0x30 := by rintro rfl; revert h1; decide
    have n : ¬ (0x1500 ≤ off ∧ off < 0x1580 ∧ off % 32 = 16) := by omega
    rw [base l h]; simp only [Leaf.read32, if_neg n30, h1, h2, if_true, Leaf.touchCvRes, if_neg n, Leaf.touchTime, if_neg h3]
  · have n30 : off ≠ 0x30 := by rintro rfl; revert h1; decide
    rw [base l h]; simp only [Leaf.read32, if_neg n30, h1, if_neg h2, if_true]
  · rw [base l h]; simp only [Leaf.read32, if_neg h2, h1, Bool.false_eq_true, if_false]
  · show Leaf.hostRead32 l id off = _; unfold Leaf.hostRead32; simp only [h]; rfl

theorem leafWordsWritten : LeafWordsWritten := fun id off w => by
  refine ⟨eitherLeafDoes _ (fun _ _ => rfl) fun l ⟨h, h1⟩ => ?_, eitherLeafDoes _ (fun _ _ => rfl) fun l ⟨h, h1, h2, h3, h4, h5⟩ => ?_⟩
  · show Leaf.writeBy l (.host id) l.ring.did off [w] = _
    rw [Leaf.writeBy_host _ _ _ _ _ h]; unfold Leaf.write32; rw [if_pos h1]; rfl
  · show Leaf.writeBy l (.host id) l.ring.did off [w] = _
    have h8 : off / 8 * 8 = off := by omega
    have n : ¬ (0x200 ≤ off ∧ off < 0x240) := by omega
    rw [Leaf.writeBy_host _ _ _ _ _ h]; unfold Leaf.write32
    simp only [h1, h2, h8, h4, h5, if_neg n, Bool.false_eq_true, if_false, if_true]; rfl

theorem ringWrites : RingWrites := by
  intro who rx did w d e hb page s own wr hl
  refine ⟨rfl, rfl, rfl, rfl, rfl, rfl, rfl, rfl, rfl, rfl, rfl, rfl, rfl, rfl, rfl, rfl, rfl, rfl⟩

theorem wakePhrases : WakePhrases := fun who => ⟨leafDoes _ (fun _ => rfl) fun l h => by unfold Leaf.wakePhrase; rw [if_pos h], leafDoes _ (fun _ => rfl) fun l h => by unfold Leaf.wakePhrase; rw [if_neg h]⟩

theorem cellarCommits : CellarCommits := fun who => ⟨leafDoes _ (fun _ => rfl) fun l ⟨h1, h2⟩ => by unfold Leaf.cellarCommit; rw [if_pos ⟨h1, h2⟩], fun l h => by
  unfold Leaf.commitReady; rcases h with h | h | h <;> simp [h]⟩

theorem wakeBegins : WakeBegins := by
  refine ⟨fun who => ⟨leafDoes _ (fun _ => rfl) fun l h => ?_, leafDoes _ (fun _ => rfl) fun l ⟨h, h2⟩ => ?_⟩, fun l g h => ?_⟩
  · unfold Leaf.wakeStart; rw [if_pos h]
  · unfold Leaf.lcGood; rw [if_pos ⟨h, by rw [h2]; rfl⟩]
  · unfold Leaf.wakeReady LeafPower.late; rw [h]; simp

theorem wakeCompletes : WakeCompletes := fun who => by
  refine ⟨leafDoes _ (fun _ => rfl) fun l ⟨h1, h2, h3, h4⟩ => ?_, leafGives _ (fun _ => rfl) fun l ⟨h1, h2, h3⟩ => ?_⟩
  · unfold Leaf.wakeComplete; rw [if_pos ⟨h1, h2⟩]; simp only [h3, h4, Bool.false_eq_true, if_false, if_true]
  · unfold Leaf.wakeComplete; rw [if_pos ⟨h1, h2⟩]; simp only [h3, if_true]

theorem powerLosses : PowerLosses := fun who => ⟨leafDoes _ (fun _ => rfl) fun l h => by unfold Leaf.lcLoss; rw [h]; rfl, leafDoes _ (fun _ => rfl) fun l h => by unfold Leaf.retention; rw [h]; rfl⟩

theorem leafColdResets : LeafColdResets := fun who cause => by
  refine ⟨leafDoes _ (fun _ => rfl) fun l h => ?_, fun fs hf hl => leafDoes _ (fun _ => rfl) fun l h => ?_⟩
  · unfold Leaf.coldReset Leaf.powerTear; simp only [h]; rfl
  · have e : fs.filter (fun i => decide (i < 4096)) = fs := List.filter_eq_self.2 fun i hi => decide_eq_true (hf i hi)
    have t : fs.take 128 = fs := List.take_of_length_le hl
    have d : fs.drop 128 = [] := List.drop_eq_nil_of_le hl
    unfold Leaf.coldReset Leaf.powerTear; simp only [h, e, t, d, List.foldl_nil]; rfl

theorem leafCoreResets : LeafCoreResets := fun who => ⟨leafDoes _ (fun _ => rfl) fun l ⟨h1, h2, h3⟩ => by
    unfold Leaf.coreResetPin Leaf.coreReset; simp only [h1, h2, h3, List.length_nil, if_true, Bool.or_false], fun l h => by
    simp only [Leaf.coreClear, Leaf.powerTear, h]
    refine ⟨?_, ?_, ?_, ?_, ?_, ?_, ?_, ?_, ?_, ?_, ?_, ?_, ?_, ?_, ?_, ?_, ?_⟩ <;> first | rfl | trivial⟩

theorem hostPortResets : HostPortResets := fun who => by
  refine ⟨leafDoes _ (fun _ => rfl) fun l ⟨h1, h2⟩ => ?_, leafDoes _ (fun _ => rfl) fun l h => ?_, leafDoes _ (fun _ => rfl) fun l h => ?_⟩
  · unfold Leaf.hostPortReset; rw [if_neg (by rcases h2 with h | h <;> simp [h])]; simp only [h1]; rfl
  · unfold Leaf.hostPortRelease; rw [if_pos h]
  · unfold Leaf.hostPortRelease; rw [h]; rfl

theorem portPulses : PortPulses := fun who i c => ⟨leafDoes _ (fun _ => rfl) fun l _ => rfl, leafDoes _ (fun _ => rfl) fun l _ => rfl⟩

theorem stewardsHang : StewardsHang := fun hb => tvDoes _ (fun _ => rfl) fun t ⟨h1, h2, h3⟩ => by
  unfold Tervon.stewardTimeout; simp only []; rw [if_pos ⟨h1, h2, h3⟩]

theorem tervonTemperatures : TervonTemperatures := fun xs => tvDoes _ (fun _ => rfl) fun t _ => rfl

end Sys2Proof.Claims
end

