-- ==== Sys2Proof/Laws/CmdRequest.lean ====
section
/-! SUPPORT. What each command of one family does, a lemma per command: leases and requests of a Tervon. -/

open Sys2Proof Sys2Proof.Machine

namespace Sys2Proof.Claims

theorem takeoversEnd : TakeoversEnd := fun a => keyDoes _ (fun _ _ _ => rfl) fun k t ⟨h1, h2, h3⟩ => by
  unfold Tervon.takeoverEnds; simp only [h1, h2, h3, and_self, if_true]

theorem leasesRenew : LeasesRenew := keyDoes _ (fun _ _ _ => rfl) fun k t ⟨h1, h2, h3, h4, h5⟩ => by
  unfold Tervon.renewDue; simp only []
  rw [if_pos]
  rcases h5 with ⟨h, h'⟩ | ⟨r, h, h'⟩ <;> simp [h, h', h1, h2, h3, h4]

theorem leasesLapse : LeasesLapse := ⟨keyDoes _ (fun _ _ _ => rfl) fun k t ⟨h1, h2⟩ => by
    unfold Tervon.lostLocal; simp only []; rw [if_pos (by simp [h1, h2])], fun a => keyDoes _ (fun _ _ _ => rfl) fun k t ⟨h1, h2⟩ => by
    unfold Tervon.fenceHoldEnds; simp only [h1, h2, if_true]⟩

theorem grantKey (rx : Rx) (p : LeaseGrantP) (key : Nat) (h : rxKey rx = some key) (t : Tervon) :
    Tervon.grantFrame rx p t = Tervon.leaseGrant key rx.hdr p t := by unfold Tervon.grantFrame; rw [h]

theorem grantsTaken : GrantsTaken := fun rx p key hk => by
  refine ⟨frameDoes _ (fun _ => rfl) fun t ⟨h1, h2⟩ => ?_, frameDoes _ (fun _ => rfl) fun t ⟨h1, h2⟩ => ?_, frameDoes _ (fun _ => rfl) fun t ⟨h1, h2, h3⟩ => ?_⟩
  · rw [grantKey _ _ _ hk]; unfold Tervon.leaseGrant; simp only [h1, h2, decide_true, if_true]; rfl
  · rw [grantKey _ _ _ hk]; unfold Tervon.leaseGrant; simp only [h1, h2, decide_true, decide_false, if_true, Bool.false_eq_true, if_false]; rfl
  · rw [grantKey _ _ _ hk]; unfold Tervon.leaseGrant; simp only [h1]; exact if_pos ⟨by simp [h2], h3⟩

theorem grantsRefused : GrantsRefused := fun rx p key hk => by
  refine ⟨frameDoes _ (fun _ => rfl) fun t ⟨h1, h2⟩ => ?_, frameDoes _ (fun _ => rfl) fun t ⟨h1, h2⟩ => ?_, frameDoes _ (fun _ => rfl) fun t ⟨h1, h2⟩ => ?_, frameDoes _ (fun _ => rfl) fun t h1 => ?_, frameDoes _ (fun _ => rfl) fun t h1 => ?_⟩
  · rw [grantKey _ _ _ hk]; unfold Tervon.leaseGrant; simp only [h1, h2]; rfl
  · rw [grantKey _ _ _ hk]; unfold Tervon.leaseGrant; simp only [h1, h2]; rfl
  · rw [grantKey _ _ _ hk]; unfold Tervon.leaseGrant; simp only [h1, h2]; rfl
  · rw [grantKey _ _ _ hk]; unfold Tervon.leaseGrant; rcases h1 with h1 | h1 <;> simp only [h1] <;> rfl
  · rw [grantKey _ _ _ hk]; unfold Tervon.leaseGrant; simp only [h1]; rfl

theorem leasesWanted : LeasesWanted := fun t k => by
  refine ⟨fun h => ?_, fun h h2 => ?_, fun h h2 => ?_⟩ <;> unfold Tervon.wantLease
  · simp [h]
  · simp [h, h2]; rfl
  · simp [h, h2]

theorem attestationsChecked : AttestationsChecked := fun a b => by
  refine ⟨keyDoes _ (fun _ _ _ => rfl) fun k t ⟨h1, h2, h3, h4⟩ => ?_, keyDoes _ (fun _ _ _ => rfl) fun k t ⟨h1, h2, h3, h4⟩ => ?_,
    keyDoes _ (fun _ _ _ => rfl) fun k t ⟨h1, h2, h3, h4, h6⟩ => ?_, fun c => keyDoes _ (fun _ _ _ => rfl) fun k t ⟨h1, h2, h3, h4, h6, h5⟩ => ?_⟩
  · unfold Tervon.attestation; simp only [h1, h3, Bool.false_eq_true, if_false]
    rw [if_neg (by simp [h2]), if_neg (by simp [h4])]
  · have n : ¬ b ≤ Tervon.now t := by omega
    have e : (Tervon.ent (Tervon.setLease t k { Tervon.lease t k with attestBy := none }) k).state = 0 := h4
    unfold Tervon.attestation; simp only [h1, n, h3, Bool.false_eq_true, if_false, decide_false, e, if_true]
  · have n : ¬ b ≤ Tervon.now t := by omega
    have e : (Tervon.ent (Tervon.setLease t k { Tervon.lease t k with attestBy := none }) k).state ≠ 0 := h4
    unfold Tervon.attestation; simp only [h1, n, h3, Bool.false_eq_true, if_false, decide_false]
    exact (if_neg e).trans (if_pos h6)
  · have n : ¬ b ≤ Tervon.now t := by omega
    have e : (Tervon.ent (Tervon.setLease t k { Tervon.lease t k with attestBy := none }) k).state ≠ 0 := h4
    unfold Tervon.attestation; simp only [h1, n, h3, Bool.false_eq_true, if_false, decide_false]
    refine (if_neg e).trans ((if_neg (by simp [h6])).trans ?_)
    simp only [] at h5
    rw [h5]

theorem attestationOrder : AttestationOrder := by
  intro t k a
  simp only [Tervon.attestFails]
  refine ⟨fun h => by rw [if_pos h], fun h h2 => by rw [if_neg (by simp [h]), if_pos h2], fun h h2 h3 => by rw [if_neg (by simp [h]), if_neg (by simp [h2]), if_pos h3],
    fun h h2 h3 h4 => by rw [if_neg (by simp [h]), if_neg (by simp [h2]), if_neg (by simp [h3]), if_pos h4],
    fun h h2 h3 h4 => by rw [if_neg (by simp [h]), if_neg (by simp [h2]), if_neg (by simp [h3]), if_neg (by omega)]⟩

theorem answersTaken : AnswersTaken := fun rx p r => by
  refine ⟨frameDoes _ (fun _ => rfl) fun t h => ?_, fun key hk => frameDoes _ (fun _ => rfl) fun t ⟨h1, h2⟩ => ?_⟩
  · unfold Tervon.regRsp; rw [h]
  · unfold Tervon.regRsp; rw [hk, h1]; simp only [Tervon.relayBack, h2]; rfl

theorem requestsTimeOut : RequestsTimeOut := fun tag leaf r => by
  refine ⟨tvDoes _ (fun _ => rfl) fun t ⟨h1, h2, h3⟩ => ?_, tvDoes _ (fun _ => rfl) fun t ⟨h1, h2⟩ => ?_⟩
  · unfold Tervon.requestTimeout; simp only [h1]; rw [if_pos ⟨h2, h3⟩]
  · unfold Tervon.requestTimeout; simp only [h1]; rw [if_neg (by rcases h2 with h | h <;> simp [h])]

theorem sleepersWait : SleepersWait := fun rx p key hk => by
  refine ⟨frameDoes _ (fun _ => rfl) fun t ⟨h1, h2⟩ => ?_, frameDoes _ (fun _ => rfl) fun t ⟨h1, h2, h3⟩ => ?_⟩
  · unfold Tervon.sleeping; rw [if_pos h1, hk]; unfold Tervon.refused; simp only []
    exact if_pos h2
  · unfold Tervon.sleeping; rw [if_neg (by rw [h1]; decide), hk]; simp only [Tervon.awake]
    have e : (Tervon.setLease t key { Tervon.lease t key with asleep := false }).ros.reqs = t.ros.reqs := rfl
    have f : t.ros.reqs.filter (fun r => r.asleep && TvReq.goesTo r (some key) 0) = [] := by
      rw [List.filter_eq_nil_iff]; intro r hr hx
      rw [List.any_eq_false] at h2; exact h2 r hr hx
    have q : (Tervon.leafRec (Tervon.setLease t key { Tervon.lease t key with asleep := false }) (Tervon.keyDid (Tervon.setLease t key { Tervon.lease t key with asleep := false }) key)).queued = [] := by
      rw [← h3]; rfl
    simp only [e, f, List.foldl_nil]
    rw [q]; rfl

end Sys2Proof.Claims
end

