-- ==== Sys2Proof/Laws/CmdRoster.lean ====
section
/-! SUPPORT. What each command of one family does, a lemma per command: leaf jobs, Larder and roster. -/

open Sys2Proof Sys2Proof.Machine

namespace Sys2Proof.Claims

theorem toLeaf_fails (t : Tervon) (j : Job) (s : Nat) (act : Dest → Tervon → Tervon) (h : Tervon.resolve t (Job.did j) = .fails s) :
    Tervon.toLeaf t j act = Tervon.complete (looked j t) j s := by unfold Tervon.toLeaf; simp only [h]; rfl

theorem toLeaf_key (t : Tervon) (j : Job) (k : Nat) (act : Dest → Tervon → Tervon) (h : Tervon.resolve t (Job.did j) = .key k) :
    Tervon.toLeaf t j act = act (.key k) (looked j t) := by unfold Tervon.toLeaf; simp only [h]; rfl

theorem leafRead_ok (j : Job) (t : Tervon) (h1 : j.phase = 0) (h2 : regRangeOk (Job.u16 j 40) (Job.u16 j 42) = true) :
    Tervon.leafRead j t = Tervon.toLeaf t j fun d t => Tervon.jobSend t j 1 d (.regRd (Job.did j) (BitVec.ofNat 16 (Job.u16 j 40)) (BitVec.ofNat 16 (Job.u16 j 42))) := by
  unfold Tervon.leafRead; rw [if_neg (by simp [h1]), if_neg]
  unfold regRangeOk at h2; rw [h2]; decide

theorem jobsUnrouted : JobsUnrouted := fun status x => by
  refine ⟨jobDoes _ (fun _ _ => rfl) fun j t ⟨h1, h2, h3⟩ => ?_, jobDoes _ (fun _ _ => rfl) fun j t ⟨h1, h2, h3, h4⟩ => ?_, jobDoes _ (fun _ _ => rfl) fun j t ⟨h1, h2, h3⟩ => ?_, inputDoes _ (fun _ _ => rfl) fun j t ⟨h0, h1, h2, h3, h4⟩ => ⟨h0, ?_⟩⟩
  · rw [leafRead_ok _ _ h1 h2, toLeaf_fails _ _ _ _ h3]
  · unfold Tervon.ledgerStart; simp only []; rw [if_neg (by simp [h1]), if_neg (by omega), toLeaf_fails _ _ _ _ h4]
  · unfold Tervon.snapNow; rw [if_neg (by simp [h1]), if_neg (by omega), toLeaf_fails _ _ _ _ h3]
  · obtain ⟨v, hv⟩ := Option.isSome_iff_exists.1 h3
    unfold Tervon.cfgStart; rw [if_neg (by simp [h1]), if_neg (by simp [h2]), hv]; simp only []
    rw [toLeaf_fails _ _ _ _ h4]

theorem leafReads : LeafReads := fun k => by
  refine ⟨jobDoes _ (fun _ _ => rfl) fun j t ⟨h1, h2, h3⟩ => ?_, jobDoes _ (fun _ _ => rfl) fun j t ⟨h1, h2⟩ => ?_⟩
  · rw [leafRead_ok _ _ h1 h2, toLeaf_key _ _ _ _ h3]
  · unfold Tervon.leafRead; rw [if_neg (by simp [h1]), if_pos]; unfold regRangeOk at h2; exact h2

theorem leafWrites : LeafWrites := fun x k => by
  refine ⟨inputDoes _ (fun _ _ => rfl) fun j t ⟨⟨h1, h2, h3, h4, h5, h6, h7, h8⟩, h9⟩ => ⟨h1, ?_⟩, fun s => inputDoes _ (fun _ _ => rfl) fun j t ⟨⟨h1, h2, h3, h4, h5, h6, h7, h8⟩, h9⟩ => ⟨h1, ?_⟩⟩
  · unfold Tervon.leafWrite; simp only []; rw [if_neg (by simp [h2]), if_neg (by omega), if_neg (by simp [h7]), toLeaf_key _ _ _ _ h8]
    beta_reduce; rw [h9]; rfl
  · unfold Tervon.leafWrite; simp only []; rw [if_neg (by simp [h2]), if_neg (by omega), if_neg (by simp [h7]), toLeaf_key _ _ _ _ h8]
    beta_reduce; rw [h9]

theorem appointJobs : AppointJobs := by
  refine ⟨jobDoes _ (fun _ _ => rfl) fun j t ⟨h1, h2⟩ => ?_, fun k => jobDoes _ (fun _ _ => rfl) fun j t ⟨h1, h2, h3, h4⟩ => ?_⟩
  · unfold Tervon.appoint; simp only []; rw [if_neg (by simp [h1]), if_pos h2]; rfl
  · unfold Tervon.appoint; simp only []; rw [if_neg (by simp [h1]), if_neg h2, if_neg h3, toLeaf_key _ _ _ _ h4]

theorem leafJobs : LeafJobs := fun k x => by
  refine ⟨jobDoes _ (fun _ _ => rfl) fun j t ⟨h1, h2, h3⟩ => ?_, jobDoes _ (fun _ _ => rfl) fun j t ⟨h1, h2, h3, h4⟩ => ?_, inputDoes _ (fun _ _ => rfl) fun j t ⟨h0, h1, h2, h3, h4⟩ => ⟨h0, ?_⟩, inputDoes _ (fun _ _ => rfl) fun j t ⟨h0, h1, h2, h3⟩ => ⟨h0, ?_⟩, inputDoes _ (fun _ _ => rfl) fun j t ⟨h0, h1, h2⟩ => ⟨h0, ?_⟩⟩
  · unfold Tervon.snapNow; rw [if_neg (by simp [h1]), if_neg (by omega), toLeaf_key _ _ _ _ h3]
  · unfold Tervon.ledgerStart; simp only []; rw [if_neg (by simp [h1]), if_neg (by omega), toLeaf_key _ _ _ _ h4]
  · obtain ⟨v, hv⟩ := Option.isSome_iff_exists.1 h3
    unfold Tervon.cfgStart; rw [if_neg (by simp [h1]), if_neg (by simp [h2]), hv]; simp only []
    rw [toLeaf_key _ _ _ _ h4]
  · unfold Tervon.cfgStart; rw [if_neg (by simp [h1]), if_neg (by simp [h2]), h3]
  · unfold Tervon.cfgStart; rw [if_neg (by simp [h1]), if_pos h2]

theorem leafAnswers : LeafAnswers := by
  intro t j st dup data
  refine ⟨fun h => ?_, fun h h2 => ?_, fun h => ?_, fun h h2 => ?_, fun h => ?_, rfl, rfl, rfl, rfl, rfl, rfl, rfl, rfl⟩ <;> unfold Tervon.jobAnswer <;> rw [h] <;> simp only []
  · rfl
  · rw [if_neg h2]
  · rw [if_pos h2]
  · rfl

theorem cachesRefill : CachesRefill := fun k hk => by
  have n4 : ¬ 4 < k := by omega
  refine ⟨tvDoes _ (fun _ => rfl) fun t h => ?_, tvDoes _ (fun _ => rfl) fun t h => ?_, tvDoes _ (fun _ => rfl) fun t h => ?_⟩
  · unfold Tervon.larderRefill; simp only []; rw [if_neg n4, if_pos h]
  · unfold Tervon.larderRefill; simp only []; rw [if_neg n4, if_neg (by omega), if_pos h]
  · unfold Tervon.larderRefill; simp only []; rw [if_neg n4, if_neg (by omega), if_neg (by omega)]

theorem buffersGranted : BuffersGranted := by
  intro t n owner k h1 h2
  refine ⟨fun h => ?_, fun h => ?_⟩ <;> unfold Tervon.larderAlloc <;> rw [h1] <;> simp only []
  · rw [if_pos ⟨h2, h⟩]; exact ⟨_, rfl⟩
  · rw [if_neg]; rintro ⟨_, a, b⟩; rcases h with h | ⟨h, h'⟩ <;> omega

theorem dumpsFetched : DumpsFetched := fun d => by
  have base : ∀ (j : Job) (t : Tervon) (b : Bool), holdsDump j t d = b → dumpNamed j t = some d → Tervon.dumpFetch j t =
      (let drop := bit (Job.byte j 48) 0
       let free := bit (Job.byte j 48) 1
       let bs := (d.bytes.drop (Job.u32 j 44)).take (Job.outSize j)
       let left := d.bytes.length - Job.u32 j 44 - bs.length
       if !b then
         if free then Tervon.complete t j 27
         else if drop then Tervon.complete (Tervon.larderDrop t d.handle j.ref.fn) j 0
         else Tervon.complete t j 28
       else
         let t := Tervon.output t j bs
         let t := if drop then Tervon.larderDrop t d.handle j.ref.fn else t
         if free then
           let (t, ok) := Tervon.larderFree t d.handle j.ref.fn
           if ok then Tervon.complete t j 0 bs.length left else Tervon.complete t j 27
         else Tervon.complete t j 0 bs.length left) := by
    intro j t b hb hd
    rw [← hb]
    unfold Tervon.dumpFetch
    unfold dumpNamed at hd
    simp only [hd]
    rfl
  refine ⟨jobDoes _ (fun _ _ => rfl) fun j t ⟨h1, h2, h3, h4⟩ => ?_, jobDoes _ (fun _ _ => rfl) fun j t ⟨h1, h2, h3, h4⟩ => ?_, jobDoes _ (fun _ _ => rfl) fun j t h1 => ?_, jobDoes _ (fun _ _ => rfl) fun j t ⟨h1, h2, h3, h4⟩ => ?_, jobDoes _ (fun _ _ => rfl) fun j t ⟨h1, h2, h3⟩ => ?_⟩
  · rw [base _ _ _ h2 h1]; simp only [h3, h4]; rfl
  · rw [base _ _ _ h2 h1]; simp only [h3, h4]; rfl
  · unfold dumpNamed at h1; unfold Tervon.dumpFetch; simp only [h1]
  · rw [base _ _ _ h2 h1]; simp only [h3, h4]; rfl
  · rw [base _ _ _ h2 h1]; simp only [h3]; rfl

theorem rosterAdmits : RosterAdmits := fun x a => by
  refine ⟨jobDoes _ (fun _ _ => rfl) fun j t ⟨h0, h1, h2, h3, h4⟩ => ?_, jobDoes _ (fun _ _ => rfl) fun j t ⟨h0, h1, h2, h3⟩ => ?_, jobDoes _ (fun _ _ => rfl) fun j t ⟨h0, h1, h2, h3⟩ => ?_, jobDoes _ (fun _ _ => rfl) fun j t ⟨h0, h1, h2, h3⟩ => ?_⟩
  · beta_reduce; rw [if_pos h0, if_pos h1]; unfold Tervon.admitGiven; rw [if_neg (by simp [h2]), if_neg (by simp [h3]), if_neg (by simp [h4])]
  · beta_reduce; rw [if_pos h0, if_pos h1]; unfold Tervon.admitGiven; rw [if_neg (by simp [h2]), if_pos h3]
  · beta_reduce; rw [if_pos h0]; unfold Tervon.admitObserved; rw [if_neg (by simp [h1]), if_neg (by simp [h2])]; unfold placed at h3; rw [h3]
  · beta_reduce; rw [if_pos h0]; unfold Tervon.admitObserved; rw [if_neg (by simp [h1]), if_neg (by simp [h2])]; unfold placed at h3; rw [h3]

theorem rosterFences : RosterFences := by
  refine ⟨jobDoes _ (fun _ _ => rfl) fun j t ⟨h0, h1, h2⟩ => ?_, jobDoes _ (fun _ _ => rfl) fun j t h0 => ?_, jobDoes _ (fun _ _ => rfl) fun j t ⟨h1, h2⟩ => ?_, jobDoes _ (fun _ _ => rfl) fun j t ⟨h1, h2, h3, h4, h5⟩ => ?_, jobDoes _ (fun _ _ => rfl) fun j t ⟨h1, h2, h3, h4, h5⟩ => ?_, jobDoes _ (fun _ _ => rfl) fun j t ⟨h1, h2, h3, h4, h5⟩ => ?_⟩
  · beta_reduce; rw [h0]; simp only []; unfold Tervon.fence; rw [if_neg (by simp [h1]), if_neg (by simp [h2])]; rfl
  · beta_reduce
    obtain ⟨n, hn⟩ : ∃ n, Job.byte j 42 = n + 3 := ⟨Job.byte j 42 - 3, by omega⟩
    rw [hn]; rfl
  · unfold Tervon.retire; rw [if_neg (by simp [h1]), if_pos h2]
  · unfold placed at h3 h4 h5
    have e : Tervon.setState t (posKey (Job.byte j 40) (Job.byte j 41)) 0 = t := by unfold Tervon.setState; simp only [h3, if_true]
    unfold Tervon.retire; rw [if_neg (by simp [h1]), if_neg (by simp [h2])]; simp only [e, h3, h4, if_true, placed]
    rw [if_neg]
    intro hx
    have : ∀ e, Tervon.lease (Tervon.markWarm (Tervon.setEnt t (posKey (Job.byte j 40) (Job.byte j 41)) e)) (posKey (Job.byte j 40) (Job.byte j 41)) = Tervon.lease t (posKey (Job.byte j 40) (Job.byte j 41)) := fun _ => rfl
    rw [this, h5] at hx; exact Bool.noConfusion hx
  · unfold placed at h3 h4 h5
    unfold Tervon.retire; rw [if_neg (by simp [h1]), if_neg (by simp [h2])]; simp only [h3, h4, if_false, placed]
    rw [if_neg]
    · intro hx
      have : ∀ v d w e, Tervon.lease (Tervon.markWarm (Tervon.setEnt (Tervon.setRoute v d w) (posKey (Job.byte j 40) (Job.byte j 41)) e)) (posKey (Job.byte j 40) (Job.byte j 41)) = Tervon.lease v (posKey (Job.byte j 40) (Job.byte j 41)) := fun _ _ _ _ => rfl
      rw [this, h5] at hx; exact Bool.noConfusion hx
  · unfold placed at h3 h4 h5
    unfold Tervon.retire; rw [if_neg (by simp [h1]), if_neg (by simp [h2])]; simp only [h3, h4, if_false, placed]
    rw [if_pos]
    have : ∀ v d w e, Tervon.lease (Tervon.markWarm (Tervon.setEnt (Tervon.setRoute v d w) (posKey (Job.byte j 40) (Job.byte j 41)) e)) (posKey (Job.byte j 40) (Job.byte j 41)) = Tervon.lease v (posKey (Job.byte j 40) (Job.byte j 41)) := fun _ _ _ _ => rfl
    rw [this, h5]

theorem rosterSilence : RosterSilence := keyDoes _ (fun _ _ _ => rfl) fun k t h => by
  unfold Tervon.rosterSilent; simp only []; rw [if_pos h]

theorem warmRosters : WarmRosters := by
  refine ⟨tvDoes _ (fun _ => rfl) fun t h => ?_, tvDoes _ (fun _ => rfl) fun t h => ?_, fun g c r => tvDoes _ (fun _ => rfl) fun t ⟨h, h2⟩ => ?_, tvDoes _ (fun _ => rfl) fun t ⟨h, h2⟩ => ?_⟩
  · unfold Tervon.warmHbm; rw [if_neg (by simpa using h)]
  · unfold Tervon.warmHbm; rw [if_pos (by simp [h])]
  · unfold Tervon.warmNor; rw [if_neg (by simpa using h)]; simp only [h2]
  · unfold Tervon.warmNor; rw [if_neg (by simpa using h)]; simp only [h2]; rfl

end Sys2Proof.Claims
end

