-- ==== Sys2Proof/Laws/CmdRoute.lean ====
section
/-! SUPPORT. What each command of one family does, a lemma per command: sending, forwarding and ROUTED. -/

open Sys2Proof Sys2Proof.Machine

namespace Sys2Proof.Claims

theorem quadSetGet (c : Nat) (q : Quad (List Frame)) (f : Frame) (rest : List Frame) (h : Quad.get q c = f :: rest) : Quad.set q c ((Quad.get q c).drop 1) = Quad.set q c rest := by rw [h]; rfl

theorem sendHeadOwn (p : PortId) (q : LinkPort) (c : Nat) (now : Nat) (fill : Hdr → Hdr) (f : Frame) (rest : List Frame)
    (h1 : Quad.get q.transit c = []) (h2 : Quad.get q.own c = f :: rest) (h3 : LinkPort.replayRoom q f = true) :
    (LinkPort.sendHead p q c now fill).1 = sentOwn p q c f rest now fill ∧
    (LinkPort.sendHead p q c now fill).2 = some ((({ (LinkPort.stampAlive q { f with hdr := fill f.hdr }).2 with hdr := { (LinkPort.stampAlive q { f with hdr := fill f.hdr }).2.hdr with linkSeq := q.txSeq } } : Frame)), false) := by
  have hh : LinkPort.head q c = some (f, true) := by unfold LinkPort.head; rw [h1, h2]
  unfold LinkPort.sendHead sentOwn; rw [hh]; simp only [h3, Bool.not_true, Bool.false_eq_true, if_false, if_true]
  have e1 : (LinkPort.stampAlive q { f with hdr := fill f.hdr }).1.own = q.own := rfl
  have e2 : (LinkPort.stampAlive q { f with hdr := fill f.hdr }).1.tokens = q.tokens := rfl
  have e3 : (LinkPort.stampAlive q { f with hdr := fill f.hdr }).1.deficit = q.deficit := rfl
  simp only [e1, e2, h2, List.drop_succ_cons, List.drop_zero]
  by_cases hc : c = 0
  · simp only [hc, if_true]; exact ⟨rfl, rfl⟩
  · simp only [hc, if_false]; exact ⟨rfl, rfl⟩

theorem scheduled : Scheduled := by
  have mine : ∀ (p : PortId) (q : LinkPort) (now : Nat) (fill : Hdr → Hdr) (f : Frame) (rest : List Frame), mayStart0 q f rest →
      LinkPort.schedule p q now fill = LinkPort.sendHead p q 0 now fill := by
    intro p q now fill f rest ⟨a, b, c, d, e, g, i⟩
    have he : LinkPort.eligible q 0 = true := by
      unfold LinkPort.eligible LinkPort.head
      have c' : Quad.get q.transit 0 = [] := c
      have d' : Quad.get q.own 0 = f :: rest := d
      rw [c', d']; simp [e, g]
    unfold LinkPort.schedule LinkPort.choose
    rw [if_neg (by unfold LinkPort.up; simp [a, b]), if_pos he]
  refine ⟨fun k f rest => ⟨fun s hk h => ?_, fun s hk h => ?_, fun s c hk hc1 hc3 h1 h2 h3 h4 h5 h6 h7 h8 h9 h10 h11 => ?_⟩, fun s p f rest hp hk h hf => ?_⟩
  · show (if k ≤ 12 then tvStep (fun t => Tervon.schedule t k) s else .next s) = _
    rw [if_pos hk.1]
    show Host.Outcome.next (State.putTv s (Tervon.putLink s.tv k (LinkPort.schedule (.tv k) (Tervon.port s.tv k) (Tervon.now s.tv) (Tervon.fill s.tv k)).1)) = _
    have : LinkPort.schedule (.tv k) (Tervon.port s.tv k) (Tervon.now s.tv) (Tervon.fill s.tv k) = ((Tervon.port s.tv k, []), none) := by
      unfold LinkPort.schedule LinkPort.up
      have h' : (Tervon.port s.tv k).link ≠ 2 ∨ (Tervon.port s.tv k).halted = true := h
      rw [if_pos (by rcases h' with h' | h'
                     · rw [decide_eq_false h']; rfl
                     · simp [h'])]
    rw [this]; rfl
  · show (if k ≤ 12 then tvStep (fun t => Tervon.schedule t k) s else .next s) = _
    rw [if_pos hk]
    show Host.Outcome.next (State.putTv s (Tervon.putLink s.tv k (LinkPort.schedule (.tv k) (Tervon.port s.tv k) (Tervon.now s.tv) (Tervon.fill s.tv k)).1)) = _
    rw [mine _ _ _ _ f rest h, (sendHeadOwn _ _ 0 _ _ f rest h.2.2.1 h.2.2.2.1 h.2.2.2.2.2.2).1]
  · show (if k ≤ 12 then tvStep (fun t => Tervon.schedule t k) s else .next s) = _
    rw [if_pos hk]
    show Host.Outcome.next (State.putTv s (Tervon.putLink s.tv k (LinkPort.schedule (.tv k) (Tervon.port s.tv k) (Tervon.now s.tv) (Tervon.fill s.tv k)).1)) = _
    have hh : LinkPort.head (Tervon.port s.tv k) c = some (f, true) := by unfold LinkPort.head; rw [h6, h7]
    have he : LinkPort.eligible (Tervon.port s.tv k) c = true := by unfold LinkPort.eligible; rw [hh]; simp [h8, h9]
    have hr : LinkPort.choose (Tervon.port s.tv k) = (Tervon.port s.tv k, some c) := by
      unfold LinkPort.choose; rw [if_neg (by simp [h3])]
      have : (LinkPort.eligible (Tervon.port s.tv k) 1 || LinkPort.eligible (Tervon.port s.tv k) 2 || LinkPort.eligible (Tervon.port s.tv k) 3) = true := by
        obtain rfl | rfl | rfl : c = 1 ∨ c = 2 ∨ c = 3 := by omega
        all_goals simp [he]
      rw [if_pos this]; unfold LinkPort.rounds; simp only [h4, hh, he, h5, if_true]; rw [if_pos h11]
    have : LinkPort.schedule (.tv k) (Tervon.port s.tv k) (Tervon.now s.tv) (Tervon.fill s.tv k) = LinkPort.sendHead (.tv k) (Tervon.port s.tv k) c (Tervon.now s.tv) (Tervon.fill s.tv k) := by
      unfold LinkPort.schedule; rw [if_neg (by unfold LinkPort.up; simp [h1, h2]), hr]
    rw [this, (sendHeadOwn _ _ c _ _ f rest h6 h7 h10).1]
  · have hport : Leaf.hasPort s.leaf p = true := by unfold Leaf.hasPort; rcases hp with rfl | rfl <;> rw [hk]
    have : Leaf.schedule s.leaf p = (let r := sentOwn p (Leaf.fed s.leaf p) 0 f rest (Leaf.now s.leaf) (leafFill s.leaf)
       Leaf.putLink s.leaf p ({ r.1 with own := ⟨r.1.own.c0, [], [], []⟩ }, r.2)) := by
      unfold Leaf.schedule
      rw [hport]
      simp only [Bool.not_true, Bool.false_eq_true, if_false]
      rw [show (fun h : Hdr => { h with epoch := if Leaf.hasHolder s.leaf then s.leaf.ring.lease.epoch else 0 }) = leafFill s.leaf from rfl]
      rw [mine _ _ _ _ f rest h]
      have hs := sendHeadOwn p (Leaf.fed s.leaf p) 0 (Leaf.now s.leaf) (leafFill s.leaf) f rest h.2.2.1 h.2.2.2.1 h.2.2.2.2.2.2
      rw [hs.2, hs.1]
      simp only [Bool.false_eq_true, if_false]
      have : (LinkPort.stampAlive (Leaf.fed s.leaf p) { f with hdr := leafFill s.leaf f.hdr }).2.hdr.cls = 0 := hf
      rw [if_pos this]
    rcases hp with rfl | rfl
    · show Host.Outcome.next (State.putLeaf s .ring (Leaf.schedule s.leaf .west)) = _
      rw [this]
    · show Host.Outcome.next (State.putLeaf s .ring (Leaf.schedule s.leaf .east)) = _
      rw [this]

theorem nopsIgnored : NopsIgnored := fun rx => by
  refine ⟨leafDoes _ (fun _ => rfl) fun l h => ?_, frameDoes _ (fun _ => rfl) fun t _ => rfl⟩
  rw [Leaf.frameIn_receives _ _ _ _ _ h]; rfl

theorem framesForwarded : FramesForwarded := fun p f hp h1 h2 => by
  have key : ∀ (act : Leaf → Leaf) (l : Leaf), Leaf.Passes l ⟨p, f.hdr, false, false⟩ f.pay →
      Leaf.frameIn l ⟨p, f.hdr, false, false⟩ f.pay f.pay act = Leaf.modPort (Leaf.taken l ⟨p, f.hdr, false, false⟩) (otherPort p) fun q =>
        { q with transit := Quad.set q.transit f.hdr.cls.toNat (Quad.get q.transit f.hdr.cls.toNat ++ [f]) } := by
    intro act l hl
    rw [Leaf.frameIn_passes l _ f.pay f.pay act hl]
    rw [if_neg (by rw [h1]; exact Bool.false_ne_true)]; rfl
  intro s hl
  obtain ⟨hd, pay⟩ := f
  cases pay with
  | timeSync q => exact absurd h1 (by intro hx; exact Bool.noConfusion hx)
  | timeFollow q => exact absurd h1 (by intro hx; exact Bool.noConfusion hx)
  | delayReq q => exact absurd rfl (h2 q)
  | leaseReq q =>
    have e : ∀ s, exec (.frameTransit p ⟨hd, .leaseReq q⟩) s = transitLease .ring ⟨p, hd, false, false⟩ q s := by rcases hp with rfl | rfl <;> exact fun _ => rfl
    have eta : ∀ n : Nat, q.op.toNat = n → n < 256 → { q with op := BitVec.ofNat 8 n } = q := by
      intro n hn _
      obtain ⟨o, a, b, c⟩ := q
      simp only [LeaseReqP.mk.injEq, and_self, and_true]
      subst hn; simp
    rw [e]; unfold transitLease
    split
    · next hn =>
        have := eta 0 hn (by decide)
        unfold execLeaseAcquire
        have h0 : ({ q with op := 0 } : LeaseReqP) = q := this
        rw [h0]; exact congrArg (fun l => Host.Outcome.next (State.putLeaf s .ring l)) (key _ _ hl)
    · next hn =>
        have h0 : ({ q with op := 1 } : LeaseReqP) = q := eta 1 hn (by decide)
        unfold execLeaseRenew
        rw [h0]; exact congrArg (fun l => Host.Outcome.next (State.putLeaf s .ring l)) (key _ _ hl)
    · next hn =>
        have h0 : ({ q with op := 2 } : LeaseReqP) = q := eta 2 hn (by decide)
        unfold execLeaseRelease
        rw [h0]; exact congrArg (fun l => Host.Outcome.next (State.putLeaf s .ring l)) (key _ _ hl)
    · next hn =>
        have h0 : ({ q with op := 3 } : LeaseReqP) = q := eta 3 hn (by decide)
        unfold execLeaseFence
        rw [h0]; exact congrArg (fun l => Host.Outcome.next (State.putLeaf s .ring l)) (key _ _ hl)
    · exact congrArg (fun l => Host.Outcome.next (State.putLeaf s .ring l)) (key _ _ hl)
  | _ =>
    rcases hp with rfl | rfl <;>
    first
      | exact congrArg (fun l => Host.Outcome.next (State.putLeaf s .ring l)) (key _ _ hl)

theorem transitRuns : TransitRuns := fun k h s => by
  refine ⟨fun _ _ => rfl, fun _ => rfl, fun _ _ => rfl, fun _ => rfl, fun _ _ _ => rfl, fun _ => rfl, fun _ => rfl, fun _ => rfl, fun _ => rfl, fun _ _ => rfl, fun _ => rfl, fun _ => rfl, fun _ _ _ _ _ _ _ => rfl⟩

theorem routedOn : RoutedOn := fun rx dx dy sx sy hop h body => by
  refine ⟨fun k hk => frameDoesR _ (fun _ => rfl) fun t ⟨h0, h1⟩ => ?_, fun k => frameDoesR _ (fun _ => rfl) fun t ⟨h0, h1, h2⟩ => ?_⟩
  all_goals unfold Tervon.routed; rw [if_neg h0]
  · by_cases hz : hop = 0
    · rw [if_pos hz]; unfold Tervon.countMisrouted; rw [hk]
    · rw [if_neg hz]
      have h1' : Tervon.routePort t dx.toNat dy.toNat (some (rxPortNo rx)) = none := h1.resolve_left hz
      rw [h1']; simp only []; unfold Tervon.countMisrouted; rw [hk]
  · rw [if_neg h1]; beta_reduce at h2; rw [h2]

theorem routedDelivered : RoutedDelivered := fun rx dx dy sx sy hop h body k hk => by
  refine ⟨frameDoesR _ (fun _ => rfl) fun t ⟨h0, h1⟩ => ?_, fun q hq => ⟨frameDoesR _ (fun _ => rfl) fun t ⟨h0, h1⟩ => ?_, frameDoesR _ (fun _ => rfl) fun t ⟨h0, h1, h2⟩ => ?_, frameDoesR _ (fun _ => rfl) fun t ⟨h0, h1, h2⟩ => ?_⟩⟩
  all_goals unfold Tervon.routed; rw [if_pos h0]; unfold Tervon.deliverRouted
  · rw [h1]; simp only []; unfold Tervon.countMalformed; rw [hk]
  all_goals rw [hq]; simp only []
  · rw [if_pos]; · unfold Tervon.countMalformed; rw [hk]
    by_contra hx
    simp only [not_or, not_lt, ne_eq, not_not, Bool.not_eq_true] at hx
    exact h1 hx
  all_goals
    rw [if_neg (by simp only [not_or, not_lt, ne_eq, not_not, Bool.not_eq_true]; exact h1)]
    unfold Tervon.routeAlive; simp only []
  · cases hg : Cells.get none t.routeRx (4 * (8 * sy.toNat + sx.toNat) + h.cls.toNat) with
    | none => exact absurd (fun e he => by rw [hg] at he; exact absurd he (by simp)) h2
    | some e =>
      have h2' : ¬ ∀ e', some e = some e' → h.flags.getLsbD 2 = true ∨ (h.alive - e').toNat < 128 := by rw [← hg]; exact h2
      simp only []
      have hf : (h.flags.getLsbD 2 || decide ((h.alive - e).toNat < 128)) = false := by
        rw [Bool.eq_false_iff]
        intro hx
        apply h2'
        intro e' he
        injection he with he; subst he
        rw [Bool.or_eq_true, decide_eq_true_eq] at hx; exact hx
      simp only [hf, Bool.false_eq_true, if_false]
  · cases hg : Cells.get none t.routeRx (4 * (8 * sy.toNat + sx.toNat) + h.cls.toNat) with
    | none => rfl
    | some e =>
      have h2' : h.flags.getLsbD 2 = true ∨ (h.alive - e).toNat < 128 := h2 e hg
      simp only []
      have hf : (h.flags.getLsbD 2 || decide ((h.alive - e).toNat < 128)) = true := by rw [Bool.or_eq_true, decide_eq_true_eq]; exact h2'
      simp only [hf, if_true]

end Sys2Proof.Claims
end

