-- ==== Sys2Proof/Laws/CmdStore.lean ====
section
/-! SUPPORT. What each command of one family does, a lemma per command: the Ledger, attestation, check values and the sequencer. -/

open Sys2Proof Sys2Proof.Machine

namespace Sys2Proof.Claims

theorem pageWritesStart : PageWritesStart := fun who p e => by
  refine ⟨leafDoes _ (fun _ => rfl) fun l ⟨⟨h1, h2, h3, h4⟩, h5, h6⟩ => ?_, leafDoes _ (fun _ => rfl) fun l ⟨⟨h1, h2, h3, h4⟩, h5, h6⟩ => ?_, leafDoes _ (fun _ => rfl) fun l ⟨⟨h1, h2, h3, h4⟩, h5, h6⟩ => ?_⟩ <;>
  · unfold seqNext at h6
    unfold Leaf.pageStart
    simp only [h1, h2, h3, h4, h6, h5]; try rfl

theorem writeClearsTrailer : WriteClearsTrailer := fun d w hw =>
  ⟨rfl, Cells.get_set_same _ _ _ _ hw, fun q hq => Cells.get_set_ne _ _ _ _ _ hq⟩

theorem pageWritesEnd : PageWritesEnd := fun who w => by
  refine ⟨leafDoes _ (fun _ => rfl) fun l ⟨h1, h2, h3, h4, h5⟩ => ?_, leafDoes _ (fun _ => rfl) fun l ⟨h1, h2, h3, h4⟩ => ?_⟩
  · unfold Leaf.pageComplete; rw [h1]; simp only [h2, h3, h4, Bool.or_self, Bool.false_eq_true, if_false, Bool.false_and, if_true, Bool.not_true]
    rw [if_neg (by omega)]
  · unfold Leaf.pageComplete; rw [h1]; simp only [h2, h3, h4, Bool.or_self, Bool.false_eq_true, if_false, Bool.false_and, Bool.not_false, if_true]

theorem vnvEvents : VnvEvents := fun who w n => by
  refine ⟨leafDoes _ (fun _ => rfl) fun l _ => ?_, leafDoes _ (fun _ => rfl) fun l ⟨h1, h2⟩ => ?_, leafDoes _ (fun _ => rfl) fun l h1 => ?_, leafDoes _ (fun _ => rfl) fun l _ => rfl⟩
  · unfold Leaf.vnvSag; cases h : l.led.write <;> simp [h]
  · unfold Leaf.vnvSag; simp only [h1, h2]; rfl
  · unfold Leaf.vnvSag; simp only [h1]

theorem operatingTime : OperatingTime := fun who => leafDoes _ (fun _ => rfl) fun l h => by
  unfold Leaf.opTick; simp only [h, if_true]

theorem cmdWord (op : Nat) (p : BitVec 12) (h : op = 1 ∨ op = 2) :
    bits (w32 (0x1000 * op + p.toNat)).toNat 13 12 = op ∧ bits (w32 (0x1000 * op + p.toNat)).toNat 11 0 = p.toNat := by
  have hp := p.isLt
  have e : (w32 (0x1000 * op + p.toNat)).toNat = 0x1000 * op + p.toNat := by
    unfold w32; rw [BitVec.toNat_ofNat]; apply Nat.mod_eq_of_lt; rcases h with h | h <;> subst h <;> omega
  rw [e]
  unfold bits
  constructor
  · have : (0x1000 * op + p.toNat) / 2 ^ 12 % 2 ^ (13 + 1 - 12) = op := by rcases h with h | h <;> subst h <;> omega
    exact this
  · have : (0x1000 * op + p.toNat) / 2 ^ 0 % 2 ^ (11 + 1 - 0) = p.toNat := by rcases h with h | h <;> subst h <;> omega
    exact this

theorem ledgerPagesRead : LedgerPagesRead := fun who id page => by
  have hb := cmdWord 1 page (.inl rfl)
  refine ⟨leafDoes _ (fun _ => rfl) fun l ⟨h, h2⟩ => ?_, leafDoes _ (fun _ => rfl) fun l ⟨h, h2⟩ => ?_, fun l => rfl⟩
  · rw [Leaf.writeBy_host _ _ _ _ _ h]
    have e : Leaf.write32 l (.host id) 0x184 (w32 (0x1000 + page.toNat)) = orError l (Leaf.writeLdgCmd l (w32 (0x1000 * 1 + page.toNat))) := rfl
    rw [e]; simp only [Leaf.writeLdgCmd, h2, hb]; rfl
  · rw [Leaf.writeBy_host _ _ _ _ _ h]
    have e : Leaf.write32 l (.host id) 0x184 (w32 (0x1000 + page.toNat)) = orError l (Leaf.writeLdgCmd l (w32 (0x1000 * 1 + page.toNat))) := rfl
    rw [e]; simp only [Leaf.writeLdgCmd, h2]; rfl

theorem ledgerPagesProgrammed : LedgerPagesProgrammed := fun who id page => leafDoes _ (fun _ => rfl) fun l ⟨h, h2⟩ => by
  have hb := cmdWord 2 page (.inr rfl)
  rw [Leaf.writeBy_host _ _ _ _ _ h]
  have e : Leaf.write32 l (.host id) 0x184 (w32 (0x2000 + page.toNat)) = orError l (Leaf.writeLdgCmd l (w32 (0x1000 * 2 + page.toNat))) := rfl
  rw [e]; simp only [Leaf.writeLdgCmd, h2, hb, Leaf.ldgProgram]; rfl

theorem nonceWritten : NonceWritten := fun who id k v hk => by
  have e : ∀ l : Leaf, Leaf.write32 l (.host id) (0x1700 + 4 * k.toNat) v = orError l (Leaf.writeNonce l k.toNat v) := by
    intro l
    obtain ⟨n, hn⟩ : ∃ n, k.toNat = n := ⟨_, rfl⟩
    rw [hn] at hk ⊢
    interval_cases n <;> rfl
  refine ⟨leafDoes _ (fun _ => rfl) fun l ⟨h, h2⟩ => ?_, leafDoes _ (fun _ => rfl) fun l ⟨h, h2⟩ => ?_⟩
  · rw [if_pos hk, Leaf.writeBy_host _ _ _ _ _ h, e]; simp only [Leaf.writeNonce, h2]
    by_cases h11 : k = 11
    · subst h11; rfl
    · have : k.toNat ≠ 11 := fun e => h11 (BitVec.eq_of_toNat_eq e)
      simp only [if_neg h11, this, if_false, orError, Leaf.hostAnswer, Bool.false_eq_true, if_true]
  · rw [if_pos hk, Leaf.writeBy_host _ _ _ _ _ h, e]; simp only [Leaf.writeNonce, h2]; rfl

theorem attestationSigns : AttestationSigns := fun who => leafDoes _ (fun _ => rfl) fun l ⟨h1, h2, h3⟩ => by
  unfold Leaf.attSigned; simp only [h1, h2, h3]; rfl

theorem fourEngines (P : BitVec 2 → Prop) (h0 : P 0) (h1 : P 1) (h2 : P 2) (h3 : P 3) : ∀ e, P e := by
  intro e
  rcases (show e = 0 ∨ e = 1 ∨ e = 2 ∨ e = 3 by clear * -; revert e; decide) with h | h | h | h <;> subst h <;> assumption

theorem checkValuesStart : CheckValuesStart := by
  intro who id e v
  refine ⟨leafDoes _ (fun _ => rfl) fun l h => ?_, leafDoes _ (fun _ => rfl) fun l h => ?_⟩
  · rw [Leaf.writeBy_host _ _ _ _ _ h]; clear h; revert e; exact fourEngines _ rfl rfl rfl rfl
  · rw [Leaf.writeBy_host _ _ _ _ _ h]; clear h; revert e; exact fourEngines _ rfl rfl rfl rfl

theorem checkValuesFeed : CheckValuesFeed := by
  intro who id e w b hw
  have f : ∀ (l : Leaf) (n : Nat) bs, (Leaf.cvEngine l n).open' = true → CvEngine.feed (Leaf.cvEngine l n) bs = some { Leaf.cvEngine l n with run := bs.foldl (cvByte (Leaf.cvEngine l n).poly) (Leaf.cvEngine l n).run } :=
    fun l n bs h => by unfold CvEngine.feed; rw [if_pos h]
  have p : ∀ (l : Leaf) (e : BitVec 2), Leaf.write32 l (.host id) (0x1508 + 32 * e.toNat) w = orError l ((CvEngine.feed (Leaf.cvEngine l e.toNat) (le 4 w.toNat)).map (Leaf.setCv l e.toNat)) := by
    intro l; exact fourEngines _ rfl rfl rfl rfl
  refine ⟨leafDoes _ (fun _ => rfl) fun l ⟨h, h2⟩ => ?_, leafDoes _ (fun _ => rfl) fun l ⟨h, h2⟩ => ?_, leafDoes _ (fun _ => rfl) fun l ⟨h, h1, h2⟩ => ?_, leafDoes _ (fun _ => rfl) fun l ⟨h, h1, h2⟩ => ?_⟩
  · show Leaf.writeBy l (.host id) l.ring.did (0x1508 + 32 * e.toNat) [w] = _
    rw [Leaf.writeBy_host _ _ _ _ _ h, p, f _ _ _ h2]; rfl
  · show Leaf.writeBy l (.host id) l.ring.did (0x1508 + 32 * e.toNat) [w] = _
    rw [Leaf.writeBy_host _ _ _ _ _ h, p]
    have : CvEngine.feed (Leaf.cvEngine l e.toNat) (le 4 w.toNat) = none := by unfold CvEngine.feed; rw [h2]; rfl
    rw [this]; rfl
  · unfold Leaf.feedBy; simp only [h, f _ _ _ h2]; simp [h1]
  · unfold Leaf.feedBy; simp only [h, f _ _ _ h2]; simp [h1]

theorem halves (v : DWord) : half64 v 4 ++ half64 v 0 = v := halves_append v

theorem checkValuesRead : CheckValuesRead := by
  intro who id e
  have r : ∀ (l : Leaf) (e : BitVec 2), Leaf.read64 l id.toNat (0x1510 + 32 * e.toNat) = (Leaf.setCv l e.toNat (CvEngine.readResult (Leaf.cvEngine l e.toNat)).1,
      half64 (CvEngine.shown (Leaf.cvEngine l e.toNat) (cvResult (Leaf.cvEngine l e.toNat).poly (Leaf.cvEngine l e.toNat).run)) 4 ++
      half64 (CvEngine.shown (Leaf.cvEngine l e.toNat) (cvResult (Leaf.cvEngine l e.toNat).poly (Leaf.cvEngine l e.toNat).run)) 0) := by
    intro l; exact fourEngines _ rfl rfl rfl rfl
  have r2 : ∀ (l : Leaf) (e : BitVec 2), Leaf.read64 l id.toNat (0x1518 + 32 * e.toNat) = (l,
      half64 (CvEngine.shown (Leaf.cvEngine l e.toNat) (Leaf.cvEngine l e.toNat).run) 4 ++
      half64 (CvEngine.shown (Leaf.cvEngine l e.toNat) (Leaf.cvEngine l e.toNat).run) 0) := by
    intro l; exact fourEngines _ rfl rfl rfl rfl
  refine ⟨leafDoes _ (fun _ => rfl) fun l h => ?_, leafDoes _ (fun _ => rfl) fun l h => ?_⟩
  · show Leaf.hostRead64 l id _ = _
    unfold Leaf.hostRead64; simp only [h, r, halves]; rfl
  · show Leaf.hostRead64 l id _ = _
    unfold Leaf.hostRead64; simp only [h, r2, halves]; rfl

theorem restoreWide (l : Leaf) (id : BitVec 4) (e : BitVec 2) (v : DWord) (h : Leaf.TakesHost l (0x1518 + 32 * e.toNat)) :
    Leaf.writeBy l (.host id) l.ring.did (0x1518 + 32 * e.toNat) [v.setWidth 32, (v >>> 32).setWidth 32] =
      Leaf.answer (Leaf.setCv l e.toNat (CvEngine.restore (Leaf.cvEngine l e.toNat) v)) 0 := by
  have hw := Leaf.writeBy_host_wide l id l.ring.did (0x1518 + 32 * e.toNat) v h
  refine Eq.trans (hw ?_ ?_ ?_) ?_
  iterate 3 (clear * -; revert e; decide)
  clear h hw
  have pk : Leaf.pokeWide l (.host id) (0x1518 + 32 * e.toNat) v = (Leaf.setCv l e.toNat (CvEngine.restore (Leaf.cvEngine l e.toNat) v), 0, []) := by
    revert e; exact fourEngines _ rfl rfl rfl rfl
  rw [pk]; rfl

theorem andMask (a v : DWord) (m : DWord) (hm : ∀ i, 32 ≤ i → i < 64 → m.getLsbD i = false) (h : ∀ i, i < 32 → a.getLsbD i = v.getLsbD i) : a &&& m = v &&& m := by
  apply BitVec.eq_of_getLsbD_eq; intro i hi
  rw [BitVec.getLsbD_and, BitVec.getLsbD_and]
  by_cases h32 : i < 32
  · rw [h i h32]
  · rw [hm i (by omega) hi, Bool.and_false, Bool.and_false]

theorem checkValuesRestore : CheckValuesRestore := by
  intro who id e v a
  refine ⟨leafDoes _ (fun _ => rfl) fun l ⟨h, hp⟩ => ?_, leafDoes _ (fun _ => rfl) fun l ⟨h, hp, hwf⟩ => ?_⟩
  · unfold Leaf.cvRestoreBy; rw [if_neg hp]
    have e1 : (((a.setWidth 32 : Word) ++ (v.setWidth 32 : Word) : DWord).setWidth 32 : Word) = v.setWidth 32 := by
      apply BitVec.eq_of_getLsbD_eq; intro i hi; rw [BitVec.getLsbD_setWidth, BitVec.getLsbD_append]; simp [hi]
    have e2 : ((((a.setWidth 32 : Word) ++ (v.setWidth 32 : Word) : DWord) >>> 32).setWidth 32 : Word) = a.setWidth 32 := by
      apply BitVec.eq_of_getLsbD_eq; intro i hi; rw [BitVec.getLsbD_setWidth, BitVec.getLsbD_ushiftRight, BitVec.getLsbD_append]; simp [hi]
    have hw := restoreWide l id e ((a.setWidth 32 : Word) ++ (v.setWidth 32 : Word)) h
    rw [e1, e2] at hw
    rw [hw]
    have low : ∀ i, i < 32 → ((a.setWidth 32 : Word) ++ (v.setWidth 32 : Word) : DWord).getLsbD i = v.getLsbD i := by
      intro i hi; rw [BitVec.getLsbD_append]; simp [hi]
    have r1 := andMask _ v 0xFFFFFFFF (by intro i h1 h2; interval_cases i <;> rfl) low
    have r3 := andMask _ v 0xFFFF (by intro i h1 h2; interval_cases i <;> rfl) low
    have r2 : ((((a.setWidth 32 : Word) ++ (v.setWidth 32 : Word) : DWord) >>> 32).setWidth 8 : Byte) = a := by
      apply BitVec.eq_of_getLsbD_eq; intro i hi
      have h32 : i < 32 := by omega
      have hn : ¬ 32 + i < 32 := by omega
      rw [BitVec.getLsbD_setWidth, BitVec.getLsbD_ushiftRight, BitVec.getLsbD_append]
      simp only [hi, hn, if_false, Nat.add_sub_cancel_left, BitVec.getLsbD_setWidth, h32, decide_true, Bool.true_and]
    simp only [CvEngine.restore, if_neg hp, r1, r2, r3]
  · unfold Leaf.cvRestoreBy; rw [if_pos hp, restoreWide _ _ _ _ h]
    have h' : Leaf.TakesHost (Leaf.answer (Leaf.setCv l e.toNat (CvEngine.restore (Leaf.cvEngine l e.toNat) v)) 0) (0x150C + 32 * e.toNat) := by
      refine ⟨h.1, ?_, h.2.2.imp (fun x => x) (fun x => ?_)⟩
      · omega
      · clear * - x; revert e; decide
    rw [Leaf.writeBy_host _ _ _ _ _ h']
    have pk : ∀ (m : Leaf) (e : BitVec 2), Leaf.write32 m (.host id) (0x150C + 32 * e.toNat) (a.setWidth 32) =
        orError m ((CvEngine.writeAlive (Leaf.cvEngine m e.toNat) (a.setWidth 32)).map (Leaf.setCv m e.toNat)) := by
      intro m; exact fourEngines _ rfl rfl rfl rfl
    rw [pk]
    have g : ∀ x, Leaf.cvEngine (Leaf.answer (Leaf.setCv l e.toNat x) 0) e.toNat = x := fun x => Cells.get_set_same _ _ _ _ hwf
    rw [g]
    have r : CvEngine.restore (Leaf.cvEngine l e.toNat) v = { Leaf.cvEngine l e.toNat with run := v, readOnce := false, reread := false, open' := true } := by
      unfold CvEngine.restore; rw [if_pos hp]
    have ra : ((a.setWidth 32 : Word).setWidth 8 : Byte) = a := by
      apply BitVec.eq_of_getLsbD_eq; intro i hi
      have h32 : i < 32 := by omega
      simp only [BitVec.getLsbD_setWidth, hi, h32, decide_true, Bool.true_and]
    rw [r]; simp only [CvEngine.writeAlive, ra]; rfl

theorem sequencerStops : SequencerStops := by
  refine ⟨fun who id => ⟨leafDoes _ (fun _ => rfl) fun l h => ?_, leafDoes _ (fun _ => rfl) fun l h => ?_, leafDoes _ (fun _ => rfl) fun l h => ?_⟩, fun l c o => rfl⟩
  · rw [Leaf.writeBy_host _ _ _ _ _ h]; rfl
  · rw [Leaf.writeBy_host _ _ _ _ _ h]; rfl
  · unfold Leaf.seqWatchdog; rw [if_pos h]

theorem sequencerBoots : SequencerBoots := by
  refine ⟨fun who => ⟨leafDoes _ (fun _ => rfl) fun l ⟨h1, h2, h3, h4⟩ => ?_, fun i => leafDoes _ (fun _ => rfl) fun l ⟨h1, h2, h3, h4⟩ => ?_⟩, fun l a b h1 h2 h3 => ?_⟩
  · have e : (l.seq.running || l.led.write.isSome || Leaf.asleep l) = false := by simp [h1, h2, h3]
    unfold Leaf.seqBoot; rw [e, h4]; rfl
  · have e : (l.seq.running || l.led.write.isSome || Leaf.asleep l) = false := by simp [h1, h2, h3]
    unfold Leaf.seqBoot; rw [e, h4]; simp only [Bool.false_eq_true, if_false]
  · unfold Leaf.bootImage; simp only [h1, h2, h3]; by_cases h : a < b <;> simp [h]

end Sys2Proof.Claims
end

