-- ==== Sys2Proof/Laws/CmdStream.lean ====
section
/-! SUPPORT. What each command of one family does, a lemma per command: streams, reductions and early calls. -/

open Sys2Proof Sys2Proof.Machine

namespace Sys2Proof.Claims

theorem streamsDefined : StreamsDefined := by
  have key : ∀ j t, Tervon.streamDefine j t =
      (if (Tervon.streamDid t (Job.did j)).2 = false then Tervon.complete (defineOf j t).1 j 7
      else if kindItems (Job.byte j 45) ≤ Job.u16 j 46 then Tervon.complete (defineOf j t).1 j 3
      else if (StreamEnt.defined (defineOf j t).2 && decide ((defineOf j t).2.did = Job.did j)) = false ∧ 8192 ≤ (Tervon.streamsOf (defineOf j t).1 (Job.did j)).length then Tervon.complete (defineOf j t).1 j 19
      else if Tervon.ownsStream (defineOf j t).1 j.ref.fn (jobStream j) = false then Tervon.complete (defineOf j t).1 j 3
      else
        let u := if StreamEnt.defined (defineOf j t).2 then Tervon.streamAged (defineOf j t).1 (jobStream j) (defineOf j t).2 4 false else (defineOf j t).1
        let n : StreamEnt := { StreamEnt.reset with did := Job.did j, kind := BitVec.ofNat 4 (Job.byte j 45), item := BitVec.ofNat 16 (Job.u16 j 46), flags := 1, pset := BitVec.ofNat 4 (Job.byte j 48) }
        Tervon.complete (Tervon.streamKeep (unevict u (jobStream j)) (jobStream j) n) j 0) := fun j t => by
    unfold Tervon.streamDefine defineOf jobStream
    generalize Tervon.streamDid t _ = p
    obtain ⟨u, b⟩ := p
    dsimp only
    generalize Tervon.streamGet u _ = p
    rfl
  refine ⟨jobDoes _ (fun _ _ => rfl) fun j t ⟨h0, h1⟩ => ?_, jobDoes _ (fun _ _ => rfl) fun j t ⟨h0, h1, h2⟩ => ?_, jobDoes _ (fun _ _ => rfl) fun j t ⟨h0, h1, h2, h3⟩ => ?_, jobDoes _ (fun _ _ => rfl) fun j t ⟨h0, h1, h2, h3, h4⟩ => ?_, jobDoes _ (fun _ _ => rfl) fun j t ⟨h0, h1, h2, h3, h4, h5⟩ => ?_, jobDoes _ (fun _ _ => rfl) fun j t ⟨h0, h1, h2, h3, h4, h5⟩ => ?_⟩
  all_goals
    unfold Tervon.streamOp; rw [if_pos h0, key]
    simp only [Bool.not_eq_true] at *
  · rw [if_pos h1]
  · rw [if_neg (by simp [h1]), if_pos (by omega)]
  · rw [if_neg (by simp [h1]), if_neg (by omega), if_pos]
    rw [not_or] at h3
    exact ⟨by simpa using h3.1, by omega⟩
  · rw [if_neg (by simp [h1]), if_neg (by omega), if_neg, if_pos h4]
    intro hx; rcases h3 with h3 | h3
    · rw [hx.1] at h3; exact Bool.noConfusion h3
    · omega
  · rw [if_neg (by simp [h1]), if_neg (by omega), if_neg, if_neg (by simp [h4])]
    · simp only [h5, Bool.false_eq_true, if_false]
    intro hx; rcases h3 with h3 | h3
    · rw [hx.1] at h3; exact Bool.noConfusion h3
    · omega
  · rw [if_neg (by simp [h1]), if_neg (by omega), if_neg, if_neg (by simp [h4])]
    · simp only [h5, if_true]
    intro hx; rcases h3 with h3 | h3
    · rw [hx.1] at h3; exact Bool.noConfusion h3
    · omega

theorem streamsRemoved : StreamsRemoved := by
  have key : ∀ j t, Tervon.streamRemove j t =
      (if Tervon.ownsStream (streamOf j t).1 j.ref.fn (jobStream j) = false then Tervon.complete (streamOf j t).1 j 3
      else if StreamEnt.defined (streamOf j t).2 = false then Tervon.complete (streamOf j t).1 j 28
      else
        let u := unevict (Tervon.streamAged (streamOf j t).1 (jobStream j) (streamOf j t).2 2 false) (jobStream j)
        Tervon.complete (Tervon.streamPut u (jobStream j) StreamEnt.reset) j 0) := fun j t => by
    unfold Tervon.streamRemove streamOf jobStream
    dsimp only
    generalize Tervon.streamGet t _ = p
    obtain ⟨u, e⟩ := p
    rfl
  refine ⟨jobDoes _ (fun _ _ => rfl) fun j t ⟨h0, h1⟩ => ?_, jobDoes _ (fun _ _ => rfl) fun j t ⟨h0, h1, h2⟩ => ?_, jobDoes _ (fun _ _ => rfl) fun j t ⟨h0, h1, h2⟩ => ?_⟩
  all_goals unfold Tervon.streamOp; rw [if_pos h0, key]
  · rw [if_pos (by simpa using h1)]
  · rw [if_neg (by simp [h1]), if_pos h2]
  · rw [if_neg (by simp [h1]), if_neg (by simp [h2])]

theorem streamsRestored : StreamsRestored := fun x => by
  have key : ∀ j t, Tervon.streamRestore x j t =
      (if Tervon.ownsStream (streamOf j t).1 j.ref.fn (jobStream j) = false then Tervon.complete (streamOf j t).1 j 3
      else if StreamEnt.defined (streamOf j t).2 = false then Tervon.complete (streamOf j t).1 j 28
      else if x.poisoned then Tervon.complete (streamOf j t).1 j 25
      else if (StreamEnt.parse x.bytes).did ≠ (streamOf j t).2.did ∨ (StreamEnt.parse x.bytes).kind ≠ (streamOf j t).2.kind ∨ (StreamEnt.parse x.bytes).item ≠ (streamOf j t).2.item ∨ StreamEnt.defined (StreamEnt.parse x.bytes) = false ∨ field x.bytes 6 1 ≥ 128 ∨ field x.bytes 7 1 ≥ 16 then Tervon.complete (streamOf j t).1 j 3
      else Tervon.complete (Tervon.streamKeep (streamOf j t).1 (jobStream j) (StreamEnt.addGaps (StreamEnt.parse x.bytes) 1)) j 0) := fun j t => by
    unfold Tervon.streamRestore streamOf jobStream
    dsimp only
  refine ⟨inputDoes _ (fun _ _ => rfl) fun j t ⟨⟨h0, h1, h2, h3⟩, h4⟩ => ⟨h0, ?_⟩, inputDoes _ (fun _ _ => rfl) fun j t ⟨⟨h0, h1, h2, h3⟩, h4, h5⟩ => ⟨h0, ?_⟩, inputDoes _ (fun _ _ => rfl) fun j t ⟨⟨h0, h1, h2, h3⟩, h4, h5⟩ => ⟨h0, ?_⟩⟩
  all_goals unfold Tervon.streamOp; rw [if_pos h1, key, if_neg (by simp [h2]), if_neg (by simp [h3])]
  · rw [if_pos h4]
  · rw [if_neg (by simp [h4]), if_pos]
    by_contra hx
    apply h5
    simp only [not_or, ne_eq, not_not, Bool.not_eq_false, ge_iff_le, not_le] at hx
    exact hx
  · rw [if_neg (by simp [h4]), if_neg]
    obtain ⟨a, b, c, d, e, f⟩ := h5
    simp only [not_or, ne_eq, not_not, Bool.not_eq_false, ge_iff_le, not_le]
    exact ⟨a, b, c, d, e, f⟩

theorem streamsQueried : StreamsQueried := by
  have key : ∀ j t, Tervon.streamQuery j t =
      (if j.ref.fn ≠ 0 ∧ Tervon.ownsStream (streamOf j t).1 j.ref.fn (jobStream j) = false then Tervon.complete (streamOf j t).1 j 3
      else if StreamEnt.defined (streamOf j t).2 = false then Tervon.complete (streamOf j t).1 j 28
      else
        let u := Tervon.output (streamOf j t).1 j (StreamEnt.bytes (streamOf j t).2)
        let u := if bit (Job.byte j 44) 0 then Tervon.streamPut u (jobStream j) (StreamEnt.setFlag (StreamEnt.setFlag (streamOf j t).2 4 false) 5 false) else u
        Tervon.complete u j 0 0 0 0 (2 * b2n (StreamEnt.nd (streamOf j t).2))) := fun j t => by
    unfold Tervon.streamQuery streamOf jobStream
    dsimp only
  refine ⟨jobDoes _ (fun _ _ => rfl) fun j t h0 => ?_, jobDoes _ (fun _ _ => rfl) fun j t ⟨h0, h1⟩ => ?_, jobDoes _ (fun _ _ => rfl) fun j t ⟨h0, h1, h2⟩ => ?_, jobDoes _ (fun _ _ => rfl) fun j t ⟨h0, h1, h2⟩ => ?_⟩
  all_goals rw [key]
  · rw [not_or] at h0; rw [if_pos ⟨h0.1, by simpa using h0.2⟩]
  all_goals
    rw [if_neg (by intro hx; rcases h0 with h | h
                   · exact hx.1 h
                   · rw [hx.2] at h; exact Bool.noConfusion h)]
  · rw [if_pos h1]
  · rw [if_neg (by simp [h1])]; simp only [h2, Bool.false_eq_true, if_false]
  · rw [if_neg (by simp [h1])]; simp only [h2, if_true]

theorem checkpoints : Checkpoints := by
  refine ⟨jobDoes _ (fun _ _ => rfl) fun j t ⟨h0, h1⟩ => ?_, jobDoes _ (fun _ _ => rfl) fun j t ⟨h0, h1⟩ => ?_, jobDoes _ (fun _ _ => rfl) fun j t h0 => ?_⟩
  all_goals unfold Tervon.checkpoint
  · rw [if_neg (by simp [h0]), if_pos (by omega)]
  · rw [if_neg (by simp [h0]), if_neg (by omega)]
  · rw [if_pos h0]

theorem checkpointCopies : CheckpointCopies := fun r j t i rest h0 => by
  refine ⟨?_, fun h1 => ?_, fun h1 h2 => ?_, fun h1 h2 => ?_⟩
  · unfold Tervon.copyFrom; simp only [h0]
  all_goals rw [Tervon.copyFrom]; simp only [h0]
  · rw [if_pos h1]
  · rw [if_neg (by omega), if_pos h2]
  · rw [if_neg (by omega), if_neg (by simp [h2])]

theorem reductionsDefined : ReductionsDefined := by
  have key : ∀ j t, Tervon.reduceDefine j t =
      (if sourceItems (RedDef.source (jobRedDef j)) ≤ RedDef.item (jobRedDef j) ∨ 15 < RedDef.kind (jobRedDef j) ∨ (Tervon.shape t).1 ≤ RedDef.reportX (jobRedDef j) ∨ (Tervon.shape t).2 ≤ RedDef.reportY (jobRedDef j)
      ∨ Tervon.absent t (RedDef.reportX (jobRedDef j)) (RedDef.reportY (jobRedDef j)) = true then Tervon.complete t j 3
  else Tervon.complete { t with red.defs := Cells.insert t.red.defs (RedDef.id (jobRedDef j)) (jobRedDef j) } j 0 (RedDef.digest (jobRedDef j) (bits t.red.ctl.toNat 5 0)).toNat) := fun _ _ => rfl
  refine ⟨jobDoes _ (fun _ _ => rfl) fun j t ⟨h0, h1⟩ => ?_, jobDoes _ (fun _ _ => rfl) fun j t ⟨h0, h1⟩ => ?_, jobDoes _ (fun _ _ => rfl) fun j t h0 => ?_⟩
  · rw [if_pos h0, key, if_neg]
    obtain ⟨a, b, c, d, e⟩ := h1
    simp only [not_or, not_le, not_lt, Bool.not_eq_true]
    exact ⟨a, b, c, d, e⟩
  · rw [if_pos h0, key, if_pos]
    by_contra hx
    simp only [not_or, not_le, not_lt, Bool.not_eq_true] at hx
    exact h1 hx
  · rw [if_pos h0]; rfl

theorem localWaits : LocalWaits := fun i => by
  refine ⟨tvDoesR _ (fun _ => rfl) fun t ⟨⟨h0, h1⟩, h2⟩ => ?_, tvDoesR _ (fun _ => rfl) fun t ⟨⟨h0, h1⟩, h2⟩ => ?_, tvDoesR _ (fun _ => rfl) fun t h => ?_⟩
  all_goals unfold Tervon.localWaitEnds
  · rw [if_neg (by rintro (a | a)
                   · rw [h0] at a; exact Bool.noConfusion a
                   · omega)]; simp only [h2, if_true]
  · rw [if_neg (by rintro (a | a)
                   · rw [h0] at a; exact Bool.noConfusion a
                   · omega)]; simp only [h2, Bool.false_eq_true, if_false]
  · rw [if_pos]
    by_contra hx
    rw [not_or] at hx
    exact h ⟨by simpa using hx.1, by omega⟩

theorem partDeadlines : PartDeadlines := fun i => by
  have key : ∀ t, Tervon.partDeadline t i.toNat = if lateRuns t i.toNat = [] then t else (lateRuns t i.toNat).foldl (fun t id => Tervon.trySend t i.toNat id true) (Tervon.formOwn t i.toNat) := fun _ => rfl
  refine ⟨tvDoesR _ (fun _ => rfl) fun t h => ?_, tvDoesR _ (fun _ => rfl) fun t h => ?_⟩
  · rw [key, if_pos h]
  · rw [key, if_neg h]

theorem partsArrive : PartsArrive := fun rx p k hk => by
  refine ⟨frameDoesR _ (fun _ => rfl) fun t h => ?_, frameDoesR _ (fun _ => rfl) fun t ⟨h, h1, h2⟩ => ?_, fun r => ⟨frameDoesR _ (fun _ => rfl) fun t ⟨h, h1, h2, h3⟩ => ?_, frameDoesR _ (fun _ => rfl) fun t ⟨h, h1, h2, h3, h4, h5, h6⟩ => ?_⟩⟩
  all_goals unfold Tervon.redFrame; rw [hk]; simp only [h, if_true, Bool.true_eq_false, if_false]
  all_goals rw [if_pos h1]; unfold Tervon.partFrom Tervon.reducePart; simp only [h2]
  · rw [if_pos (by simpa using h3)]
  · rw [if_neg (by simp [h3, h4]), if_neg]
    · rfl
    · unfold neighbour at h5 h6
      rintro (a | a)
      · rw [h5] at a; exact Bool.noConfusion a
      · rw [h6] at a; exact Bool.noConfusion a

theorem resultsArrive : ResultsArrive := fun rx p k r hk => by
  refine ⟨frameDoesR _ (fun _ => rfl) fun t ⟨h, h1, h2, h3, h4, h5⟩ => ?_, frameDoesR _ (fun _ => rfl) fun t ⟨h, h1, h2, h3⟩ => ?_⟩
  all_goals unfold Tervon.redFrame; rw [hk]; simp only [h, Bool.true_eq_false, if_false]
  all_goals rw [if_pos h1]; unfold Tervon.resultFrom Tervon.reduceResult; simp only [h2]
  · unfold neighbour at h5
    rw [if_neg (by simp [h3, h4, h5])]
  · rw [if_pos]
    rcases h3 with h3 | h3
    · simp [h3]
    · have : decide (Tervon.parentOf (Tervon.startRun t p.instant.toNat p.id.toNat) (Tervon.distances (Tervon.startRun t p.instant.toNat p.id.toNat) r.root) (Tervon.me (Tervon.startRun t p.instant.toNat p.id.toNat)) ≠ some (Tervon.peerOf t (Tervon.x t) (Tervon.y t) k)) = true := decide_eq_true h3
      rw [this]; simp

theorem resultsLost : ResultsLost := fun i id r d => by
  refine ⟨tvDoesR _ (fun _ => rfl) fun t h => ?_, tvDoesR _ (fun _ => rfl) fun t ⟨h, h1, h2⟩ => ?_⟩
  · simp only [h, List.foldl_nil]
  · simp only [h, List.foldl_cons, List.foldl_nil]; unfold Tervon.loseResult; simp only [h1]
    have : ∀ u, Tervon.redDef? { Tervon.setRun t u with red.lostCount := satAdd32 t.red.lostCount 1 } id = Tervon.redDef? t id := fun _ => rfl
    simp only [this, h2]; rfl

theorem earlyWaits : EarlyWaits := fun c i => by
  refine ⟨tvDoes _ (fun _ => rfl) fun t h => ?_, tvDoes _ (fun _ => rfl) fun t ⟨h, h1⟩ => ?_, fun k => tvDoes _ (fun _ => rfl) fun t ⟨h, h1, h2⟩ => ?_⟩
  all_goals unfold Tervon.earlyWait; simp only []
  · rw [if_pos]; · rfl
    by_contra hx
    apply h
    simp only [not_or, not_lt, ne_eq, not_not, Bool.not_eq_true, Bool.not_eq_false, Option.isNone_eq_false_iff] at hx
    exact hx
  all_goals
    rw [if_neg (by
      obtain ⟨a, b, c1, d, e, f, g, h', i', j'⟩ := h
      simp only [not_or, not_lt, ne_eq, not_not, Bool.not_eq_true, Bool.not_eq_false, Option.isNone_eq_false_iff]
      exact ⟨a, b, c1, d, e, f, g, h', i', j'⟩)]
  · beta_reduce at h1; rw [h1]; rfl
  · beta_reduce at h1; simp only [] at h1 h2; rw [h1]; simp only [List.foldl_cons, List.foldl_nil]; rw [h2]; rfl

theorem closesConfirm : ClosesConfirm := fun c i x => by
  refine ⟨tvDoes _ (fun _ => rfl) fun t h => ?_, tvDoes _ (fun _ => rfl) fun t ⟨h, h1⟩ => ?_⟩
  · exact if_pos h
  · unfold Tervon.closeEnds; rw [if_neg (by omega)]; simp only [h1]; rfl

end Sys2Proof.Claims
end

