-- ==== Sys2Proof/Laws/CmdTervon.lean ====
section
/-! SUPPORT. What each command of one family does, a lemma per command: power, resets and registers of a Tervon. -/

open Sys2Proof Sys2Proof.Machine

namespace Sys2Proof.Claims

theorem cellarTimesOut : CellarTimesOut := by
  refine ⟨tvDoesR _ (fun _ => rfl) fun t h => ?_, fun a => ⟨tvDoesR _ (fun _ => rfl) fun t ⟨h, h1⟩ => ?_, tvDoesR _ (fun _ => rfl) fun t ⟨h, h1⟩ => ?_⟩⟩
  all_goals unfold Tervon.cellarTimeout; simp only [h]
  · rw [if_pos h1]
  · rw [if_neg (by omega)]; rfl

theorem powerWritten : PowerWritten := fun f v => by
  refine ⟨tvDoes _ (fun _ => rfl) fun t h => ?_, tvDoes _ (fun _ => rfl) fun t ⟨h, h1⟩ => ?_, tvDoes _ (fun _ => rfl) fun t ⟨h, h1, h2⟩ => ?_⟩
  · rw [if_neg]; · rfl
    rintro ⟨a, b⟩
    rcases h with h | h
    · exact h a
    · rw [h] at b; exact Bool.noConfusion b
  · rw [if_pos ⟨rfl, h⟩]; exact if_pos h1
  · rw [if_pos ⟨rfl, h⟩]; unfold Tervon.writePwr; rw [if_neg (by omega)]

theorem wakeTimes : WakeTimes := by
  refine ⟨tvDoes _ (fun _ => rfl) fun t h => ?_, tvDoes _ (fun _ => rfl) fun t h => ?_⟩
  · exact if_pos h
  · exact if_neg h

theorem tervonWakes : TervonWakes := by
  refine ⟨tvDoes _ (fun _ => rfl) fun t h => ?_, tvDoes _ (fun _ => rfl) fun t ⟨h, h1⟩ => ?_⟩
  · exact if_pos h
  · have e : Tervon.sendPhrase = fun t k => Tervon.emitAll t ((List.range 8).map fun b => .ctl (.tv (k / 8)) (.wake (BitVec.ofNat 4 (k % 8)) (BitVec.ofNat 3 b))) := rfl
    unfold Tervon.wake; rw [if_neg (by simp [h, h1]), e]

theorem tervonResets : TervonResets := ⟨tvDoes _ (fun _ => rfl) fun _ _ => rfl, tvDoes _ (fun _ => rfl) fun _ _ => rfl, tvDoes _ (fun _ => rfl) fun _ _ => rfl,
  tvDoes _ (fun _ => rfl) fun _ _ => rfl, tvDoes _ (fun _ => rfl) fun _ _ => rfl⟩

theorem bootsReady : BootsReady := fun failed => by
  refine ⟨tvDoes _ (fun _ => rfl) fun t h => ?_, tvDoes _ (fun _ => rfl) fun t ⟨h, h1⟩ => ?_⟩
  · exact if_pos h
  · unfold Tervon.bootReady; rw [if_neg (by simp [h, h1])]

theorem setupCommits : SetupCommits := fun v => by
  refine ⟨tvDoes _ (fun _ => rfl) fun t h => ?_, tvDoes _ (fun _ => rfl) fun t ⟨⟨h0, h1, h2, h3⟩, h4⟩ => ?_, tvDoes _ (fun _ => rfl) fun t ⟨⟨h0, h1, h2, h3⟩, h4⟩ => ?_⟩
  all_goals unfold Tervon.setupCommit
  · rw [if_pos]; · rfl
    by_contra hx
    simp only [not_or, Bool.not_eq_false, Bool.not_eq_true] at hx
    exact h hx
  all_goals rw [if_neg (by simp [h0, h1, h2, h3])]
  · exact if_pos h4
  · exact if_neg (by simp [h4])

theorem setupChecks : SetupChecks := fun t => by
  have hr : ((List.range 8).any fun n => Tervon.ringOn t n && (decide (Tervon.ringLen t n < 1) || decide (8 < Tervon.ringLen t n))) = false := by
    rw [List.any_eq_false]
    intro n _
    have h1 : Tervon.ringLen t n ≤ 8 := by
      have h : bits (Cells.get 0 t.boot.ringCtl n).toNat 3 1 < 2 ^ 3 := Nat.mod_lt _ (by decide)
      unfold Tervon.ringLen; omega
    have h2 : 1 ≤ Tervon.ringLen t n := by unfold Tervon.ringLen; omega
    simp [Nat.not_lt.mpr h1, Nat.not_lt.mpr h2]
  refine ⟨fun h => ?_, fun h h1 => ?_, fun h h1 h2 => ?_, fun h h1 h2 => ?_⟩
  all_goals unfold Tervon.setupCheck; simp only [Bool.true_eq_false, Bool.false_eq_true, if_true, if_false, *]
  cases larderCtlOk t.boot.larderCtl <;> rfl

theorem stewardsRestart : StewardsRestart := fun n since dumped h he => by
  subst he
  refine ⟨tvDoes _ (fun _ => rfl) fun t ⟨h, h1⟩ => ?_, tvDoes _ (fun _ => rfl) fun t ⟨h, h1⟩ => ?_, tvDoes _ (fun _ => rfl) fun t h => ?_⟩
  all_goals unfold Tervon.stewardRestart
  · rw [h]; exact if_pos h1
  · rw [h]; exact if_neg h1
  · simp only [h]; rfl

theorem barReads : BarReads := fun b hf hb => by
  refine ⟨fun h => tvDoes _ (fun _ => rfl) fun t _ => ?_, fun o h h4 => ⟨fun h0 => tvDoes _ (fun _ => rfl) fun t _ => ?_, fun k hk h0 => tvDoes _ (fun _ => rfl) fun t _ => ?_⟩⟩
  all_goals unfold Tervon.barRead; rw [if_neg (by omega)]; simp only [hb, Bool.false_eq_true, if_false]; unfold Tervon.bar0Read; simp only [h]
  · rfl
  all_goals rw [if_neg (by omega)]
  · rw [if_pos (by omega)]
  · rw [if_neg (by omega)]; rw [show (o - (regAt o).1) / 4 = k from by omega]

theorem doorbellReads : DoorbellReads := fun b hf hb => by
  refine ⟨fun i h => tvDoes _ (fun _ => rfl) fun t _ => ?_, fun h => tvDoes _ (fun _ => rfl) fun t _ => ?_, tvDoes _ (fun _ => rfl) fun t _ => ?_⟩
  · unfold Tervon.barRead; rw [if_neg (by omega)]; simp only [hb, if_true, h]
  · unfold Tervon.barRead; rw [if_neg (by omega)]; simp only [hb, if_true, h]; rfl
  · rw [if_pos hf]; cases h : (Tervon.fn t b.fn).bme <;> simp [b2n]

theorem barWritesDropped : BarWritesDropped := fun b w hf => by
  refine ⟨fun h => tvDoesR _ (fun _ => rfl) fun t _ => ?_, fun h h1 h2 => tvDoesR _ (fun _ => rfl) fun t _ => ?_, fun h => tvDoesR _ (fun _ => rfl) fun t _ => ?_, fun h => tvDoesR _ (fun _ => rfl) fun t _ => ?_⟩
  · unfold Tervon.barWrite; simp only []; rw [if_neg (by omega), if_pos h]
  · unfold Tervon.barWrite; simp only []; rw [if_neg (by omega), if_neg (by simp [h]), if_pos h1]; simp only [h2]; rfl
  · unfold Tervon.commandWrite; simp only []; rw [if_neg (by omega), if_pos h]
  · unfold Tervon.commandWrite; simp only []; rw [if_neg (by omega), if_neg (by rw [h]; exact Bool.false_ne_true)]

theorem barWritesApply : BarWritesApply := fun b w o hf he hb ho h4 => by
  have key : ∀ t, Tervon.barWrite t b (.low w) = Tervon.write32 t b.fn o w := by
    intro t; unfold Tervon.barWrite; simp only []; rw [if_neg (by omega), if_neg (by simp [he]), if_neg (by simp [hb])]; simp only [ho]
  refine ⟨tvDoesR _ (fun _ => rfl) fun t h => ?_, fun h1 => tvDoesR _ (fun _ => rfl) fun t h => ?_, fun h1 h2 => tvDoesR _ (fun _ => rfl) fun t h => ?_, fun h1 h2 => tvDoesR _ (fun _ => rfl) fun t h => ?_⟩
  all_goals rw [key]; unfold Tervon.write32
  · rw [if_pos (Or.inr (by simpa using h))]
  all_goals rw [if_neg (by rintro (a | a)
                           · exact a h4
                           · rw [h] at a; exact Bool.noConfusion a)]; simp only []
  · rw [if_pos h1]
  · rw [if_neg (by omega), if_pos h2]
  · rw [if_neg (by omega), if_neg (by omega)]

end Sys2Proof.Claims
end

