-- ==== Sys2Proof/Laws/CmdTime.lean ====
section
/-! SUPPORT. What each command of one family does, a lemma per command: time. -/

open Sys2Proof Sys2Proof.Machine

namespace Sys2Proof.Claims

theorem discardCases {α : Type} (a b c d e : Bool) (x y z : α) :
    (if (a || (b || c)) = true then x else if (!d) = true then y else if e = true then y else z)
      = (if a = true ∨ b = true ∨ c = true then x else if d = false ∨ e = true then y else z) := by
  cases a <;> cases b <;> cases c <;> cases d <;> cases e <;> rfl

theorem exchangePeriods : ExchangePeriods := timeDoes _ (fun _ => rfl) fun t ⟨h1, h2⟩ => by
  have hb : ∀ (u : Tervon), (Tervon.switchBack u).time.everSet = u.time.everSet := by
    intro u; unfold Tervon.switchBack; simp only []; split <;> rfl
  unfold Tervon.exchangePeriod
  simp only [if_neg (Nat.not_le.2 h1), hb, h2, Bool.not_true, Bool.false_eq_true, if_false]

theorem send_eq (t : Tervon) (k : Nat) (f : Frame) : Tervon.send t k f = Tervon.setPort t k (LinkPort.push (Tervon.port t k) f) := by
  have e : ((Tervon.port t k).retrain.isNone && (LinkPort.push (Tervon.port t k) f).retrain.isSome) = false := by
    show ((Tervon.port t k).retrain.isNone && (Tervon.port t k).retrain.isSome) = false
    cases (Tervon.port t k).retrain <;> rfl
  unfold Tervon.send Tervon.modPort Tervon.onPort Tervon.putLink
  simp only [e]; rfl

theorem exchangeFrames : ExchangeFrames := by
  intro t k hk hl hw
  have hp : ∀ (u : Tervon) q, u.ports.length = t.ports.length → Tervon.port (Tervon.setPort u k q) k = q := by
    intro u q hu; exact getD_setAt _ _ _ _ (by omega)
  have hlen : ∀ (u : Tervon) q, (Tervon.setPort u k q).ports.length = u.ports.length := fun u q => length_setAt ..
  simp only [Tervon.startExchange, hk, if_true, send_eq]
  refine ⟨?_, ?_⟩
  · rw [hp, hp]
    · show (_ ++ _) ++ _ = _
      rw [List.append_assoc]; rfl
    · rfl
    · rw [hlen]; rfl
  · show (Tervon.src (Tervon.setSrc t (16 + k) _) (16 + k)).txSeq = _
    unfold Tervon.src Tervon.setSrc TimeDom.source TimeDom.setSource
    rw [Cells.get_set_same _ _ _ _ hw]

theorem leafSyncs : LeafSyncs := fun who rx p t2 r => leafDoes _ (fun _ => rfl) fun l h => by
  rw [Leaf.frameIn_receives _ _ _ _ _ h]; rfl

theorem leafSyncPasses : LeafSyncPasses := fun who rx p t2 r => leafDoes _ (fun _ => rfl) fun l h => by
  rw [Leaf.frameIn_passes _ _ _ _ _ h]; rfl

theorem tervonSyncs : TervonSyncs := fun rx p t2 r k => timeDoes _ (fun _ => rfl) fun t ⟨h, hu⟩ => by
  rw [Tervon.frameIn_receives _ _ _ _ h]; simp only [Tervon.timeSync, hu]; rfl

theorem leafFollows : LeafFollows := fun who rx p t3 y t2 n => leafDoes _ (fun _ => rfl) fun l ⟨h, hs, he⟩ => by
  rw [Leaf.frameIn_receives _ _ _ _ _ h]; simp only [Leaf.timeFollow, srcOf, hs, he, if_true]; rfl

theorem leafFollowPasses : LeafFollowPasses := fun who rx p t3 => leafDoes _ (fun _ => rfl) fun l h => by
  rw [Leaf.frameIn_passes _ _ _ _ _ h]; rfl

theorem tervonFollows : TervonFollows := fun rx p t3 k y t2 n => timeDoes _ (fun _ => rfl) fun t ⟨h, hu, hs, he⟩ => by
  rw [Tervon.frameIn_receives _ _ _ _ h]; simp only [Tervon.timeFollow, hu, hs, he, if_true]; rfl

theorem leafDelayReqPasses : LeafDelayReqPasses := fun who rx p t4 r => leafDoes _ (fun _ => rfl) fun l h => by
  rw [Leaf.frameIn_passes _ _ _ _ _ h]; rfl

theorem tervonAnswersDelay : TervonAnswersDelay := fun rx p t4 r k hp hk => timeDoes _ (fun _ => rfl) fun t ⟨h, he⟩ => by
  rw [Tervon.frameIn_receives _ _ _ _ h]; simp only [Tervon.timeDelayReq, hp, hk, if_true, he]

theorem leafExchangeEnds : LeafExchangeEnds := fun who rx p c delay off y => leafDoes _ (fun _ => rfl) fun l ⟨h, he⟩ => by
  rw [Leaf.frameIn_receives _ _ _ _ _ h]; simp only [Leaf.delayResp, srcOf, he, Rx.spoiled]
  exact discardCases ..

theorem tervonExchangeEnds : TervonExchangeEnds := fun rx p c k delay off y => timeDoes _ (fun _ => rfl) fun t ⟨h, hu, he⟩ => by
  rw [Tervon.frameIn_receives _ _ _ _ h]; simp only [Tervon.timeDelayResp, hu, he, Rx.spoiled]
  exact discardCases ..

theorem slewTick_eq (d : TimeDom) (h1 : TimeDom.slewMode d = true) (h2 : d.lastMicro < TimeDom.ns d / 1000) (h3 : d.holdover = none) :
    TimeDom.slewTick d = slewed d := by
  have e1 : (TimeDom.slewMode d && decide (d.lastMicro < TimeDom.ns d / 1000)) = true := by simp [h1, h2]
  have e2 : ¬ d.holdover.isSome = true := by simp [h3]
  unfold TimeDom.slewTick
  rw [if_pos e1]
  exact if_neg e2

theorem slewTicks : SlewTicks := ⟨fun who => leafDoes _ (fun _ => rfl) fun l ⟨h1, h2, h3⟩ => by rw [Leaf.onTime, slewTick_eq _ h1 h2 h3],
  timeDoes _ (fun _ => rfl) fun t ⟨h1, h2, h3⟩ => by rw [slewTick_eq _ h1 h2 h3]⟩

theorem enter_eq (d : TimeDom) (h : d.holdover = none) : TimeDom.enterHoldover d = heldOver d := by
  unfold TimeDom.enterHoldover; exact if_neg (by simp [h])

theorem holdover_eq (d : TimeDom) (h1 : d.everSet = true) (h2 : d.holdover = none) (h3 : d.lastAccept + 500000 ≤ TimeDom.ns d) :
    TimeDom.holdoverTimeout d = heldOver d := by
  unfold TimeDom.holdoverTimeout; rw [if_pos (by simp [h1, h2, h3]), enter_eq _ h2]

theorem holdoverBegins : HoldoverBegins := ⟨fun who => leafDoes _ (fun _ => rfl) fun l ⟨h1, h2, h3⟩ => by rw [Leaf.onTime, holdover_eq _ h1 h2 h3],
  timeDoes _ (fun _ => rfl) fun t ⟨h0, h1, h2, h3⟩ => by
    unfold Tervon.holdoverTimeout; rw [if_neg (by simp [h0]), holdover_eq _ h1 h2 h3]⟩

theorem holdoverLong : HoldoverLong := ⟨fun who h => leafDoes _ (fun _ => rfl) fun l ⟨h1, h2⟩ => by
    simp only [Leaf.onTime, TimeDom.holdoverLong, h1, h2, if_true],
  fun h => timeDoes _ (fun _ => rfl) fun t ⟨h1, h2⟩ => by
    simp only [TimeDom.holdoverLong, h1, h2, if_true]⟩

theorem primaryFails : PrimaryFails := timeDoes _ (fun _ => rfl) fun t ⟨h1, h2, h3⟩ => by
  simp only [Tervon.primaryFail, h1, h2, Tervon.setSrc, TimeDom.setSource, h3]; rfl

theorem ppsAccepted : PpsAccepted := fun a => ⟨timeDoes _ (fun _ => rfl) fun t ⟨h1, h2, h3⟩ => by
    simp only [Tervon.ppsEdge, Tervon.building, h1, if_neg h2, h3]; rfl,
  timeDoes _ (fun _ => rfl) fun t ⟨h1, h2, h3⟩ => by
    simp only [Tervon.ppsEdge, Tervon.building, h1, if_pos (And.intro h2 h3)]; rfl⟩

theorem ref10M : Ref10M := ⟨timeDoes _ (fun _ => rfl) fun t h => by simp [Tervon.refGood, Tervon.building, h],
  timeDoes _ (fun _ => rfl) fun t ⟨h, h2⟩ => by simp [Tervon.refBad, Tervon.building, h, h2]⟩

theorem ppsDisqualified : PpsDisqualified := timeDoes _ (fun _ => rfl) fun t ⟨h, h2, h3⟩ => by
  simp only [Tervon.ppsLost, Tervon.building, h, h2, h3, decide_true, Bool.and_self, if_true]

theorem steerExpires : SteerExpires := timeDoes _ (fun _ => rfl) fun t ⟨h, h2, h3, h4⟩ => by
  unfold Tervon.steerExpiry; rw [enter_eq _ h4]; exact if_pos ⟨h, h2, h3, by simp [h4]⟩

theorem ppsOut : PpsOut := timeDoes _ (fun _ => rfl) fun t h => by
  unfold Tervon.ppsOut
  rw [if_neg (Nat.not_le.2 h)]
  have e : (TimeDom.ppsOutEn t.time && decide (Tervon.tq t ≠ 0) && decide (Tervon.tq t ≠ 7)) = true ↔
      (TimeDom.ppsOutEn t.time = true ∧ Tervon.tq t ≠ 0 ∧ Tervon.tq t ≠ 7) := by simp [and_assoc]
  by_cases h1 : TimeDom.ppsOutEn t.time = true ∧ Tervon.tq t ≠ 0 ∧ Tervon.tq t ≠ 7
  · simp only [if_pos h1]; exact if_pos (e.2 h1)
  · simp only [if_neg h1]; exact if_neg (fun h => h1 (e.1 h))

theorem timeCtlWritten : TimeCtlWritten := fun id rq v => by
  refine ⟨leafDoes _ (fun _ => rfl) fun l ⟨h0, h1, h2, h3⟩ => ?_, leafDoes _ (fun _ => rfl) fun l ⟨h0, h1, h2, h3⟩ => ?_,
    timeDoes _ (fun _ => rfl) fun t h => ?_, timeDoes _ (fun _ => rfl) fun t h => ?_⟩
  · show Leaf.hostWrite l id 0x20 [v.setWidth 32, (v >>> 32).setWidth 32] = _
    rw [Leaf.hostWrite_wide _ _ _ _ h1 (by decide) (.inl h2) (by decide) (by decide) (by decide)]
    simp [Leaf.pokeWide, h0, h3, Leaf.hostAnswer, timeCtlMask]
  · show Leaf.hostWrite l id 0x20 [v.setWidth 32, (v >>> 32).setWidth 32] = _
    rw [Leaf.hostWrite_wide _ _ _ _ h1 (by decide) (.inl h2) (by decide) (by decide) (by decide)]
    simp [Leaf.pokeWide, h0, h3, Leaf.hostAnswer, refusedW]
  · simp [Tervon.timeCtlWrite, h, timeCtlMask]
  · simp [Tervon.timeCtlWrite, h]

theorem timeCtlApplies : TimeCtlApplies := ⟨fun who => leafDoes _ (fun _ => rfl) fun l h => by
    simp only [Leaf.onTime, TimeDom.ctlApply, if_pos h], timeDoes _ (fun _ => rfl) fun t h => by simp only [TimeDom.ctlApply, if_pos h], by
  intro d c hc hs
  have hsrc : ∀ e : TimeDom, e.ctl = c → TimeDom.src e = TimeDom.src d := fun e he => by unfold TimeDom.src at *; rw [he]; exact hs
  have hsm : TimeDom.slewMode { d with ctl := c, ctlNext := none } = c.getLsbD 0 := rfl
  simp only [TimeDom.applyCtl, hc, hsm]
  cases h1 : TimeDom.slewMode d <;> cases h2 : c.getLsbD 0 <;>
    simp only [Bool.not_false, Bool.not_true, Bool.and_true, Bool.and_false, Bool.false_eq_true, if_true, if_false, hsrc, ne_eq, not_true] <;>
    simp⟩

theorem portLatencyMeasured : PortLatencyMeasured := fun x => leafDoes _ (fun _ => rfl) fun l _ => rfl

theorem calReportKept : CalReportKept := fun rx p hr => timeDoes _ (fun _ => rfl) fun t ⟨h, hb⟩ => by
  rw [Tervon.frameIn_receives _ _ _ _ h]
  simp only [Tervon.calReport, hb]; rw [if_neg]; simp [hr]

theorem ringCalibrated : RingCalibrated := fun ring d hr => timeDoes _ (fun _ => rfl) fun t ⟨h1, h2, h3, h4⟩ => by
  have h1' : (Tervon.ringEnd t ring).calRun.isNone = false := by cases h : (Tervon.ringEnd t ring).calRun <;> simp_all
  simp only [Tervon.calibrated, Nat.not_le.2 hr, h1', h2, h3, h4]
  simp

theorem calibrationReruns : CalibrationReruns := fun ring hop d hr => timeDoes _ (fun _ => rfl) fun t ⟨h1, h2, h3, h4, h5⟩ => by
  simp only [Tervon.calRerun, Nat.not_le.2 hr, h1, Nat.not_lt.2 h2, h3, h4, h5]
  simp

theorem pathSums : PathSums := by
  intro len p hops h; simp [pathConstants, h]

theorem ptpStamped : PtpStamped := fun id port a => ⟨timeDoes _ (fun _ => rfl) fun t h => by simp [Tervon.ptpSent, Nat.not_le.2 h],
  timeDoes _ (fun _ => rfl) fun t h => by simp [Tervon.ptpSent, h]⟩

theorem ptpReceived : PtpReceived := fun id port a => timeDoes _ (fun _ => rfl) fun t h => rfl

theorem ptpQueueReads : PtpQueueReads := ⟨timeDoes _ (fun _ => rfl) fun t h => rfl, timeDoes _ (fun _ => rfl) fun t h => by
  have : t.tt.txqLatch.isSome = true := by cases hh : t.tt.txqLatch <;> simp_all
  simp only [Tervon.ptpPop, this, if_true]⟩

end Sys2Proof.Claims
end

