-- ==== Sys2Proof/Laws/CmdTrain.lean ====
section
/-! SUPPORT. What each command of one family does, a lemma per command: training, discovery and port failure. -/

open Sys2Proof Sys2Proof.Machine

namespace Sys2Proof.Claims

theorem leafLaneReady : LeafLaneReady := by
  intro s p m n hp hk hm hn
  show execLaneReady p m.target s = _
  rcases hp with rfl | rfl <;> cases hr : m.recal <;>
  simp [execLaneReady, portStep, LinkPort.laneReady, State.port, Leaf.port, Leaf.hasPort, hk, laneMoved, Leaf.laneChanged, Leaf.putLink, Leaf.emitAll, Leaf.setPort, hr] at hm ⊢ <;>
  simp_all

theorem tervonLaneReady : TervonLaneReady := by
  intro s k m hk hm
  show execLaneReady (.tv k) m.target s = _
  cases hr : m.recal <;>
  simp [execLaneReady, portStep, hk, Tervon.laneReady, LinkPort.laneReady, hm, laneMoved, Tervon.laneChanged, hr]

theorem leafRetrainCompletes : LeafRetrainCompletes := by
  intro s p lane hp hk hl hr hn
  show execRetrainComplete p lane s = _
  obtain ⟨t0, hr⟩ := Option.ne_none_iff_exists'.1 hr
  rcases hp with rfl | rfl <;> simp only [State.port] at hl hr hn <;>
  simp [execRetrainComplete, portStep, LinkPort.retrained, State.port, Leaf.port, Leaf.hasPort, hk, hl, hr, hn, LinkPort.trained, retrainedLink, freeSpaces, List.range, List.range.loop, LinkPort.freeSpace]

theorem tervonRetrainCompletes : TervonRetrainCompletes := by
  intro s k lane hk hl hr hn
  show execRetrainComplete (.tv k) lane s = _
  obtain ⟨t0, hr⟩ := Option.ne_none_iff_exists'.1 hr
  simp [execRetrainComplete, portStep, hk, Tervon.retrained, LinkPort.retrained, hl, hr, hn, LinkPort.trained, retrainedLink, freeSpaces, List.range, List.range.loop, LinkPort.freeSpace]

theorem leafPortDown : LeafPortDown := by
  intro s p t0 hp hk hr hd
  show execPortDownTimeout p s = _
  rcases hp with rfl | rfl <;> simp only [State.port] at hr <;>
  simp [execPortDownTimeout, portStep, Leaf.portDown, Leaf.hasPort, hk, Leaf.port, LinkPort.downDue, hr, hd, Leaf.modPort, Leaf.onPort, State.port]

theorem tervonPortDown : TervonPortDown := by
  intro s k t0 hk hr hd
  show execPortDownTimeout (.tv k) s = _
  by_cases h8 : k < 8
  · simp [execPortDownTimeout, portStep, hk, Tervon.portDown, LinkPort.downDue, hr, hd, h8, show ¬ 9 ≤ k by omega, show k ≠ 8 by omega]; rfl
  · by_cases h9 : k = 8
    · subst h9; simp [execPortDownTimeout, portStep, Tervon.portDown, LinkPort.downDue, hr, hd]; rfl
    · simp [execPortDownTimeout, portStep, hk, Tervon.portDown, LinkPort.downDue, hr, hd, h8, h9, show 9 ≤ k by omega]; rfl

theorem portDownEmpties : PortDownEmpties := by
  intro q now; simp [LinkPort.goDown, LinkPort.atRisk]

theorem leafTrainingRetryFails : LeafTrainingRetryFails := by
  intro s p lane hp hk hl hd
  show execTrainingRetry p false lane s = _
  rcases hp with rfl | rfl <;> simp only [State.port] at hl hd <;>
  simp [execTrainingRetry, portStep, Leaf.hasPort, hk, Leaf.port, LinkPort.retryDue, hl, hd, State.putPort, Leaf.modPort, Leaf.onPort, State.port]

theorem leafLinkTrained : LeafLinkTrained := by
  intro s p hp hk hl
  show execLinkTrained p s = _
  rcases hp with rfl | rfl <;> simp only [State.port] at hl <;>
  simp [execLinkTrained, portStep, Leaf.linkUp, Leaf.hasPort, hk, Leaf.port, LinkPort.mayTrain, hl, State.putPort, Leaf.modPort, Leaf.onPort, State.port]

theorem tervonLinkTrained : TervonLinkTrained := by
  intro s k hk he hl
  show execLinkTrained (.tv k) s = _
  have e1 : (Tervon.portEnabled s.tv k && LinkPort.mayTrain (Tervon.port s.tv k)) = true := by simp [he, LinkPort.mayTrain, hl]
  simp only [execLinkTrained, portStep, hk, if_true, tvStep_eq, Tervon.linkTrained, e1, Tervon.bringUp, Tervon.modPort, Tervon.onPort]
  rfl

theorem probeEchoed : ProbeEchoed := by
  intro s p id len hp hi
  show execProbe p id len s = _
  cases p <;> simp_all [execProbe, portStep, State.hasPort, Leaf.probe, Leaf.hasPort, Tervon.probe, State.leafNow, Tervon.ileafNow]
  · simp only [show ¬ (61440 ≤ id.toNat) from by omega, false_and, if_false]
  · simp only [show ¬ (61696 ≤ id.toNat) from by omega, false_and, if_false]

theorem discoveryPassesOn : DiscoveryPassesOn := by
  intro s n len hk hn hp hl
  refine ⟨_, rfl, ?_⟩
  have h1 : (BitVec.ofNat 16 (0xF000 + n)).toNat = 0xF000 + n := by simp; omega
  have h2 : 0xF000 ≤ 0xF000 + n ∧ 0xF000 + n < 0xF100 := by omega
  show _ ∧ _
  simp only [State.onLeaf, State.leafNow_ring, Leaf.probe, Leaf.hasPort, hk, Bool.not_true, Bool.false_eq_true, if_false, h1, h2, and_self, if_true, Leaf.discover, hp, hl, Leaf.emit, State.putLeaf_ring_leaf, State.putLeaf_ring_tv]
  simp [hn]

theorem leafProbeEcho : LeafProbeEcho := by
  intro s p id rt hp hk
  show execProbeEcho p id rt s = _
  rcases hp with rfl | rfl <;> simp [execProbeEcho, portStep, Leaf.probeEcho, Leaf.hasPort, hk]

theorem wakeBurstForwarded : WakeBurstForwarded := by
  intro s p pos b hp hk hn
  show execWakeBurst p pos b s = _
  rcases hp with rfl | rfl <;> simp [execWakeBurst, portStep, Leaf.wakeBurst, hk, hn]

theorem malformedCounted : MalformedCounted := by
  intro s p h n hp hl hs hn
  show execMalformedFrame p h n s = _
  have hb : ∀ r, headerBad r h n = true := by intro r; simp [headerBad, hn]
  have e : execMalformedFrame p h n s = portStep p (fun l => Leaf.onPort l p ((fun now q => LinkPort.malformedIn true p q h n now) (Leaf.now l)))
      (fun k t => Tervon.onPort t k ((fun now q => LinkPort.malformedIn true p q h n now) (Tervon.now t))) s := by
    cases p <;> simp [execMalformedFrame, portStep, LinkPort.malformedIn, hb]
  rw [e, portStep_onPort s p hp (fun now q => LinkPort.malformedIn true p q h n now)]
  by_cases h16 : 16 ≤ (State.port s p).sinceAck + 1 <;>
  simp [LinkPort.malformedIn, hb, LinkPort.acceptSeq, LinkPort.up, hl, hs, receivedLink, h16, LinkPort.sendAck]

end Sys2Proof.Claims
end

