-- ==== Sys2Proof/Laws/State.lean ====
section
/-! SUPPORT. What each setter of a part leaves of every other field: one lemma per field per setter, true by rfl. -/

namespace Sys2Proof.Machine

@[simp] theorem Leaf.emit_kind (l : Leaf) (o : Out) : (Leaf.emit l o).kind = l.kind := rfl
@[simp] theorem Leaf.emit_fuses (l : Leaf) (o : Out) : (Leaf.emit l o).fuses = l.fuses := rfl
@[simp] theorem Leaf.emit_time (l : Leaf) (o : Out) : (Leaf.emit l o).time = l.time := rfl
@[simp] theorem Leaf.emit_path (l : Leaf) (o : Out) : (Leaf.emit l o).path = l.path := rfl
@[simp] theorem Leaf.emit_appts (l : Leaf) (o : Out) : (Leaf.emit l o).appts = l.appts := rfl
@[simp] theorem Leaf.emit_det (l : Leaf) (o : Out) : (Leaf.emit l o).det = l.det := rfl
@[simp] theorem Leaf.emit_ring (l : Leaf) (o : Out) : (Leaf.emit l o).ring = l.ring := rfl
@[simp] theorem Leaf.emit_cfg (l : Leaf) (o : Out) : (Leaf.emit l o).cfg = l.cfg := rfl
@[simp] theorem Leaf.emit_cnt (l : Leaf) (o : Out) : (Leaf.emit l o).cnt = l.cnt := rfl
@[simp] theorem Leaf.emit_snap (l : Leaf) (o : Out) : (Leaf.emit l o).snap = l.snap := rfl
@[simp] theorem Leaf.emit_inputs (l : Leaf) (o : Out) : (Leaf.emit l o).inputs = l.inputs := rfl
@[simp] theorem Leaf.emit_trace (l : Leaf) (o : Out) : (Leaf.emit l o).trace = l.trace := rfl
@[simp] theorem Leaf.emit_dump (l : Leaf) (o : Out) : (Leaf.emit l o).dump = l.dump := rfl
@[simp] theorem Leaf.emit_hp (l : Leaf) (o : Out) : (Leaf.emit l o).hp = l.hp := rfl
@[simp] theorem Leaf.emit_assay (l : Leaf) (o : Out) : (Leaf.emit l o).assay = l.assay := rfl
@[simp] theorem Leaf.emit_health (l : Leaf) (o : Out) : (Leaf.emit l o).health = l.health := rfl
@[simp] theorem Leaf.emit_led (l : Leaf) (o : Out) : (Leaf.emit l o).led = l.led := rfl
@[simp] theorem Leaf.emit_gb (l : Leaf) (o : Out) : (Leaf.emit l o).gb = l.gb := rfl
@[simp] theorem Leaf.emit_att (l : Leaf) (o : Out) : (Leaf.emit l o).att = l.att := rfl
@[simp] theorem Leaf.emit_cv (l : Leaf) (o : Out) : (Leaf.emit l o).cv = l.cv := rfl
@[simp] theorem Leaf.emit_pwr (l : Leaf) (o : Out) : (Leaf.emit l o).pwr = l.pwr := rfl
@[simp] theorem Leaf.emit_seq (l : Leaf) (o : Out) : (Leaf.emit l o).seq = l.seq := rfl
@[simp] theorem Leaf.emit_out (l : Leaf) (o : Out) : (Leaf.emit l o).out = o :: l.out := rfl
@[simp] theorem Leaf.emit_free (l : Leaf) (o : Out) : (Leaf.emit l o).free = l.free := rfl

@[simp] theorem Leaf.emitAll_kind (l : Leaf) (os : List Out) : (Leaf.emitAll l os).kind = l.kind := rfl
@[simp] theorem Leaf.emitAll_fuses (l : Leaf) (os : List Out) : (Leaf.emitAll l os).fuses = l.fuses := rfl
@[simp] theorem Leaf.emitAll_time (l : Leaf) (os : List Out) : (Leaf.emitAll l os).time = l.time := rfl
@[simp] theorem Leaf.emitAll_path (l : Leaf) (os : List Out) : (Leaf.emitAll l os).path = l.path := rfl
@[simp] theorem Leaf.emitAll_appts (l : Leaf) (os : List Out) : (Leaf.emitAll l os).appts = l.appts := rfl
@[simp] theorem Leaf.emitAll_det (l : Leaf) (os : List Out) : (Leaf.emitAll l os).det = l.det := rfl
@[simp] theorem Leaf.emitAll_ring (l : Leaf) (os : List Out) : (Leaf.emitAll l os).ring = l.ring := rfl
@[simp] theorem Leaf.emitAll_cfg (l : Leaf) (os : List Out) : (Leaf.emitAll l os).cfg = l.cfg := rfl
@[simp] theorem Leaf.emitAll_cnt (l : Leaf) (os : List Out) : (Leaf.emitAll l os).cnt = l.cnt := rfl
@[simp] theorem Leaf.emitAll_snap (l : Leaf) (os : List Out) : (Leaf.emitAll l os).snap = l.snap := rfl
@[simp] theorem Leaf.emitAll_inputs (l : Leaf) (os : List Out) : (Leaf.emitAll l os).inputs = l.inputs := rfl
@[simp] theorem Leaf.emitAll_trace (l : Leaf) (os : List Out) : (Leaf.emitAll l os).trace = l.trace := rfl
@[simp] theorem Leaf.emitAll_dump (l : Leaf) (os : List Out) : (Leaf.emitAll l os).dump = l.dump := rfl
@[simp] theorem Leaf.emitAll_hp (l : Leaf) (os : List Out) : (Leaf.emitAll l os).hp = l.hp := rfl
@[simp] theorem Leaf.emitAll_assay (l : Leaf) (os : List Out) : (Leaf.emitAll l os).assay = l.assay := rfl
@[simp] theorem Leaf.emitAll_health (l : Leaf) (os : List Out) : (Leaf.emitAll l os).health = l.health := rfl
@[simp] theorem Leaf.emitAll_led (l : Leaf) (os : List Out) : (Leaf.emitAll l os).led = l.led := rfl
@[simp] theorem Leaf.emitAll_gb (l : Leaf) (os : List Out) : (Leaf.emitAll l os).gb = l.gb := rfl
@[simp] theorem Leaf.emitAll_att (l : Leaf) (os : List Out) : (Leaf.emitAll l os).att = l.att := rfl
@[simp] theorem Leaf.emitAll_cv (l : Leaf) (os : List Out) : (Leaf.emitAll l os).cv = l.cv := rfl
@[simp] theorem Leaf.emitAll_pwr (l : Leaf) (os : List Out) : (Leaf.emitAll l os).pwr = l.pwr := rfl
@[simp] theorem Leaf.emitAll_seq (l : Leaf) (os : List Out) : (Leaf.emitAll l os).seq = l.seq := rfl
@[simp] theorem Leaf.emitAll_out (l : Leaf) (os : List Out) : (Leaf.emitAll l os).out = os.reverse ++ l.out := rfl
@[simp] theorem Leaf.emitAll_free (l : Leaf) (os : List Out) : (Leaf.emitAll l os).free = l.free := rfl

@[simp] theorem Leaf.setStn_kind (l : Leaf) (i : Nat) (v : Station) : (Leaf.setStn l i v).kind = l.kind := rfl
@[simp] theorem Leaf.setStn_fuses (l : Leaf) (i : Nat) (v : Station) : (Leaf.setStn l i v).fuses = l.fuses := rfl
@[simp] theorem Leaf.setStn_time (l : Leaf) (i : Nat) (v : Station) : (Leaf.setStn l i v).time = l.time := rfl
@[simp] theorem Leaf.setStn_path (l : Leaf) (i : Nat) (v : Station) : (Leaf.setStn l i v).path = l.path := rfl
@[simp] theorem Leaf.setStn_appts (l : Leaf) (i : Nat) (v : Station) : (Leaf.setStn l i v).appts = l.appts := rfl
@[simp] theorem Leaf.setStn_det (l : Leaf) (i : Nat) (v : Station) : (Leaf.setStn l i v).det = l.det := rfl
@[simp] theorem Leaf.setStn_ring (l : Leaf) (i : Nat) (v : Station) : (Leaf.setStn l i v).ring = l.ring := rfl
@[simp] theorem Leaf.setStn_cfg (l : Leaf) (i : Nat) (v : Station) : (Leaf.setStn l i v).cfg = l.cfg := rfl
@[simp] theorem Leaf.setStn_snap (l : Leaf) (i : Nat) (v : Station) : (Leaf.setStn l i v).snap = l.snap := rfl
@[simp] theorem Leaf.setStn_inputs (l : Leaf) (i : Nat) (v : Station) : (Leaf.setStn l i v).inputs = l.inputs := rfl
@[simp] theorem Leaf.setStn_trace (l : Leaf) (i : Nat) (v : Station) : (Leaf.setStn l i v).trace = l.trace := rfl
@[simp] theorem Leaf.setStn_dump (l : Leaf) (i : Nat) (v : Station) : (Leaf.setStn l i v).dump = l.dump := rfl
@[simp] theorem Leaf.setStn_hp (l : Leaf) (i : Nat) (v : Station) : (Leaf.setStn l i v).hp = l.hp := rfl
@[simp] theorem Leaf.setStn_assay (l : Leaf) (i : Nat) (v : Station) : (Leaf.setStn l i v).assay = l.assay := rfl
@[simp] theorem Leaf.setStn_health (l : Leaf) (i : Nat) (v : Station) : (Leaf.setStn l i v).health = l.health := rfl
@[simp] theorem Leaf.setStn_led (l : Leaf) (i : Nat) (v : Station) : (Leaf.setStn l i v).led = l.led := rfl
@[simp] theorem Leaf.setStn_gb (l : Leaf) (i : Nat) (v : Station) : (Leaf.setStn l i v).gb = l.gb := rfl
@[simp] theorem Leaf.setStn_att (l : Leaf) (i : Nat) (v : Station) : (Leaf.setStn l i v).att = l.att := rfl
@[simp] theorem Leaf.setStn_cv (l : Leaf) (i : Nat) (v : Station) : (Leaf.setStn l i v).cv = l.cv := rfl
@[simp] theorem Leaf.setStn_pwr (l : Leaf) (i : Nat) (v : Station) : (Leaf.setStn l i v).pwr = l.pwr := rfl
@[simp] theorem Leaf.setStn_seq (l : Leaf) (i : Nat) (v : Station) : (Leaf.setStn l i v).seq = l.seq := rfl
@[simp] theorem Leaf.setStn_out (l : Leaf) (i : Nat) (v : Station) : (Leaf.setStn l i v).out = l.out := rfl
@[simp] theorem Leaf.setStn_free (l : Leaf) (i : Nat) (v : Station) : (Leaf.setStn l i v).free = l.free := rfl

@[simp] theorem Leaf.setHist_kind (l : Leaf) (i : Nat) (v : Hist) : (Leaf.setHist l i v).kind = l.kind := rfl
@[simp] theorem Leaf.setHist_fuses (l : Leaf) (i : Nat) (v : Hist) : (Leaf.setHist l i v).fuses = l.fuses := rfl
@[simp] theorem Leaf.setHist_time (l : Leaf) (i : Nat) (v : Hist) : (Leaf.setHist l i v).time = l.time := rfl
@[simp] theorem Leaf.setHist_path (l : Leaf) (i : Nat) (v : Hist) : (Leaf.setHist l i v).path = l.path := rfl
@[simp] theorem Leaf.setHist_appts (l : Leaf) (i : Nat) (v : Hist) : (Leaf.setHist l i v).appts = l.appts := rfl
@[simp] theorem Leaf.setHist_det (l : Leaf) (i : Nat) (v : Hist) : (Leaf.setHist l i v).det = l.det := rfl
@[simp] theorem Leaf.setHist_ring (l : Leaf) (i : Nat) (v : Hist) : (Leaf.setHist l i v).ring = l.ring := rfl
@[simp] theorem Leaf.setHist_cfg (l : Leaf) (i : Nat) (v : Hist) : (Leaf.setHist l i v).cfg = l.cfg := rfl
@[simp] theorem Leaf.setHist_snap (l : Leaf) (i : Nat) (v : Hist) : (Leaf.setHist l i v).snap = l.snap := rfl
@[simp] theorem Leaf.setHist_inputs (l : Leaf) (i : Nat) (v : Hist) : (Leaf.setHist l i v).inputs = l.inputs := rfl
@[simp] theorem Leaf.setHist_trace (l : Leaf) (i : Nat) (v : Hist) : (Leaf.setHist l i v).trace = l.trace := rfl
@[simp] theorem Leaf.setHist_dump (l : Leaf) (i : Nat) (v : Hist) : (Leaf.setHist l i v).dump = l.dump := rfl
@[simp] theorem Leaf.setHist_hp (l : Leaf) (i : Nat) (v : Hist) : (Leaf.setHist l i v).hp = l.hp := rfl
@[simp] theorem Leaf.setHist_assay (l : Leaf) (i : Nat) (v : Hist) : (Leaf.setHist l i v).assay = l.assay := rfl
@[simp] theorem Leaf.setHist_health (l : Leaf) (i : Nat) (v : Hist) : (Leaf.setHist l i v).health = l.health := rfl
@[simp] theorem Leaf.setHist_led (l : Leaf) (i : Nat) (v : Hist) : (Leaf.setHist l i v).led = l.led := rfl
@[simp] theorem Leaf.setHist_gb (l : Leaf) (i : Nat) (v : Hist) : (Leaf.setHist l i v).gb = l.gb := rfl
@[simp] theorem Leaf.setHist_att (l : Leaf) (i : Nat) (v : Hist) : (Leaf.setHist l i v).att = l.att := rfl
@[simp] theorem Leaf.setHist_cv (l : Leaf) (i : Nat) (v : Hist) : (Leaf.setHist l i v).cv = l.cv := rfl
@[simp] theorem Leaf.setHist_pwr (l : Leaf) (i : Nat) (v : Hist) : (Leaf.setHist l i v).pwr = l.pwr := rfl
@[simp] theorem Leaf.setHist_seq (l : Leaf) (i : Nat) (v : Hist) : (Leaf.setHist l i v).seq = l.seq := rfl
@[simp] theorem Leaf.setHist_out (l : Leaf) (i : Nat) (v : Hist) : (Leaf.setHist l i v).out = l.out := rfl
@[simp] theorem Leaf.setHist_free (l : Leaf) (i : Nat) (v : Hist) : (Leaf.setHist l i v).free = l.free := rfl

@[simp] theorem Leaf.setInput_kind (l : Leaf) (i : Nat) (v : Input) : (Leaf.setInput l i v).kind = l.kind := rfl
@[simp] theorem Leaf.setInput_fuses (l : Leaf) (i : Nat) (v : Input) : (Leaf.setInput l i v).fuses = l.fuses := rfl
@[simp] theorem Leaf.setInput_time (l : Leaf) (i : Nat) (v : Input) : (Leaf.setInput l i v).time = l.time := rfl
@[simp] theorem Leaf.setInput_path (l : Leaf) (i : Nat) (v : Input) : (Leaf.setInput l i v).path = l.path := rfl
@[simp] theorem Leaf.setInput_appts (l : Leaf) (i : Nat) (v : Input) : (Leaf.setInput l i v).appts = l.appts := rfl
@[simp] theorem Leaf.setInput_det (l : Leaf) (i : Nat) (v : Input) : (Leaf.setInput l i v).det = l.det := rfl
@[simp] theorem Leaf.setInput_ring (l : Leaf) (i : Nat) (v : Input) : (Leaf.setInput l i v).ring = l.ring := rfl
@[simp] theorem Leaf.setInput_cfg (l : Leaf) (i : Nat) (v : Input) : (Leaf.setInput l i v).cfg = l.cfg := rfl
@[simp] theorem Leaf.setInput_cnt (l : Leaf) (i : Nat) (v : Input) : (Leaf.setInput l i v).cnt = l.cnt := rfl
@[simp] theorem Leaf.setInput_snap (l : Leaf) (i : Nat) (v : Input) : (Leaf.setInput l i v).snap = l.snap := rfl
@[simp] theorem Leaf.setInput_inputs (l : Leaf) (i : Nat) (v : Input) : (Leaf.setInput l i v).inputs = Cells.set Input.reset l.inputs i v := rfl
@[simp] theorem Leaf.setInput_trace (l : Leaf) (i : Nat) (v : Input) : (Leaf.setInput l i v).trace = l.trace := rfl
@[simp] theorem Leaf.setInput_dump (l : Leaf) (i : Nat) (v : Input) : (Leaf.setInput l i v).dump = l.dump := rfl
@[simp] theorem Leaf.setInput_hp (l : Leaf) (i : Nat) (v : Input) : (Leaf.setInput l i v).hp = l.hp := rfl
@[simp] theorem Leaf.setInput_assay (l : Leaf) (i : Nat) (v : Input) : (Leaf.setInput l i v).assay = l.assay := rfl
@[simp] theorem Leaf.setInput_health (l : Leaf) (i : Nat) (v : Input) : (Leaf.setInput l i v).health = l.health := rfl
@[simp] theorem Leaf.setInput_led (l : Leaf) (i : Nat) (v : Input) : (Leaf.setInput l i v).led = l.led := rfl
@[simp] theorem Leaf.setInput_gb (l : Leaf) (i : Nat) (v : Input) : (Leaf.setInput l i v).gb = l.gb := rfl
@[simp] theorem Leaf.setInput_att (l : Leaf) (i : Nat) (v : Input) : (Leaf.setInput l i v).att = l.att := rfl
@[simp] theorem Leaf.setInput_cv (l : Leaf) (i : Nat) (v : Input) : (Leaf.setInput l i v).cv = l.cv := rfl
@[simp] theorem Leaf.setInput_pwr (l : Leaf) (i : Nat) (v : Input) : (Leaf.setInput l i v).pwr = l.pwr := rfl
@[simp] theorem Leaf.setInput_seq (l : Leaf) (i : Nat) (v : Input) : (Leaf.setInput l i v).seq = l.seq := rfl
@[simp] theorem Leaf.setInput_out (l : Leaf) (i : Nat) (v : Input) : (Leaf.setInput l i v).out = l.out := rfl
@[simp] theorem Leaf.setInput_free (l : Leaf) (i : Nat) (v : Input) : (Leaf.setInput l i v).free = l.free := rfl

@[simp] theorem Leaf.setTrcPort_kind (l : Leaf) (i : Nat) (v : TracePort) : (Leaf.setTrcPort l i v).kind = l.kind := rfl
@[simp] theorem Leaf.setTrcPort_fuses (l : Leaf) (i : Nat) (v : TracePort) : (Leaf.setTrcPort l i v).fuses = l.fuses := rfl
@[simp] theorem Leaf.setTrcPort_time (l : Leaf) (i : Nat) (v : TracePort) : (Leaf.setTrcPort l i v).time = l.time := rfl
@[simp] theorem Leaf.setTrcPort_path (l : Leaf) (i : Nat) (v : TracePort) : (Leaf.setTrcPort l i v).path = l.path := rfl
@[simp] theorem Leaf.setTrcPort_appts (l : Leaf) (i : Nat) (v : TracePort) : (Leaf.setTrcPort l i v).appts = l.appts := rfl
@[simp] theorem Leaf.setTrcPort_det (l : Leaf) (i : Nat) (v : TracePort) : (Leaf.setTrcPort l i v).det = l.det := rfl
@[simp] theorem Leaf.setTrcPort_ring (l : Leaf) (i : Nat) (v : TracePort) : (Leaf.setTrcPort l i v).ring = l.ring := rfl
@[simp] theorem Leaf.setTrcPort_cfg (l : Leaf) (i : Nat) (v : TracePort) : (Leaf.setTrcPort l i v).cfg = l.cfg := rfl
@[simp] theorem Leaf.setTrcPort_cnt (l : Leaf) (i : Nat) (v : TracePort) : (Leaf.setTrcPort l i v).cnt = l.cnt := rfl
@[simp] theorem Leaf.setTrcPort_snap (l : Leaf) (i : Nat) (v : TracePort) : (Leaf.setTrcPort l i v).snap = l.snap := rfl
@[simp] theorem Leaf.setTrcPort_inputs (l : Leaf) (i : Nat) (v : TracePort) : (Leaf.setTrcPort l i v).inputs = l.inputs := rfl
@[simp] theorem Leaf.setTrcPort_dump (l : Leaf) (i : Nat) (v : TracePort) : (Leaf.setTrcPort l i v).dump = l.dump := rfl
@[simp] theorem Leaf.setTrcPort_hp (l : Leaf) (i : Nat) (v : TracePort) : (Leaf.setTrcPort l i v).hp = l.hp := rfl
@[simp] theorem Leaf.setTrcPort_assay (l : Leaf) (i : Nat) (v : TracePort) : (Leaf.setTrcPort l i v).assay = l.assay := rfl
@[simp] theorem Leaf.setTrcPort_health (l : Leaf) (i : Nat) (v : TracePort) : (Leaf.setTrcPort l i v).health = l.health := rfl
@[simp] theorem Leaf.setTrcPort_led (l : Leaf) (i : Nat) (v : TracePort) : (Leaf.setTrcPort l i v).led = l.led := rfl
@[simp] theorem Leaf.setTrcPort_gb (l : Leaf) (i : Nat) (v : TracePort) : (Leaf.setTrcPort l i v).gb = l.gb := rfl
@[simp] theorem Leaf.setTrcPort_att (l : Leaf) (i : Nat) (v : TracePort) : (Leaf.setTrcPort l i v).att = l.att := rfl
@[simp] theorem Leaf.setTrcPort_cv (l : Leaf) (i : Nat) (v : TracePort) : (Leaf.setTrcPort l i v).cv = l.cv := rfl
@[simp] theorem Leaf.setTrcPort_pwr (l : Leaf) (i : Nat) (v : TracePort) : (Leaf.setTrcPort l i v).pwr = l.pwr := rfl
@[simp] theorem Leaf.setTrcPort_seq (l : Leaf) (i : Nat) (v : TracePort) : (Leaf.setTrcPort l i v).seq = l.seq := rfl
@[simp] theorem Leaf.setTrcPort_out (l : Leaf) (i : Nat) (v : TracePort) : (Leaf.setTrcPort l i v).out = l.out := rfl
@[simp] theorem Leaf.setTrcPort_free (l : Leaf) (i : Nat) (v : TracePort) : (Leaf.setTrcPort l i v).free = l.free := rfl

@[simp] theorem Leaf.setSlot_kind (l : Leaf) (i : Nat) (v : Slot) : (Leaf.setSlot l i v).kind = l.kind := rfl
@[simp] theorem Leaf.setSlot_fuses (l : Leaf) (i : Nat) (v : Slot) : (Leaf.setSlot l i v).fuses = l.fuses := rfl
@[simp] theorem Leaf.setSlot_time (l : Leaf) (i : Nat) (v : Slot) : (Leaf.setSlot l i v).time = l.time := rfl
@[simp] theorem Leaf.setSlot_path (l : Leaf) (i : Nat) (v : Slot) : (Leaf.setSlot l i v).path = l.path := rfl
@[simp] theorem Leaf.setSlot_appts (l : Leaf) (i : Nat) (v : Slot) : (Leaf.setSlot l i v).appts = Cells.set Slot.reset l.appts i v := rfl
@[simp] theorem Leaf.setSlot_det (l : Leaf) (i : Nat) (v : Slot) : (Leaf.setSlot l i v).det = l.det := rfl
@[simp] theorem Leaf.setSlot_ring (l : Leaf) (i : Nat) (v : Slot) : (Leaf.setSlot l i v).ring = l.ring := rfl
@[simp] theorem Leaf.setSlot_cfg (l : Leaf) (i : Nat) (v : Slot) : (Leaf.setSlot l i v).cfg = l.cfg := rfl
@[simp] theorem Leaf.setSlot_cnt (l : Leaf) (i : Nat) (v : Slot) : (Leaf.setSlot l i v).cnt = l.cnt := rfl
@[simp] theorem Leaf.setSlot_snap (l : Leaf) (i : Nat) (v : Slot) : (Leaf.setSlot l i v).snap = l.snap := rfl
@[simp] theorem Leaf.setSlot_inputs (l : Leaf) (i : Nat) (v : Slot) : (Leaf.setSlot l i v).inputs = l.inputs := rfl
@[simp] theorem Leaf.setSlot_trace (l : Leaf) (i : Nat) (v : Slot) : (Leaf.setSlot l i v).trace = l.trace := rfl
@[simp] theorem Leaf.setSlot_dump (l : Leaf) (i : Nat) (v : Slot) : (Leaf.setSlot l i v).dump = l.dump := rfl
@[simp] theorem Leaf.setSlot_hp (l : Leaf) (i : Nat) (v : Slot) : (Leaf.setSlot l i v).hp = l.hp := rfl
@[simp] theorem Leaf.setSlot_assay (l : Leaf) (i : Nat) (v : Slot) : (Leaf.setSlot l i v).assay = l.assay := rfl
@[simp] theorem Leaf.setSlot_health (l : Leaf) (i : Nat) (v : Slot) : (Leaf.setSlot l i v).health = l.health := rfl
@[simp] theorem Leaf.setSlot_led (l : Leaf) (i : Nat) (v : Slot) : (Leaf.setSlot l i v).led = l.led := rfl
@[simp] theorem Leaf.setSlot_gb (l : Leaf) (i : Nat) (v : Slot) : (Leaf.setSlot l i v).gb = l.gb := rfl
@[simp] theorem Leaf.setSlot_att (l : Leaf) (i : Nat) (v : Slot) : (Leaf.setSlot l i v).att = l.att := rfl
@[simp] theorem Leaf.setSlot_cv (l : Leaf) (i : Nat) (v : Slot) : (Leaf.setSlot l i v).cv = l.cv := rfl
@[simp] theorem Leaf.setSlot_pwr (l : Leaf) (i : Nat) (v : Slot) : (Leaf.setSlot l i v).pwr = l.pwr := rfl
@[simp] theorem Leaf.setSlot_seq (l : Leaf) (i : Nat) (v : Slot) : (Leaf.setSlot l i v).seq = l.seq := rfl
@[simp] theorem Leaf.setSlot_out (l : Leaf) (i : Nat) (v : Slot) : (Leaf.setSlot l i v).out = l.out := rfl
@[simp] theorem Leaf.setSlot_free (l : Leaf) (i : Nat) (v : Slot) : (Leaf.setSlot l i v).free = l.free := rfl

@[simp] theorem Leaf.setLease_kind (l : Leaf) (v : Lease) : (Leaf.setLease l v).kind = l.kind := rfl
@[simp] theorem Leaf.setLease_fuses (l : Leaf) (v : Lease) : (Leaf.setLease l v).fuses = l.fuses := rfl
@[simp] theorem Leaf.setLease_time (l : Leaf) (v : Lease) : (Leaf.setLease l v).time = l.time := rfl
@[simp] theorem Leaf.setLease_path (l : Leaf) (v : Lease) : (Leaf.setLease l v).path = l.path := rfl
@[simp] theorem Leaf.setLease_appts (l : Leaf) (v : Lease) : (Leaf.setLease l v).appts = l.appts := rfl
@[simp] theorem Leaf.setLease_det (l : Leaf) (v : Lease) : (Leaf.setLease l v).det = l.det := rfl
@[simp] theorem Leaf.setLease_cfg (l : Leaf) (v : Lease) : (Leaf.setLease l v).cfg = l.cfg := rfl
@[simp] theorem Leaf.setLease_cnt (l : Leaf) (v : Lease) : (Leaf.setLease l v).cnt = l.cnt := rfl
@[simp] theorem Leaf.setLease_snap (l : Leaf) (v : Lease) : (Leaf.setLease l v).snap = l.snap := rfl
@[simp] theorem Leaf.setLease_inputs (l : Leaf) (v : Lease) : (Leaf.setLease l v).inputs = l.inputs := rfl
@[simp] theorem Leaf.setLease_trace (l : Leaf) (v : Lease) : (Leaf.setLease l v).trace = l.trace := rfl
@[simp] theorem Leaf.setLease_dump (l : Leaf) (v : Lease) : (Leaf.setLease l v).dump = l.dump := rfl
@[simp] theorem Leaf.setLease_hp (l : Leaf) (v : Lease) : (Leaf.setLease l v).hp = l.hp := rfl
@[simp] theorem Leaf.setLease_assay (l : Leaf) (v : Lease) : (Leaf.setLease l v).assay = l.assay := rfl
@[simp] theorem Leaf.setLease_health (l : Leaf) (v : Lease) : (Leaf.setLease l v).health = l.health := rfl
@[simp] theorem Leaf.setLease_led (l : Leaf) (v : Lease) : (Leaf.setLease l v).led = l.led := rfl
@[simp] theorem Leaf.setLease_gb (l : Leaf) (v : Lease) : (Leaf.setLease l v).gb = l.gb := rfl
@[simp] theorem Leaf.setLease_att (l : Leaf) (v : Lease) : (Leaf.setLease l v).att = l.att := rfl
@[simp] theorem Leaf.setLease_cv (l : Leaf) (v : Lease) : (Leaf.setLease l v).cv = l.cv := rfl
@[simp] theorem Leaf.setLease_pwr (l : Leaf) (v : Lease) : (Leaf.setLease l v).pwr = l.pwr := rfl
@[simp] theorem Leaf.setLease_seq (l : Leaf) (v : Lease) : (Leaf.setLease l v).seq = l.seq := rfl
@[simp] theorem Leaf.setLease_out (l : Leaf) (v : Lease) : (Leaf.setLease l v).out = l.out := rfl
@[simp] theorem Leaf.setLease_free (l : Leaf) (v : Lease) : (Leaf.setLease l v).free = l.free := rfl

@[simp] theorem Tervon.emit_boot (t : Tervon) (o : Out) : (Tervon.emit t o).boot = t.boot := rfl
@[simp] theorem Tervon.emit_tiles (t : Tervon) (o : Out) : (Tervon.emit t o).tiles = t.tiles := rfl
@[simp] theorem Tervon.emit_time (t : Tervon) (o : Out) : (Tervon.emit t o).time = t.time := rfl
@[simp] theorem Tervon.emit_tt (t : Tervon) (o : Out) : (Tervon.emit t o).tt = t.tt := rfl
@[simp] theorem Tervon.emit_det (t : Tervon) (o : Out) : (Tervon.emit t o).det = t.det := rfl
@[simp] theorem Tervon.emit_appts (t : Tervon) (o : Out) : (Tervon.emit t o).appts = t.appts := rfl
@[simp] theorem Tervon.emit_ports (t : Tervon) (o : Out) : (Tervon.emit t o).ports = t.ports := rfl
@[simp] theorem Tervon.emit_ilink (t : Tervon) (o : Out) : (Tervon.emit t o).ilink = t.ilink := rfl
@[simp] theorem Tervon.emit_rings (t : Tervon) (o : Out) : (Tervon.emit t o).rings = t.rings := rfl
@[simp] theorem Tervon.emit_ros (t : Tervon) (o : Out) : (Tervon.emit t o).ros = t.ros := rfl
@[simp] theorem Tervon.emit_recs (t : Tervon) (o : Out) : (Tervon.emit t o).recs = t.recs := rfl
@[simp] theorem Tervon.emit_str (t : Tervon) (o : Out) : (Tervon.emit t o).str = t.str := rfl
@[simp] theorem Tervon.emit_red (t : Tervon) (o : Out) : (Tervon.emit t o).red = t.red := rfl
@[simp] theorem Tervon.emit_gln (t : Tervon) (o : Out) : (Tervon.emit t o).gln = t.gln := rfl
@[simp] theorem Tervon.emit_ktiles (t : Tervon) (o : Out) : (Tervon.emit t o).ktiles = t.ktiles := rfl
@[simp] theorem Tervon.emit_enss (t : Tervon) (o : Out) : (Tervon.emit t o).enss = t.enss := rfl
@[simp] theorem Tervon.emit_kruns (t : Tervon) (o : Out) : (Tervon.emit t o).kruns = t.kruns := rfl
@[simp] theorem Tervon.emit_assay (t : Tervon) (o : Out) : (Tervon.emit t o).assay = t.assay := rfl
@[simp] theorem Tervon.emit_lard (t : Tervon) (o : Out) : (Tervon.emit t o).lard = t.lard := rfl
@[simp] theorem Tervon.emit_parts (t : Tervon) (o : Out) : (Tervon.emit t o).parts = t.parts := rfl
@[simp] theorem Tervon.emit_fns (t : Tervon) (o : Out) : (Tervon.emit t o).fns = t.fns := rfl
@[simp] theorem Tervon.emit_jobs (t : Tervon) (o : Out) : (Tervon.emit t o).jobs = t.jobs := rfl
@[simp] theorem Tervon.emit_ecc (t : Tervon) (o : Out) : (Tervon.emit t o).ecc = t.ecc := rfl
@[simp] theorem Tervon.emit_mir (t : Tervon) (o : Out) : (Tervon.emit t o).mir = t.mir := rfl
@[simp] theorem Tervon.emit_warm (t : Tervon) (o : Out) : (Tervon.emit t o).warm = t.warm := rfl
@[simp] theorem Tervon.emit_pwr (t : Tervon) (o : Out) : (Tervon.emit t o).pwr = t.pwr := rfl
@[simp] theorem Tervon.emit_ileaf (t : Tervon) (o : Out) : (Tervon.emit t o).ileaf = t.ileaf := rfl
@[simp] theorem Tervon.emit_routeTx (t : Tervon) (o : Out) : (Tervon.emit t o).routeTx = t.routeTx := rfl
@[simp] theorem Tervon.emit_routeRx (t : Tervon) (o : Out) : (Tervon.emit t o).routeRx = t.routeRx := rfl
@[simp] theorem Tervon.emit_routeStale (t : Tervon) (o : Out) : (Tervon.emit t o).routeStale = t.routeStale := rfl
@[simp] theorem Tervon.emit_out (t : Tervon) (o : Out) : (Tervon.emit t o).out = o :: t.out := rfl
@[simp] theorem Tervon.emit_free (t : Tervon) (o : Out) : (Tervon.emit t o).free = t.free := rfl

@[simp] theorem Tervon.emitAll_boot (t : Tervon) (os : List Out) : (Tervon.emitAll t os).boot = t.boot := rfl
@[simp] theorem Tervon.emitAll_tiles (t : Tervon) (os : List Out) : (Tervon.emitAll t os).tiles = t.tiles := rfl
@[simp] theorem Tervon.emitAll_time (t : Tervon) (os : List Out) : (Tervon.emitAll t os).time = t.time := rfl
@[simp] theorem Tervon.emitAll_tt (t : Tervon) (os : List Out) : (Tervon.emitAll t os).tt = t.tt := rfl
@[simp] theorem Tervon.emitAll_det (t : Tervon) (os : List Out) : (Tervon.emitAll t os).det = t.det := rfl
@[simp] theorem Tervon.emitAll_appts (t : Tervon) (os : List Out) : (Tervon.emitAll t os).appts = t.appts := rfl
@[simp] theorem Tervon.emitAll_ports (t : Tervon) (os : List Out) : (Tervon.emitAll t os).ports = t.ports := rfl
@[simp] theorem Tervon.emitAll_ilink (t : Tervon) (os : List Out) : (Tervon.emitAll t os).ilink = t.ilink := rfl
@[simp] theorem Tervon.emitAll_rings (t : Tervon) (os : List Out) : (Tervon.emitAll t os).rings = t.rings := rfl
@[simp] theorem Tervon.emitAll_ros (t : Tervon) (os : List Out) : (Tervon.emitAll t os).ros = t.ros := rfl
@[simp] theorem Tervon.emitAll_recs (t : Tervon) (os : List Out) : (Tervon.emitAll t os).recs = t.recs := rfl
@[simp] theorem Tervon.emitAll_str (t : Tervon) (os : List Out) : (Tervon.emitAll t os).str = t.str := rfl
@[simp] theorem Tervon.emitAll_red (t : Tervon) (os : List Out) : (Tervon.emitAll t os).red = t.red := rfl
@[simp] theorem Tervon.emitAll_gln (t : Tervon) (os : List Out) : (Tervon.emitAll t os).gln = t.gln := rfl
@[simp] theorem Tervon.emitAll_ktiles (t : Tervon) (os : List Out) : (Tervon.emitAll t os).ktiles = t.ktiles := rfl
@[simp] theorem Tervon.emitAll_enss (t : Tervon) (os : List Out) : (Tervon.emitAll t os).enss = t.enss := rfl
@[simp] theorem Tervon.emitAll_kruns (t : Tervon) (os : List Out) : (Tervon.emitAll t os).kruns = t.kruns := rfl
@[simp] theorem Tervon.emitAll_assay (t : Tervon) (os : List Out) : (Tervon.emitAll t os).assay = t.assay := rfl
@[simp] theorem Tervon.emitAll_lard (t : Tervon) (os : List Out) : (Tervon.emitAll t os).lard = t.lard := rfl
@[simp] theorem Tervon.emitAll_parts (t : Tervon) (os : List Out) : (Tervon.emitAll t os).parts = t.parts := rfl
@[simp] theorem Tervon.emitAll_fns (t : Tervon) (os : List Out) : (Tervon.emitAll t os).fns = t.fns := rfl
@[simp] theorem Tervon.emitAll_jobs (t : Tervon) (os : List Out) : (Tervon.emitAll t os).jobs = t.jobs := rfl
@[simp] theorem Tervon.emitAll_ecc (t : Tervon) (os : List Out) : (Tervon.emitAll t os).ecc = t.ecc := rfl
@[simp] theorem Tervon.emitAll_mir (t : Tervon) (os : List Out) : (Tervon.emitAll t os).mir = t.mir := rfl
@[simp] theorem Tervon.emitAll_warm (t : Tervon) (os : List Out) : (Tervon.emitAll t os).warm = t.warm := rfl
@[simp] theorem Tervon.emitAll_pwr (t : Tervon) (os : List Out) : (Tervon.emitAll t os).pwr = t.pwr := rfl
@[simp] theorem Tervon.emitAll_ileaf (t : Tervon) (os : List Out) : (Tervon.emitAll t os).ileaf = t.ileaf := rfl
@[simp] theorem Tervon.emitAll_routeTx (t : Tervon) (os : List Out) : (Tervon.emitAll t os).routeTx = t.routeTx := rfl
@[simp] theorem Tervon.emitAll_routeRx (t : Tervon) (os : List Out) : (Tervon.emitAll t os).routeRx = t.routeRx := rfl
@[simp] theorem Tervon.emitAll_routeStale (t : Tervon) (os : List Out) : (Tervon.emitAll t os).routeStale = t.routeStale := rfl
@[simp] theorem Tervon.emitAll_out (t : Tervon) (os : List Out) : (Tervon.emitAll t os).out = os.reverse ++ t.out := rfl
@[simp] theorem Tervon.emitAll_free (t : Tervon) (os : List Out) : (Tervon.emitAll t os).free = t.free := rfl

@[simp] theorem Tervon.setFn_boot (t : Tervon) (i : Nat) (v : HostFn) : (Tervon.setFn t i v).boot = t.boot := rfl
@[simp] theorem Tervon.setFn_tiles (t : Tervon) (i : Nat) (v : HostFn) : (Tervon.setFn t i v).tiles = t.tiles := rfl
@[simp] theorem Tervon.setFn_time (t : Tervon) (i : Nat) (v : HostFn) : (Tervon.setFn t i v).time = t.time := rfl
@[simp] theorem Tervon.setFn_tt (t : Tervon) (i : Nat) (v : HostFn) : (Tervon.setFn t i v).tt = t.tt := rfl
@[simp] theorem Tervon.setFn_det (t : Tervon) (i : Nat) (v : HostFn) : (Tervon.setFn t i v).det = t.det := rfl
@[simp] theorem Tervon.setFn_appts (t : Tervon) (i : Nat) (v : HostFn) : (Tervon.setFn t i v).appts = t.appts := rfl
@[simp] theorem Tervon.setFn_ports (t : Tervon) (i : Nat) (v : HostFn) : (Tervon.setFn t i v).ports = t.ports := rfl
@[simp] theorem Tervon.setFn_ilink (t : Tervon) (i : Nat) (v : HostFn) : (Tervon.setFn t i v).ilink = t.ilink := rfl
@[simp] theorem Tervon.setFn_rings (t : Tervon) (i : Nat) (v : HostFn) : (Tervon.setFn t i v).rings = t.rings := rfl
@[simp] theorem Tervon.setFn_ros (t : Tervon) (i : Nat) (v : HostFn) : (Tervon.setFn t i v).ros = t.ros := rfl
@[simp] theorem Tervon.setFn_recs (t : Tervon) (i : Nat) (v : HostFn) : (Tervon.setFn t i v).recs = t.recs := rfl
@[simp] theorem Tervon.setFn_str (t : Tervon) (i : Nat) (v : HostFn) : (Tervon.setFn t i v).str = t.str := rfl
@[simp] theorem Tervon.setFn_red (t : Tervon) (i : Nat) (v : HostFn) : (Tervon.setFn t i v).red = t.red := rfl
@[simp] theorem Tervon.setFn_gln (t : Tervon) (i : Nat) (v : HostFn) : (Tervon.setFn t i v).gln = t.gln := rfl
@[simp] theorem Tervon.setFn_ktiles (t : Tervon) (i : Nat) (v : HostFn) : (Tervon.setFn t i v).ktiles = t.ktiles := rfl
@[simp] theorem Tervon.setFn_enss (t : Tervon) (i : Nat) (v : HostFn) : (Tervon.setFn t i v).enss = t.enss := rfl
@[simp] theorem Tervon.setFn_kruns (t : Tervon) (i : Nat) (v : HostFn) : (Tervon.setFn t i v).kruns = t.kruns := rfl
@[simp] theorem Tervon.setFn_assay (t : Tervon) (i : Nat) (v : HostFn) : (Tervon.setFn t i v).assay = t.assay := rfl
@[simp] theorem Tervon.setFn_lard (t : Tervon) (i : Nat) (v : HostFn) : (Tervon.setFn t i v).lard = t.lard := rfl
@[simp] theorem Tervon.setFn_parts (t : Tervon) (i : Nat) (v : HostFn) : (Tervon.setFn t i v).parts = t.parts := rfl
@[simp] theorem Tervon.setFn_fns (t : Tervon) (i : Nat) (v : HostFn) : (Tervon.setFn t i v).fns = Cells.set HostFn.reset t.fns i v := rfl
@[simp] theorem Tervon.setFn_jobs (t : Tervon) (i : Nat) (v : HostFn) : (Tervon.setFn t i v).jobs = t.jobs := rfl
@[simp] theorem Tervon.setFn_ecc (t : Tervon) (i : Nat) (v : HostFn) : (Tervon.setFn t i v).ecc = t.ecc := rfl
@[simp] theorem Tervon.setFn_mir (t : Tervon) (i : Nat) (v : HostFn) : (Tervon.setFn t i v).mir = t.mir := rfl
@[simp] theorem Tervon.setFn_warm (t : Tervon) (i : Nat) (v : HostFn) : (Tervon.setFn t i v).warm = t.warm := rfl
@[simp] theorem Tervon.setFn_pwr (t : Tervon) (i : Nat) (v : HostFn) : (Tervon.setFn t i v).pwr = t.pwr := rfl
@[simp] theorem Tervon.setFn_ileaf (t : Tervon) (i : Nat) (v : HostFn) : (Tervon.setFn t i v).ileaf = t.ileaf := rfl
@[simp] theorem Tervon.setFn_routeTx (t : Tervon) (i : Nat) (v : HostFn) : (Tervon.setFn t i v).routeTx = t.routeTx := rfl
@[simp] theorem Tervon.setFn_routeRx (t : Tervon) (i : Nat) (v : HostFn) : (Tervon.setFn t i v).routeRx = t.routeRx := rfl
@[simp] theorem Tervon.setFn_routeStale (t : Tervon) (i : Nat) (v : HostFn) : (Tervon.setFn t i v).routeStale = t.routeStale := rfl
@[simp] theorem Tervon.setFn_out (t : Tervon) (i : Nat) (v : HostFn) : (Tervon.setFn t i v).out = t.out := rfl
@[simp] theorem Tervon.setFn_free (t : Tervon) (i : Nat) (v : HostFn) : (Tervon.setFn t i v).free = t.free := rfl

@[simp] theorem Tervon.setPart_boot (t : Tervon) (i : Nat) (v : PartSt) : (Tervon.setPart t i v).boot = t.boot := rfl
@[simp] theorem Tervon.setPart_tiles (t : Tervon) (i : Nat) (v : PartSt) : (Tervon.setPart t i v).tiles = t.tiles := rfl
@[simp] theorem Tervon.setPart_time (t : Tervon) (i : Nat) (v : PartSt) : (Tervon.setPart t i v).time = t.time := rfl
@[simp] theorem Tervon.setPart_tt (t : Tervon) (i : Nat) (v : PartSt) : (Tervon.setPart t i v).tt = t.tt := rfl
@[simp] theorem Tervon.setPart_det (t : Tervon) (i : Nat) (v : PartSt) : (Tervon.setPart t i v).det = t.det := rfl
@[simp] theorem Tervon.setPart_appts (t : Tervon) (i : Nat) (v : PartSt) : (Tervon.setPart t i v).appts = t.appts := rfl
@[simp] theorem Tervon.setPart_ports (t : Tervon) (i : Nat) (v : PartSt) : (Tervon.setPart t i v).ports = t.ports := rfl
@[simp] theorem Tervon.setPart_ilink (t : Tervon) (i : Nat) (v : PartSt) : (Tervon.setPart t i v).ilink = t.ilink := rfl
@[simp] theorem Tervon.setPart_rings (t : Tervon) (i : Nat) (v : PartSt) : (Tervon.setPart t i v).rings = t.rings := rfl
@[simp] theorem Tervon.setPart_ros (t : Tervon) (i : Nat) (v : PartSt) : (Tervon.setPart t i v).ros = t.ros := rfl
@[simp] theorem Tervon.setPart_recs (t : Tervon) (i : Nat) (v : PartSt) : (Tervon.setPart t i v).recs = t.recs := rfl
@[simp] theorem Tervon.setPart_str (t : Tervon) (i : Nat) (v : PartSt) : (Tervon.setPart t i v).str = t.str := rfl
@[simp] theorem Tervon.setPart_red (t : Tervon) (i : Nat) (v : PartSt) : (Tervon.setPart t i v).red = t.red := rfl
@[simp] theorem Tervon.setPart_gln (t : Tervon) (i : Nat) (v : PartSt) : (Tervon.setPart t i v).gln = t.gln := rfl
@[simp] theorem Tervon.setPart_ktiles (t : Tervon) (i : Nat) (v : PartSt) : (Tervon.setPart t i v).ktiles = t.ktiles := rfl
@[simp] theorem Tervon.setPart_enss (t : Tervon) (i : Nat) (v : PartSt) : (Tervon.setPart t i v).enss = t.enss := rfl
@[simp] theorem Tervon.setPart_kruns (t : Tervon) (i : Nat) (v : PartSt) : (Tervon.setPart t i v).kruns = t.kruns := rfl
@[simp] theorem Tervon.setPart_assay (t : Tervon) (i : Nat) (v : PartSt) : (Tervon.setPart t i v).assay = t.assay := rfl
@[simp] theorem Tervon.setPart_lard (t : Tervon) (i : Nat) (v : PartSt) : (Tervon.setPart t i v).lard = t.lard := rfl
@[simp] theorem Tervon.setPart_parts (t : Tervon) (i : Nat) (v : PartSt) : (Tervon.setPart t i v).parts = Cells.set PartSt.reset t.parts i v := rfl
@[simp] theorem Tervon.setPart_fns (t : Tervon) (i : Nat) (v : PartSt) : (Tervon.setPart t i v).fns = t.fns := rfl
@[simp] theorem Tervon.setPart_jobs (t : Tervon) (i : Nat) (v : PartSt) : (Tervon.setPart t i v).jobs = t.jobs := rfl
@[simp] theorem Tervon.setPart_ecc (t : Tervon) (i : Nat) (v : PartSt) : (Tervon.setPart t i v).ecc = t.ecc := rfl
@[simp] theorem Tervon.setPart_mir (t : Tervon) (i : Nat) (v : PartSt) : (Tervon.setPart t i v).mir = t.mir := rfl
@[simp] theorem Tervon.setPart_warm (t : Tervon) (i : Nat) (v : PartSt) : (Tervon.setPart t i v).warm = t.warm := rfl
@[simp] theorem Tervon.setPart_pwr (t : Tervon) (i : Nat) (v : PartSt) : (Tervon.setPart t i v).pwr = t.pwr := rfl
@[simp] theorem Tervon.setPart_ileaf (t : Tervon) (i : Nat) (v : PartSt) : (Tervon.setPart t i v).ileaf = t.ileaf := rfl
@[simp] theorem Tervon.setPart_routeTx (t : Tervon) (i : Nat) (v : PartSt) : (Tervon.setPart t i v).routeTx = t.routeTx := rfl
@[simp] theorem Tervon.setPart_routeRx (t : Tervon) (i : Nat) (v : PartSt) : (Tervon.setPart t i v).routeRx = t.routeRx := rfl
@[simp] theorem Tervon.setPart_routeStale (t : Tervon) (i : Nat) (v : PartSt) : (Tervon.setPart t i v).routeStale = t.routeStale := rfl
@[simp] theorem Tervon.setPart_out (t : Tervon) (i : Nat) (v : PartSt) : (Tervon.setPart t i v).out = t.out := rfl
@[simp] theorem Tervon.setPart_free (t : Tervon) (i : Nat) (v : PartSt) : (Tervon.setPart t i v).free = t.free := rfl

@[simp] theorem Tervon.setPort_boot (t : Tervon) (i : Nat) (v : LinkPort) : (Tervon.setPort t i v).boot = t.boot := rfl
@[simp] theorem Tervon.setPort_tiles (t : Tervon) (i : Nat) (v : LinkPort) : (Tervon.setPort t i v).tiles = t.tiles := rfl
@[simp] theorem Tervon.setPort_time (t : Tervon) (i : Nat) (v : LinkPort) : (Tervon.setPort t i v).time = t.time := rfl
@[simp] theorem Tervon.setPort_tt (t : Tervon) (i : Nat) (v : LinkPort) : (Tervon.setPort t i v).tt = t.tt := rfl
@[simp] theorem Tervon.setPort_det (t : Tervon) (i : Nat) (v : LinkPort) : (Tervon.setPort t i v).det = t.det := rfl
@[simp] theorem Tervon.setPort_appts (t : Tervon) (i : Nat) (v : LinkPort) : (Tervon.setPort t i v).appts = t.appts := rfl
@[simp] theorem Tervon.setPort_ports (t : Tervon) (i : Nat) (v : LinkPort) : (Tervon.setPort t i v).ports = setAt t.ports i v := rfl
@[simp] theorem Tervon.setPort_ilink (t : Tervon) (i : Nat) (v : LinkPort) : (Tervon.setPort t i v).ilink = t.ilink := rfl
@[simp] theorem Tervon.setPort_rings (t : Tervon) (i : Nat) (v : LinkPort) : (Tervon.setPort t i v).rings = t.rings := rfl
@[simp] theorem Tervon.setPort_ros (t : Tervon) (i : Nat) (v : LinkPort) : (Tervon.setPort t i v).ros = t.ros := rfl
@[simp] theorem Tervon.setPort_recs (t : Tervon) (i : Nat) (v : LinkPort) : (Tervon.setPort t i v).recs = t.recs := rfl
@[simp] theorem Tervon.setPort_str (t : Tervon) (i : Nat) (v : LinkPort) : (Tervon.setPort t i v).str = t.str := rfl
@[simp] theorem Tervon.setPort_red (t : Tervon) (i : Nat) (v : LinkPort) : (Tervon.setPort t i v).red = t.red := rfl
@[simp] theorem Tervon.setPort_gln (t : Tervon) (i : Nat) (v : LinkPort) : (Tervon.setPort t i v).gln = t.gln := rfl
@[simp] theorem Tervon.setPort_ktiles (t : Tervon) (i : Nat) (v : LinkPort) : (Tervon.setPort t i v).ktiles = t.ktiles := rfl
@[simp] theorem Tervon.setPort_enss (t : Tervon) (i : Nat) (v : LinkPort) : (Tervon.setPort t i v).enss = t.enss := rfl
@[simp] theorem Tervon.setPort_kruns (t : Tervon) (i : Nat) (v : LinkPort) : (Tervon.setPort t i v).kruns = t.kruns := rfl
@[simp] theorem Tervon.setPort_assay (t : Tervon) (i : Nat) (v : LinkPort) : (Tervon.setPort t i v).assay = t.assay := rfl
@[simp] theorem Tervon.setPort_lard (t : Tervon) (i : Nat) (v : LinkPort) : (Tervon.setPort t i v).lard = t.lard := rfl
@[simp] theorem Tervon.setPort_parts (t : Tervon) (i : Nat) (v : LinkPort) : (Tervon.setPort t i v).parts = t.parts := rfl
@[simp] theorem Tervon.setPort_fns (t : Tervon) (i : Nat) (v : LinkPort) : (Tervon.setPort t i v).fns = t.fns := rfl
@[simp] theorem Tervon.setPort_jobs (t : Tervon) (i : Nat) (v : LinkPort) : (Tervon.setPort t i v).jobs = t.jobs := rfl
@[simp] theorem Tervon.setPort_ecc (t : Tervon) (i : Nat) (v : LinkPort) : (Tervon.setPort t i v).ecc = t.ecc := rfl
@[simp] theorem Tervon.setPort_mir (t : Tervon) (i : Nat) (v : LinkPort) : (Tervon.setPort t i v).mir = t.mir := rfl
@[simp] theorem Tervon.setPort_warm (t : Tervon) (i : Nat) (v : LinkPort) : (Tervon.setPort t i v).warm = t.warm := rfl
@[simp] theorem Tervon.setPort_pwr (t : Tervon) (i : Nat) (v : LinkPort) : (Tervon.setPort t i v).pwr = t.pwr := rfl
@[simp] theorem Tervon.setPort_ileaf (t : Tervon) (i : Nat) (v : LinkPort) : (Tervon.setPort t i v).ileaf = t.ileaf := rfl
@[simp] theorem Tervon.setPort_routeTx (t : Tervon) (i : Nat) (v : LinkPort) : (Tervon.setPort t i v).routeTx = t.routeTx := rfl
@[simp] theorem Tervon.setPort_routeRx (t : Tervon) (i : Nat) (v : LinkPort) : (Tervon.setPort t i v).routeRx = t.routeRx := rfl
@[simp] theorem Tervon.setPort_routeStale (t : Tervon) (i : Nat) (v : LinkPort) : (Tervon.setPort t i v).routeStale = t.routeStale := rfl
@[simp] theorem Tervon.setPort_out (t : Tervon) (i : Nat) (v : LinkPort) : (Tervon.setPort t i v).out = t.out := rfl
@[simp] theorem Tervon.setPort_free (t : Tervon) (i : Nat) (v : LinkPort) : (Tervon.setPort t i v).free = t.free := rfl

@[simp] theorem Tervon.setEnt_boot (t : Tervon) (i : Nat) (v : RosterEnt) : (Tervon.setEnt t i v).boot = t.boot := rfl
@[simp] theorem Tervon.setEnt_tiles (t : Tervon) (i : Nat) (v : RosterEnt) : (Tervon.setEnt t i v).tiles = t.tiles := rfl
@[simp] theorem Tervon.setEnt_time (t : Tervon) (i : Nat) (v : RosterEnt) : (Tervon.setEnt t i v).time = t.time := rfl
@[simp] theorem Tervon.setEnt_tt (t : Tervon) (i : Nat) (v : RosterEnt) : (Tervon.setEnt t i v).tt = t.tt := rfl
@[simp] theorem Tervon.setEnt_det (t : Tervon) (i : Nat) (v : RosterEnt) : (Tervon.setEnt t i v).det = t.det := rfl
@[simp] theorem Tervon.setEnt_appts (t : Tervon) (i : Nat) (v : RosterEnt) : (Tervon.setEnt t i v).appts = t.appts := rfl
@[simp] theorem Tervon.setEnt_ports (t : Tervon) (i : Nat) (v : RosterEnt) : (Tervon.setEnt t i v).ports = t.ports := rfl
@[simp] theorem Tervon.setEnt_ilink (t : Tervon) (i : Nat) (v : RosterEnt) : (Tervon.setEnt t i v).ilink = t.ilink := rfl
@[simp] theorem Tervon.setEnt_rings (t : Tervon) (i : Nat) (v : RosterEnt) : (Tervon.setEnt t i v).rings = t.rings := rfl
@[simp] theorem Tervon.setEnt_recs (t : Tervon) (i : Nat) (v : RosterEnt) : (Tervon.setEnt t i v).recs = t.recs := rfl
@[simp] theorem Tervon.setEnt_str (t : Tervon) (i : Nat) (v : RosterEnt) : (Tervon.setEnt t i v).str = t.str := rfl
@[simp] theorem Tervon.setEnt_red (t : Tervon) (i : Nat) (v : RosterEnt) : (Tervon.setEnt t i v).red = t.red := rfl
@[simp] theorem Tervon.setEnt_gln (t : Tervon) (i : Nat) (v : RosterEnt) : (Tervon.setEnt t i v).gln = t.gln := rfl
@[simp] theorem Tervon.setEnt_ktiles (t : Tervon) (i : Nat) (v : RosterEnt) : (Tervon.setEnt t i v).ktiles = t.ktiles := rfl
@[simp] theorem Tervon.setEnt_enss (t : Tervon) (i : Nat) (v : RosterEnt) : (Tervon.setEnt t i v).enss = t.enss := rfl
@[simp] theorem Tervon.setEnt_kruns (t : Tervon) (i : Nat) (v : RosterEnt) : (Tervon.setEnt t i v).kruns = t.kruns := rfl
@[simp] theorem Tervon.setEnt_assay (t : Tervon) (i : Nat) (v : RosterEnt) : (Tervon.setEnt t i v).assay = t.assay := rfl
@[simp] theorem Tervon.setEnt_lard (t : Tervon) (i : Nat) (v : RosterEnt) : (Tervon.setEnt t i v).lard = t.lard := rfl
@[simp] theorem Tervon.setEnt_parts (t : Tervon) (i : Nat) (v : RosterEnt) : (Tervon.setEnt t i v).parts = t.parts := rfl
@[simp] theorem Tervon.setEnt_fns (t : Tervon) (i : Nat) (v : RosterEnt) : (Tervon.setEnt t i v).fns = t.fns := rfl
@[simp] theorem Tervon.setEnt_jobs (t : Tervon) (i : Nat) (v : RosterEnt) : (Tervon.setEnt t i v).jobs = t.jobs := rfl
@[simp] theorem Tervon.setEnt_ecc (t : Tervon) (i : Nat) (v : RosterEnt) : (Tervon.setEnt t i v).ecc = t.ecc := rfl
@[simp] theorem Tervon.setEnt_mir (t : Tervon) (i : Nat) (v : RosterEnt) : (Tervon.setEnt t i v).mir = t.mir := rfl
@[simp] theorem Tervon.setEnt_warm (t : Tervon) (i : Nat) (v : RosterEnt) : (Tervon.setEnt t i v).warm = t.warm := rfl
@[simp] theorem Tervon.setEnt_pwr (t : Tervon) (i : Nat) (v : RosterEnt) : (Tervon.setEnt t i v).pwr = t.pwr := rfl
@[simp] theorem Tervon.setEnt_ileaf (t : Tervon) (i : Nat) (v : RosterEnt) : (Tervon.setEnt t i v).ileaf = t.ileaf := rfl
@[simp] theorem Tervon.setEnt_routeTx (t : Tervon) (i : Nat) (v : RosterEnt) : (Tervon.setEnt t i v).routeTx = t.routeTx := rfl
@[simp] theorem Tervon.setEnt_routeRx (t : Tervon) (i : Nat) (v : RosterEnt) : (Tervon.setEnt t i v).routeRx = t.routeRx := rfl
@[simp] theorem Tervon.setEnt_routeStale (t : Tervon) (i : Nat) (v : RosterEnt) : (Tervon.setEnt t i v).routeStale = t.routeStale := rfl
@[simp] theorem Tervon.setEnt_out (t : Tervon) (i : Nat) (v : RosterEnt) : (Tervon.setEnt t i v).out = t.out := rfl
@[simp] theorem Tervon.setEnt_free (t : Tervon) (i : Nat) (v : RosterEnt) : (Tervon.setEnt t i v).free = t.free := rfl

@[simp] theorem Tervon.setLease_boot (t : Tervon) (i : Nat) (v : TvLease) : (Tervon.setLease t i v).boot = t.boot := rfl
@[simp] theorem Tervon.setLease_tiles (t : Tervon) (i : Nat) (v : TvLease) : (Tervon.setLease t i v).tiles = t.tiles := rfl
@[simp] theorem Tervon.setLease_time (t : Tervon) (i : Nat) (v : TvLease) : (Tervon.setLease t i v).time = t.time := rfl
@[simp] theorem Tervon.setLease_tt (t : Tervon) (i : Nat) (v : TvLease) : (Tervon.setLease t i v).tt = t.tt := rfl
@[simp] theorem Tervon.setLease_det (t : Tervon) (i : Nat) (v : TvLease) : (Tervon.setLease t i v).det = t.det := rfl
@[simp] theorem Tervon.setLease_appts (t : Tervon) (i : Nat) (v : TvLease) : (Tervon.setLease t i v).appts = t.appts := rfl
@[simp] theorem Tervon.setLease_ports (t : Tervon) (i : Nat) (v : TvLease) : (Tervon.setLease t i v).ports = t.ports := rfl
@[simp] theorem Tervon.setLease_ilink (t : Tervon) (i : Nat) (v : TvLease) : (Tervon.setLease t i v).ilink = t.ilink := rfl
@[simp] theorem Tervon.setLease_rings (t : Tervon) (i : Nat) (v : TvLease) : (Tervon.setLease t i v).rings = t.rings := rfl
@[simp] theorem Tervon.setLease_recs (t : Tervon) (i : Nat) (v : TvLease) : (Tervon.setLease t i v).recs = t.recs := rfl
@[simp] theorem Tervon.setLease_str (t : Tervon) (i : Nat) (v : TvLease) : (Tervon.setLease t i v).str = t.str := rfl
@[simp] theorem Tervon.setLease_red (t : Tervon) (i : Nat) (v : TvLease) : (Tervon.setLease t i v).red = t.red := rfl
@[simp] theorem Tervon.setLease_gln (t : Tervon) (i : Nat) (v : TvLease) : (Tervon.setLease t i v).gln = t.gln := rfl
@[simp] theorem Tervon.setLease_ktiles (t : Tervon) (i : Nat) (v : TvLease) : (Tervon.setLease t i v).ktiles = t.ktiles := rfl
@[simp] theorem Tervon.setLease_enss (t : Tervon) (i : Nat) (v : TvLease) : (Tervon.setLease t i v).enss = t.enss := rfl
@[simp] theorem Tervon.setLease_kruns (t : Tervon) (i : Nat) (v : TvLease) : (Tervon.setLease t i v).kruns = t.kruns := rfl
@[simp] theorem Tervon.setLease_assay (t : Tervon) (i : Nat) (v : TvLease) : (Tervon.setLease t i v).assay = t.assay := rfl
@[simp] theorem Tervon.setLease_lard (t : Tervon) (i : Nat) (v : TvLease) : (Tervon.setLease t i v).lard = t.lard := rfl
@[simp] theorem Tervon.setLease_parts (t : Tervon) (i : Nat) (v : TvLease) : (Tervon.setLease t i v).parts = t.parts := rfl
@[simp] theorem Tervon.setLease_fns (t : Tervon) (i : Nat) (v : TvLease) : (Tervon.setLease t i v).fns = t.fns := rfl
@[simp] theorem Tervon.setLease_jobs (t : Tervon) (i : Nat) (v : TvLease) : (Tervon.setLease t i v).jobs = t.jobs := rfl
@[simp] theorem Tervon.setLease_ecc (t : Tervon) (i : Nat) (v : TvLease) : (Tervon.setLease t i v).ecc = t.ecc := rfl
@[simp] theorem Tervon.setLease_mir (t : Tervon) (i : Nat) (v : TvLease) : (Tervon.setLease t i v).mir = t.mir := rfl
@[simp] theorem Tervon.setLease_warm (t : Tervon) (i : Nat) (v : TvLease) : (Tervon.setLease t i v).warm = t.warm := rfl
@[simp] theorem Tervon.setLease_pwr (t : Tervon) (i : Nat) (v : TvLease) : (Tervon.setLease t i v).pwr = t.pwr := rfl
@[simp] theorem Tervon.setLease_ileaf (t : Tervon) (i : Nat) (v : TvLease) : (Tervon.setLease t i v).ileaf = t.ileaf := rfl
@[simp] theorem Tervon.setLease_routeTx (t : Tervon) (i : Nat) (v : TvLease) : (Tervon.setLease t i v).routeTx = t.routeTx := rfl
@[simp] theorem Tervon.setLease_routeRx (t : Tervon) (i : Nat) (v : TvLease) : (Tervon.setLease t i v).routeRx = t.routeRx := rfl
@[simp] theorem Tervon.setLease_routeStale (t : Tervon) (i : Nat) (v : TvLease) : (Tervon.setLease t i v).routeStale = t.routeStale := rfl
@[simp] theorem Tervon.setLease_out (t : Tervon) (i : Nat) (v : TvLease) : (Tervon.setLease t i v).out = t.out := rfl
@[simp] theorem Tervon.setLease_free (t : Tervon) (i : Nat) (v : TvLease) : (Tervon.setLease t i v).free = t.free := rfl

@[simp] theorem Tervon.setLeafRec_boot (t : Tervon) (d : Did) (v : LeafRec) : (Tervon.setLeafRec t d v).boot = t.boot := rfl
@[simp] theorem Tervon.setLeafRec_tiles (t : Tervon) (d : Did) (v : LeafRec) : (Tervon.setLeafRec t d v).tiles = t.tiles := rfl
@[simp] theorem Tervon.setLeafRec_time (t : Tervon) (d : Did) (v : LeafRec) : (Tervon.setLeafRec t d v).time = t.time := rfl
@[simp] theorem Tervon.setLeafRec_tt (t : Tervon) (d : Did) (v : LeafRec) : (Tervon.setLeafRec t d v).tt = t.tt := rfl
@[simp] theorem Tervon.setLeafRec_det (t : Tervon) (d : Did) (v : LeafRec) : (Tervon.setLeafRec t d v).det = t.det := rfl
@[simp] theorem Tervon.setLeafRec_appts (t : Tervon) (d : Did) (v : LeafRec) : (Tervon.setLeafRec t d v).appts = t.appts := rfl
@[simp] theorem Tervon.setLeafRec_ports (t : Tervon) (d : Did) (v : LeafRec) : (Tervon.setLeafRec t d v).ports = t.ports := rfl
@[simp] theorem Tervon.setLeafRec_ilink (t : Tervon) (d : Did) (v : LeafRec) : (Tervon.setLeafRec t d v).ilink = t.ilink := rfl
@[simp] theorem Tervon.setLeafRec_rings (t : Tervon) (d : Did) (v : LeafRec) : (Tervon.setLeafRec t d v).rings = t.rings := rfl
@[simp] theorem Tervon.setLeafRec_ros (t : Tervon) (d : Did) (v : LeafRec) : (Tervon.setLeafRec t d v).ros = t.ros := rfl
@[simp] theorem Tervon.setLeafRec_str (t : Tervon) (d : Did) (v : LeafRec) : (Tervon.setLeafRec t d v).str = t.str := rfl
@[simp] theorem Tervon.setLeafRec_red (t : Tervon) (d : Did) (v : LeafRec) : (Tervon.setLeafRec t d v).red = t.red := rfl
@[simp] theorem Tervon.setLeafRec_gln (t : Tervon) (d : Did) (v : LeafRec) : (Tervon.setLeafRec t d v).gln = t.gln := rfl
@[simp] theorem Tervon.setLeafRec_ktiles (t : Tervon) (d : Did) (v : LeafRec) : (Tervon.setLeafRec t d v).ktiles = t.ktiles := rfl
@[simp] theorem Tervon.setLeafRec_enss (t : Tervon) (d : Did) (v : LeafRec) : (Tervon.setLeafRec t d v).enss = t.enss := rfl
@[simp] theorem Tervon.setLeafRec_kruns (t : Tervon) (d : Did) (v : LeafRec) : (Tervon.setLeafRec t d v).kruns = t.kruns := rfl
@[simp] theorem Tervon.setLeafRec_assay (t : Tervon) (d : Did) (v : LeafRec) : (Tervon.setLeafRec t d v).assay = t.assay := rfl
@[simp] theorem Tervon.setLeafRec_lard (t : Tervon) (d : Did) (v : LeafRec) : (Tervon.setLeafRec t d v).lard = t.lard := rfl
@[simp] theorem Tervon.setLeafRec_parts (t : Tervon) (d : Did) (v : LeafRec) : (Tervon.setLeafRec t d v).parts = t.parts := rfl
@[simp] theorem Tervon.setLeafRec_fns (t : Tervon) (d : Did) (v : LeafRec) : (Tervon.setLeafRec t d v).fns = t.fns := rfl
@[simp] theorem Tervon.setLeafRec_jobs (t : Tervon) (d : Did) (v : LeafRec) : (Tervon.setLeafRec t d v).jobs = t.jobs := rfl
@[simp] theorem Tervon.setLeafRec_ecc (t : Tervon) (d : Did) (v : LeafRec) : (Tervon.setLeafRec t d v).ecc = t.ecc := rfl
@[simp] theorem Tervon.setLeafRec_mir (t : Tervon) (d : Did) (v : LeafRec) : (Tervon.setLeafRec t d v).mir = t.mir := rfl
@[simp] theorem Tervon.setLeafRec_warm (t : Tervon) (d : Did) (v : LeafRec) : (Tervon.setLeafRec t d v).warm = t.warm := rfl
@[simp] theorem Tervon.setLeafRec_pwr (t : Tervon) (d : Did) (v : LeafRec) : (Tervon.setLeafRec t d v).pwr = t.pwr := rfl
@[simp] theorem Tervon.setLeafRec_ileaf (t : Tervon) (d : Did) (v : LeafRec) : (Tervon.setLeafRec t d v).ileaf = t.ileaf := rfl
@[simp] theorem Tervon.setLeafRec_routeTx (t : Tervon) (d : Did) (v : LeafRec) : (Tervon.setLeafRec t d v).routeTx = t.routeTx := rfl
@[simp] theorem Tervon.setLeafRec_routeRx (t : Tervon) (d : Did) (v : LeafRec) : (Tervon.setLeafRec t d v).routeRx = t.routeRx := rfl
@[simp] theorem Tervon.setLeafRec_routeStale (t : Tervon) (d : Did) (v : LeafRec) : (Tervon.setLeafRec t d v).routeStale = t.routeStale := rfl
@[simp] theorem Tervon.setLeafRec_out (t : Tervon) (d : Did) (v : LeafRec) : (Tervon.setLeafRec t d v).out = t.out := rfl
@[simp] theorem Tervon.setLeafRec_free (t : Tervon) (d : Did) (v : LeafRec) : (Tervon.setLeafRec t d v).free = t.free := rfl

@[simp] theorem Tervon.syncTime_boot (t : Tervon) : (Tervon.syncTime t).boot = t.boot := rfl
@[simp] theorem Tervon.syncTime_tiles (t : Tervon) : (Tervon.syncTime t).tiles = t.tiles := rfl
@[simp] theorem Tervon.syncTime_time (t : Tervon) : (Tervon.syncTime t).time = t.time := rfl
@[simp] theorem Tervon.syncTime_tt (t : Tervon) : (Tervon.syncTime t).tt = t.tt := rfl
@[simp] theorem Tervon.syncTime_det (t : Tervon) : (Tervon.syncTime t).det = t.det := rfl
@[simp] theorem Tervon.syncTime_appts (t : Tervon) : (Tervon.syncTime t).appts = t.appts := rfl
@[simp] theorem Tervon.syncTime_ports (t : Tervon) : (Tervon.syncTime t).ports = t.ports := rfl
@[simp] theorem Tervon.syncTime_ilink (t : Tervon) : (Tervon.syncTime t).ilink = t.ilink := rfl
@[simp] theorem Tervon.syncTime_rings (t : Tervon) : (Tervon.syncTime t).rings = t.rings := rfl
@[simp] theorem Tervon.syncTime_ros (t : Tervon) : (Tervon.syncTime t).ros = t.ros := rfl
@[simp] theorem Tervon.syncTime_recs (t : Tervon) : (Tervon.syncTime t).recs = t.recs := rfl
@[simp] theorem Tervon.syncTime_str (t : Tervon) : (Tervon.syncTime t).str = t.str := rfl
@[simp] theorem Tervon.syncTime_red (t : Tervon) : (Tervon.syncTime t).red = t.red := rfl
@[simp] theorem Tervon.syncTime_gln (t : Tervon) : (Tervon.syncTime t).gln = t.gln := rfl
@[simp] theorem Tervon.syncTime_ktiles (t : Tervon) : (Tervon.syncTime t).ktiles = t.ktiles := rfl
@[simp] theorem Tervon.syncTime_enss (t : Tervon) : (Tervon.syncTime t).enss = t.enss := rfl
@[simp] theorem Tervon.syncTime_kruns (t : Tervon) : (Tervon.syncTime t).kruns = t.kruns := rfl
@[simp] theorem Tervon.syncTime_assay (t : Tervon) : (Tervon.syncTime t).assay = t.assay := rfl
@[simp] theorem Tervon.syncTime_lard (t : Tervon) : (Tervon.syncTime t).lard = t.lard := rfl
@[simp] theorem Tervon.syncTime_parts (t : Tervon) : (Tervon.syncTime t).parts = t.parts := rfl
@[simp] theorem Tervon.syncTime_fns (t : Tervon) : (Tervon.syncTime t).fns = t.fns := rfl
@[simp] theorem Tervon.syncTime_jobs (t : Tervon) : (Tervon.syncTime t).jobs = t.jobs := rfl
@[simp] theorem Tervon.syncTime_ecc (t : Tervon) : (Tervon.syncTime t).ecc = t.ecc := rfl
@[simp] theorem Tervon.syncTime_mir (t : Tervon) : (Tervon.syncTime t).mir = t.mir := rfl
@[simp] theorem Tervon.syncTime_warm (t : Tervon) : (Tervon.syncTime t).warm = t.warm := rfl
@[simp] theorem Tervon.syncTime_pwr (t : Tervon) : (Tervon.syncTime t).pwr = t.pwr := rfl
@[simp] theorem Tervon.syncTime_routeTx (t : Tervon) : (Tervon.syncTime t).routeTx = t.routeTx := rfl
@[simp] theorem Tervon.syncTime_routeRx (t : Tervon) : (Tervon.syncTime t).routeRx = t.routeRx := rfl
@[simp] theorem Tervon.syncTime_routeStale (t : Tervon) : (Tervon.syncTime t).routeStale = t.routeStale := rfl
@[simp] theorem Tervon.syncTime_out (t : Tervon) : (Tervon.syncTime t).out = t.out := rfl
@[simp] theorem Tervon.syncTime_free (t : Tervon) : (Tervon.syncTime t).free = t.free := rfl

end Sys2Proof.Machine
end

