-- ==== Sys2Proof/Tests/Slice0.lean ====
section
/-! SUPPORT. Tests: the refusals of WellFormed, and for each claim and each obligation a state and operands that meet its hypotheses. -/

open Sys2Proof Sys2Proof.Machine Sys2Proof.Claims

set_option Elab.async false

namespace Sys2Proof.Tests

/-! ### Small states and frames -/

/-- Reset, with something done to the ring leaf. -/
def onLeaf (f : Leaf → Leaf) : State := { State.reset with leaf := f Leaf.reset }

/-- Reset, with something done to the Tervon. -/
def onTv (f : Tervon → Tervon) : State := { State.reset with tv := f Tervon.reset }

/-- A time domain at a number of ns. -/
def timeAt (ns : Nat) : TimeDom := { TimeDom.reset with now := BitVec.ofNat 104 (ns * 2 ^ 40) }

/-- A port that is up. -/
def upPort : LinkPort := { LinkPort.reset with link := 2 }

/-- A ring leaf whose west port is the given one, at 1 s. -/
def westIs (q : LinkPort) : State := onLeaf fun l => { l with ring.west := q, time := timeAt 1000000000 }

/-- A Tervon whose port `k` is the given one, at 1 s. -/
def portIs (k : Nat) (q : LinkPort) : State := onTv fun t => { Tervon.setPort t k q with time := timeAt 1000000000 }

/-- A frame of the payload from end A (14) to position 0, and one from position 0 to end A. -/
abbrev toLeaf (p : Payload) : Frame := mkFrame 0 14 0 0 p
abbrev toEnd (p : Payload) : Frame := mkFrame 14 0 0 0 p

/-- It arrives at a port. -/
abbrev arrive (p : PortId) (f : Frame) : Rx := ⟨p, f.hdr, false, false⟩

/-- The leaf at reset, at 1 s, and the same at position 0 of a ring whose links are up. -/
def late : Leaf := { Leaf.reset with time := timeAt 1000000000 }
def ringLeaf : Leaf := { late with ring.position := some 0, ring.length := 8, ring.west := upPort, ring.east := upPort }

/-- The Tervon at reset, at 1 s, and the same with its links up. -/
def lateTv : Tervon := { Tervon.reset with time := timeAt 1000000000 }
def upTv : Tervon := { lateTv with ports := lateTv.ports.map fun q => { q with link := 2 }, time.everSet := true }

/-- What a claim says of a leaf, or a Tervon, before its command: the claim's own hypothesis, read off its statement. -/
abbrev metLeaf {c : Instr} {who : LeafId} {H : Leaf → Prop} {E : Leaf → Leaf} (_ : LeafDoes c who H E) (l : Leaf) : Prop := H l
abbrev metLeafG {c : Instr} {who : LeafId} {H : Leaf → Prop} {P : Leaf → Leaf → Prop} (_ : LeafGives c who H P) (l : Leaf) : Prop := H l
abbrev metTv {c : Instr} {H : Tervon → Prop} {E : Tervon → Tervon} (_ : TvDoes c H E) (t : Tervon) : Prop := H t

/-- A command completes. -/
abbrev Completes (c : Instr) (s : State) : Prop := ∃ s', exec c s = .next s'

/-- A ring leaf whose lease the near end holds. -/
def heldLeaf : Leaf := { ringLeaf with ring.lease := { Lease.reset with holder := 14, expiry := 2000000000 }, hp.bucketAt := 1000000000 }

/-- A frame from the near end for position 0. -/
abbrev nearRx (p : Payload) : Rx := arrive .west (toLeaf p)

/-- A leaf whose bucket is full now may issue. -/
theorem mayIssue_full (l : Leaf) (n : Nat) (h1 : l.hp.bucket = 64) (h2 : Leaf.now l - l.hp.bucketAt = 0) (h3 : Leaf.awake l = true)
    (h4 : Leaf.portSettled l = true) (h5 : (HostPort.freeTag l.hp).isSome = true) (h6 : beats n ≤ 64) : Leaf.mayIssue l n = true := by
  have h : (Leaf.fillBucket l).hp.bucket = 64 := by
    show min (64 : Rat) (l.hp.bucket + Leaf.paceShare l * ((Leaf.now l - l.hp.bucketAt : Nat) : Rat) * (Config.lhpMHz : Rat) / 1000) = 64
    rw [h1, h2]; simp
  unfold Leaf.mayIssue
  have h7 : ((beats n : Nat) : Rat) ≤ 64 := by exact_mod_cast h6
  rw [h, h3, h4, h5]; simp [h7]

/-- A frame from position 7 of the ring at port 7, whose key is 63. -/
abbrev leafRx (p : Payload) : Rx := arrive (.tv 7) (mkFrame 14 7 0 0 p)

/-- A started job whose descriptor is the given bytes and then zeros, and a Tervon that has it. -/
def job0 : JobRef := ⟨0, 0, 0⟩
def jobOf (bs : List Byte) : Job := { Job.reset with ref := job0, desc := bs ++ zeros (64 - bs.length), started := true }
def jobTv (bs : List Byte) : Tervon := { lateTv with jobs := [jobOf bs] }
/-- A descriptor of an opcode whose operand bytes from 40 on are given. -/
def desc (op : Byte) (args : List Byte) : List Byte := [op] ++ zeros 39 ++ args

/-! ### Link layer: each claim applied to a state that meets its hypotheses -/

/-- A port with one frame unacknowledged, of sequence 5. -/
def onePending : LinkPort := { upPort with replay := [{ hdr := { (toLeaf (.nop [])).hdr with linkSeq := 5 }, pay := .nop [] }] }

theorem test_ack : Completes (.ack .west 5) (westIs onePending) := ⟨_, ackReleases _ .west 5 0 rfl rfl (by decide)⟩
theorem test_ack_tervon : Completes (.ack (.tv 12) 5) (portIs 12 onePending) := ⟨_, ackReleases _ (.tv 12) 5 0 ⟨by decide, by decide⟩ rfl (by decide)⟩
theorem test_nak : Completes (.nak .west 5) (westIs onePending) := ⟨_, nakReplays _ .west 5 rfl rfl (by decide)⟩
theorem test_replayTimeout : Completes (.replayTimeout .west) (westIs onePending) :=
  ⟨_, replayTimeoutReplays _ .west rfl rfl (by decide) (by decide)⟩
theorem test_replayTimeout_exact : Completes (.replayTimeout .west) (westIs { onePending with lastProgress := 999996000 }) :=
  ⟨_, replayTimeoutReplays _ .west rfl rfl (by decide) (by decide)⟩
theorem test_ackTimer : Completes (.ackTimer .west) (westIs { upPort with lastAck := 999999000 }) :=
  ⟨_, ackTimerAcks _ .west rfl rfl (by decide)⟩
theorem test_damagedFrame : Completes (.damagedFrame .west true) (westIs upPort) := ⟨_, damagedFrameNaks _ .west true rfl rfl⟩
theorem test_credit : Completes (.credit .west 3 7 5 0) (westIs upPort) := ⟨_, creditSets _ .west 3 7 5 0 rfl rfl⟩
theorem test_creditAdvertise : Completes (.creditAdvertise .west 3) (westIs { upPort with credRx := ⟨0, 0, 0, 1⟩ }) :=
  ⟨_, creditAdvertised _ .west 3 rfl rfl (by decide)⟩
theorem test_codewordLoss : Completes (.codewordLoss .west) (westIs upPort) := ⟨_, codewordLossRetrains _ .west rfl rfl⟩
theorem test_resume : Completes (.resume .west 5 [64, 128, 128, 128]) (westIs { onePending with link := 1, retrain := some 0 }) :=
  ⟨_, resumeReplays _ .west 5 64 128 128 128 0 rfl (by decide) (by decide)⟩
theorem test_spareLaneAligned : Completes (.spareLaneAligned .west) (westIs upPort) := ⟨_, spareAlignedAnswers _ .west rfl rfl⟩
theorem test_laneSwap : Completes (.laneSwap .west 1) (westIs upPort) := ⟨_, laneSwapSwaps _ .west rfl rfl (by decide)⟩
theorem test_laneRecalComplete : Completes (.laneRecalComplete .west) (westIs { upPort with recal := some 1, halted := true }) :=
  ⟨_, recalCompletes _ .west rfl (by decide)⟩
theorem test_unknownControlBlock : Completes (.unknownControlBlock .west 0xFF) (westIs upPort) := ⟨_, unknownBlockCounted _ .west 0xFF rfl⟩
theorem test_shaperRefill : Completes (.shaperRefill .west) (westIs upPort) := ⟨_, shaperRefills _ .west rfl (by decide)⟩

/-- A lane move on a port, from lane 0 to lane 1. -/
def moving : LinkPort := { upPort with move := some ⟨0, 1, false⟩ }
/-- A port that retrains since 0. -/
def training : LinkPort := { upPort with link := 1, retrain := some 0 }

theorem test_laneReady : Completes (.laneReady .east 1) (onLeaf fun l => { l with ring.east := moving, ring.position := some 7 }) :=
  ⟨_, leafLaneReady _ .east ⟨0, 1, false⟩ 7 (.inr rfl) rfl rfl rfl⟩
theorem test_laneReady_tervon : Completes (.laneReady (.tv 7) 1) (portIs 7 moving) := ⟨_, tervonLaneReady _ 7 ⟨0, 1, false⟩ (by decide) rfl⟩
theorem test_retrainComplete : Completes (.retrainComplete .west 0) (westIs training) :=
  ⟨_, leafRetrainCompletes _ .west 0 (.inl rfl) rfl rfl (by decide) (by decide)⟩
theorem test_retrainComplete_tervon : Completes (.retrainComplete (.tv 12) 0) (portIs 12 training) :=
  ⟨_, tervonRetrainCompletes _ 12 0 (by decide) rfl (by decide) (by decide)⟩
theorem test_portDown : Completes (.portDownTimeout .west) (westIs { training with retrain := some 990000000 }) :=
  ⟨_, leafPortDown _ .west 990000000 (.inl rfl) rfl rfl (by decide)⟩
theorem test_portDown_tervon : Completes (.portDownTimeout (.tv 8)) (portIs 8 training) := ⟨_, tervonPortDown _ 8 0 (by decide) rfl (by decide)⟩
theorem test_trainingRetry : Completes (.trainingRetry .west false 0) (westIs { upPort with link := 0, downAt := 900000000 }) :=
  ⟨_, leafTrainingRetryFails _ .west 0 (.inl rfl) rfl rfl (by decide)⟩
theorem test_linkTrained : Completes (.linkTrained .west) (westIs LinkPort.reset) := ⟨_, leafLinkTrained _ .west (.inl rfl) rfl rfl⟩
theorem test_linkTrained_tervon : Completes (.linkTrained (.tv 0)) (onTv fun t => { t with boot.ringCtl := [(0, 0xF)], boot.setup := 1 }) :=
  ⟨_, tervonLinkTrained _ 0 (by decide) (by decide) rfl⟩
theorem test_probe : Completes (.probe .west 0xEFFF 8) State.reset := ⟨_, probeEchoed _ .west 0xEFFF 8 rfl (by decide)⟩
theorem test_probe_discovery : Completes (.probe .west 0xF007 8) State.reset := by
  obtain ⟨t, h, _⟩ := discoveryPassesOn State.reset 7 8 rfl (by decide) rfl rfl
  exact ⟨t, h⟩
theorem test_probeEcho : Completes (.probeEcho .east 1 100) State.reset := ⟨_, leafProbeEcho _ .east 1 100 (.inr rfl) rfl⟩
theorem test_wakeBurst : Completes (.wakeBurst .west 3 0) (onLeaf fun l => { l with ring.position := some 2 }) :=
  ⟨_, wakeBurstForwarded _ .west 3 0 (.inl rfl) rfl (by decide)⟩
theorem test_malformedFrame : Completes (.malformedFrame .west (toLeaf (.nop [0])).hdr 2) (westIs upPort) :=
  ⟨_, malformedCounted _ .west _ 2 rfl rfl rfl (by decide)⟩

/-! ### Counting, freezing and sensors -/

/-- A leaf with a full freeze at 999,990,000 ns that station 255 has not finished. -/
def frozen : Leaf := { late with snap.freeze := some { Freeze.reset with instant := 999990000, waiting := [255], edges := [(255, StnCfg.reset, false, ⟨0, 0⟩)] } }
/-- A station bound to counter 4,095 by its line 63, with a count of 255 queued. -/
def queued (src : Nat) : Station := { Station.reset with cfg.binds := [(4095, 63, 0)], queue := [(src, 255)] }
/-- A site that is placed. -/
def placedSite : Site := { Site.reset with ctl := 0x8000 }

theorem test_stationClockEdge : metLeaf (stationEdges .ring 255 1 false 0) late := trivial
theorem test_edgeCounts : (Station.edge { Station.reset with cfg.binds := [(0, 63, 1)] } 0x8000000000000000 false 0).2 = 0 :=
  (edgeCounts { Station.reset with cfg.binds := [(0, 63, 1)] } 0 63 1 0x8000000000000000 false 0 rfl rfl rfl rfl rfl).1
theorem test_stationEntryDrain : metLeaf (entryDrains .ring 255 63 4095 255 [] 63 0) (Leaf.setStn late 255 (queued 63)) := by decide
theorem test_stationFreezeEdge : metLeaf (freezeEdges .ring 255) (Leaf.setStn late 255 { Station.reset with frzSeen := true }) := by decide
theorem test_freezeAck : metLeaf (freezeAcks .ring 255 ⟨0, 0⟩ { Freeze.reset with instant := 999990000, waiting := [255], edges := [(255, StnCfg.reset, false, ⟨0, 0⟩)] }) frozen := by decide
theorem test_freezeMarker : metLeaf (markersApply .ring 255 [] 0) (Leaf.setStn frozen 255 { Station.reset with queue := [(68, 0)] }) := by decide
theorem test_frozenCounters : 255 ∉ (Leaf.freezeStation late { Freeze.reset with waiting := [255], edges := [(255, StnCfg.reset, false, ⟨0, 0⟩)] } 255).waiting :=
  (frozenCounters late _ 255 StnCfg.reset false ⟨0, 0⟩ (by decide) rfl).2.2
theorem test_histogramFreeze : metLeaf (histogramsFreeze .ring { Freeze.reset with instant := 1000000000 })
    { late with snap.freeze := some { Freeze.reset with instant := 1000000000 }, cnt.samples := [(255, 1, 1000000000)] } := by decide
theorem test_stationStall : metLeafG (stationsStall .ring 255 { Freeze.reset with instant := 999990000, waiting := [255], edges := [(255, StnCfg.reset, false, ⟨0, 0⟩)] }) frozen := by decide
theorem test_snapshotComplete : metLeaf (snapshotsComplete .ring { Freeze.reset with histDone := true }) { late with snap.freeze := some { Freeze.reset with histDone := true } } := by decide
theorem test_finishedSubset : (Leaf.finishFreeze late { Freeze.reset with kind := 15 }).snap.freeze = none :=
  (finishedSubset late { Freeze.reset with kind := 15 } (by decide) rfl).1
theorem test_valuePort : metLeaf (valuePortWrites .ring 15 0 7).1 late ∧ metLeaf (valuePortWrites .ring 15 0 7).2 { late with cfg.words := [(0x1200, 0x40)] } := by decide
theorem test_sampleQueue : Leaf.submit late 0 1 2 = { late with cnt.samples := insertSample (0, 1, 2) late.cnt.samples } :=
  (sampleQueue late 0 1 2).1 (by decide)
theorem test_sampleQueue_full : 256 ≤ (List.replicate 256 ((0, 1, 2) : Nat × DWord × Ns)).length := by rw [List.length_replicate]
theorem test_sampleApply : metLeaf (samplesApply .ring 255 1 2 []) { late with cnt.samples := [(255, 1, 2)] } := by decide
theorem test_timingStart : metLeaf (timingStarts .ring 31 ⟨5, 0⟩) late := by decide
theorem test_timingStop : metLeaf (timingStops .ring 31 ⟨5, 0⟩ 16).1 (Leaf.setPair late 31 { Pair.reset with opened := some 16 }) ∧
    metLeaf (timingStops .ring 31 ⟨5, 0⟩ 16).2 late := by decide
theorem test_thermalReading : metLeaf (thermalReads 47) (Leaf.setSite late 47 placedSite) := by decide
theorem test_supplyReading : metLeaf (supplyReads .ring 47) (Leaf.setSite late 47 placedSite) := by decide
theorem test_droop : metLeaf (droopsStamped .ring 47 ⟨5, 0⟩).1 (Leaf.setSite late 47 placedSite) ∧
    metLeaf (droopsStamped .ring 47 ⟨5, 0⟩).2 (Leaf.setSite late 47 { placedSite with droop := true }) := by decide

/-! ### Time -/

def sync : TimeSyncP := { origin := 0, seq := 0, tq := 7, hop := 0 }
def follow : TimeFollowP := { t1 := ⟨0, 0⟩, seq := 0, corr := 0, a0 := 0 }
def resp : DelayRespP := { t4 := ⟨0, 0⟩, seq := 0, pos := 0, tq := 0, corr := 0, did := 0 }
/-- A frame for the far end. -/
abbrev farRx (p : Payload) : Rx := arrive .west (mkFrame 15 14 0 0 p)
/-- A frame from a peer Tervon at port 9. -/
abbrev peerRx (p : Payload) : Rx := arrive (.tv 9) (mkFrame 0 0 0 0 p)
/-- A source that holds both frames of an exchange. -/
def exchanging : Source := { Source.reset with sync := some (sync, ⟨0, 0⟩, 0), follow := some follow, t3 := some ⟨0, 0⟩ }
/-- A Tervon locked to its pod. -/
def lockedTv : Tervon := { upTv with time.srcCls := 4 }
/-- A root on building input. -/
def buildingTv : Tervon := { upTv with time.ctl := 0x000003E800842906 }

theorem test_exchangePeriod : Completes .exchangePeriod (onTv fun _ => upTv) := ⟨_, exchangePeriods _ (by decide)⟩
theorem test_exchangeFrames : (Tervon.src (Tervon.startExchange upTv 7) 23).txSeq = 1 :=
  (exchangeFrames upTv 7 (by decide) (by decide) (by decide)).2
theorem test_timeSync_leaf : metLeaf (leafSyncs .ring (nearRx (.timeSync sync)) sync ⟨0, 0⟩ 0) ringLeaf := by unfold metLeaf Leaf.Receives; decide
theorem test_timeSync_passes : metLeaf (leafSyncPasses .ring (farRx (.timeSync sync)) sync ⟨0, 0⟩ 0) ringLeaf := by unfold metLeaf Leaf.Passes; decide
theorem test_timeSync_tervon : metTv (tervonSyncs (peerRx (.timeSync sync)) sync ⟨0, 0⟩ 0 0) { upTv with time.ctl := 0x000003E800802906 } := by unfold metTv Tervon.Receives; decide
theorem test_timeFollow_leaf : metLeaf (leafFollows .ring (nearRx (.timeFollow follow)) follow ⟨0, 0⟩ sync ⟨0, 0⟩ 0) (Leaf.setSrc ringLeaf 14 exchanging) := by unfold metLeaf Leaf.Receives; decide
theorem test_timeFollow_passes : metLeaf (leafFollowPasses .ring (farRx (.timeFollow follow)) follow ⟨0, 0⟩) ringLeaf := by unfold metLeaf Leaf.Passes; decide
theorem test_timeFollow_tervon : metTv (tervonFollows (peerRx (.timeFollow follow)) follow ⟨0, 0⟩ 0 sync ⟨0, 0⟩ 0) (Tervon.setSrc upTv 0 exchanging) := by unfold metTv Tervon.Receives; decide
theorem test_delayReq_passes : metLeaf (leafDelayReqPasses .ring (arrive .east (mkFrame 14 3 0 0 (.delayReq ⟨0, 0⟩))) ⟨0, 0⟩ ⟨0, 0⟩ 5) ringLeaf := by unfold metLeaf Leaf.Passes; decide
theorem test_delayReq_tervon : metTv (tervonAnswersDelay (arrive (.tv 7) (toEnd (.delayReq ⟨0, 0⟩))) ⟨0, 0⟩ ⟨0, 0⟩ 0 7 rfl (by decide)) upTv := by unfold metTv Tervon.Receives; decide
theorem test_delayResp_leaf : metLeaf (leafExchangeEnds .ring (nearRx (.delayResp resp)) resp 0 0 0 sync) (Leaf.setSrc ringLeaf 14 exchanging) := by unfold metLeaf Leaf.Receives; decide +kernel
theorem test_delayResp_tervon : metTv (tervonExchangeEnds (peerRx (.delayResp resp)) resp 0 0 0 0 sync) (Tervon.setSrc upTv 0 exchanging) := by unfold metTv Tervon.Receives; decide +kernel
theorem test_exchangeValues : exchangeValues 0 500 500 1000 0 0 = (500, 0) := by rw [exchangeValues]; norm_num
theorem test_slewTick : metLeaf (slewTicks.1 .ring) { late with time.ctl := 1 } ∧ metTv slewTicks.2 { lateTv with time.ctl := 1 } := by decide
theorem test_holdoverTimeout : metLeaf (holdoverBegins.1 .ring) { late with time.everSet := true, time.lastAccept := 999500000 } ∧
    metTv holdoverBegins.2 upTv := by decide
theorem test_holdoverLong : metLeaf (holdoverLong.1 .ring 0) { late with time.holdover := some 0 } ∧ metTv (holdoverLong.2 0) { lateTv with time.holdover := some 0 } := by decide
theorem test_primaryLinkFail : Completes .primaryLinkFail (onTv fun _ => lateTv) := ⟨_, primaryFails _ (by decide)⟩
theorem test_ppsInEdge : metTv (ppsAccepted ⟨2000000000, 0⟩).1 buildingTv ∧ metTv (ppsAccepted ⟨2000000101, 0⟩).2 buildingTv := by decide +kernel
theorem test_ref10m : metTv ref10M.1 buildingTv ∧ metTv ref10M.2 { buildingTv with time.root.ref10M := true } := by decide
theorem test_ppsDisqualify : Completes .ppsDisqualify (onTv fun _ => { buildingTv with time := { (timeAt 3000000000) with ctl := 0x40000, root.pps := true } }) := ⟨_, ppsDisqualified _ (by decide)⟩
theorem test_steerExpiry : Completes .steerExpiry (onTv fun _ => { lateTv with time.ctl := 0x80000, time.root.steerCls := some 3, time.root.steerUntil := 1000000000 }) := ⟨_, steerExpires _ (by decide)⟩
theorem test_ppsOutEdge : Completes .ppsOutEdge (onTv fun _ => { lateTv with time.ctl := 0x100000 }) := ⟨_, ppsOut _ (by decide)⟩
theorem test_timeCtlWrite : metLeaf (timeCtlWritten 0 (.host 0) 0x000003E800002906).1 late ∧ metLeaf (timeCtlWritten 0 (.host 0) 0).2.1 late ∧
    metTv (timeCtlWritten 0 (.host 0) 0x000003E800802906).2.2.1 lateTv ∧ metTv (timeCtlWritten 0 (.host 0) 0).2.2.2 lateTv := by decide
theorem test_timeCtlApply : metLeaf (timeCtlApplies.1 .ring) late ∧ metTv timeCtlApplies.2.1 lateTv := by decide
theorem test_timeCtlApply_mode : (TimeDom.applyCtl { TimeDom.reset with ctlNext := some 0x000003E800802907 }).ctl = 0x000003E800802907 :=
  (timeCtlApplies.2.2 _ 0x000003E800802907 rfl (by decide)).1
theorem test_portLatency : metLeaf (portLatencyMeasured ⟨1, -1⟩) late := trivial
def report7 : CalReportP := { ring := 7, leaves := 0, exchanges := 0, ownOffset := 0, channel := 0, thetaB := [] }
theorem test_calReport : metTv (calReportKept (arrive (.tv 8) (mkFrame 0 0 0 0 (.calReport report7))) report7 (by decide)) upTv := by unfold metTv Tervon.Receives; decide
def noData : CalData := { thetaA := [], thetaB := [], ownA := 0, ownB := 0, asymPma := [], chan := [] }
theorem test_ringCalibration : metTv (ringCalibrated 7 noData (by decide)) (Tervon.setRingEnd lockedTv 7 { RingEnd.reset with calRun := some 0 }) := by decide +kernel
theorem test_calibrationRerun : metTv (calibrationReruns 7 1 noData (by decide)) (Tervon.setRingEnd lockedTv 7 { RingEnd.reset with cal := true }) := by decide +kernel
theorem test_pathSums : (pathConstants 2 [1, 2, 3])[1]? = some (3, 3) := (pathSums 2 1 [1, 2, 3] (by decide)).trans (by decide)
theorem test_ptpTransmit : metTv (ptpStamped 0 3 ⟨0, 0⟩).1 { lateTv with tt.txq := List.replicate 31 (0, 0, 0, ⟨0, 0⟩) } ∧
    metTv (ptpStamped 0 3 ⟨0, 0⟩).2 { lateTv with tt.txq := List.replicate 32 (0, 0, 0, ⟨0, 0⟩) } := by decide
theorem test_ptpReceive : metTv (ptpReceived 0 3 ⟨0, 0⟩) lateTv := trivial
theorem test_ptpQueue : metTv ptpQueueReads.1 lateTv ∧ metTv ptpQueueReads.2 { lateTv with tt.txqLatch := some (0, 0, 0, ⟨0, 0⟩) } := by decide

/-! ### Appointments, snapshots, inputs, trace and dumps -/

/-- An appointment that is due, and parts that hold it in their last slot. -/
def due (action : Byte) (arg : BitVec 48) : Appointment :=
  { instant := 1000000000, action := action, flags := 0, slot := 15, period := 0, count := 0, argument := arg }
def dueLeaf (action : Byte) (arg : BitVec 48) : Leaf := Leaf.setSlot late 15 { Slot.reset with appt := some (due action arg) }
def dueTv (action : Byte) (arg : BitVec 48) : Tervon := Tervon.setSlot lateTv 63 { Slot.reset with appt := some (due action arg) }

theorem test_appointFrame : metLeaf (appointStored .ring (nearRx (.appoint 0 (due 6 0))) 0 (due 6 0)) heldLeaf := by
  unfold metLeaf Leaf.Receives; decide
theorem test_appointStatus : apptStatus true 7 999950000 Slot.reset (due 6 0) = 0 := (appointStatus true 7 999950000 (due 6 0) (by decide) (by decide) (by decide)).trans (by decide)
theorem test_snapshot_leaf : metLeaf (leafSnapshots .ring 15) (dueLeaf 1 0) := by decide
theorem test_snapshot_skip : metLeaf (leafSkips .ring 15) { dueLeaf 1 0 with pwr.cellar := 2 } := by decide
theorem test_snapshot_tervon : metTv (tervonSnapshots 63) (dueTv 1 0) := by decide
theorem test_cellarEnter_leaf : metLeaf (leafEntersCellar .ring 15) (dueLeaf 2 0) := by decide
theorem test_cellarEnter_tervon : metTv (tervonEntersCellar 63) (dueTv 2 0) := by decide
theorem test_modeSwitch_leaf : metLeaf (leafModeSwitches .ring 15) (dueLeaf 3 1) := by decide
theorem test_modeSwitch_tervon : metTv (tervonModeSwitches 63) { dueTv 3 0 with det.det := true } := by decide
theorem test_samplingRate : metLeaf (samplingRates.1 .ring 15) (dueLeaf 4 31) ∧ metTv (samplingRates.2 63) (dueTv 4 31) := by decide
theorem test_laneRecal : metLeaf (lanesRecalibrate.1 .ring 15) (dueLeaf 5 0) ∧ metTv (lanesRecalibrate.2 63) (dueTv 5 0) := by decide
theorem test_laneRecal_spare : LinkPort.recalibrate upPort 1 = { upPort with recal := some 1 } := (recalibrationForms upPort 1).1 rfl
theorem test_laneRecal_moves : (LinkPort.recalibrate upPort 0).move = some ⟨0, 1, true⟩ := by rw [(recalibrationForms upPort 0).2.1 (by decide) (by decide) rfl]; rfl
theorem test_mark : metLeaf (marksFire.1 .ring 15) (dueLeaf 6 0) ∧ metTv (marksFire.2 63) (dueTv 6 0x80000000) := by decide
theorem test_slotsAdvance : (Slot.advance { Slot.reset with appt := some (due 6 0) } false).fired = 1 := (slotsAdvance _ (due 6 0) false rfl).1

theorem test_snapAck : metLeaf ((snapAcks .ring (nearRx (wordWrite 0 0x164 [7])) 0 7).1) heldLeaf := by
  unfold metLeaf Leaf.TakesWrite Leaf.Receives; decide
theorem test_snapResend : metLeaf (snapResends .ring (nearRx (wordWrite 0 0x168 [7])) 0 7) heldLeaf := by
  unfold metLeaf Leaf.TakesWrite Leaf.Receives; decide
theorem test_snapNow : metLeaf (snapNows .ring (nearRx (wordWrite 0 0x1A8 [15])) 0 15 (by decide)) heldLeaf := by
  unfold metLeaf Leaf.TakesWrite Leaf.Receives; decide
theorem test_snap_host : metLeaf (snapHostRefused .ring 0 0 0).1 late := by decide

theorem test_alarmEdge : metLeaf (alarmRaised .ring 15) late := ⟨rfl, by decide, by unfold calm; decide⟩
theorem test_alarmEdge_chatter : metLeaf (chatterLimits .ring 15 999999500 999999000) (Leaf.setInput late 15 { Input.reset with edges := [999999500, 999999000] }) := by decide
theorem test_alarmRelease : metLeaf (alarmReleases .ring 23 (by decide)) (Leaf.setInput late 23 { Input.reset with level := true }) := ⟨rfl, by decide, by unfold calm; decide⟩
theorem test_stuckActive : metLeaf (stuckActive .ring 23 (by decide)) (Leaf.setInput late 23 { Input.reset with level := true, since := 990000000 }) := by decide
theorem test_chatterRecord : metLeaf (chatterRecords .ring 15 (by decide)) (Leaf.setInput late 15 { Input.reset with limiter := true, lastChatter := 999000000 }) := by decide
theorem test_chatterRelease : metLeaf (chatterReleases .ring 15 (by decide)) (Leaf.setInput late 15 { Input.reset with limiter := true, lastTriple := 999000000 }) := by decide
theorem test_heartbeatEdge : metLeaf (heartbeatRefreshes .ring 7) late := ⟨rfl, by decide, by unfold calm; decide⟩
theorem test_heartbeatTimeout : metLeaf (heartbeatHangs 7) (Leaf.setBeat late 7 { Beat.reset with ctl := 5, armed := true, last := 999999000 }) := by decide
theorem test_hbCtl : metLeaf (heartbeatControls .ring 0 7 4).1 late ∧ metLeaf (heartbeatControls .ring 0 7 0).2 late := by
  unfold metLeaf Leaf.TakesHost; decide

/-- One trace cycle, and a leaf that traces core 7. -/
def cycle (cnt : BitVec 3) : BranchCycle := { cnt := cnt, taken := 0, ev := 0, evPos := 0, tgt := 0, epc := 0, ctx := 0, npc := 0, exc := 0 }
def tracing (p : TracePort) : Leaf := Leaf.setTrcPort { late with trace.ctl := 0x280 } 7 p

theorem test_branchCycle : metLeaf (branchCycles .ring 7 (cycle 5)).1 (tracing TracePort.reset) ∧ metLeaf (branchCycles .ring 7 (cycle 4)).2 (tracing TracePort.reset) := by decide
theorem test_traceEncode : metLeaf (traceEncodes .ring 7 TEntry.reset []) (tracing { TracePort.reset with queue := [TEntry.reset] }) := by decide
theorem test_traceFlush : metLeaf (traceFlushes .ring 7) (tracing { TracePort.reset with pending := [true], lastActive := 999990000 }) := by decide
theorem test_syncPeriodic : metLeaf (syncsPeriodic .ring 7) (tracing { TracePort.reset with started := true, retired := true, lastSync := 999000000 }) := by decide
theorem test_traceFrameClose : metLeaf (traceFramesClose .ring 7) (tracing { TracePort.reset with frame := [0], frameAt := 999900000 }) := by decide
theorem test_trcCtl : metLeaf (traceControls .ring 0 0).1 late := by unfold metLeaf Leaf.TakesHost; decide
theorem test_trcCtl_same : Leaf.writeTrcCtl late 0x100 = { late with trace.ctl := 0x100 } := (traceControls .ring 0 0x100).2 late (by decide)

/-- A manual request, and a walk of it. -/
def request : DumpReq := { hb := 0xFF, start := 65535, count := 1, at' := 0, tq := 0 }
def walking : Walk := { Walk.reset with req := request }
/-- A read of that walk that waits for its data. -/
def reading : InitReq := { purpose := 0, address := 0, len := 16, data := [], at' := 999990000 }

theorem test_dumpCmd : metLeaf (dumpCommanded .ring 0 0xFFFF).1 late ∧ metLeaf (dumpCommanded .ring 0 0xFFFF).2 { late with dump.queue := [request] } := by
  unfold metLeaf Leaf.TakesHost; decide
theorem test_dumpWalkStart : metLeaf (walkStarts .ring request []) { late with dump.queue := [request] } := by decide
theorem test_walkReads : Leaf.driveWalk { heldLeaf with dump.walk := some walking } =
    Leaf.issue { heldLeaf with dump.walk := some { walking with paused := false } } 0 (heldLeaf.dump.base + w64 0) 16 none :=
  walkReadsEntry { heldLeaf with dump.walk := some walking } walking rfl rfl (by decide) (by decide) (by decide) rfl
    (mayIssue_full _ 16 rfl (by decide) (by decide) (by decide) (by decide) (by decide))
theorem test_walkResume : metLeaf (walkResumes .ring walking).1 { late with dump.walk := some walking } ∧
    metLeaf (walkResumes .ring { walking with needRestart := true }).2 { heldLeaf with dump.walk := some { walking with needRestart := true } } := by decide
theorem test_dumpReadTimeout : metLeaf (dumpReadsTimeOut .ring 31 reading) { late with hp.outstanding := [(31, some reading)] } := by decide
theorem test_scanDone : metLeaf (scansEnd .ring { walking with phase := 2 }).1 { late with dump.walk := some { walking with phase := 2 } } ∧
    metLeaf (scansEnd .ring { walking with phase := 2, scanAt := 900000000 }).2 { late with dump.walk := some { walking with phase := 2, scanAt := 900000000 } } := by decide
theorem test_initiatorResponse : metLeaf (initiatorAnswers .ring 31 true true [] reading).1 late ∧
    metLeaf (initiatorAnswers .ring 31 true true [] reading).2.1 { late with hp.outstanding := [(31, some reading)] } ∧
    metLeaf (initiatorAnswers .ring 31 true true [] reading).2.2 { late with hp.outstanding := [(31, some reading)] } := by decide

/-! ### Leases of a leaf, register frames and the lock -/

def leaseReq (op : Byte) (dur : Half) : LeaseReqP := { op := op, duration := dur, epoch := 0, did := 0 }
abbrev leaseRx (op : Byte) (dur : Half) : Rx := nearRx (.leaseReq (leaseReq op dur))
/-- A ring leaf whose lease the far end holds for another second. -/
def otherLeaf : Leaf := { ringLeaf with ring.lease := { Lease.reset with holder := 15, holderDid := 5, expiry := 2000000000 } }

theorem test_leaseAcquire : metLeaf (leaseAcquired .ring (leaseRx 0 10) (leaseReq 0 10)).1 ringLeaf ∧
    metLeaf (leaseAcquired .ring (leaseRx 0 500) (leaseReq 0 500)).2 otherLeaf := by
  unfold metLeaf takesLease Leaf.Receives; decide
theorem test_leaseRenew : metLeaf (leaseRenewed .ring (leaseRx 1 10) (leaseReq 1 10)).1 heldLeaf ∧
    metLeaf (leaseRenewed .ring (leaseRx 1 10) (leaseReq 1 10)).2 otherLeaf := by
  unfold metLeaf takesLease Leaf.Receives; decide
theorem test_leaseRelease : metLeaf (leaseEnds .ring (leaseRx 2 0) (leaseReq 2 0)).1 heldLeaf ∧
    metLeaf (leaseEnds .ring (leaseRx 2 0) (leaseReq 2 0)).2.1 otherLeaf := by
  unfold metLeaf takesLease Leaf.Receives; decide
theorem test_leaseFence : metLeaf (leaseEnds .ring (leaseRx 3 0) (leaseReq 3 0)).2.2.1 otherLeaf := by
  unfold metLeaf takesLease Leaf.Receives; decide
theorem test_leaseExpiry : metLeaf (leaseEnds .ring (leaseRx 2 0) (leaseReq 2 0)).2.2.2 { heldLeaf with ring.lease.expiry := 1000000000 } := by decide
theorem test_grantStates : ∃ p, Leaf.sendGrant ringLeaf 0 = Leaf.sendBoth ringLeaf p := ⟨_, grantStates ringLeaf 0 0 rfl⟩

theorem test_regRd : metLeaf (registersRead .ring (nearRx (.regRd 0 0xFFFC 4)) 0 0xFFFC 4).1 ringLeaf ∧
    metLeaf (registersRead .ring (nearRx (.regRd 0 0xFFFC 8)) 0 0xFFFC 8).2 ringLeaf := by
  unfold metLeaf Leaf.Receives; decide
theorem test_regWr : metLeaf (registersWritten .ring (nearRx (wordWrite 0 0x180 [1])) 0 0x180 [1]) heldLeaf := by
  unfold metLeaf Leaf.TakesWrite Leaf.Receives; decide
theorem test_regWr_answers : metLeaf (writesAnswered .ring (nearRx (wordWrite 0 0x180 [1])) 0 0x180 4 [1, 0, 0, 0] 0 []).1
      { heldLeaf with cfg.tags := [⟨0, [(0, 0, [])]⟩] } ∧
    metLeaf (writesAnswered .ring (nearRx (wordWrite 0 0x180 [1])) 0 0x180 4 [1, 0, 0, 0] 0 []).2 otherLeaf := by
  unfold metLeaf Leaf.Receives; decide

/-- A lock op of the near end, and locked writes. -/
abbrev lockRx (op : Byte) (off : Half) (data : List Byte) : Rx := nearRx (.regWr 0 op off (BitVec.ofNat 16 data.length) data)
/-- The lock held by host requester 0, and by the near end. -/
def hostLocked : Leaf := { late with cfg.lock.owner := 0x80 }
def endLocked : Leaf := { heldLeaf with cfg.lock.owner := 14 }

theorem test_lockAcquire : metLeaf (lockTaken.1 .ring 0 0) late ∧ metLeaf (lockTaken.2.1 .ring (lockRx 1 0 []) 0) heldLeaf := by
  unfold metLeaf takesLockOp Leaf.Receives; decide
theorem test_lockAcquire_free : (Leaf.lockAcquire late (.host 15)).2 = 0 := by rw [(lockTaken.2.2 late (.host 15)).1 rfl]
theorem test_lockAcquire_taken : Leaf.lockAcquire hostLocked (.host 15) = (hostLocked, 4) := (lockTaken.2.2 hostLocked (.host 15)).2.2 (by decide) (by decide)
theorem test_lockAcquire_again : (Leaf.lockAcquire hostLocked (.host 0)).2 = 0 := by rw [(lockTaken.2.2 hostLocked (.host 0)).2.1 (by decide) (by decide)]
theorem test_lockedWrite : metLeaf (lockedWrites.1 .ring 0 0 0x400 [1]) hostLocked ∧
    metLeaf (lockedWrites.2.1 .ring (lockRx 2 0x400 [1, 0, 0, 0]) 0 0x400 [1]) endLocked := by
  unfold metLeaf Leaf.Receives; decide
theorem test_lockedWrite_none : Leaf.lockedWords late (.host 0) 0x400 [1] = (late, 5) := (lockedWrites.2.2 late (.host 0) 0x400 [1]).1 (by decide)
theorem test_lockedWrite_range : Leaf.lockedWords hostLocked (.host 0) 0x67FD [1] = (hostLocked, 3) := (lockedWrites.2.2 hostLocked (.host 0) 0x67FD [1]).2.1 (by decide) (by decide)
theorem test_lockedWrite_shadow : (Leaf.lockedWords hostLocked (.host 0) 0x67FC [1]).2 = 0 := by
  rw [(lockedWrites.2.2 hostLocked (.host 0) 0x67FC [1]).2.2 1 (by decide) (by decide) (by decide) (by decide)]
theorem test_lockEnd_host : metLeaf (lockEnds.1 .ring 0 0).1 late ∧ metLeaf (lockEnds.1 .ring 0 0).2 late := by decide
theorem test_lockEnd_ring : metLeaf (lockEnds.2.1 .ring (lockRx 3 0 []) 0).1 endLocked ∧ metLeaf (lockEnds.2.1 .ring (lockRx 4 0 []) 0).2 endLocked := by
  unfold metLeaf takesLockOp Leaf.Receives; decide
theorem test_lockCommit_none : Leaf.lockCommit late (.host 0) = (late, 5) := ((lockEnds.2.2 late (.host 0)).1 (by decide)).1
theorem test_lockAbandon : (Leaf.lockAbandon hostLocked (.host 0)).2 = 0 := by rw [(lockEnds.2.2 hostLocked (.host 0)).2.1 (by decide)]
theorem test_lockCommit : (Leaf.lockCommit hostLocked (.host 0)).2 = 0 := by rw [(lockEnds.2.2 hostLocked (.host 0)).2.2.1 (by decide) rfl (by decide +kernel)]
theorem test_lockTimeout : metLeaf (lockTimesOut .ring) { endLocked with cfg.lock.lastOk := 990000000 } := by decide

/-! ### Captures of a leaf, health records and the guardband -/

/-- A leaf that takes captures, and a post whose header of no checkpoint has been read. -/
def capturing : Leaf := { heldLeaf with assay.capCtl := 0x4191 }
def posted : Post := { Post.reset with id := 7 }
def headed : Post := { posted with hdr := List.replicate 44 0 ++ [1, 0, 0, 0] ++ List.replicate 16 0, accepted := true }
/-- A header of 64 checkpoints, whose last one has a retained output of 64 bytes. -/
def retained : Post := { posted with hdr := [0, 0, 0, 0, 0, 64] ++ List.replicate 1078 0 ++ [1, 0, 0, 0] }
/-- A capture pull that has waited for its answer. -/
def pulling : InitReq := { purpose := 3, address := 0, len := 16, data := [], at' := 999990000 }
def aVerdictOf (v : Byte) : VerdictRec :=
  { verdict := v, reason := 0, flags := 0, quality := 0, checkpoint := 0, operation := 0, unit := 0, stage := 0, capture := 7, step := 0, firstElem := 0,
    differing := 0, ulp := 0, modelId := 0, modelDig := 0, time := 0, did := 0 }
/-- A guardband request. -/
def shake : Handshake := { Handshake.reset with t0 := 0 }

theorem test_step : metLeaf (stepWritten.1 .ring 0 5) late := by unfold metLeaf Leaf.TakesHost; decide
theorem test_step_plain : (Leaf.writeStep late 5).assay.step = 5 := by rw [(stepWritten.2 late 5).1 rfl]
theorem test_step_pending : (Leaf.writeStep { late with assay.pending := true, assay.kNext := 31 } 5).assay.k = 31 := by
  rw [(stepWritten.2 { late with assay.pending := true, assay.kNext := 31 } 5).2.1 rfl (by decide)]
theorem test_step_same : (Leaf.writeStep { late with assay.pending := true, assay.kNext := 10 } 5).assay.changes = 0 := by
  rw [(stepWritten.2 { late with assay.pending := true, assay.kNext := 10 } 5).2.2 rfl (by decide)]; rfl
theorem test_capPost : metLeaf (capturesPosted .ring 0 64).1 capturing ∧ metLeaf (capturesPosted .ring 0 1).2 capturing := by unfold metLeaf Leaf.TakesHost; decide
theorem test_captureProcess : metLeaf (capturesPull .ring posted).1 { capturing with assay.posts := [posted] } :=
  ⟨by decide, by decide, by decide, rfl, by decide, mayIssue_full _ _ rfl (by decide) (by decide) (by decide) (by decide) (by decide)⟩
theorem test_captureProcess_input : metLeaf (capturesPull .ring headed).2 { capturing with assay.posts := [headed] } :=
  ⟨by decide, by decide, by decide, rfl, by decide, mayIssue_full _ _ rfl (by decide) (by decide) (by decide) (by decide) (by decide)⟩
theorem test_capturePullTimeout : metLeaf (pullsTimeOut .ring 31 pulling) { late with hp.outstanding := [(31, some pulling)] } := by decide
theorem test_captureHoldExpiry : metLeaf (holdsExpire .ring 7 posted) { late with assay.posts := [posted], assay.capCtl := 1 } := by decide
theorem test_capFetch : metLeaf (retainedFetched .ring (nearRx (wordWrite 0 0x118 [7, 63])) 0 0x3F00000007 retained) { heldLeaf with assay.posts := [retained] } := by
  unfold metLeaf Leaf.TakesWrite Leaf.Receives; decide +kernel
theorem test_verdict : metLeaf (verdictsArrive .ring (nearRx (.verdict 0 7 (aVerdictOf 4))) 0 7 (aVerdictOf 4) posted) { heldLeaf with assay.posts := [posted] } := by
  unfold metLeaf Leaf.Receives; decide
theorem test_errRpt : metLeaf (errorsReported 0 0xFEFF).1.1 late ∧ metTv (errorsReported 0 0xFEFF).1.2 lateTv ∧ metLeaf (errorsReported 0 0xFF00).2.1 late := by
  unfold metLeaf metTv Leaf.TakesHost; decide
theorem test_healthAdmit : metLeaf (heldAdmitted .ring) late := trivial
theorem test_gbRequest : metLeaf (guardbandRequests .ring shake []) { late with gb.queue := [shake] } := by decide
theorem test_gbAck : metLeaf (guardbandAnswers shake 2).1 { late with gb.cur := some shake } ∧ metTv (guardbandAnswers shake 2).2 { lateTv with ileaf.gb.cur := some shake } := by decide
theorem test_gbStepRecord : ∃ r, Leaf.gbStep late shake 0 = Leaf.raiseRec late r := ⟨_, guardbandStepRecord late shake 0⟩
theorem test_gbLow : metLeaf (guardbandEvents.1 .ring).1 late ∧ metLeaf (guardbandEvents.1 .ring).2 late := ⟨trivial, trivial⟩
theorem test_gbTimeout : metLeaf (guardbandEvents.2.1 shake).1 { late with gb.cur := some shake } ∧ metTv (guardbandEvents.2.1 shake).2 { lateTv with ileaf.gb.cur := some shake } := by decide
theorem test_gbConflict : metLeaf (guardbandEvents.2.2 15).1 late ∧ metTv (guardbandEvents.2.2 15).2 lateTv := by decide
theorem test_gbReset : metLeaf (guardbandResets shake).1.1 { late with gb.cur := some shake } ∧ metLeaf (guardbandResets shake).2.1 late ∧
    metTv (guardbandResets shake).1.2 { lateTv with ileaf.gb.cur := some shake } ∧ metTv (guardbandResets shake).2.2 lateTv := by decide
theorem test_gbAccept : metLeaf (risksAccepted .ring 0 0xA5A45A5F00010005 1) { late with led.units := [UnitEntry.reset, { UnitEntry.reset with unit := 5, step := 2 }] } := by
  unfold metLeaf Leaf.TakesHost; decide

/-! ### The Ledger, attestation, check values and the sequencer -/

/-- A page write in progress, and a leaf that has it. -/
def pageWrite : PageWrite := { PageWrite.reset with phys := 4095, kind := 6, logical := 0, generation := 1, wear := 99999 }
def pageWriting : Leaf := { late with led.write := some pageWrite }
/-- A leaf whose sequencer runs and has a page of kind 2 to write. -/
def dirtyLeaf : Leaf := { late with seq.running := true, led.dirty := [(2, 0, true)] }
/-- The page of a firmware image of no bytes after its header. -/
def imagePage (version : Nat) : Page :=
  let d := le 4 0x57464C43 ++ le 4 version ++ zeros 8
  { data := d, trailer := trailerOf 1 0 1 0 d }
/-- A leaf with image A, and with both images. -/
def imaged : Leaf := { late with led.pages := [(LedgerHdr.phys LedgerHdr.reset 0 1 0, imagePage 1)] }
def twoImages : Leaf := { late with led.pages := [(LedgerHdr.phys LedgerHdr.reset 0 1 0, imagePage 1), (LedgerHdr.phys LedgerHdr.reset 1 1 0, imagePage 2)] }

theorem test_pageWriteStart_user : metLeaf (pageWritesStart .ring 4095 (2, 0, true)).1 { late with led.user := some 4095 } := by
  unfold metLeaf writeMayStart seqNext; decide
theorem test_pageWriteStart_seq : metLeaf (pageWritesStart .ring 4095 (2, 0, true)).2.1 dirtyLeaf := by unfold metLeaf writeMayStart; decide
theorem test_pageWriteStart_both : metLeaf (pageWritesStart .ring 4095 (2, 0, true)).2.2 { dirtyLeaf with led.user := some 4095 } := by
  unfold metLeaf writeMayStart; decide
theorem test_pageTrailer : (LedgerSt.page (LedgerSt.begin LedgerSt.reset pageWrite) 4095).trailer = [] :=
  (congrArg Page.trailer (writeClearsTrailer LedgerSt.reset pageWrite rfl).2.1)
theorem test_pageWriteComplete : metLeaf (pageWritesEnd .ring pageWrite).1 pageWriting ∧ metLeaf (pageWritesEnd .ring pageWrite).2 pageWriting := by decide
theorem test_vnvSag : metLeaf (vnvEvents .ring pageWrite 8).2.1 pageWriting ∧ metLeaf (vnvEvents .ring pageWrite 8).2.2.1 late := by decide
theorem test_vnvSag_high : metLeaf (vnvEvents .ring pageWrite 8).1 late := trivial
theorem test_vnvResume : metLeaf (vnvEvents .ring pageWrite 8).2.2.2 late := trivial
theorem test_operatingTime : metLeaf (operatingTime .ring) { late with time := timeAt 56250000000 } := by decide
theorem test_ldgRead : metLeaf (ledgerPagesRead .ring 0 4095).1 late ∧ metLeaf (ledgerPagesRead .ring 0 4095).2.1 { late with led.user := some 0 } := by
  unfold metLeaf Leaf.TakesHost; decide
theorem test_ldgProgram : metLeaf (ledgerPagesProgrammed .ring 0 767) late := by unfold metLeaf Leaf.TakesHost; decide
theorem test_nonce : metLeaf (nonceWritten .ring 0 11 1 (by decide)).1 late ∧ metLeaf (nonceWritten .ring 0 11 1 (by decide)).2 { late with att.busy := true } := by
  unfold metLeaf Leaf.TakesHost; decide
theorem test_attestationSigned : metLeaf (attestationSigns .ring) { late with att.busy := true, seq.running := true } := by decide
theorem test_cvStart : metLeaf (checkValuesStart .ring 0 3 0).1 late := by unfold metLeaf Leaf.TakesHost; decide
theorem test_cvCtl : metLeaf (checkValuesStart .ring 0 3 0).2 late := by unfold metLeaf Leaf.TakesHost; decide
theorem test_cvFeed : metLeaf (checkValuesFeed .ring 0 3 1 1 1).1 (Leaf.setCv late 3 { CvEngine.reset with open' := true }) ∧
    metLeaf (checkValuesFeed .ring 0 3 1 1 1).2.1 late := by unfold metLeaf Leaf.TakesHost; decide
theorem test_cvFeed_narrow : metLeaf (checkValuesFeed .ring 0 3 1 1 1).2.2.1 (Leaf.setCv late 3 { CvEngine.reset with open' := true }) ∧
    metLeaf (checkValuesFeed .ring 0 3 1 1 1).2.2.2 (Leaf.setCv late 3 { CvEngine.reset with open' := true }) := by decide
theorem test_cvResult : metLeaf (checkValuesRead .ring 0 3).1 late := by decide
theorem test_cvSave : metLeaf (checkValuesRead .ring 0 3).2 late := by decide
theorem test_cvRestore : metLeaf (checkValuesRestore .ring 0 3 1 255).1 late ∧ metLeaf (checkValuesRestore .ring 0 3 1 255).2 (Leaf.setCv late 3 { CvEngine.reset with poly := 2 }) := by
  unfold metLeaf Leaf.TakesHost; decide
theorem test_seqRestart : metLeaf (sequencerStops.1 .ring 0).1 late ∧ metLeaf (sequencerStops.1 .ring 0).2.1 late := by unfold metLeaf Leaf.TakesHost; decide
theorem test_seqWatchdog : metLeaf (sequencerStops.1 .ring 0).2.2 { late with seq.running := true } := by decide
theorem test_seqBoot_none : metLeaf (sequencerBoots.1 .ring).1 late := by decide
theorem test_seqBoot : metLeaf ((sequencerBoots.1 .ring).2 0) imaged := by decide +kernel
theorem test_bootImage : Leaf.bootImage twoImages = some 1 := sequencerBoots.2 twoImages 1 2 (by decide +kernel) (by decide +kernel) rfl

/-! ### Registers, Cellar and resets of a leaf -/

theorem test_lowWordRead : metLeaf (leafWordsRead .ring 15 0x100).1 late ∧ metLeaf (leafWordsRead .ring 15 0x104).2.1 late ∧
    metLeaf (leafWordsRead .ring 15 0x160).2.2.1 late ∧ metLeaf (leafWordsRead .ring 15 0x160).2.2.2 { late with hp.inReset := true } := by decide
theorem test_registerWrite : metLeaf (leafWordsWritten 15 0x1200 7).1.1 late ∧ metTv (leafWordsWritten 15 0x1200 7).1.2 lateTv ∧
    metLeaf (leafWordsWritten 15 0x100 7).2.1 late := by unfold metLeaf metTv Leaf.TakesHost; decide
theorem test_wakePhrase : metLeaf (wakePhrases .ring).1 late ∧ metLeaf (wakePhrases .ring).2 { late with pwr.cellar := 2 } := by decide
theorem test_cellarCommit : metLeaf (cellarCommits .ring).1 { late with pwr.cellar := 1 } := by decide
theorem test_commitReady : Leaf.commitReady { pageWriting with pwr.firedAt := 999880000 } = true := (cellarCommits .ring).2 _ (.inr (.inr (by decide)))
theorem test_leafWakeStart : metLeaf (wakeBegins.1 .ring).1 { late with pwr.cellar := 2, pwr.phrase := true, pwr.committedAt := 999997000 } := by decide
theorem test_hdLcGood : metLeaf (wakeBegins.1 .ring).2 { late with pwr.cellar := 4 } := by decide
theorem test_wakeReady : Leaf.wakeReady { late with pwr.lcGoodAt := some 999992000, pwr.wakeAt := 999977000 } = true :=
  (wakeBegins.2 { late with pwr.lcGoodAt := some 999992000, pwr.wakeAt := 999977000 } 999992000 rfl).2 (by decide)
/-- A leaf whose wake is complete. -/
def woken : Leaf := { late with pwr.cellar := 4, pwr.lcGoodAt := some 0 }
theorem test_leafWakeComplete : metLeaf (wakeCompletes .ring).1 woken ∧ metLeafG (wakeCompletes .ring).2 { woken with pwr.retentionLost := true } := by decide
theorem test_vddLcLoss : metLeaf (powerLosses .ring).1 late ∧ metLeaf (powerLosses .ring).2 { late with pwr.cellar := 2 } := by decide
theorem test_leafColdReset : metLeaf (leafColdResets .ring .pin).1 late := rfl
theorem test_leafColdReset_spares : metLeaf ((leafColdResets .ring .brownOut).2 [0, 4095] (by decide) (by decide)) late := rfl
theorem test_leafCoreReset : metLeaf (leafCoreResets .ring).1 late := by decide
theorem test_leafCoreReset_keeps : (Leaf.coreClear heldLeaf).ring = heldLeaf.ring := ((leafCoreResets .ring).2 heldLeaf rfl).1
theorem test_hostPortReset : metLeaf (hostPortResets .ring).1 { late with cfg.lock.owner := 15 } ∧
    metLeaf (hostPortResets .ring).2.1 { late with hp.inReset := true } ∧ metLeaf (hostPortResets .ring).2.2 late := by decide
theorem test_portPulses : metLeaf (portPulses .ring 255 7).1 late ∧ metLeaf (portPulses .ring 255 7).2 late := ⟨trivial, trivial⟩
theorem test_stewardHang : metTv (stewardsHang 3) { lateTv with ileaf := Leaf.setBeat lateTv.ileaf 3 { Beat.reset with ctl := 5, armed := true } } := by decide
theorem test_tervonTemperature : metTv (tervonTemperatures [⟨47, none⟩]) lateTv := trivial

/-! ### Leases and requests of a Tervon -/

/-- A lease of key 63. -/
def leaseTv (e : TvLease) : Tervon := Tervon.setLease upTv 63 e
def grantP (result holder : Byte) : LeaseGrantP :=
  { result := result, holder := holder, epoch := 1, duration := 50, position := 7, ringLen := 8, expiry := 0, serial := 0, did := 0, tq := 0 }
def answerP : RegRspP := { status := 0, duplicate := false, data := [] }
def openReq : TvReq := { TvReq.reset with port := 7, pos := 7, pay := .regRd 0 0 4 }
def sleepP (state : Byte) : SleepingP := { state := state, refType := 0x28, refTag := 0, time := 0 }
def attested : AttestAnswer := { signature := [], identity := [], serial := 0, powerCount := 0, opTime := 0, did := 1, publicKey := [] }
def attesting : TvLease := { TvLease.reset with attestBy := some 1000000001 }

theorem test_takeover : metTv (takeoversEnd 1000000000 7 7 63 rfl) (leaseTv { TvLease.reset with takeoverAt := some 1000000000 }) := by decide
theorem test_leaseRenewDue : metTv (leasesRenew 7 7 63 rfl) (leaseTv { TvLease.reset with held := true, expiry := 1000000001, dur := 50, granted := 975000000 }) :=
  ⟨by decide, by decide, by decide, by decide, .inl ⟨by decide, by decide⟩⟩
theorem test_leaseLost : metTv (leasesLapse.1 7 7 63 rfl) (leaseTv { TvLease.reset with held := true, expiry := 1000000000 }) := by decide
theorem test_fenceHold : metTv (leasesLapse.2 1000000000 8 0 64 rfl) (Tervon.setLease upTv 64 { TvLease.reset with fenceUntil := some 1000000000 }) := by decide
theorem test_leaseGrant : metTv (grantsTaken (leafRx (.leaseGrant (grantP 0 14))) (grantP 0 14) 63 rfl).1 upTv ∧
    metTv (grantsTaken (leafRx (.leaseGrant (grantP 0 15))) (grantP 0 15) 63 rfl).2.1 upTv ∧
    metTv (grantsTaken (leafRx (.leaseGrant (grantP 1 14))) (grantP 1 14) 63 rfl).2.2 (leaseTv { TvLease.reset with held := true }) := by
  unfold metTv Tervon.Receives; decide
theorem test_leaseGrant_refused : metTv (grantsRefused (leafRx (.leaseGrant (grantP 2 0xFF))) (grantP 2 0xFF) 63 rfl).1 upTv ∧
    metTv (grantsRefused (leafRx (.leaseGrant (grantP 2 15))) (grantP 2 15) 63 rfl).2.1 upTv := by
  unfold metTv Tervon.Receives; decide
theorem test_leaseGrant_ended : metTv (grantsRefused (leafRx (.leaseGrant (grantP 3 0xFF))) (grantP 3 0xFF) 63 rfl).2.2.1 upTv ∧
    metTv (grantsRefused (leafRx (.leaseGrant (grantP 6 0xFF))) (grantP 6 0xFF) 63 rfl).2.2.2.1 upTv ∧
    metTv (grantsRefused (leafRx (.leaseGrant (grantP 5 0xFF))) (grantP 5 0xFF) 63 rfl).2.2.2.2 upTv := by
  unfold metTv Tervon.Receives; decide
theorem test_wantLease : Tervon.wantLease (leaseTv { TvLease.reset with fenceUntil := some 1000000001 }) 63 = leaseTv { TvLease.reset with fenceUntil := some 1000000001 } :=
  (leasesWanted _ 63).1 (by decide)
theorem test_wantLease_takeover : Tervon.wantLease upTv 63 = Tervon.setLease upTv 63 { Tervon.lease upTv 63 with takeoverAt := some (1000000000 + Tervon.takeover upTv) } :=
  (leasesWanted upTv 63).2.2 (by decide) (by decide)
theorem test_wantLease_preferred : Tervon.wantLease upTv 64 = Tervon.sendLease upTv 64 0 (Tervon.leafDid upTv 64) := (leasesWanted upTv 64).2.1 (by decide) (by decide)
theorem test_attestation_late : metTv ((attestationsChecked attested 1000000000).1 7 7 63 rfl) (leaseTv { TvLease.reset with attestBy := some 1000000000 }) := by decide
theorem test_attestation_first : metTv ((attestationsChecked attested 1000000001).2.1 7 7 63 rfl) (leaseTv attesting) := by decide
theorem test_attestation_decided : metTv ((attestationsChecked attested 1000000001).2.2.1 7 7 63 rfl)
    (Tervon.setEnt (leaseTv { attesting with decided := true }) 63 { RosterEnt.reset with state := 2 }) := by decide
theorem test_attestation_fails : ∃ c, metTv ((attestationsChecked attested 1000000001).2.2.2 c 7 7 63 rfl)
    (Tervon.setEnt (leaseTv attesting) 63 { RosterEnt.reset with state := 2 }) := by
  let u := Tervon.setEnt (Tervon.setEnt (leaseTv attesting) 63 { RosterEnt.reset with state := 2 }) 63
    { RosterEnt.reset with state := 2, observed := some attested }
  have h : ∃ c, Tervon.attestFails (Tervon.setLease u 63 TvLease.reset) 63 attested = some c := by
    cases hc : Tervon.attestFails (Tervon.setLease u 63 TvLease.reset) 63 attested with
    | some c => exact ⟨c, rfl⟩
    | none =>
      have hd : attested.did ≠ (Tervon.ent (Tervon.setLease u 63 TvLease.reset) 63).did := by decide
      unfold Tervon.attestFails at hc
      dsimp only at hc
      rw [if_pos hd] at hc
      split_ifs at hc
  obtain ⟨c, hc⟩ := h
  exact ⟨c, by decide, by decide, by decide, by decide, by decide, hc⟩
theorem test_regRsp : metTv (answersTaken (leafRx (.regRsp answerP)) answerP openReq).1 { upTv with ros.reqs := [openReq] } ∧
    metTv ((answersTaken (leafRx (.regRsp answerP)) answerP openReq).2 63 rfl) upTv := by
  unfold metTv Tervon.Receives; decide
theorem test_requestTimeout : metTv (requestsTimeOut 0 0 openReq).1 { upTv with ros.reqs := [openReq] } ∧
    metTv (requestsTimeOut 0 0 { openReq with retried := true }).2 { upTv with ros.reqs := [{ openReq with retried := true }] } := by decide
theorem test_sleeping : metTv (sleepersWait (leafRx (.sleeping (sleepP 0))) (sleepP 0) 63 rfl).1 { upTv with ros.reqs := [openReq] } ∧
    metTv (sleepersWait (leafRx (.sleeping (sleepP 1))) (sleepP 1) 63 rfl).2 upTv := by
  unfold metTv Tervon.Receives; decide

/-! ### Host rings -/

/-- A Tervon whose function `f` has ring `i` in a state, with Bus Master Enable. -/
def ringTv (f i state : Nat) : Tervon := Tervon.setFn lateTv f { HostFn.setRing HostFn.reset i { HostRing.reset with state := state } with bme := true }
/-- A descriptor of an ABORT of index 0 of ring 0. -/
def abortDesc : List Byte := desc 0x17 []
/-- The ring 0 of function 0 knows index 0, whose job is the given one. -/
def abortTv (bs : List Byte) (started : Bool) : Tervon :=
  { Tervon.setFn lateTv 0 (HostFn.setRing HostFn.reset 0 { HostRing.reset with state := 1, head := 2, tail := 2 }) with
    jobs := [{ jobOf abortDesc with ref := ⟨0, 0, 1⟩ }, { jobOf bs with started := started }] }

theorem test_commandDoorbell : metTv (commandDoorbells 16 3 64 (by decide) (by decide)).1 (ringTv 16 3 1) ∧
    metTv (commandDoorbells 16 3 65 (by decide) (by decide)).2.1 (ringTv 16 3 1) ∧ metTv (commandDoorbells 16 3 64 (by decide) (by decide)).2.2 lateTv := by decide
theorem test_hostDoorbells : metTv (hostDoorbells 16 0 (by decide)).1 (ringTv 16 4 1) ∧ metTv (hostDoorbells 16 0 (by decide)).2 (ringTv 16 5 1) := by decide
theorem test_descriptorFetch : metTv (descriptorsFetched 16 3 []).1 (Tervon.setRing (ringTv 16 3 1) 16 3 { HostRing.reset with state := 1, tail := 1 }) ∧
    metTv (descriptorsFetched 16 3 []).2.1 (Tervon.setRing (ringTv 16 3 1) 16 3 { HostRing.reset with state := 1, tail := 1 }) ∧
    metTv (descriptorsFetched 16 3 []).2.2 (Tervon.setRing (ringTv 16 3 1) 16 3 { HostRing.reset with state := 1, tail := 1 }) := by decide
theorem test_ringEn : metTv (ringsEnabled 16 4 (by decide)).1 lateTv ∧ metTv (ringsEnabled 16 4 (by decide)).2.1 lateTv ∧
    metTv (ringsEnabled 16 4 (by decide)).2.2.1 (ringTv 16 5 1) ∧ metTv (ringsEnabled 16 4 (by decide)).2.2.2.1 (ringTv 16 4 1) ∧
    metTv (ringsEnabled 16 3 (by decide)).2.2.2.2 (ringTv 16 3 1) := by decide
theorem test_ringArm : metTv (ringsArm 16 5 (by decide) (by decide)) (ringTv 16 5 2) := by decide
theorem test_msixCoalesce : metTv (coalescingEnds 16 15 1000000000).1 (Tervon.setFn lateTv 16 { HostFn.reset with vecs := [(15, { MsixVec.reset with endsAt := some 1000000000, wanted := true })] }) ∧
    metTv (coalescingEnds 16 15 1000000000).2 (Tervon.setFn lateTv 16 { HostFn.reset with vecs := [(15, { MsixVec.reset with endsAt := some 1000000000 })] }) := by decide
theorem test_nop : metTv (jobsAbort.1 job0 (jobOf (desc 0 []))) (jobTv (desc 0 [])) := by decide
theorem test_abort_unknown : metTv (jobsAbort.2.1 job0 (jobOf (desc 0x17 [4]))) (jobTv (desc 0x17 [4])) := by decide
theorem test_abort_waiting : metTv ((jobsAbort.2.2.1 { jobOf (desc 0x0C []) with started := false }).1 ⟨0, 0, 1⟩ { jobOf abortDesc with ref := ⟨0, 0, 1⟩ }) (abortTv (desc 0x0C []) false) := by decide
theorem test_abort_indivisible : metTv ((jobsAbort.2.2.1 (jobOf (desc 0x0C []))).2.1 ⟨0, 0, 1⟩ { jobOf abortDesc with ref := ⟨0, 0, 1⟩ }) (abortTv (desc 0x0C []) true) := by decide
theorem test_abort_stops : metTv ((jobsAbort.2.2.1 (jobOf (desc 0x01 []))).2.2 ⟨0, 0, 1⟩ { jobOf abortDesc with ref := ⟨0, 0, 1⟩ }) (abortTv (desc 0x01 []) true) := by decide
theorem test_abort_gone : metTv (jobsAbort.2.2.2 ⟨0, 0, 1⟩ { jobOf abortDesc with ref := ⟨0, 0, 1⟩ })
    { abortTv [] true with jobs := [{ jobOf abortDesc with ref := ⟨0, 0, 1⟩ }] } := by decide
theorem test_completion : ∃ u, Tervon.complete lateTv (jobOf (desc 0 [])) 0 0 0 0 0 = u := ⟨_, completionsPosted lateTv _ 0 0 0 0 0⟩
theorem test_busMaster : metTv (busMasterEnds 16 (by decide)) (ringTv 16 5 1) := by decide
theorem test_functionReset : metTv (functionsReset 16 (by decide)) lateTv := trivial

/-! ### Jobs that reach leaves, the Larder and the roster -/

/-- A descriptor with an input length, a DID and operand bytes. -/
def descI (op : Byte) (len : Byte) (did : Byte) (args : List Byte) : List Byte := [op] ++ zeros 15 ++ le 4 len.toNat ++ zeros 16 ++ le 4 did.toNat ++ args
/-- The internal leaf has DID 5 and ring 7 is on, with eight positions. -/
def homeTv (bs : List Byte) : Tervon := { jobTv bs with boot.ileafDid := 5, boot.ringCtl := [(7, 0xF)] }
def dataIn (bs : List Byte) : HostData := ⟨bs, false⟩
/-- A configuration image with one entry: four zero bytes at 0. -/
def imageBytes : List Byte :=
  let h := le 4 0x4643464C ++ [1, 0] ++ le 2 1 ++ zeros 4
  let e := zeros 2 ++ le 2 4 ++ zeros 4
  h ++ le 4 (crc32c (h ++ e)).toNat ++ e

theorem resolve_home (bs : List Byte) : Tervon.resolve (homeTv bs) 5 = .key 64 := rfl
theorem test_unrouted : metTv ((jobsUnrouted 7 (dataIn [])).1 job0 (jobOf (descI 2 0 9 (le 4 0x40000)))) (homeTv (descI 2 0 9 (le 4 0x40000))) ∧
    metTv ((jobsUnrouted 7 (dataIn [])).2.1 job0 (jobOf (descI 0x11 0 9 (le 4 0x10000)))) (homeTv (descI 0x11 0 9 (le 4 0x10000))) ∧
    metTv ((jobsUnrouted 7 (dataIn [])).2.2.1 job0 (jobOf (descI 5 0 9 []))) (homeTv (descI 5 0 9 [])) := by decide +kernel
theorem test_unrouted_image : metTv ((jobsUnrouted 7 (dataIn imageBytes)).2.2.2 job0 (jobOf (descI 1 24 9 []))) (homeTv (descI 1 24 9 [])) := by decide +kernel
theorem test_leafRegRead : metTv ((leafReads 64).1 job0 (jobOf (descI 2 0 5 (le 4 0x40000)))) (homeTv (descI 2 0 5 (le 4 0x40000))) ∧
    metTv ((leafReads 64).2 job0 (jobOf (descI 2 0 5 []))) (homeTv (descI 2 0 5 [])) := by decide +kernel
theorem test_leafRegWrite : metTv ((leafWrites (dataIn (zeros 4)) 64).1 job0 (jobOf (descI 3 4 5 []))) (homeTv (descI 3 4 5 [])) ∧
    metTv ((leafWrites (dataIn (zeros 4)) 64).2 11 job0 (jobOf (descI 3 4 5 (le 3 0x10000))))
      (Tervon.setLease (homeTv (descI 3 4 5 (le 3 0x10000))) 64 { TvLease.reset with lockBy := some (1, 0) }) := by decide +kernel
theorem test_appoint : metTv (appointJobs.1 job0 (jobOf (desc 4 []))) (jobTv (desc 4 [])) ∧
    metTv (appointJobs.2 64 job0 (jobOf (descI 4 0 5 []))) (homeTv (descI 4 0 5 [])) := by decide +kernel
theorem test_snapshotNow : metTv ((leafJobs 64 (dataIn [])).1 job0 (jobOf (descI 5 0 5 []))) (homeTv (descI 5 0 5 [])) := by decide +kernel
theorem test_ledgerRead : metTv ((leafJobs 64 (dataIn [])).2.1 job0 (jobOf (descI 0x11 0 5 (le 4 0x10000)))) (homeTv (descI 0x11 0 5 (le 4 0x10000))) := by decide +kernel
theorem test_leafCfgApply : metTv ((leafJobs 64 (dataIn imageBytes)).2.2.1 job0 (jobOf (descI 1 24 5 []))) (homeTv (descI 1 24 5 [])) := by decide +kernel
theorem test_leafCfgApply_bad : metTv ((leafJobs 64 (dataIn [])).2.2.2.1 job0 (jobOf (desc 1 []))) (jobTv (desc 1 [])) ∧
    metTv ((leafJobs 64 ⟨[], true⟩).2.2.2.2 job0 (jobOf (desc 1 []))) (jobTv (desc 1 [])) := by decide +kernel
theorem test_jobAnswer : Tervon.jobAnswer lateTv (jobOf (desc 3 [])) 6 true [] =
    Tervon.complete (Tervon.lockAnswer lateTv (jobOf (desc 3 [])) 6) (jobOf (desc 3 [])) (rspStatus 6) (rspDetail 6) (b2n true) :=
  (leafAnswers lateTv (jobOf (desc 3 [])) 6 true []).2.2.1 (by decide)

/-- A Larder of one GiB, all of pool 4. -/
def larderTv : Tervon := { lateTv with boot.larderCtl := 0x800000001 }
theorem test_larderRefill : metTv (cachesRefill 0 (by decide)).1 lateTv ∧ metTv (cachesRefill 0 (by decide)).2.1 { lateTv with lard.cached := [(0, 449)] } ∧
    metTv (cachesRefill 0 (by decide)).2.2 { lateTv with lard.cached := [(0, 128)] } := by decide
theorem test_larderAlloc : ∃ h, (Tervon.larderAlloc larderTv 2097153 16).2 = some h := (buffersGranted larderTv 2097153 16 4 (by decide +kernel) (by decide)).1 (by decide +kernel)
theorem test_larderAlloc_refused : (Tervon.larderAlloc { lateTv with boot.larderCtl := 0 } 512 16).2 = none := by
  rw [(buffersGranted { lateTv with boot.larderCtl := 0 } 512 16 0 rfl (by decide)).2 (.inl (by decide))]

/-- Function 0 holds a complete dump 1 of DID 5. -/
def keptDump : TvDump := { TvDump.reset with did := 5, id := 1, complete := true }
def dumpTv (bs : List Byte) (holders : List Nat) : Tervon := { jobTv bs with lard.dumps := [keptDump], lard.bufs := [(0, { Buf.reset with holders := holders })] }
abbrev fetchDesc (flags : Byte) : List Byte := descI 0x10 0 5 (le 4 1 ++ zeros 4 ++ [flags])
theorem test_dumpFetch : metTv ((dumpsFetched keptDump).1 job0 (jobOf (fetchDesc 0))) (dumpTv (fetchDesc 0) [0]) ∧
    metTv ((dumpsFetched keptDump).2.1 job0 (jobOf (fetchDesc 1))) (dumpTv (fetchDesc 1) [0]) := by decide +kernel
theorem test_dumpFetch_not : metTv ((dumpsFetched keptDump).2.2.1 job0 (jobOf (fetchDesc 0))) (jobTv (fetchDesc 0)) ∧
    metTv ((dumpsFetched keptDump).2.2.2.1 job0 (jobOf (fetchDesc 0))) (dumpTv (fetchDesc 0) []) ∧
    metTv ((dumpsFetched keptDump).2.2.2.2 job0 (jobOf (fetchDesc 2))) (dumpTv (fetchDesc 2) []) := by decide +kernel

theorem bit_zero (i : Nat) : bit 0 i = false := by simp [bit]
theorem admitOk_home (bs : List Byte) (h : Tervon.placeOk (homeTv bs) (Job.byte (jobOf bs) 40) (Job.byte (jobOf bs) 41) = true) (h2 : Job.did (jobOf bs) ≠ 0) :
    Tervon.admitOk (homeTv bs) (jobOf bs) = true := by
  unfold Tervon.admitOk Tervon.pairPresent
  have hv : (homeTv bs).boot.vacant.toNat = 0 := rfl
  rw [h, hv]; simp only [bit_zero]; simpa using h2
abbrev placeDesc (op kind : Byte) : List Byte := descI op 0 9 [7, 3, kind]
theorem test_rosterAdmitGiven : metTv ((rosterAdmits (dataIn []) attested).1 job0 (jobOf (placeDesc 0x12 0))) (homeTv (placeDesc 0x12 0)) :=
  ⟨by decide, by decide, by decide, by decide, by decide, by decide, admitOk_home _ (by decide +kernel) (by decide), rfl⟩
theorem test_rosterAdmitGiven_bad : metTv ((rosterAdmits (dataIn []) attested).2.1 job0 (jobOf (desc 0x12 []))) (jobTv (desc 0x12 [])) := by decide +kernel
theorem test_rosterAdmitObserved : metTv ((rosterAdmits (dataIn []) attested).2.2.1 job0 (jobOf (placeDesc 0x12 1)))
    (Tervon.setEnt (homeTv (placeDesc 0x12 1)) 59 { RosterEnt.reset with observed := some attested }) :=
  ⟨by decide, by decide, by decide, by decide, by decide, admitOk_home _ (by decide +kernel) (by decide), by decide +kernel⟩
theorem test_rosterAdmitObserved_none : metTv ((rosterAdmits (dataIn []) attested).2.2.2 job0 (jobOf (placeDesc 0x12 1))) (homeTv (placeDesc 0x12 1)) :=
  ⟨by decide, by decide, by decide, by decide, by decide, admitOk_home _ (by decide +kernel) (by decide), by decide +kernel⟩
theorem test_rosterFence : metTv (rosterFences.1 job0 (jobOf (placeDesc 0x12 2))) (homeTv (placeDesc 0x12 2)) ∧
    metTv (rosterFences.2.1 job0 (jobOf (placeDesc 0x12 3))) (homeTv (placeDesc 0x12 3)) := by decide +kernel
theorem test_rosterRetire : metTv (rosterFences.2.2.1 job0 (jobOf (desc 0x13 []))) (jobTv (desc 0x13 [])) ∧
    metTv (rosterFences.2.2.2.1 job0 (jobOf (placeDesc 0x13 0))) (homeTv (placeDesc 0x13 0)) := by decide +kernel
theorem test_rosterRetire_admitted : metTv (rosterFences.2.2.2.2.1 job0 (jobOf (placeDesc 0x13 0)))
    (Tervon.setEnt (homeTv (placeDesc 0x13 0)) 59 { RosterEnt.reset with state := 1, did := 9 }) := by decide +kernel
theorem test_rosterRetire_held : metTv (rosterFences.2.2.2.2.2 job0 (jobOf (placeDesc 0x13 0)))
    (Tervon.setLease (Tervon.setEnt (homeTv (placeDesc 0x13 0)) 59 { RosterEnt.reset with state := 1, did := 9 }) 59 { TvLease.reset with held := true }) := by decide +kernel
theorem test_rosterSilent : metTv (rosterSilence 7 7 63 rfl) (Tervon.setEnt lateTv 63 { RosterEnt.reset with state := 1 }) := by decide
theorem test_warmRoster : metTv warmRosters.1 { lateTv with warm.hbmDirty := some 0 } ∧ metTv warmRosters.2.1 lateTv ∧
    metTv (warmRosters.2.2.1 1 ⟨[], [], []⟩ []) { lateTv with warm.norDirty := some 0, warm.nor := [(1, ⟨[], [], []⟩)] } ∧
    metTv warmRosters.2.2.2 { lateTv with warm.norDirty := some 0 } := by decide

/-! ### Frames of leaves at their holder -/

/-- Position 7 of ring 7 is in a state, holds DID 9, and its lease is held here. -/
def memberTv (state : Nat) : Tervon := Tervon.setEnt (leaseTv { TvLease.reset with held := true }) 63 { RosterEnt.reset with state := state, did := 9 }
def tallyHdr (i : Half) : TallyHdr := { seq := 1, kind := 0, flags := 0, index := i, offset := 0, refSeq := 0 }
def histHdr : HistHdr := { seq := 1, histogram := 0, absolute := false }
def tallyAsm : Asm := { seq := 1, kind := 1, flags := 0, refSeq := 0, parts := [(0, zeros 7)], count := 1, hists := [], port := 7, epoch := 0 }
def endP (flags : Byte) : TallyEndP :=
  { seq := 1, kind := 1, flags := flags, tallyFrames := 1, instant := 0, tq := 0, histFrames := 0, streamBytes := 7, streamCrc := crc32c (zeros 7),
    overrun := 0, tooSoon := 0, refSeq := 0 }
def asmTv : Tervon := Tervon.setLeafRec (memberTv 1) 9 { LeafRec.reset with asm := [tallyAsm] }
def healthRec : HealthRec := { time := 0, did := 9, cls := 1, unit := 0, op := 0, temp := 0, volt := 0, step := 0, quality := 0, detail := 0 }

theorem test_gated_stale : metTv (((framesGated (leafRx (.tally (tallyHdr 0) []))).1 (tallyHdr 0) []) 63 rfl).1 upTv := by unfold metTv Tervon.Receives; decide
theorem test_gated_quarantine : metTv (((framesGated (leafRx (.tally (tallyHdr 0) []))).1 (tallyHdr 0) []) 63 rfl).2 (memberTv 0) := by
  unfold metTv Tervon.Receives; decide
theorem test_tallyFrame : metTv ((tallyReceived (leafRx (.tally (tallyHdr 0) [])) (tallyHdr 0) []).1 63 rfl) (memberTv 1) ∧
    metTv ((tallyReceived (leafRx (.tally (tallyHdr 1) [])) (tallyHdr 1) []).2 tallyAsm 63 rfl) asmTv := by
  unfold metTv Tervon.Receives; decide
theorem test_histFrame : metTv (histReceived (leafRx (.hist histHdr (zeros 8))) histHdr (zeros 8) tallyAsm 63 rfl) asmTv := by unfold metTv Tervon.Receives; decide
theorem test_tallyEnd_none : metTv ((tallyEnds (leafRx (.tallyEnd (endP 4))) (endP 4)).1 63 rfl) (memberTv 1) := by unfold metTv Tervon.Receives; decide +kernel
theorem test_tallyEnd_bad : metTv ((tallyEnds (leafRx (.tallyEnd (endP 1))) (endP 1)).2.1 63 rfl) (memberTv 1) := by unfold metTv Tervon.Receives; decide +kernel
theorem test_tallyEnd : ∃ v x hs, metTv ((tallyEnds (leafRx (.tallyEnd (endP 1))) (endP 1)).2.2 v x hs 63 rfl) asmTv := by
  have h : (accepted (Tervon.received asmTv (leafRx (.tallyEnd (endP 1)))) 63 (endP 1)).isSome = true := by decide +kernel
  obtain ⟨⟨v, x, hs⟩, h⟩ := Option.isSome_iff_exists.mp h
  refine ⟨v, x, hs, ?_, ?_, ?_, ?_, h⟩ <;> first | (unfold Tervon.Receives; decide +kernel) | decide +kernel
theorem test_watermark : metTv (watermarkLags 1000000001).1 lateTv ∧ metTv (watermarkLags 0).2.1 lateTv ∧ metTv (watermarkLags 1).2.2 lateTv := by decide
theorem test_agingSweep : metTv agingSweeps.1 lateTv ∧ metTv agingSweeps.2 { lateTv with det.det := true } := by decide
theorem test_health : metTv ((healthReceived (leafRx (.health [healthRec])) [healthRec]).1 63 rfl) (memberTv 1) ∧
    metTv ((healthReceived (leafRx (.health [healthRec])) [healthRec]).2 63 rfl) (memberTv 0) := by
  unfold metTv Tervon.Receives; decide +kernel
theorem test_trace : metTv ((traceReceived (leafRx (.trace 0 0 [0])) 0 0 [0]).1 63 rfl) (memberTv 1) ∧
    metTv ((traceReceived (leafRx (.trace 0 8 [0])) 0 8 [0]).2.1 4 63 rfl) (Tervon.setLeafRec (memberTv 1) 9 { LeafRec.reset with traceOff := [(0, 4)] }) := by
  unfold metTv Tervon.Receives; decide +kernel
theorem test_traceLoss : metTv ((traceReceived (leafRx (.traceLoss (zeros 40))) 0 0 (zeros 40)).2.2 63 rfl) (memberTv 1) := by unfold metTv Tervon.Receives; decide +kernel
theorem test_dump_waits : metTv ((dumpReceived (leafRx (.dump 0 0 0 0 0 [])) 0 0 0 0 0 []).1 63 rfl) { memberTv 1 with lard.waiting := [(7, 9, .dump 0 0 0 0 0 [])] } := by
  unfold metTv Tervon.Receives; decide +kernel
theorem test_dump : metTv ((dumpReceived (leafRx (.dump 0 0 0 0 0 [])) 0 0 0 0 0 []).2 false 63 rfl) { memberTv 1 with boot.larderCtl := 0 } := by
  unfold metTv Tervon.Receives; decide +kernel

/-! ### Captures, the Assayer and Cooper -/

/-- A model of one operation, ReLU of its int8 input. -/
def reluImage : List Byte :=
  [65, 77, 68, 76, 1, 0, 1, 0, 7, 0, 0, 0, 0, 0, 0, 0, 0, 0, 0, 0, 0, 0, 0, 0, 64, 0, 0, 0, 0, 0, 0, 0, 0, 0, 0, 0, 0, 0, 0, 0, 96, 0, 0, 0, 0, 0, 13,
   1, 1, 0, 0, 0, 1, 0, 0, 0, 1, 0, 0, 0, 185, 102, 71, 191, 6, 0, 13, 1, 254, 255, 255, 255, 255, 255, 0, 0, 0, 0, 0, 0, 1, 0, 0, 0, 1, 0, 0, 0, 1,
   0, 0, 0, 0, 0, 0, 0]
/-- Its check. -/
theorem reluImage_check : crc32c (reluImage.take 60 ++ reluImage.drop 64) = 0xBF4766B9 := by
  have h : reluImage.take 60 ++ reluImage.drop 64 =
      reluImage.take 20 ++ (slice reluImage 20 20 ++ (slice reluImage 40 20 ++ (slice reluImage 64 16 ++ slice reluImage 80 16))) := by decide +kernel
  have h1 : List.foldl (crcByte 0x82F63B78#32) 0xFFFFFFFF#32 (reluImage.take 20) = 0x3D1EC89C := by decide +kernel
  have h2 : List.foldl (crcByte 0x82F63B78#32) 0x3D1EC89C (slice reluImage 20 20) = 0x4E81F893 := by decide +kernel
  have h3 : List.foldl (crcByte 0x82F63B78#32) 0x4E81F893 (slice reluImage 40 20) = 0xBAB4C373 := by decide +kernel
  have h4 : List.foldl (crcByte 0x82F63B78#32) 0xBAB4C373 (slice reluImage 64 16) = 0x98FEA453 := by decide +kernel
  have h5 : List.foldl (crcByte 0x82F63B78#32) 0x98FEA453 (slice reluImage 80 16) = 0x40B89946 := by decide +kernel
  unfold crc32c
  rw [h, List.foldl_append, List.foldl_append, List.foldl_append, List.foldl_append, h1, h2, h3, h4, h5]
  decide
theorem reluImage_ok : modelOk reluImage = true := by
  unfold modelOk
  dsimp only
  rw [reluImage_check]
  decide +kernel
/-- The same with an operation outside the table. -/
def badOpImage : List Byte := reluImage.set 64 0
def reluModel : ModelEnt := ⟨1, 0, 7, 0, reluImage, false⟩
def fedBytes : List Byte := [5, 0xFB]
/-- A capture of `fedBytes` at a sampling exponent, with an output digest. -/
def capHdr (k : Byte) (digest : DWord) : List Byte :=
  le 4 0x50414341 ++ [1, 0, k, 0] ++ le 4 7 ++ zeros 4 ++ le 8 0 ++ zeros 20 ++ le 4 2 ++ le 8 5546499120664875089 ++ le 8 digest.toNat
/-- The digest of ReLU's output. -/
def goodDigest : DWord := 15529675299935973691
/-- Partition 0 has tile 0, a GiB of HBM and DID 9, and holds the model. -/
def assayPart : PartSt := { PartSt.reset with tiles := 1, hbm := 1, ranges := [(9, 9)] }
def assayTv : Tervon := { Tervon.setPart (memberTv 1) 0 assayPart with assay.models := [reluModel] }
def fullCap (h : List Byte) : TvCap :=
  { TvCap.reset with did := 9, id := 1, hdr := h, total := 2, got := [(0, fedBytes)], fullAt := some 0, part := some 0, model := some reluModel }
def capTv (c : TvCap) : Tervon := { assayTv with assay.caps := [c] }
abbrev descRx (n : Word) (h : List Byte) : Rx := leafRx (.captureDesc 1 n 1 h)
abbrev dataRx (o : Word) (bs : List Byte) : Rx := leafRx (.captureData 1 o bs)
/-- A capture that has one byte of its two. -/
def halfCap : TvCap := { fullCap (capHdr 0 0) with got := [(0, [5])], fullAt := none, model := none }

theorem test_captureDesc : metTv ((capturesAnnounced (descRx 0 (capHdr 0 0)) 1 0 1 (capHdr 0 0)).1 63 rfl) assayTv ∧
    metTv ((capturesAnnounced (descRx 2 (capHdr 0 0)) 1 2 1 (capHdr 0 0)).2.1 63 rfl) (memberTv 1) := by
  unfold metTv Tervon.Receives; decide +kernel
theorem test_captureDesc_owned : metTv ((capturesAnnounced (descRx 2 (capHdr 0 0)) 1 2 1 (capHdr 0 0)).2.2.1 0 63 rfl) assayTv ∧
    metTv ((capturesAnnounced (descRx 2 (capHdr 0 0)) 1 2 1 (capHdr 0 0)).2.2.2 (fullCap []) 63 rfl) (capTv (fullCap [])) := by
  unfold metTv Tervon.Receives; decide +kernel
theorem test_captureData : metTv ((capturesFill (dataRx 0 [5]) 1 0 [5] { halfCap with got := [] }).1 63 rfl) (capTv { halfCap with got := [] }) := by unfold metTv Tervon.Receives; decide +kernel
theorem test_captureData_full : metTv ((capturesFill (dataRx 1 [0xFB]) 1 1 [0xFB] { halfCap with part := none }).2.1 63 rfl) (capTv { halfCap with part := none }) ∧
    metTv ((capturesFill (dataRx 1 [0xFB]) 1 1 [0xFB] halfCap).2.2.1 0 63 rfl) (capTv halfCap) := by unfold metTv Tervon.Receives; decide +kernel
theorem test_captureData_retained : metTv ((capturesFill (dataRx 2 [0]) 1 2 [0] { fullCap [] with fetching := some (0, 2, [5, 0]) }).2.2.2 63 rfl)
    (capTv { fullCap [] with fetching := some (0, 2, [5, 0]) }) := by unfold metTv Tervon.Receives; decide +kernel
theorem test_batchWait : metTv (batchesWait 0 7 (0)).1 (capTv (fullCap (capHdr 0 0))) ∧ metTv (batchesWait 0 7 (0)).2 lateTv := by decide +kernel
theorem test_batchRuns : metTv (batchesRun 0 7 (0) (fullCap (capHdr 0 0))) (capTv (fullCap (capHdr 0 0))) := by decide +kernel
def aVerdict : VerdictRec := verdictOf [] 9 1 false 1 0
theorem test_window : metTv ((windowsExpire 9 1 { fullCap [] with pending := some aVerdict }).1 aVerdict) (capTv { fullCap [] with pending := some aVerdict }) ∧
    metTv (windowsExpire 9 1 (fullCap [])).2.1 (capTv (fullCap [])) ∧
    metTv (windowsExpire 9 1 { fullCap [] with running := true }).2.2.1 (capTv { fullCap [] with running := true }) ∧
    metTv (windowsExpire 9 1 { fullCap [] with fullAt := some 1000000000 }).2.2.2 (capTv { fullCap [] with fullAt := some 1000000000 }) := by decide +kernel
def runCap (digest : DWord) : TvCap := { fullCap (capHdr 0 digest) with running := true }
theorem test_recompute_match : metTv (recomputesEnd 9 1 (runCap goodDigest)).1 (capTv (runCap goodDigest)) := by decide +kernel
/-- A capture with one retained checkpoint that differs. -/
def keptCap : TvCap := { runCap 0 with hdr := (capHdr 0 0).set 5 1 ++ zeros 12 ++ le 4 2 }
theorem test_recompute_mismatch : metTv ((recomputesEnd 9 1 (runCap 0)).2.2.1 ⟨13, [2], [5, 0]⟩) (capTv (runCap 0)) := by decide +kernel
theorem test_recompute_fetch : metTv ((recomputesEnd 9 1 keptCap).2.1 ⟨13, [2], [5, 0]⟩) (capTv keptCap) := by decide +kernel
theorem test_recompute_late : metTv (recomputesEnd 9 1 { runCap 0 with done := true }).2.2.2 (capTv { runCap 0 with done := true }) := by decide +kernel
def fetchCap (got : List Byte) : TvCap :=
  { fullCap (capHdr 0 0) with got := [(0, fedBytes), (2, got)], fetching := some (0, 2, [5, 0]), pending := some aVerdict }
theorem test_retained_part : metTv (fetchesComplete 9 1 (fetchCap [5]) 0 2 [5, 0] aVerdict reluModel ⟨13, [2], fedBytes⟩).1 (capTv (fetchCap [5])) := by decide +kernel
theorem test_retained : metTv (fetchesComplete 9 1 (fetchCap [5, 1]) 0 2 [5, 0] aVerdict reluModel ⟨13, [2], fedBytes⟩).2 (capTv (fetchCap [5, 1])) := by decide +kernel

theorem test_assay_order (t : Bool) : assaySteps (capHdr 24 0) fedBytes false (some reluModel) t 9 1 false = (verdictOf (capHdr 24 0) 9 1 false 3 5, none) :=
  (assayOrder (capHdr 24 0) fedBytes false reluModel t 9 1 false).2.1 (by decide +kernel)
theorem test_assay_malformed (t : Bool) : assaySteps [] fedBytes false (some reluModel) t 9 1 false = (verdictOf [] 9 1 false 3 4, none) :=
  (assayOrder [] fedBytes false reluModel t 9 1 false).2.2.1 (by decide +kernel) (by decide +kernel)
theorem test_assay_input (t : Bool) : assaySteps (capHdr 0 0) [] false (some reluModel) t 9 1 false = (verdictOf (capHdr 0 0) 9 1 false 2 0, none) :=
  (assayOrder (capHdr 0 0) [] false reluModel t 9 1 false).2.2.2.1 (by decide +kernel) (by decide +kernel) (by decide +kernel)
theorem test_assay_tiles : assaySteps (capHdr 0 0) fedBytes false (some reluModel) false 9 1 false = (verdictOf (capHdr 0 0) 9 1 false 3 7, none) :=
  ((assayOrder (capHdr 0 0) fedBytes false reluModel false 9 1 false).2.2.2.2 (by decide +kernel) (by decide +kernel) (by decide +kernel)).1 rfl
theorem test_assay_poison : assaySteps (capHdr 0 0) fedBytes true (some reluModel) true 9 1 false = (verdictOf (capHdr 0 0) 9 1 false 3 3, none) :=
  ((assayOrder (capHdr 0 0) fedBytes true reluModel true 9 1 false).2.2.2.2 (by decide +kernel) (by decide +kernel) (by decide +kernel)).2.1 rfl (.inr rfl)
theorem test_assay_op : assaySteps (capHdr 0 0) fedBytes false (some { reluModel with image := badOpImage }) true 9 1 false = (verdictOf (capHdr 0 0) 9 1 false 3 2, none) :=
  (((assayOrder (capHdr 0 0) fedBytes false { reluModel with image := badOpImage } true 9 1 false).2.2.2.2 (by decide +kernel) (by decide +kernel) (by decide +kernel)).2.2
    rfl rfl rfl).1 (by decide +kernel)
theorem test_assay_match : ∃ outs, runStage reluImage fedBytes = some outs ∧ firstDiffers (capHdr 0 goodDigest) reluImage outs = none :=
  ⟨[⟨13, [2], [5, 0]⟩], by decide +kernel, by decide +kernel⟩

abbrev modelDesc (len : Byte) (id : Byte) : List Byte := descI 0x0B len 0 ([id] ++ zeros 7 ++ le 8 0)
def modelTv (f : Nat) (hbm : Nat) (es : List ModelEnt) : Tervon :=
  { Tervon.setPart (jobTv (modelDesc (BitVec.ofNat 8 f) 7)) 0 { PartSt.reset with hbm := hbm } with assay.models := es }
def modelJob : Job := jobOf (modelDesc 96 7)
def freeJob : Job := jobOf (modelDesc 0 7)
theorem test_modelLoad_bad : metTv ((modelsLoaded (dataIn (zeros 96))).1 job0 modelJob) (modelTv 96 1 []) := by decide +kernel
theorem fits : Job.inLen modelJob ≠ 0 ∧ Job.inputOk modelJob (dataIn reluImage) = true ∧ modelOk (dataIn reluImage).bytes = true ∧
    (aModel (dataIn reluImage).bytes).toNat = Job.u32 modelJob 40 := ⟨by decide +kernel, by decide +kernel, reluImage_ok, by decide +kernel⟩
theorem test_modelLoad_conflict : metTv ((modelsLoaded (dataIn reluImage)).2.1 reluModel job0 modelJob) (modelTv 96 1 [reluModel]) :=
  ⟨by decide +kernel, by decide +kernel, by decide +kernel, fits, by decide +kernel⟩
theorem test_modelLoad_full : metTv ((modelsLoaded (dataIn reluImage)).2.2.1 job0 modelJob) (modelTv 96 1 (List.replicate 4096 { reluModel with id := 8 })) :=
  ⟨by decide +kernel, by decide +kernel, by decide +kernel, fits, by decide +kernel⟩
theorem test_modelLoad_noRoom : metTv ((modelsLoaded (dataIn reluImage)).2.2.2.1 job0 modelJob) (modelTv 96 0 []) :=
  ⟨by decide +kernel, by decide +kernel, by decide +kernel, fits, by decide +kernel⟩
theorem test_modelLoad : metTv ((modelsLoaded (dataIn reluImage)).2.2.2.2.1 job0 modelJob) (modelTv 96 1 []) :=
  ⟨by decide +kernel, by decide +kernel, by decide +kernel, fits, by decide +kernel⟩
theorem test_modelLoad_again : metTv ((modelsLoaded (dataIn reluImage)).2.2.2.2.2 { reluModel with fn := 0 } job0 modelJob) (modelTv 96 1 [{ reluModel with fn := 0 }]) :=
  ⟨by decide +kernel, by decide +kernel, by decide +kernel, fits, by decide +kernel⟩
theorem test_modelUnload : metTv (modelsUnloaded.1 job0 freeJob) (modelTv 0 1 []) ∧ metTv ((modelsUnloaded.2 reluModel).1 job0 freeJob) (modelTv 0 1 [reluModel]) ∧
    metTv ((modelsUnloaded.2 { reluModel with fn := 0 }).2 job0 freeJob) (modelTv 0 1 [{ reluModel with fn := 0 }]) := by decide +kernel
abbrev policyDesc : List Byte := desc 0x0C ([0, 0] ++ le 2 1 ++ le 2 1 ++ le 2 1)
theorem test_policy : metTv (policiesSet.1 job0 (jobOf policyDesc)) (jobTv policyDesc) ∧ metTv (policiesSet.2 job0 (jobOf (desc 0x0C []))) (jobTv (desc 0x0C [])) := by decide +kernel
def recordIn (digest : DWord) : HostData := dataIn (capHdr 0 digest ++ fedBytes)
def submitTv : Tervon := { assayTv with jobs := [jobOf (descI 0x0D 66 0 [])], assay.policies := [(0, { Policy.reset with fetch := false })] }
theorem test_submit : metTv ((submitsAssayed (recordIn goodDigest)).1 job0 (jobOf (descI 0x0D 66 0 []))) submitTv := by decide +kernel
theorem test_submit_mismatch : metTv ((submitsAssayed (recordIn 0)).2 ⟨13, [2], [5, 0]⟩ job0 (jobOf (descI 0x0D 66 0 []))) submitTv := by decide +kernel
theorem test_compress : metTv ((cooperCompresses (dataIn [])).1 job0 (jobOf (desc 0x0E [4]))) (jobTv (desc 0x0E [4])) ∧
    metTv ((cooperCompresses ⟨[], true⟩).2.1 job0 (jobOf (desc 0x0E []))) (jobTv (desc 0x0E [])) ∧
    metTv ((cooperCompresses (dataIn [])).2.2 job0 (jobOf (desc 0x0E []))) (jobTv (desc 0x0E [])) := by decide +kernel
theorem test_decompress : metTv ((cooperDecompresses (dataIn [])).1 job0 (jobOf (desc 0x0F [5]))) (jobTv (desc 0x0F [5])) ∧
    metTv ((cooperDecompresses ⟨[], true⟩).2.1 job0 (jobOf (desc 0x0F []))) (jobTv (desc 0x0F [])) ∧
    metTv ((cooperDecompresses (dataIn [])).2.2 job0 (jobOf (desc 0x0F []))) (jobTv (desc 0x0F [])) := by decide +kernel

/-! ### Streams, reductions and early calls -/

abbrev defineDesc (i : Byte) (item : Byte) : List Byte := descI 6 0 5 ([i, 0, 0, 0] ++ [0, 0] ++ [item, 0xFF * item])
def liveEnt : StreamEnt := { StreamEnt.reset with did := 5, flags := 1 }
/-- Stream 1 of DID 5 is defined. -/
def streamTv (bs : List Byte) : Tervon := { homeTv bs with str.table := [(1, liveEnt)] }
/-- Partition 0 owns the first block of streams. -/
def takenTv (bs : List Byte) : Tervon := Tervon.setPart (streamTv bs) 0 { PartSt.reset with blocks := [0] }
theorem test_define_elsewhere : metTv (streamsDefined.1 job0 (jobOf (descI 6 0 9 []))) (homeTv (descI 6 0 9 [])) ∧
    metTv (streamsDefined.2.1 job0 (jobOf (defineDesc 0 1))) (homeTv (defineDesc 0 1)) := by decide +kernel
theorem test_define_full : metTv (streamsDefined.2.2.1 job0 (jobOf (defineDesc 0 0)))
    { homeTv (defineDesc 0 0) with str.table := (List.range 8192).map fun i => (i + 1, liveEnt) } := by decide +kernel
theorem test_define_taken : metTv (streamsDefined.2.2.2.1 job0 (jobOf (defineDesc 0 0))) (takenTv (defineDesc 0 0)) := by decide +kernel
theorem test_define : metTv (streamsDefined.2.2.2.2.1 job0 (jobOf (defineDesc 0 0))) (streamTv (defineDesc 0 0)) ∧
    metTv (streamsDefined.2.2.2.2.2 job0 (jobOf (defineDesc 1 0))) (streamTv (defineDesc 1 0)) := by decide +kernel
abbrev opDesc (i op : Byte) : List Byte := desc 6 [i, 0, 0, 0, op]
theorem test_remove : metTv (streamsRemoved.1 job0 (jobOf (opDesc 0 1))) (takenTv (opDesc 0 1)) ∧
    metTv (streamsRemoved.2.1 job0 (jobOf (opDesc 0 1))) (streamTv (opDesc 0 1)) ∧
    metTv (streamsRemoved.2.2 job0 (jobOf (opDesc 1 1))) (streamTv (opDesc 1 1)) := by decide +kernel
abbrev restoreDesc : List Byte := descI 6 64 0 [1, 0, 0, 0, 2]
def entryIn : List Byte := [5, 0, 0, 0, 0, 0, 1] ++ zeros 57
theorem test_restore : metTv ((streamsRestored ⟨entryIn, true⟩).1 job0 (jobOf restoreDesc)) (streamTv restoreDesc) ∧
    metTv ((streamsRestored (dataIn (zeros 64))).2.1 job0 (jobOf restoreDesc)) (streamTv restoreDesc) ∧
    metTv ((streamsRestored (dataIn entryIn)).2.2 job0 (jobOf restoreDesc)) (streamTv restoreDesc) := by decide +kernel
def guestJob (bs : List Byte) : Job := { jobOf bs with ref := ⟨2, 0, 0⟩ }
theorem test_query : metTv (streamsQueried.1 ⟨2, 0, 0⟩ (guestJob (desc 7 [1]))) { streamTv [] with jobs := [guestJob (desc 7 [1])] } ∧
    metTv (streamsQueried.2.1 job0 (jobOf (desc 7 []))) (streamTv (desc 7 [])) := by decide +kernel
theorem test_query_reads : metTv (streamsQueried.2.2.1 job0 (jobOf (desc 7 [1]))) (streamTv (desc 7 [1])) ∧
    metTv (streamsQueried.2.2.2 job0 (jobOf (desc 7 [1, 0, 0, 0, 1]))) (streamTv (desc 7 [1, 0, 0, 0, 1])) := by decide +kernel
theorem test_checkpoint : metTv (checkpoints.1 job0 (jobOf (desc 0x16 []))) (jobTv (desc 0x16 [])) ∧
    metTv (checkpoints.2.1 job0 (jobOf (desc 0x16 [0, 0, 0, 0, 1]))) (jobTv (desc 0x16 [0, 0, 0, 0, 1])) ∧
    metTv (checkpoints.2.2 job0 { jobOf (desc 0x16 []) with phase := 1 }) { jobTv [] with jobs := [{ jobOf (desc 0x16 []) with phase := 1 }] } := by decide
/-- A record ring of 16 entries, of which some are used. -/
def ringWith (used : Word) (i : Nat) : Tervon := Tervon.setRing (streamTv []) 0 5 { HostRing.reset with size := 4, head := used, tail := BitVec.ofNat 32 i }
theorem test_copy_pauses : Tervon.copyFrom job0 (ringWith 16 0) [1] = Tervon.setJob (ringWith 16 0) { jobOf [] with waiting := 1 } :=
  (checkpointCopies job0 (jobOf []) (ringWith 16 0) 1 [] (by decide)).2.1 (by decide)
theorem test_copy : Tervon.copyFrom job0 (ringWith 0 0) [0] = Tervon.copyFrom job0 (Tervon.streamGet (ringWith 0 0) 0).1 [] :=
  (checkpointCopies job0 (jobOf []) (ringWith 0 0) 0 [] (by decide)).2.2.2 (by decide) (by decide)
theorem test_copy_defined : HostRing.n (Tervon.ring (ringWith 0 0) 0 5) ≤ 4 * HostRing.free (Tervon.ring (ringWith 0 0) 0 5) ∧
    StreamEnt.defined (Tervon.streamGet (ringWith 0 0) 1).2 = true := by decide

abbrev reduceDesc (op source : Byte) : List Byte := desc 8 [3, op, source]
theorem test_reduceDefine : metTv (reductionsDefined.1 job0 (jobOf (reduceDesc 0 0))) (jobTv (reduceDesc 0 0)) ∧
    metTv (reductionsDefined.2.1 job0 (jobOf (reduceDesc 0 9))) (jobTv (reduceDesc 0 9)) ∧
    metTv (reductionsDefined.2.2 job0 (jobOf (reduceDesc 1 0))) (jobTv (reduceDesc 1 0)) := by decide +kernel
def redDef3 : RedDef := ⟨0, [3, 0, 0, 0, 0, 0, 0, 0, 0, 0]⟩
/-- A run of reduction 3 at an instant, under a root. -/
def run3 (i root : Nat) : RedRun := { RedRun.reset with instant := i, id := 3, root := root }
def runTv (rs : List RedRun) : Tervon := { upTv with red.defs := [(3, redDef3)], red.runs := rs }
theorem test_localWait : metTv (localWaits 1).1 (runTv [run3 1 0]) ∧ metTv (localWaits 1).2.1 (runTv []) ∧ metTv (localWaits 1000000000).2.2 (runTv []) := by decide
theorem test_partDeadline : metTv (partDeadlines 1).1 (runTv []) ∧ metTv (partDeadlines 1).2 (runTv [run3 1 0]) := by decide +kernel
def part3 : ReduceP := { instant := 1000000000, id := 3, flags := 0, digest := 0, leavesIn := 0, leavesOut := 0, tvIn := 1, tvOut := 0, elems := zeros 572 }
def bare : ReduceP := { part3 with elems := zeros 8 }
abbrev partRx (p : ReduceP) : Rx := peerRx (.reducePart p)
theorem test_reducePart_bad : metTv (partsArrive (partRx bare) bare 9 rfl).1 (runTv []) := by unfold metTv Tervon.Receives; decide +kernel
theorem test_reducePart_none : metTv (partsArrive (partRx bare) bare 9 rfl).2.1 upTv := by unfold metTv Tervon.Receives; decide +kernel
theorem test_reducePart_late : metTv ((partsArrive (partRx part3) part3 9 rfl).2.2 { run3 1000000000 0 with sent := true }).1 (runTv [{ run3 1000000000 0 with sent := true }]) := by
  unfold metTv Tervon.Receives; decide +kernel
theorem test_reducePart : metTv ((partsArrive (partRx part3) part3 9 rfl).2.2 (run3 1000000000 0)).2 (runTv [run3 1000000000 0]) := by
  unfold metTv Tervon.Receives; decide +kernel
abbrev resultRx (p : ReduceP) : Rx := peerRx (.reduceResult p)
theorem test_reduceResult : metTv (resultsArrive (resultRx part3) part3 9 (run3 1000000000 1) rfl).1 (runTv [run3 1000000000 1]) ∧
    metTv (resultsArrive (resultRx part3) part3 9 (run3 1000000000 0) rfl).2 (runTv [run3 1000000000 0]) := by
  unfold metTv Tervon.Receives; decide +kernel
theorem test_resultLost : metTv (resultsLost 1 3 (run3 1 0) redDef3).1 (runTv []) ∧ metTv (resultsLost 1 3 (run3 1 0) redDef3).2 (runTv [run3 1 0]) := by decide +kernel

/-- Class 0 is a straggler class of reduction 3, and GLN is on with early calls. -/
def stragglers (t : Tervon) : Tervon := { t with red.defs := [(3, redDef3)], gln.ctl := 3, gln.classes := [(0, 0x302)] }
theorem test_earlyWait : metTv (earlyWaits 0 1000000000).1 upTv ∧ metTv (earlyWaits 0 1000000000).2.1 (stragglers upTv) := by decide +kernel
theorem test_earlyWait_calls : metTv ((earlyWaits 0 1000000000).2.2 63) (stragglers (memberTv 1)) := by decide +kernel
def suspect0 : Suspect := { Suspect.reset with did := 9, cls := 0, instant := 1, red := 3, open' := true }
theorem test_close : metTv (closesConfirm 0 1000000001 suspect0).1 (stragglers upTv) ∧
    metTv (closesConfirm 0 1 suspect0).2 { stragglers upTv with gln.suspects := [suspect0] } := by decide +kernel

/-! ### Kale, stored data, partitions and tiles -/

/-- An ensemble of one tree, which is a leaf. -/
def leafImage : List Byte :=
  [75, 65, 76, 69, 1, 0, 0, 0, 1, 0, 0, 0, 1, 0, 0, 0, 0, 0, 0, 0, 64, 0, 0, 0, 96, 0, 0, 0, 176, 0, 0, 0, 192, 0, 0, 0, 0, 0, 0, 0, 0, 0, 0, 0, 0, 0,
   0, 0, 0, 0, 0, 0, 0, 0, 0, 0, 0, 0, 0, 0, 219, 82, 108, 217, 1, 0, 1, 0, 0, 0, 0, 0, 0, 0, 0, 0, 0, 0, 0, 0, 255, 255, 255, 255, 255, 255, 255,
   255, 255, 255, 255, 255, 255, 255, 255, 255] ++ zeros 85 ++ [1] ++ zeros 10
/-- Its check. -/
theorem leafImage_check : crc32c (leafImage.take 60 ++ leafImage.drop 64) = 0xD96C52DB := by
  have h : leafImage.take 60 ++ leafImage.drop 64 = (slice leafImage 0 20 ++ (slice leafImage 20 20 ++ (slice leafImage 40 20 ++ (slice leafImage 64 16 ++ (slice leafImage 80 16 ++ (slice leafImage 96 16 ++ (slice leafImage 112 16 ++ (slice leafImage 128 16 ++ (slice leafImage 144 16 ++ (slice leafImage 160 16 ++ (slice leafImage 176 16))))))))))) := by decide +kernel
  have h0 : List.foldl (crcByte 0x82F63B78#32) 0xFFFFFFFF#32 (slice leafImage 0 20) = 0xB295EA50 := by decide +kernel
  have h1 : List.foldl (crcByte 0x82F63B78#32) 0xB295EA50 (slice leafImage 20 20) = 0xD583A013 := by decide +kernel
  have h2 : List.foldl (crcByte 0x82F63B78#32) 0xD583A013 (slice leafImage 40 20) = 0x74E12F8B := by decide +kernel
  have h3 : List.foldl (crcByte 0x82F63B78#32) 0x74E12F8B (slice leafImage 64 16) = 0xA886C84B := by decide +kernel
  have h4 : List.foldl (crcByte 0x82F63B78#32) 0xA886C84B (slice leafImage 80 16) = 0x1AE6C72B := by decide +kernel
  have h5 : List.foldl (crcByte 0x82F63B78#32) 0x1AE6C72B (slice leafImage 96 16) = 0x5751C8A6 := by decide +kernel
  have h6 : List.foldl (crcByte 0x82F63B78#32) 0x5751C8A6 (slice leafImage 112 16) = 0xE32F1C33 := by decide +kernel
  have h7 : List.foldl (crcByte 0x82F63B78#32) 0xE32F1C33 (slice leafImage 128 16) = 0x01778A8C := by decide +kernel
  have h8 : List.foldl (crcByte 0x82F63B78#32) 0x01778A8C (slice leafImage 144 16) = 0x0B919992 := by decide +kernel
  have h9 : List.foldl (crcByte 0x82F63B78#32) 0x0B919992 (slice leafImage 160 16) = 0x1310B4EA := by decide +kernel
  have h10 : List.foldl (crcByte 0x82F63B78#32) 0x1310B4EA (slice leafImage 176 16) = 0x2693AD24 := by decide +kernel
  unfold crc32c
  rw [h]
  simp only [List.foldl_append, h0, h1, h2, h3, h4, h5, h6, h7, h8, h9, h10]
  decide
theorem leafImage_ok : kaleImageOk leafImage = true := by
  unfold kaleImageOk
  dsimp only
  rw [leafImage_check]
  decide +kernel

/-- A descriptor of an input length and an output size. -/
def descL (op : Byte) (len out : Nat) (args : List Byte) : List Byte := [op] ++ zeros 15 ++ le 4 len ++ zeros 12 ++ le 4 out ++ zeros 4 ++ args
abbrev loadDesc : List Byte := descL 9 192 0 []
def loadJob : Job := jobOf loadDesc
/-- Partition 0 has tile 0 and some HBM; tile 0 is in a state; ensembles are held. -/
def kaleTv (bs : List Byte) (hbm : Nat) (x : KTile) (es : List (Nat × Ensemble)) : Tervon :=
  { Tervon.setPart (jobTv bs) 0 { PartSt.reset with tiles := 1, hbm := hbm } with ktiles := [(0, x)], enss := es }
def heldEns (fn : Nat) : Ensemble := { Ensemble.reset with fn := fn, image := [0], resident := true }
/-- Every bank is retired. -/
def spent : KTile := { KTile.reset with retired := List.range 64 }
theorem placeFor_spent (x : KTile) (b : Bool) (n : Nat) (hr : x.retired = List.range 64) (hn : 1 ≤ n) : KTile.placeFor x b n = none := by
  unfold KTile.placeFor
  rw [List.find?_eq_none]
  intro e he
  have h : KTile.bankOk x b (e / 128) = false := by
    have h1 : e / 128 < 64 := by have := List.mem_range.mp he; omega
    simp [KTile.bankOk, hr, h1]
  simp only [Bool.and_eq_true, List.all_eq_true, List.mem_range, not_and, not_forall]
  intro _
  exact ⟨0, hn, by simp [h]⟩
theorem placeAll_spent (t : Tervon) (id p : Nat) (image : List Byte) (hg : kEntryTrees image = [0]) (ht : Tervon.usable t p = [0]) (hp : Tervon.phys t 0 = some 0)
    (hr : (Tervon.ktile t 0).retired = List.range 64) (hl : 1 ≤ (kTree image 0).leaves) : Tervon.placeAll t id p image = none := by
  unfold Tervon.placeAll
  rw [hg, ht]
  simp only [List.foldl, Option.bind_some]
  unfold Tervon.dealTree
  simp [hp, placeFor_spent _ _ _ hr hl]
theorem loads : (Job.inputOk loadJob (dataIn leafImage) = true ∧ Job.byte loadJob 43 = 0) ∧
    kaleImageOk (dataIn leafImage).bytes = true ∧ field (dataIn leafImage).bytes 6 2 = Job.u16 loadJob 40 :=
  ⟨by decide +kernel, leafImage_ok, by decide +kernel⟩
theorem test_kaleLoad_bad : metTv ((ensemblesLoaded (dataIn [])).1 job0 (jobOf (desc 9 []))) (jobTv (desc 9 [])) := by decide +kernel
theorem test_kaleLoad_conflict : metTv ((ensemblesLoaded (dataIn leafImage)).2.1 job0 loadJob) (kaleTv loadDesc 1 KTile.reset [(0, heldEns 1)]) :=
  ⟨by decide +kernel, by decide, by decide, loads.1, loads.2, by decide +kernel⟩
theorem test_kaleLoad_noTile : metTv ((ensemblesLoaded (dataIn leafImage)).2.2.1 job0 loadJob) (jobTv loadDesc) :=
  ⟨by decide +kernel, by decide, by decide, loads.1, loads.2, by decide +kernel, by decide +kernel⟩
theorem test_kaleLoad_noRoom : metTv ((ensemblesLoaded (dataIn leafImage)).2.2.2.1 job0 loadJob) (kaleTv loadDesc 0 KTile.reset []) :=
  ⟨by decide +kernel, by decide, by decide, loads.1, loads.2, by decide +kernel, by decide +kernel, by decide +kernel⟩
theorem test_kaleLoad : metTv ((ensemblesLoaded (dataIn leafImage)).2.2.2.2.1 job0 loadJob) (kaleTv loadDesc 1 KTile.reset []) :=
  ⟨by decide +kernel, by decide, by decide, ⟨loads.1, loads.2, by decide +kernel, by decide +kernel, by decide +kernel⟩, by decide +kernel⟩
theorem test_kaleLoad_blocked : metTv ((ensemblesLoaded (dataIn leafImage)).2.2.2.2.2.1 job0 loadJob)
    (kaleTv loadDesc 1 { spent with assoc := [(6144, { KEntry.reset with ens := 1 })] } []) :=
  ⟨by decide +kernel, by decide, by decide, ⟨loads.1, loads.2, by decide +kernel, by decide +kernel, by decide +kernel⟩,
    placeAll_spent _ _ _ _ (by decide +kernel) (by decide +kernel) (by decide +kernel) (by decide +kernel) (by decide +kernel), by decide +kernel⟩
theorem test_kaleLoad_streamed : metTv ((ensemblesLoaded (dataIn leafImage)).2.2.2.2.2.2 job0 loadJob) (kaleTv loadDesc 1 spent []) :=
  ⟨by decide +kernel, by decide, by decide, ⟨loads.1, loads.2, by decide +kernel, by decide +kernel, by decide +kernel⟩,
    placeAll_spent _ _ _ _ (by decide +kernel) (by decide +kernel) (by decide +kernel) (by decide +kernel) (by decide +kernel), by decide +kernel⟩
abbrev unloadDesc : List Byte := desc 9 [0, 0, 0, 1]
theorem test_kaleUnload : metTv (ensemblesUnloaded.1 job0 (jobOf unloadDesc)) (jobTv unloadDesc) ∧
    metTv (ensemblesUnloaded.2.1 job0 (jobOf unloadDesc)) (kaleTv unloadDesc 1 KTile.reset [(0, heldEns 1)]) ∧
    metTv (ensemblesUnloaded.2.2 job0 (jobOf unloadDesc)) (kaleTv unloadDesc 1 KTile.reset [(0, heldEns 0)]) := by decide +kernel
def placingEns : Ensemble := { heldEns 1 with image := leafImage, placing := true }
theorem test_placement : metTv (placementsEnd 1 0).1 lateTv ∧ metTv (placementsEnd 1 0).2.1 (kaleTv [] 1 KTile.reset [(0, placingEns)]) := by decide +kernel
theorem test_placement_streamed : metTv (placementsEnd 1 0).2.2 (kaleTv [] 1 spent [(0, placingEns)]) :=
  ⟨by decide +kernel, by decide +kernel, placeAll_spent _ _ _ _ (by decide +kernel) (by decide +kernel) (by decide +kernel) (by decide +kernel) (by decide +kernel)⟩
abbrev scoreDesc (out : Nat) : List Byte := descL 0x0A 272 out []
def samples : HostData := dataIn (zeros 272)
theorem test_score_bad : metTv ((scoresGiven (dataIn [])).1 job0 (jobOf (desc 0x0A []))) (jobTv (desc 0x0A [])) ∧
    metTv ((scoresGiven samples).2.1 job0 (jobOf (scoreDesc 0))) (jobTv (scoreDesc 0)) ∧
    metTv ((scoresGiven samples).2.2.1 job0 (jobOf (scoreDesc 16))) (jobTv (scoreDesc 16)) := by decide +kernel
theorem test_score_refused : metTv ((scoresGiven samples).2.2.2.1 ⟨2, 0, 0⟩ (guestJob (scoreDesc 16)))
      { kaleTv [] 1 KTile.reset [(0, heldEns 0)] with jobs := [guestJob (scoreDesc 16)] } ∧
    metTv ((scoresGiven samples).2.2.2.2.1 job0 (jobOf (scoreDesc 16))) { jobTv (scoreDesc 16) with enss := [(0, heldEns 0)] } := by decide +kernel
theorem test_score : metTv ((scoresGiven samples).2.2.2.2.2.1 job0 (jobOf (scoreDesc 16))) (kaleTv (scoreDesc 16) 1 KTile.reset [(0, heldEns 0)]) ∧
    metTv ((scoresGiven samples).2.2.2.2.2.2 job0 (jobOf (scoreDesc 16))) (kaleTv (scoreDesc 16) 1 KTile.reset [(0, { heldEns 0 with resident := false })]) := by decide +kernel
def winRun : KaleRun := { KaleRun.reset with wins := [KaleWin.reset] }
theorem test_window_loaded : metTv (windowsLoaded 0 winRun KaleWin.reset).1 lateTv ∧ metTv (windowsLoaded 0 winRun KaleWin.reset).2 { lateTv with kruns := [winRun] } := by decide
def flipped : KEntry := { KEntry.reset with tree := 1 }
theorem test_kaleScrub : metTv (scrubCompares 0).1 { lateTv with tiles.map := [] } ∧ metTv ((scrubCompares 0).2 0).1 lateTv := by decide +kernel
theorem test_kaleScrub_compares : metTv (((scrubCompares 0).2 0).2 KEntry.reset).1 (kaleTv [] 1 { KTile.reset with assoc := [(0, KEntry.reset)] } []) ∧
    metTv (((scrubCompares 0).2 0).2 flipped).2 (kaleTv [] 1 { KTile.reset with assoc := [(0, flipped)] } []) := by decide +kernel

def sramTv (chk : Byte) : Tervon := { lateTv with ecc.gsram := [(0, ⟨0, chk⟩)] }
def hbmTv (chk : Byte) : Tervon := { lateTv with ecc.hbm := [(0, some ⟨0, chk⟩)] }
theorem test_sramScrub : metTv (sramScrubs ⟨0, 0, 0⟩).1 lateTv ∧ metTv (sramScrubs ⟨1, 0, 0⟩).2.1 lateTv ∧ metTv (sramScrubs ⟨1, 0, 0⟩).2.2.1 (sramTv 1) ∧
    metTv (sramScrubs ⟨1, 0, 0⟩).2.2.2 (sramTv 3) := by decide +kernel
theorem test_hbmScrub : metTv (hbmScrubs 0).1 lateTv ∧ metTv ((hbmScrubs 0).2 ⟨0, 1⟩).1 (hbmTv 1) ∧ metTv ((hbmScrubs 0).2 ⟨0, 3⟩).2 (hbmTv 3) := by decide +kernel
theorem test_rowRepair : metTv (rowsRepaired 0 0 0).1 lateTv ∧ metTv (rowsRepaired 0 0 0).2 { lateTv with ecc.repairing := [(0, 0, 0)] } := by decide
theorem test_eccTest_refused : metTv ((eccTests 0).1 1 (by decide)).1 lateTv ∧ metTv ((eccTests 0).1 1 (by decide)).2 lateTv ∧
    metTv (eccTests 6).2.1 lateTv ∧ metTv (eccTests 6).2.2.1 lateTv := by decide +kernel
theorem test_eccTest : metTv (eccTests 0).2.2.2.1 lateTv ∧ metTv (eccTests 0).2.2.2.2.1 lateTv ∧ metTv (eccTests 1).2.2.2.2.2.1 lateTv ∧
    metTv (eccTests 1).2.2.2.2.2.2.1 lateTv ∧ metTv (eccTests 3).2.2.2.2.2.2.2.1 lateTv ∧ metTv (eccTests 1).2.2.2.2.2.2.2.2 { lateTv with ecc.addr := 1 } := by decide +kernel

abbrev partDesc : List Byte := descI 0x14 64 0 []
/-- A partition configuration: tiles and a quota. -/
def partIn (tiles quota : Byte) : HostData := dataIn ([tiles, 0, 0, 0, quota] ++ zeros 59)
def partTv (q : PartSt) : Tervon := Tervon.setPart (jobTv partDesc) 1 q
theorem test_commit_bad : metTv ((partitionsCommit ⟨zeros 64, true⟩).1 job0 (jobOf partDesc)) (jobTv partDesc) ∧
    metTv ((partitionsCommit (partIn 0 17)).2.1 job0 (jobOf partDesc)) (jobTv partDesc) := by decide +kernel
theorem test_commit_tiles : metTv ((partitionsCommit (partIn 1 0)).2.2.1 job0 (jobOf partDesc)) { jobTv partDesc with tiles.map := [] } ∧
    metTv ((partitionsCommit (partIn 1 0)).2.2.2.1 job0 (jobOf partDesc)) (partTv { PartSt.reset with tiles := 1 }) := by decide +kernel
theorem test_commit_resource : metTv ((partitionsCommit (partIn 0 16)).2.2.2.2.1 2 job0 (jobOf partDesc)) (partTv { PartSt.reset with quota := 1 }) := by decide +kernel
theorem test_commit : metTv ((partitionsCommit (partIn 1 0)).2.2.2.2.2 job0 (jobOf partDesc)) (jobTv partDesc) := by decide +kernel
theorem test_drain : metTv (drainsEnd 1).1 lateTv ∧ metTv ((drainsEnd 1).2 1000000001).1 (partTv { PartSt.reset with drainBy := some 1000000001 }) ∧
    metTv ((drainsEnd 1).2 1).2 (partTv { PartSt.reset with drainBy := some 1 }) := by decide +kernel
theorem test_tileClear : metTv (tilesCleared 0).1 lateTv ∧ metTv ((tilesCleared 0).2 0) { lateTv with tiles.clearing := [0] } := by decide +kernel
theorem test_spare : metTv (sparesTested 32 0 (0, 32) rfl).1 { lateTv with tiles.testing := [(0, 32)] } ∧
    metTv (sparesTested 32 0 (0, 32) rfl).2.1 { lateTv with tiles.testing := [(0, 32)] } ∧ metTv ((sparesTested 32 0 (0, 32) rfl).2.2 true) lateTv := by decide +kernel

/-! ### Mirroring and the adjustment of time -/

/-- A committed Tervon with its links up. -/
def upSet : Tervon := { upTv with boot.setup := 1 }
def leaseItem : MirrorItem := .lease 9 1 0
/-- A pair frame at the buddy port. -/
abbrev buddyRx (p : Payload) : Rx := arrive (.tv 8) (mkFrame 0 0 0 0 p)
def stateP : BuddyStateP := { time := 0, did := 0, flags := 0, lastSent := 0, lastApp := 0, leases := 0 }
/-- An unmirrored Tervon that has heard its buddy just now. -/
def markedTv (t : Tervon) : Tervon := { t with mir.unmirrored := true, mir.resend := none, mir.lastState := some 1000000000 }
theorem test_mirrorPeriod : metTv mirrorPeriods.1 upTv ∧ metTv mirrorPeriods.2.1 { upSet with mir.unmirrored := true } ∧
    metTv mirrorPeriods.2.2.1 { upSet with mir.unmirrored := false } ∧ metTv mirrorPeriods.2.2.2 { upSet with mir.unmirrored := false, mir.dirty := [leaseItem] } := by decide
theorem test_mirror : metTv ((mirrorsApply (buddyRx (.mirror 0 [])) 0 []).1 rfl) upTv ∧ metTv ((mirrorsApply (peerRx (.mirror 0 [])) 0 []).2 (by decide)) upTv := by
  unfold metTv Tervon.Receives; decide
theorem test_item_held : Tervon.applyItem (memberTv 1) leaseItem = { memberTv 1 with mir.discarded := (memberTv 1).mir.discarded + 1 } :=
  (itemsApply (memberTv 1) leaseItem).1 (by decide)
theorem test_item : Tervon.applyItem upTv leaseItem = { upTv with mir.leases := Cells.insert upTv.mir.leases 9 (1, 0) } := (itemsApply upTv leaseItem).2 (by decide)
theorem test_mirrorAck : metTv ((mirrorsAcked (buddyRx (.mirrorAck 5 0)) 5 0 rfl).1 5) { upTv with mir.resend := some 5 } ∧
    metTv ((mirrorsAcked (buddyRx (.mirrorAck 5 0)) 5 0 rfl).2.1 6) { upTv with mir.resend := some 6 } ∧
    metTv (mirrorsAcked (buddyRx (.mirrorAck 5 0)) 5 0 rfl).2.2 { upTv with mir.resend := none } := by
  unfold metTv Tervon.Receives; decide
/-- The oldest change waits since 0. -/
def laggingTv (m : Bool) (r : Option Word) : Tervon := { upTv with mir.unacked := [(0, 0)], mir.unmirrored := m, mir.resend := r }
theorem test_lagLimit : metTv lagLimits.1 upTv ∧ metTv lagLimits.2.1 (laggingTv false none) ∧ metTv lagLimits.2.2.1 (laggingTv true (some 0)) ∧
    metTv lagLimits.2.2.2 (laggingTv true none) := by decide
theorem test_buddyStatePeriod : metTv statesSent.1 upTv ∧ metTv statesSent.2 upSet := by decide
abbrev stateRx : Rx := buddyRx (.buddyState stateP)
theorem test_buddyState : metTv (statesHeard stateRx stateP rfl).1 { upTv with mir.unmirrored := false } ∧
    metTv (statesHeard stateRx stateP rfl).2.1 (markedTv upTv) := by unfold metTv Tervon.Receives; decide +kernel
theorem test_buddyState_resend : metTv (statesHeard stateRx stateP rfl).2.2 (markedTv (memberTv 1)) := by unfold metTv Tervon.Receives; decide +kernel
theorem test_buddyLost : metTv buddyLost.1 upTv ∧ metTv buddyLost.2.1 { upSet with mir.unmirrored := false } ∧
    metTv buddyLost.2.2.1 { upSet with mir.unmirrored := true, mir.resend := none } ∧ metTv buddyLost.2.2.2.1 upTv ∧
    metTv buddyLost.2.2.2.2 { upSet with mir.silent := false } := by decide
theorem test_stateLoad : metTv (bulkLoads (buddyRx (.stateLoad 0 0 [])) 0 0 [] 0 0 0 rfl).1 upTv ∧
    metTv (bulkLoads (buddyRx (.stateLoad 5 0 [])) 5 0 [] 0 0 0 rfl).2.1 upTv := by unfold metTv Tervon.Receives; decide +kernel
theorem test_stateDone : metTv (bulkLoads (buddyRx (.stateDone 0 0 0)) 0 0 [] 0 0 0 rfl).2.2.1 upTv ∧
    metTv (bulkLoads (buddyRx (.stateDone 0 1 0)) 0 0 [] 0 1 0 rfl).2.2.2 upTv := by unfold metTv Tervon.Receives; decide +kernel

abbrev adjustDesc (args : List Byte) : List Byte := desc 0x15 args
/-- A Tervon whose time comes from software, and one whose time is a building's PPS. -/
def softTv (bs : List Byte) : Tervon := { jobTv bs with time.ctl := 0x000003E800882906 }
def ppsTv (bs : List Byte) : Tervon := { jobTv bs with time.ctl := 0x000003E800842906 }
theorem test_setSecond : metTv (secondsSet.1 job0 (jobOf (adjustDesc []))) (jobTv (adjustDesc [])) ∧
    metTv (secondsSet.2.1 job0 (jobOf (adjustDesc []))) { softTv (adjustDesc []) with time.valid := true } ∧
    metTv (secondsSet.2.2.1 job0 (jobOf (adjustDesc []))) (ppsTv (adjustDesc [])) := by decide +kernel
theorem test_setSecond_soft : metTv (secondsSet.2.2.2.1 job0 (jobOf (adjustDesc []))) (softTv (adjustDesc [])) ∧
    metTv (secondsSet.2.2.2.2.1 (0, none, 3, 1) job0 (jobOf (adjustDesc []))) { softTv (adjustDesc []) with time.root.kept := some (0, none, 3, 1) } ∧
    metTv (secondsSet.2.2.2.2.2 job0 (jobOf (adjustDesc [3]))) (jobTv (adjustDesc [3])) := by decide +kernel
abbrev steerDesc : List Byte := adjustDesc [1, 3, 0, 0, 1]
theorem test_steer : metTv (steersApply.1 job0 (jobOf (adjustDesc [1]))) (jobTv (adjustDesc [1])) ∧ metTv (steersApply.2.1 job0 (jobOf steerDesc)) (jobTv steerDesc) ∧
    metTv (steersApply.2.2.1 job0 (jobOf steerDesc)) { softTv steerDesc with time.valid := true } ∧ metTv (steersApply.2.2.2 job0 (jobOf steerDesc)) (softTv steerDesc) := by
  decide +kernel
theorem test_sendPtp : metTv ((ptpSent (dataIn [])).1 job0 (jobOf (adjustDesc [2, 4]))) (jobTv (adjustDesc [2, 4])) ∧
    metTv ((ptpSent ⟨[], true⟩).2.1 job0 (jobOf (adjustDesc [2]))) (jobTv (adjustDesc [2])) ∧
    metTv ((ptpSent (dataIn [])).2.2 job0 (jobOf (adjustDesc [2]))) (jobTv (adjustDesc [2])) := by decide +kernel

/-! ### Power, reset, set-up and the registers of the Tervon -/

theorem test_cellarTimeout : metTv cellarTimesOut.1 lateTv ∧ metTv (cellarTimesOut.2 1000000000).1 { lateTv with pwr.entering := some 1000000000 } ∧
    metTv (cellarTimesOut.2 1).2 { lateTv with pwr.entering := some 1 } := by decide
def readyTv : Tervon := { lateTv with boot.ready := true }
theorem test_pwrWake : metTv (powerWritten 1 0).1 readyTv ∧ metTv (powerWritten 0 199).2.1 readyTv ∧ metTv (powerWritten 0 600).2.2 readyTv := by decide
theorem test_wakeAt : metTv wakeTimes.1 { lateTv with pwr.cellar := true, pwr.wakeAt := 1 } ∧ metTv wakeTimes.2 lateTv := by decide
theorem test_tervonWake : metTv tervonWakes.1 lateTv ∧ metTv tervonWakes.2 { lateTv with pwr.waking := true, pwr.cellar := true } := by decide
theorem test_tervonReset : Completes .tervonWarmReset (onTv fun _ => lateTv) := ⟨_, tervonResets.2.2.2.1 _ trivial⟩
theorem test_bootReady : metTv (bootsReady [0]).1 readyTv ∧ metTv (bootsReady [0]).2 lateTv := by decide
/-- A Tervon with the DIDs 1 and 2. -/
def namedTv : Tervon := { readyTv with boot.did := 1, boot.ileafDid := 2 }
theorem test_setupCommit : metTv (setupCommits 0).1 readyTv ∧ metTv (setupCommits 1).2.1 readyTv ∧ metTv (setupCommits 1).2.2 namedTv := by decide +kernel
theorem test_setupCheck_count : Tervon.setupCheck { namedTv with boot.vacant := 1 } = 1 := (setupChecks _).1 (by decide +kernel)
theorem test_setupCheck_coord : Tervon.setupCheck { namedTv with boot.pod := 0x400 } = 2 := (setupChecks _).2.1 (by decide +kernel) (by decide +kernel)
theorem test_setupCheck_dids : Tervon.setupCheck readyTv = 3 := (setupChecks _).2.2.1 (by decide +kernel) (by decide +kernel) (by decide +kernel)
theorem test_setupCheck : Tervon.setupCheck namedTv = 0 := by
  rw [(setupChecks namedTv).2.2.2 (by decide +kernel) (by decide +kernel) (by decide +kernel)]; decide
theorem test_stewardRestart : metTv (stewardsRestart 0 0 false (0, 0, false) rfl).1 { lateTv with pwr.hung := [(0, 0, false)] } ∧
    metTv (stewardsRestart 0 1000000000 false (0, 1000000000, false) rfl).2.1 { lateTv with pwr.hung := [(0, 1000000000, false)] } ∧
    metTv (stewardsRestart 0 0 false (0, 0, false) rfl).2.2 lateTv := by decide

/-- An access of the physical function at an offset of a BAR. -/
def barAt (b2 : Bool) (off : Nat) (ep : Bool) : BarAccess := { fn := 0, bar2 := b2, off := off, ep := ep }
theorem test_barRead_outside : Completes (.lowWordRead (.bar (barAt false 0x40000 false))) (onTv fun _ => lateTv) :=
  ⟨_, (barReads (barAt false 0x40000 false) (by decide) rfl).1 (by decide) _ trivial⟩
theorem test_barRead : Completes (.lowWordRead (.bar (barAt false 0x18 false))) (onTv fun _ => lateTv) :=
  ⟨_, ((barReads (barAt false 0x18 false) (by decide) rfl).2 0x18 (by decide) (by decide)).1 (by decide) _ trivial⟩
theorem test_barRead_upper : Completes (.lowWordRead (.bar (barAt false 0x1C false))) (onTv fun _ => lateTv) :=
  ⟨_, ((barReads (barAt false 0x1C false) (by decide) rfl).2 0x1C (by decide) (by decide)).2 1 (by decide) (by decide) _ trivial⟩
theorem test_doorbellRead : Completes (.lowWordRead (.bar (barAt true 0x14 false))) (onTv fun _ => lateTv) ∧
    Completes (.lowWordRead (.bar (barAt true 0x18 false))) (onTv fun _ => lateTv) :=
  ⟨⟨_, (doorbellReads (barAt true 0x14 false) (by decide) rfl).1 5 (by decide) _ trivial⟩,
   ⟨_, (doorbellReads (barAt true 0x18 false) (by decide) rfl).2.1 (by decide) _ trivial⟩⟩
theorem test_commandRead : Completes (.lowWordRead (.command 0)) (onTv fun _ => lateTv) :=
  ⟨_, (doorbellReads (barAt true 0 false) (by decide) rfl).2.2 _ trivial⟩
theorem test_barWrite_poisoned : Completes (.registerWrite (.bar (barAt false 0 true)) (.low 0)) (onTv fun _ => lateTv) :=
  ⟨_, (barWritesDropped (barAt false 0 true) 0 (by decide)).1 rfl _ trivial⟩
theorem test_barWrite_bar2 : Completes (.registerWrite (.bar (barAt true 0x18 false)) (.low 0)) (onTv fun _ => lateTv) :=
  ⟨_, (barWritesDropped (barAt true 0x18 false) 0 (by decide)).2.1 rfl rfl (by decide) _ trivial⟩
theorem test_commandWrite : Completes (.registerWrite (.command 0) (.low 4)) (onTv fun _ => lateTv) ∧ Completes (.registerWrite (.command 0) (.low 0)) (onTv fun _ => lateTv) :=
  ⟨⟨_, (barWritesDropped (barAt true 0 false) 4 (by decide)).2.2.1 (by decide) _ trivial⟩,
   ⟨_, (barWritesDropped (barAt true 0 false) 0 (by decide)).2.2.2 (by decide) _ trivial⟩⟩
theorem test_barWrite_refused : metTv (barWritesApply (barAt false 0x24 false) 0 0x24 (by decide) rfl rfl (by decide) (by decide)).1 lateTv := by decide
theorem test_barWrite : metTv ((barWritesApply (barAt false 0x24 false) 0 0x24 (by decide) rfl rfl (by decide) (by decide)).2.1 (by decide)) readyTv := by decide
theorem test_barWrite_lower : metTv ((barWritesApply (barAt false 0x18 false) 0 0x18 (by decide) rfl rfl (by decide) (by decide)).2.2.1 (by decide) (by decide)) readyTv := by decide
theorem test_barWrite_upper : metTv ((barWritesApply (barAt false 0x1C false) 0 0x1C (by decide) rfl rfl (by decide) (by decide)).2.2.2 (by decide) (by decide)) readyTv := by decide

/-! ### Sending, and frames in transit -/

/-- A port that is up with credits of 64 for each class. -/
def rich : LinkPort := { upPort with credTx := Quad.all 64 }
def waiting0 : Frame := toEnd (.nop [])
def waiting1 : Frame := toEnd (.health [healthRec])
def sending0 : LinkPort := { rich with own.c0 := [waiting0] }
def sending1 : LinkPort := { rich with own := ⟨[], [waiting1], [], []⟩, rrClass := 1, rrAdded := true, deficit := Quad.all 100 }
theorem test_schedule_down : (Tervon.port State.reset.tv 0).link ≠ 2 := by decide
theorem test_schedule0 : Completes (.frameBoundarySchedule (.tv 0)) (portIs 0 sending0) :=
  ⟨_, ((scheduled.1 0 waiting0 []).2.1 (portIs 0 sending0) (by decide)) (by unfold mayStart0; decide)⟩
theorem test_schedule1 : Completes (.frameBoundarySchedule (.tv 0)) (portIs 0 sending1) :=
  ⟨_, (scheduled.1 0 waiting1 []).2.2 (portIs 0 sending1) 1 (by decide) (by decide) (by decide) (by decide) (by decide) (by decide) (by decide) (by decide) (by decide)
    (by decide) (by decide) (by decide) (by decide) (by decide)⟩
theorem test_schedule_leaf : Completes (.frameBoundarySchedule .west) (westIs sending0) :=
  ⟨_, scheduled.2 (westIs sending0) .west waiting0 [] (.inl rfl) (by decide) (by unfold mayStart0; decide) (by decide)⟩
theorem test_nop_frame : metLeaf (nopsIgnored (nearRx (.nop []))).1 ringLeaf ∧ metTv (nopsIgnored (leafRx (.nop []))).2 upTv := by
  unfold metLeaf metTv Leaf.Receives Tervon.Receives; decide
theorem test_transit : metLeaf (framesForwarded .west (mkFrame 3 14 0 0 (.leaseReq { op := 2, duration := 0, epoch := 0, did := 0 })) (.inl rfl) rfl nofun) ringLeaf := by
  unfold metLeaf Leaf.Passes; decide
theorem test_transit_tervon : Completes (.frameTransit (.tv 7) ⟨(leafRx (.health [healthRec])).hdr, .health [healthRec]⟩) State.reset := by
  have h := (transitRuns 7 (leafRx (.health [healthRec])).hdr State.reset).2.2.2.1 [healthRec]
  exact ⟨_, h.trans rfl⟩

/-- A ROUTED frame at the port X−, for a position, with a hop count and a body of a type. -/
abbrev routedP (dx : BitVec 3) (hop : Byte) (h : Hdr) (body : List Byte) : Payload := .routed dx 0 2 0 hop h body
abbrev routedRx (dx : BitVec 3) (hop : Byte) (h : Hdr) (body : List Byte) : Rx := arrive (.tv 10) (mkFrame 0 0 0 0 (routedP dx hop h body))
def ackHdr : Hdr := (mkFrame 0 0 0 0 (.mirrorAck 0 0)).hdr
def notHdr : Hdr := { ackHdr with type := 0x3F }
def longHdr : Hdr := { ackHdr with length := 9 }
/-- A committed one, whose peer ports are enabled. -/
def torusTv : Tervon := { upTv with boot.setup := 1 }
theorem test_routed : metTv ((routedOn (routedRx 1 0 ackHdr (zeros 8)) 1 0 2 0 0 ackHdr (zeros 8)).1 10 rfl) upTv ∧
    metTv ((routedOn (routedRx 1 9 ackHdr (zeros 8)) 1 0 2 0 9 ackHdr (zeros 8)).2 9) torusTv := by
  unfold metTv Tervon.Receives; decide +kernel
theorem test_routed_here : metTv (routedDelivered (routedRx 0 0 notHdr []) 0 0 2 0 0 notHdr [] 10 rfl).1 upTv ∧
    metTv ((routedDelivered (routedRx 0 0 longHdr (zeros 8)) 0 0 2 0 0 longHdr (zeros 8) 10 rfl).2 (.mirrorAck 0 0) (by decide +kernel)).1 upTv := by
  unfold metTv Tervon.Receives; decide +kernel
/-- The latest frame of the sender is not counted again. -/
def staleTv : Tervon := { upTv with routeRx := [(4 * 2 + ackHdr.cls.toNat, some 1)] }
theorem test_routed_stale : metTv ((routedDelivered (routedRx 0 0 ackHdr (zeros 8)) 0 0 2 0 0 ackHdr (zeros 8) 10 rfl).2 (.mirrorAck 0 0) (by decide +kernel)).2.1 staleTv := by
  refine ⟨by unfold Tervon.Receives; decide +kernel, by decide +kernel, by decide +kernel, fun h => ?_⟩
  exact absurd (h 1 (by decide +kernel)) (by decide +kernel)
theorem test_routed_fresh : metTv ((routedDelivered (routedRx 0 0 ackHdr (zeros 8)) 0 0 2 0 0 ackHdr (zeros 8) 10 rfl).2 (.mirrorAck 0 0) (by decide +kernel)).2.2 upTv := by
  refine ⟨by unfold Tervon.Receives; decide +kernel, by decide +kernel, by decide +kernel, fun e h => ?_⟩
  have h2 : Cells.get none upTv.routeRx (4 * 2 + ackHdr.cls.toNat) = none := by decide +kernel
  exact absurd (h2.symm.trans h) nofun

/-! ### The block as a whole -/

/-- One command in front of another. -/
def twoWait : State := { State.reset with pending := [.ppsOutEdge, .exchangePeriod] }

theorem test_front : twoWait.pending = .ppsOutEdge :: [.exchangePeriod] ∧ State.reset.pending = [] := ⟨rfl, rfl⟩

theorem test_wired : Wired State.reset ∧ ∃ t, step State.reset = .next t := ⟨⟨rfl, rfl, rfl⟩, _, rfl⟩

/-- Two ways to combine three contributions of source 3, one SUM64 each. -/
def leftFirst : Combining := .join (.join (.one (le 8 5)) (.one (le 8 255))) (.one (le 8 (2 ^ 64 - 1)))
def rightFirst : Combining := .join (.one (le 8 (2 ^ 64 - 1))) (.join (.one (le 8 255)) (.one (le 8 5)))

theorem test_reduction : (∀ e ∈ Combining.parts leftFirst, elemsOk (redOps 3) e) ∧ List.Perm (Combining.parts leftFirst) (Combining.parts rightFirst) ∧
    Combining.value 3 leftFirst = le 8 259 := by
  refine ⟨?_, by decide, by decide⟩
  intro e he
  fin_cases he <;> exact ⟨⟨rfl, trivial⟩, rfl⟩

/-- An extreme, and a saturated count, as their operators give them. -/
theorem test_elements : elemOk .min (RedOp.empty .min) ∧ elemOk .satsum40 (le 8 (2 ^ 63 + 2 ^ 40 - 1)) := by
  refine ⟨⟨rfl, rfl⟩, rfl, ?_⟩; decide

theorem test_carried : Carried (.regRsp ⟨0, false, [1, 2, 3]⟩) ∧ Carried (.mirror 7 [.stream 5 (zeros 64)]) ∧
    Carried (.calReport ⟨0, 0, 0, 0, 0, List.replicate 8 0⟩) ∧ Carried (.mirrorAck 1 2) := by
  refine ⟨show ([1, 2, 3] : List Byte).length < 65536 by decide, ⟨by decide, fun i e h => ?_⟩, show (List.replicate 8 (0 : DWord)).length = 8 by decide, trivial⟩
  simp at h; simp [h, zeros]

theorem test_changes : (98 : Nat) ≤ 98 ∧ ∀ c ∈ [0, 2 ^ 98 - 1], c < 2 ^ 98 := by decide

/-- A station at its reset values, and one whose pre-counter is full. -/
theorem test_station : Cells.wf 0 Station.reset.pre = true ∧ (∀ i : Nat, 68 ≤ i → Cells.get 0 Station.reset.pre i = 0) ∧
    Cells.wf 0 ([(67, 255)] : Cells Byte) = true ∧ ∀ i : Nat, 68 ≤ i → Cells.get 0 ([(67, 255)] : Cells Byte) i = 0 :=
  ⟨rfl, fun _ _ => rfl, rfl, fun i h => by simp [Cells.get]; omega⟩

/-- A freeze that waits for station 255, 10 µs after its instant, and 1 ns before that. -/
def waits (ns : Nat) : Leaf :=
  { Leaf.reset with time := timeAt ns, snap.freeze := some { Freeze.reset with instant := 999990000, waiting := [255], edges := [(255, StnCfg.reset, false, ⟨0, 0⟩)] } }

theorem test_stall : Leaf.now (waits 1000000000) = 999990000 + 10000 ∧ Leaf.now (waits 999999999) < 999990000 + 10000 ∧
    (∃ f, (waits 1000000000).snap.freeze = some f ∧ f.waiting.contains 255 = true ∧ f.waiting.contains 254 = false ∧
      f.edges.find? (fun x => decide (x.1 = 255)) = some (255, StnCfg.reset, false, ⟨0, 0⟩)) := ⟨by decide, by decide, _, rfl, by decide, by decide, by decide⟩

/-- The PTP queue: no entry latched, and the oldest of two latched. -/
def twoSent : Tervon := { Tervon.reset with tt.txq := [(1, 0, 0, ⟨5, 0⟩), (2, 3, 0, ⟨9, 0⟩)], tt.txqLatch := some (1, 0, 0, ⟨5, 0⟩) }

theorem test_latch : Tervon.reset.tt.txqLatch = none ∧ twoSent.tt.txqLatch = twoSent.tt.txq.head? ∧ twoSent.tt.txqLatch ≠ none := by decide

theorem test_latchSend : ∃ t, exec (.softwarePtpTransmit 7 1 ⟨11, 0⟩) { State.reset with tv := twoSent } = .next t := ⟨_, rfl⟩

/-- A Tervon in service that has heard nothing of its buddy for 1 ms and 1 ns. -/
def quietTv : Tervon := { Tervon.reset with time := timeAt 1001000001, boot.setup := 1, mir.lastFrame := some 1000000000 }

theorem test_quiet : Tervon.committed quietTv = true ∧ quietTv.mir.silent = false ∧ quietTv.mir.lastFrame.getD 0 + 1000000 < Tervon.now quietTv ∧
    ∃ t, exec .buddySilent { State.reset with tv := quietTv } = .next t := ⟨by decide, by decide, by decide, _, rfl⟩

/-! ### Ill-formed commands are refused by name -/

def bad (i : Instr) (e : IllFormed) : Prop := Instr.illFormed i = some e
theorem test_wf_ports : bad (.laneReady (.tv 13) 0) .port ∧ bad (.laneReady .west 5) .lane ∧ bad (.timeSync (.leaf .ring) (leafRx (.nop [])) ⟨0, 0, 0, 0⟩ ⟨0, 0⟩ 0) .rxPort ∧
    bad (.snapAckWrite .ring (.ring (leafRx (.nop []))) 0 0) .requester := by unfold bad; decide
theorem test_wf_leaf : bad (.snapshot (.leaf .ring) 16) .slot ∧ bad (.snapshot .tervon 64) .slot ∧ bad (.stationEntryDrain .ring 256) .station ∧
    bad (.thermalReading .ring [⟨48, none⟩]) .site := by unfold bad; decide
theorem test_wf_ring : bad (.ringCalibrationComplete 8 noData) .ring ∧ bad (.calibrationRerun 0 9 noData) .hop ∧ bad (.takeoverDelayExpiry 7 8) .position ∧
    bad (.takeoverDelayExpiry 8 1) .position := by unfold bad; decide
theorem test_wf_host : bad (.appoint ⟨17, 0, 0⟩) .job ∧ bad (.pwrWakeWrite 17 0) .function ∧ bad (.commandDoorbell 0 4 0) .hostRing ∧
    bad (.msixCoalesceExpiry 0 16) .vector ∧ bad (.registerWrite (.command 17) (.low 0)) .target := by unfold bad; decide
theorem test_wf_tervon : bad (.partitionDrainTimeout 16) .partition ∧ bad (.tileClearComplete 32) .tile ∧ bad (.spareTileBistComplete 36 true) .tile ∧
    bad (.earlyWaitExpiry 64 0) .glnClass ∧ bad (.larderFreeRingRefill 5) .pool := by unfold bad; decide
theorem test_wf_memory : bad (.sramPatrolScrub ⟨3, 0, 0⟩) .scrub ∧ bad (.hbmRowRepairComplete 6 0 0) .row ∧ bad (.hbmRowRepairComplete 0 32 0) .row := by unfold bad; decide
theorem test_wf_counter : bad (.leafColdReset .ring .powerOn [4096]) .counter := by unfold bad; decide
theorem test_wf : Instr.wellFormed (.laneReady (.tv 12) 4) = true ∧ Instr.wellFormed (.takeoverDelayExpiry 8 0) = true ∧ Instr.wellFormed (.snapshot .tervon 63) = true := by decide

end Sys2Proof.Tests
end

section
/-! PROOFS. The links that retrain and go down, and the host rings: each obligation is the conjunction of its family's laws, one per command. -/

namespace Sys2Proof.Proofs

open Sys2Proof.Claims

/-- Settles O20, by the laws of the commands of a failing link: those any port takes (`codewordLossRetrains`, `resumeReplays`), those of the ring leaf and
of the Tervon, and what `LinkPort.goDown` leaves of a port. -/
theorem linksRetrainAndGoDown : Obligations.LinksRetrainAndGoDown := by
  unfold Obligations.LinksRetrainAndGoDown
  exact ⟨codewordLossRetrains, resumeReplays, leafRetrainCompletes, leafPortDown, tervonPortDown, portDownEmpties, leafTrainingRetryFails⟩

/-- Settles O46, by the laws of the host ring commands, and of `Tervon.complete` for the completion that every job posts. -/
theorem hostRingsRun : Obligations.HostRingsRun := by
  unfold Obligations.HostRingsRun
  exact ⟨commandDoorbells, hostDoorbells, descriptorsFetched, ringsEnabled, ringsArm, coalescingEnds, completionsPosted⟩

end Sys2Proof.Proofs
end

section
/-! PROOFS. The cycle of the time domains that a step without a command is: what `idle` makes of each part. -/

namespace Sys2Proof.Machine

theorem step_idle {s : State} (h : s.pending = []) : step s = .next (idle s) := by
  unfold step; rw [h]

@[simp] theorem idle_leaf (s : State) : (idle s).leaf = { s.leaf with time := TimeDom.tick s.leaf.time } := rfl

/-- The Tervon's time moves first, and its internal leaf then takes the moved time (R220). -/
@[simp] theorem idle_tv (s : State) : (idle s).tv = Tervon.syncTime { s.tv with time := TimeDom.tick s.tv.time } := rfl

@[simp] theorem idle_pending (s : State) : (idle s).pending = s.pending := rfl

end Sys2Proof.Machine
end

section
/-! PROOFS. Time, the links, lanes and frames that carry it, appointments, and the frames of leaves: each obligation of a family of commands is the
conjunction of the family's laws, one per command. -/

namespace Sys2Proof.Proofs

open Sys2Proof.Machine Sys2Proof.Claims

/-- Settles O2, by what `idle` makes of the ring leaf, of the Tervon with its internal leaf, and of the queue. -/
theorem emptyQueueRunsOneCycle : Obligations.EmptyQueueRunsOneCycle := by
  intro s h
  exact ⟨idle s, step_idle h, idle_leaf s, idle_tv s, (idle_pending s).trans h⟩

/-- Settles O14, by the laws of a software PTP message sent, which end at the 32 entries of the queue, and received. -/
theorem ptpTimesAreQueued : Obligations.PtpTimesAreQueued := by
  unfold Obligations.PtpTimesAreQueued
  exact ⟨ptpStamped, ptpReceived⟩

/-- Settles O19, by the laws of the commands that move a lane at either end (`spareAlignedAnswers`, `laneSwapSwaps`, `leafLaneReady`, `tervonLaneReady`)
and of those that recalibrate one. -/
theorem lanesMoveAndRecalibrate : Obligations.LanesMoveAndRecalibrate := by
  unfold Obligations.LanesMoveAndRecalibrate
  exact ⟨spareAlignedAnswers, laneSwapSwaps, leafLaneReady, tervonLaneReady, recalCompletes, lanesRecalibrate, recalibrationForms⟩

/-- Settles O21, by the laws of a link that comes up at a leaf and at a Tervon, of the probes, and of the frames that go on or are ignored. -/
theorem linksTrainAndDiscover : Obligations.LinksTrainAndDiscover := by
  unfold Obligations.LinksTrainAndDiscover
  exact ⟨leafLinkTrained, tervonLinkTrained, probeEchoed, discoveryPassesOn, leafProbeEcho, wakeBurstForwarded, nopsIgnored⟩

/-- Settles O26, by the laws of the exchange period, of each frame of an exchange where it is received, and of those that a leaf passes on. -/
theorem timeIsExchanged : Obligations.TimeIsExchanged := by
  unfold Obligations.TimeIsExchanged
  exact ⟨exchangePeriods, exchangeFrames, leafSyncs, tervonSyncs, leafFollows, tervonFollows, tervonAnswersDelay, leafSyncPasses, leafFollowPasses,
    leafDelayReqPasses⟩

/-- The delay and the offset of an exchange are half the sum and half the difference of its two legs (R47). -/
theorem exchangeValues_eq : ExchangeValues := by
  intro t1 t2 t3 t4 cf cb
  rfl

/-- Settles O27, by the laws of the frame that completes an exchange at a leaf and at a Tervon, of the values of an exchange, and of holdover. -/
theorem exchangesSteer : Obligations.ExchangesSteer := by
  unfold Obligations.ExchangesSteer
  exact ⟨leafExchangeEnds, tervonExchangeEnds, exchangeValues_eq, holdoverBegins, holdoverLong, primaryFails⟩

/-- Settles O28, by the laws of a root's inputs and their loss, of the pulse that it puts out, and of the three forms of TIME_ADJUST. -/
theorem rootsTakeTheirTime : Obligations.RootsTakeTheirTime := by
  unfold Obligations.RootsTakeTheirTime
  exact ⟨ppsAccepted, ref10M, ppsDisqualified, steerExpires, ppsOut, secondsSet, steersApply, ptpSent⟩

/-- Settles O29, by the laws of TIME_CTL written and applied, and of each measurement that the path constants of a ring rest on. -/
theorem timeIsControlledAndCalibrated : Obligations.TimeIsControlledAndCalibrated := by
  unfold Obligations.TimeIsControlledAndCalibrated
  exact ⟨timeCtlWritten, timeCtlApplies, portLatencyMeasured, calReportKept, ringCalibrated, calibrationReruns, pathSums⟩

/-- Settles O30, by the laws of APPOINT and of the SNAPSHOT and MARK slots that fire, at a leaf and at a Tervon. -/
theorem appointmentsAreMadeAndFire : Obligations.AppointmentsAreMadeAndFire := by
  unfold Obligations.AppointmentsAreMadeAndFire
  exact ⟨appointStored, appointStatus, leafSnapshots, leafSkips, tervonSnapshots, marksFire, slotsAdvance⟩

/-- Settles O50, by the laws of the frames that a holder takes from its leaves, a law per type, of the watermark and of the aging sweep. -/
theorem leafFramesAreTaken : Obligations.LeafFramesAreTaken := by
  unfold Obligations.LeafFramesAreTaken
  exact ⟨tallyReceived, histReceived, tallyEnds, watermarkLags, agingSweeps, healthReceived, traceReceived, dumpReceived⟩

end Sys2Proof.Proofs
end

section
/-! PROOFS. What a station holds: its counts and its queued entries as sums, and that an edge moves or adds counts but never drops one unseen
(R64 to R66). -/

namespace Sys2Proof.Claims

open Sys2Proof.Machine

/-- The counts in a table of pre-counters. -/
def preSum (m : Cells Byte) : Nat := ((List.range 68).map fun i => (Cells.get 0 m i).toNat).sum

/-- The counts in a list of entries, where the marker of a freeze is no count. -/
def entrySum (es : List (Nat × Byte)) : Nat := ((es.filter fun e => decide (e.1 < 68)).map fun e => e.2.toNat).sum

theorem held_eq (s : Station) : held s = preSum s.pre + entrySum s.drain + entrySum s.queue := rfl

@[simp] theorem entrySum_cons (e : Nat × Byte) (es : List (Nat × Byte)) :
    entrySum (e :: es) = (if e.1 < 68 then e.2.toNat else 0) + entrySum es := by
  unfold entrySum
  by_cases h : e.1 < 68 <;> simp [h]

@[simp] theorem entrySum_append (es fs : List (Nat × Byte)) : entrySum (es ++ fs) = entrySum es + entrySum fs := by
  simp [entrySum]

@[simp] theorem entrySum_nil : entrySum [] = 0 := rfl

/-- A table of pre-counters in canonical form, with sources 0 to 67 alone. -/
def PreOk (m : Cells Byte) : Prop := Cells.wf 0 m = true ∧ ∀ i : Nat, 68 ≤ i → Cells.get 0 m i = 0

theorem PreOk.set {m : Cells Byte} (h : PreOk m) {i : Nat} (hi : i < 68) (v : Byte) : PreOk (Cells.set 0 m i v) := by
  obtain ⟨hwf, hget⟩ := h
  refine ⟨Cells.wf_set 0 m i v hwf, fun j hj => ?_⟩
  rw [Cells.get_set_ne 0 m i j v (by omega)]
  exact hget j hj

theorem preSum_eq_sum (m : Cells Byte) : preSum m = ∑ i ∈ Finset.range 68, (Cells.get 0 m i).toNat := rfl

/-- A write moves the sum by what it puts in place of what it takes out. -/
theorem preSum_set {m : Cells Byte} (hwf : Cells.wf 0 m = true) {i : Nat} (hi : i < 68) (v : Byte) :
    preSum (Cells.set 0 m i v) + (Cells.get 0 m i).toNat = preSum m + v.toNat := by
  have hmem : i ∈ Finset.range 68 := Finset.mem_range.2 hi
  have hrest : ∑ j ∈ (Finset.range 68).erase i, (Cells.get 0 (Cells.set 0 m i v) j).toNat
      = ∑ j ∈ (Finset.range 68).erase i, (Cells.get 0 m j).toNat :=
    Finset.sum_congr rfl fun j hj => by rw [Cells.get_set_ne 0 m i j v (Finset.ne_of_mem_erase hj)]
  rw [preSum_eq_sum, preSum_eq_sum, ← Finset.add_sum_erase _ _ hmem, ← Finset.add_sum_erase _ _ hmem, hrest,
    Cells.get_set_same 0 m i v hwf]
  omega

/-! ### The entry that an edge writes -/

theorem lt_of_mem_rrOrder {rr i : Nat} (h : i ∈ rrOrder rr) : i < 68 := by
  obtain ⟨j, -, rfl⟩ := List.mem_map.1 h
  exact Nat.mod_lt _ (by decide)

theorem pick_lt {s : Station} {i : Nat} (h : Station.pick s = some i) : i < 68 := by
  unfold Station.pick at h
  split at h
  next k hk =>
    obtain rfl := Option.some.inj h
    exact lt_of_mem_rrOrder (List.mem_of_find?_eq_some hk)
  next =>
    split at h
    next => exact lt_of_mem_rrOrder (List.mem_of_find?_eq_some h)
    next => exact absurd h (by simp)

/-- What an edge's entry does: nothing, the head of the drain bank to the queue, or a whole pre-counter to the queue (R65). -/
theorem emitEntry_cases (s : Station) :
    Station.emitEntry s = s ∨
    (∃ e r, s.drain = e :: r ∧ Station.emitEntry s = { s with queue := s.queue ++ [e], drain := r }) ∨
    ∃ i, i < 68 ∧ Station.emitEntry s =
      { s with queue := s.queue ++ [(i, Cells.get 0 s.pre i)], pre := Cells.set 0 s.pre i 0, rr := (i + 1) % 68 } := by
  unfold Station.emitEntry
  split
  next => exact .inl rfl
  next =>
    split
    next e r hd => exact .inr (.inl ⟨e, r, hd, rfl⟩)
    next =>
      split
      next i hp => exact .inr (.inr ⟨i, pick_lt hp, rfl⟩)
      next => exact .inl rfl

theorem preOk_emitEntry {s : Station} (h : PreOk s.pre) : PreOk (Station.emitEntry s).pre := by
  rcases emitEntry_cases s with he | ⟨e, r, -, he⟩ | ⟨i, hi, he⟩ <;> rw [he]
  · exact h
  · exact h
  · exact h.set hi 0

/-- The entry that an edge writes moves counts and changes their number nowhere. -/
theorem held_emitEntry {s : Station} (h : PreOk s.pre) : held (Station.emitEntry s) = held s := by
  rcases emitEntry_cases s with he | ⟨e, r, hd, he⟩ | ⟨i, hi, he⟩ <;> rw [he]
  · simp only [held_eq, hd, entrySum_append, entrySum_cons, entrySum_nil]
    omega
  · have hsum := preSum_set h.1 hi 0
    simp only [held_eq, entrySum_append, entrySum_cons, entrySum_nil, if_pos hi]
    rw [show (0 : Byte).toNat = 0 from rfl] at hsum
    omega

/-! ### The increments of an edge -/

/-- An increment goes to its pre-counter, and what this cannot hold to the lost part (R66). -/
theorem held_addPre {s : Station} (h : PreOk s.pre) {src : Nat} (hs : src < 68) (n : Nat) :
    held (Station.addPre s src n).1 + (Station.addPre s src n).2 = held s + n := by
  have hsum := preSum_set h.1 hs (BitVec.ofNat 8 (min ((Cells.get 0 s.pre src).toNat + n) 255))
  rw [BitVec.toNat_ofNat, Nat.mod_eq_of_lt (by omega)] at hsum
  simp only [Station.addPre, held_eq]
  omega

theorem preOk_addPre {s : Station} (h : PreOk s.pre) {src : Nat} (hs : src < 68) (n : Nat) :
    PreOk (Station.addPre s src n).1.pre := h.set hs _

/-- Adding increments one after another, with the sum of their lost parts, as an edge does. -/
def addIncs (incs : List (Nat × Nat)) (a : Station × Nat) : Station × Nat :=
  incs.foldl (fun a e => ((Station.addPre a.1 e.1 e.2).1, a.2 + (Station.addPre a.1 e.1 e.2).2)) a

theorem edge_eq (s : Station) (lines : DWord) (vld : Bool) (slots : Half) :
    Station.edge s lines vld slots =
      let a := addIncs (StnCfg.increments s.cfg s.prev lines vld slots) (Station.emitEntry s, 0)
      ({ a.1 with prev := lines }, a.2) := rfl

@[simp] theorem addIncs_nil (a : Station × Nat) : addIncs [] a = a := rfl

@[simp] theorem addIncs_cons (e : Nat × Nat) (r : List (Nat × Nat)) (a : Station × Nat) :
    addIncs (e :: r) a = addIncs r ((Station.addPre a.1 e.1 e.2).1, a.2 + (Station.addPre a.1 e.1 e.2).2) := rfl

theorem addIncs_spec (incs : List (Nat × Nat)) (hlt : ∀ e ∈ incs, e.1 < 68) (a : Station × Nat) (h : PreOk a.1.pre) :
    held (addIncs incs a).1 + (addIncs incs a).2 = held a.1 + a.2 + (incs.map Prod.snd).sum ∧ PreOk (addIncs incs a).1.pre := by
  induction incs generalizing a with
  | nil => simpa using h
  | cons e r ih =>
    have he : e.1 < 68 := hlt e (by simp)
    have hadd := held_addPre h he e.2
    obtain ⟨hheld, hok⟩ := ih (fun x hx => hlt x (by simp [hx]))
      ((Station.addPre a.1 e.1 e.2).1, a.2 + (Station.addPre a.1 e.1 e.2).2) (preOk_addPre h he e.2)
    rw [addIncs_cons]
    refine ⟨?_, hok⟩
    rw [hheld]
    simp only [List.map_cons, List.sum_cons]
    omega

/-- An edge adds to the lines 0 to 63 and to the slot states 64 to 67 alone. -/
theorem increments_lt (c : StnCfg) (prev cur : DWord) (vld : Bool) (slots : Half) :
    ∀ e ∈ StnCfg.increments c prev cur vld slots, e.1 < 68 := by
  intro e he
  rcases List.mem_append.1 he with hline | hslot
  · refine List.foldlRecOn (motive := fun acc : List (Nat × Nat) => ∀ x ∈ acc, x.1 < 68) _ _ ?_ (fun acc hacc x hx => ?_) e hline
    · exact fun x hx => absurd hx List.not_mem_nil
    · obtain ⟨b, -, rfl⟩ := List.mem_map.1 hx
      split
      next => exact hacc
      next =>
        intro y hy
        rcases List.mem_append.1 hy with h | h
        · exact hacc y h
        · rw [List.mem_singleton.1 h]
          exact Nat.lt_trans b.2.1.isLt (by decide)
  · split at hslot
    next =>
      split at hslot
      next =>
        obtain ⟨q, hq, rfl⟩ := List.mem_map.1 hslot
        have := List.mem_range.1 hq
        show 64 + q < 68
        omega
      next => simp at hslot
    next => simp at hslot

end Sys2Proof.Claims

namespace Sys2Proof.Proofs

open Sys2Proof.Machine Sys2Proof.Claims

/-- Settles O12: the entry that the edge writes moves counts (`held_emitEntry`), and each increment goes to a pre-counter or to the lost part
(`addIncs_spec`). -/
theorem countsAreConserved : Obligations.CountsAreConserved := by
  intro s lines vld slots hwf hget
  have hok : PreOk s.pre := ⟨hwf, hget⟩
  obtain ⟨hheld, hpre⟩ := addIncs_spec _ (increments_lt s.cfg s.prev lines vld slots) (Station.emitEntry s, 0) (preOk_emitEntry hok)
  rw [held_emitEntry hok, Nat.add_zero] at hheld
  rw [edge_eq]
  exact ⟨hheld, hpre⟩

end Sys2Proof.Proofs
end

section
/-! PROOFS. The changes of a Tally stream (R101, R150): LEB128 values, the bitmap of a group, a group, and the groups of a stream. -/

namespace Sys2Proof.Claims

open Sys2Proof.Machine

/-- A value below 2^(7 n) reads back from its LEB128 bytes with `n` bytes allowed, whatever follows. -/
theorem unleb128_leb128 (n m v : Nat) (rest : List Byte) (hnm : n ≤ m) (hv : v ≠ 0) (hlt : v < 2 ^ (7 * n)) :
    unleb128 n (leb128 m v ++ rest) = some (v, rest) := by
  induction n generalizing m v with
  | zero => exact absurd hlt (by simpa using hv)
  | succ n ih =>
    obtain ⟨m, rfl⟩ : ∃ k, m = k + 1 := ⟨m - 1, by omega⟩
    by_cases h : v < 128
    · have e : (BitVec.ofNat 8 v).toNat = v := by rw [BitVec.toNat_ofNat]; omega
      simp only [leb128, if_pos h, List.singleton_append, unleb128, e]
    · have e : (BitVec.ofNat 8 (v % 128 + 128)).toNat = v % 128 + 128 := by rw [BitVec.toNat_ofNat]; omega
      have hdiv : v / 128 < 2 ^ (7 * n) := by
        rw [Nat.mul_succ, Nat.pow_add] at hlt
        omega
      have hrec := ih m (v / 128) (by omega) (by omega) hdiv
      simp only [leb128, if_neg h, List.cons_append, unleb128, e, hrec, if_neg (show ¬ v % 128 + 128 < 128 by omega)]
      congr 2
      omega

/-- The bitmap of the first `n` changes of a group: the set bits are those of the changes that are not 0. -/
def bitmap (g : List Nat) (n : Nat) : Nat := (List.range n).foldl (fun a i => if g.getD i 0 = 0 then a else a + 2 ^ i) 0

/-- The bytes of the changes of a group that are not 0. -/
def changeBytes (g : List Nat) : List Byte := g.flatMap fun c => if c = 0 then [] else leb128 14 c

theorem encodeChanges_eq (cs : List Nat) :
    encodeChanges cs = (chunks 8 cs).flatMap fun g => BitVec.ofNat 8 (bitmap g g.length) :: changeBytes g := rfl

theorem bitmap_succ (g : List Nat) (n : Nat) : bitmap g (n + 1) = if g.getD n 0 = 0 then bitmap g n else bitmap g n + 2 ^ n := by
  simp only [bitmap, List.range_succ, List.foldl_append, List.foldl_cons, List.foldl_nil]

theorem bitmap_lt (g : List Nat) (n : Nat) : bitmap g n < 2 ^ n := by
  induction n with
  | zero => exact Nat.one_pos
  | succ n ih =>
    rw [bitmap_succ, Nat.pow_succ]
    split <;> omega

theorem bit_bitmap (g : List Nat) (n i : Nat) (hi : i < n) : bit (bitmap g n) i = decide (g.getD i 0 ≠ 0) := by
  induction n with
  | zero => exact absurd hi (Nat.not_lt_zero i)
  | succ n ih =>
    have hlt := bitmap_lt g n
    rcases Nat.lt_succ_iff_lt_or_eq.1 hi with h | rfl
    · rw [← ih h, bitmap_succ]
      split
      next => rfl
      next =>
        rw [Nat.add_comm]
        exact Nat.testBit_two_pow_add_gt h _
    · rw [bitmap_succ]
      split
      next h0 => simpa only [bit, h0, ne_eq, not_true_eq_false, decide_false] using Nat.testBit_lt_two_pow hlt
      next h0 =>
        rw [Nat.add_comm, bit, Nat.testBit_two_pow_add_eq, Nat.testBit_lt_two_pow hlt, decide_eq_true h0, Bool.not_false]

/-- A group reads back under any bitmap whose bits, from the group's place on, are those of its changes that are not 0. -/
theorem unGroup_changeBytes (w bm : Nat) (hw : w ≤ 98) (g : List Nat) (i : Nat) (rest : List Byte) (hlt : ∀ c ∈ g, c < 2 ^ w)
    (hbm : ∀ j, j < g.length → bit bm (i + j) = decide (g.getD j 0 ≠ 0)) :
    unGroup bm i (List.replicate g.length w) (changeBytes g ++ rest) = some (g, rest) := by
  induction g generalizing i with
  | nil => rfl
  | cons c r ih =>
    have hc : c < 2 ^ w := hlt c (by simp)
    have hbit : bit bm i = decide (c ≠ 0) := hbm 0 (by simp)
    have hrec := ih (i + 1) (fun x hx => hlt x (by simp [hx])) fun j hj => by
      simpa [Nat.add_assoc, Nat.add_comm 1 j] using hbm (j + 1) (by simpa using hj)
    rw [List.length_cons, List.replicate_succ, unGroup]
    by_cases h0 : c = 0
    · subst h0
      have e : changeBytes (0 :: r) = changeBytes r := by simp [changeBytes]
      simp [hbit, e, hrec]
    · have e : changeBytes (c :: r) = leb128 14 c ++ changeBytes r := by simp [changeBytes, h0]
      have hwide : c < 2 ^ (7 * ((w + 6) / 7)) := Nat.lt_of_lt_of_le hc (Nat.pow_le_pow_right (by decide) (by omega))
      have hval := unleb128_leb128 ((w + 6) / 7) 14 c (changeBytes r ++ rest) (by omega) h0 hwide
      simp [hbit, h0, e, hval, hc, hrec]

/-- Groups of at most 8 changes read back from their bitmaps and values. -/
theorem unChanges_groups (w : Nat) (hw : w ≤ 98) (gs : List (List Nat)) (rest : List Byte) (h8 : ∀ g ∈ gs, g.length ≤ 8)
    (hlt : ∀ g ∈ gs, ∀ c ∈ g, c < 2 ^ w) :
    unChanges (gs.map fun g => List.replicate g.length w) ((gs.flatMap fun g => BitVec.ofNat 8 (bitmap g g.length) :: changeBytes g) ++ rest)
      = some (gs.flatten, rest) := by
  induction gs with
  | nil => rfl
  | cons g gs ih =>
    have hb := bitmap_lt g g.length
    have hbyte : 2 ^ g.length ≤ 2 ^ 8 := Nat.pow_le_pow_right (by decide) (h8 g (by simp))
    have e : (BitVec.ofNat 8 (bitmap g g.length)).toNat = bitmap g g.length := by
      rw [BitVec.toNat_ofNat]; exact Nat.mod_eq_of_lt (Nat.lt_of_lt_of_le hb hbyte)
    have hrec := ih (fun x hx => h8 x (by simp [hx])) (fun x hx => hlt x (by simp [hx]))
    have hgroup := fun r => unGroup_changeBytes w (bitmap g g.length) hw g 0 r (hlt g (by simp)) fun j hj => by
      rw [Nat.zero_add]; exact bit_bitmap g g.length j hj
    simp only [List.map_cons, List.flatMap_cons, List.cons_append, List.append_assoc, unChanges, List.length_replicate, e,
      if_neg (Nat.not_le.2 hb), hgroup, hrec, List.flatten_cons]

/-! ### The groups of a list -/

theorem chunksFuel_replicate {α β : Type} (n f : Nat) (l : List α) (x : β) :
    chunksFuel n f (List.replicate l.length x) = (chunksFuel n f l).map fun g => List.replicate g.length x := by
  induction f generalizing l with
  | zero => rfl
  | succ f ih =>
    cases l with
    | nil => rfl
    | cons a r =>
      have hrec := ih ((a :: r).drop n)
      rw [List.length_drop] at hrec
      simp only [List.length_cons, List.replicate_succ, chunksFuel, List.map_cons, List.length_take] at hrec ⊢
      rw [← List.replicate_succ, List.take_replicate, List.drop_replicate, hrec]

theorem widths_eq (cs : List Nat) (w : Nat) : widths cs.length w = (chunks 8 cs).map fun g => List.replicate g.length w := by
  unfold widths chunks
  rw [List.length_replicate]
  exact chunksFuel_replicate 8 _ cs w

theorem length_le_of_mem_chunksFuel {α : Type} {n f : Nat} {l g : List α} (h : g ∈ chunksFuel n f l) : g.length ≤ n := by
  induction f generalizing l with
  | zero => simp [chunksFuel] at h
  | succ f ih =>
    cases l with
    | nil => simp [chunksFuel] at h
    | cons a r =>
      rcases List.mem_cons.1 h with rfl | h
      · exact List.length_take_le _ _
      · exact ih h

theorem flatten_chunksFuel {α : Type} {n : Nat} (hn : 0 < n) {f : Nat} {l : List α} (h : l.length < f) : (chunksFuel n f l).flatten = l := by
  induction f generalizing l with
  | zero => exact absurd h (Nat.not_lt_zero _)
  | succ f ih =>
    cases l with
    | nil => rfl
    | cons a r =>
      have hdrop : ((a :: r).drop n).length < f := by simp only [List.length_drop, List.length_cons] at h ⊢; omega
      rw [chunksFuel, List.flatten_cons, ih hdrop, List.take_append_drop]
      simp

theorem flatten_chunks {α : Type} {n : Nat} (hn : 0 < n) (l : List α) : (chunks n l).flatten = l :=
  flatten_chunksFuel hn (Nat.lt_succ_self _)

end Sys2Proof.Claims

namespace Sys2Proof.Proofs

open Sys2Proof.Machine Sys2Proof.Claims

/-- Settles O11: the groups of the changes read back (`unChanges_groups`), and together they are the changes (`flatten_chunks`). -/
theorem tallyChangesReadBack : Obligations.TallyChangesReadBack := by
  intro w cs rest hw hlt
  have hcs := flatten_chunks (n := 8) (by decide) cs
  have hread := unChanges_groups w hw (chunks 8 cs) rest (fun g hg => length_le_of_mem_chunksFuel hg) fun g hg c hc =>
    hlt c (hcs ▸ List.mem_flatten.2 ⟨g, hg, hc⟩)
  rwa [hcs, ← widths_eq, ← encodeChanges_eq] at hread

end Sys2Proof.Proofs
end

section
/-! PROOFS. Counting on a leaf and the registers of a leaf and of a Tervon: a silent station's freeze, and the obligations that are the conjunction of
their family's laws, one per command. -/

namespace Sys2Proof.Proofs

open Sys2Proof.Machine Sys2Proof.Claims

/-- What freezing a stalled station leaves of the freeze: it awaits the station no longer, holds its bound counters at their applied values, and lists
it as stalled with edge time 0 (R95). -/
theorem stall_freezes {l : Leaf} {f : Freeze} {n : Nat} {c : StnCfg} {st : Bool} {e : Stamp} (hf : l.snap.freeze = some f)
    (he : f.edges.find? (fun x => decide (x.1 = n)) = some (n, c, st, e)) :
    ∃ g, Leaf.stall l n = { l with snap.freeze := some g } ∧ n ∉ g.waiting ∧
      g.counters = f.counters ++ c.binds.map (fun b => (b.1, Leaf.counter l b.1)) ∧
      g.edges = f.edges.map (fun x => if x.1 = n then (x.1, x.2.1, true, (⟨0, 0⟩ : Stamp)) else x) := by
  unfold Leaf.stall
  rw [hf]
  refine ⟨_, rfl, ?_, ?_, rfl⟩
  · simp [Leaf.freezeStation]
  · simp only [Leaf.freezeStation, he]

/-- Settles O13, by what `Leaf.stall` does to an awaited station past T + 10 µs, and by the two guards of the timeout. -/
theorem stalledStationsFreeze : Obligations.StalledStationsFreeze := by
  intro who n f c st e
  refine ⟨leafGives _ (fun _ => rfl) fun l ⟨hf, hwait, hlate, he⟩ => ?_, leafDoes _ (fun _ => rfl) fun l ⟨hf, hguard⟩ => ?_⟩
  · have hstall : Leaf.stallTimeout l n = Leaf.stall l n := by
      simp only [Leaf.stallTimeout, hf, hwait, hlate, decide_true, Bool.and_self, if_true]
    rw [hstall]
    exact stall_freezes hf he
  · have hoff : (f.waiting.contains n && decide (f.instant.toNat + 10000 ≤ Leaf.now l)) = false := by
      rcases hguard with hnot | hearly
      · rw [hnot, Bool.false_and]
      · rw [decide_eq_false (Nat.not_le.2 hearly), Bool.and_false]
    simp only [Leaf.stallTimeout, hf, hoff, Bool.false_eq_true, if_false, id]

/-- Settles O23, by the laws of a station's clock edge, of the pre-counter of a line bound alone, and of an entry drained. -/
theorem stationsCount : Obligations.StationsCount := by
  unfold Obligations.StationsCount
  exact ⟨stationEdges, edgeCounts, entryDrains⟩

/-- Settles O24, by the laws of the commands of a freeze, from its edge at a station to the snapshot, of `Leaf.freezeStation` for the counters it holds,
and of `Leaf.finishFreeze` for a subset. -/
theorem stationsFreeze : Obligations.StationsFreeze := by
  unfold Obligations.StationsFreeze
  exact ⟨freezeEdges, freezeAcks, markersApply, frozenCounters, histogramsFreeze, snapshotsComplete, finishedSubset⟩

/-- Settles O42, by the laws of a word read and written through a leaf's host port, and of the frames that a ring end's accesses are. -/
theorem leafRegistersAreAccessed : Obligations.LeafRegistersAreAccessed := by
  unfold Obligations.LeafRegistersAreAccessed
  exact ⟨leafWordsRead, leafWordsWritten, ringWrites⟩

/-- Settles O60, by the laws of reads of BAR0 and of BAR2 with the Command register, of the writes that are dropped, and of those that apply. -/
theorem tervonRegistersAreAccessed : Obligations.TervonRegistersAreAccessed := by
  unfold Obligations.TervonRegistersAreAccessed
  exact ⟨barReads, doorbellReads, barWritesDropped, barWritesApply⟩

end Sys2Proof.Proofs
end

section
/-! PROOFS. The trace and the dumps of a leaf: each obligation is the conjunction of its family's laws, one per command. -/

namespace Sys2Proof.Proofs

open Sys2Proof.Claims

/-- Settles O34, by the laws of what enters a trace port (`branchCycles`, `syncsPeriodic`), of what its encoder puts out (`traceEncodes`, `traceFlushes`,
`traceFramesClose`), and of LF_TRC_CTL written. -/
theorem traceIsEncoded : Obligations.TraceIsEncoded := by
  unfold Obligations.TraceIsEncoded
  exact ⟨branchCycles, traceEncodes, traceFlushes, syncsPeriodic, traceFramesClose, traceControls⟩

/-- Settles O35, by the laws of a dump asked for and of its walk begun or resumed, of the entry that the walk reads, and of the four ways a read or a scan
of the walk ends: `initiatorAnswers`, `dumpReadsTimeOut`, and the two of `scansEnd`. -/
theorem dumpsAreWalked : Obligations.DumpsAreWalked := by
  unfold Obligations.DumpsAreWalked
  exact ⟨dumpCommanded, walkStarts, walkReadsEntry, walkResumes, dumpReadsTimeOut, scansEnd, initiatorAnswers⟩

end Sys2Proof.Proofs
end

section
/-! PROOFS. The payloads that ROUTED carries (R252): the fields of a layout read one after the other, the records inside payloads, and each payload. -/

namespace Sys2Proof.Claims

open Sys2Proof.Machine

/-! ### Fields of a layout -/

@[simp] theorem zeros_length (n : Nat) : (zeros n).length = n := List.length_replicate

/-- A field behind a part of the layout is a field of the rest. -/
@[simp] theorem field_append_right {a : List Byte} (b : List Byte) {o : Nat} (n : Nat) (h : a.length ≤ o) :
    field (a ++ b) o n = field b (o - a.length) n := by
  simp only [field, slice, List.drop_append, List.drop_eq_nil_of_le h, List.nil_append]

@[simp] theorem field_cons_right (x : Byte) (b : List Byte) {o : Nat} (n : Nat) (h : 0 < o) : field (x :: b) o n = field b (o - 1) n :=
  field_append_right (a := [x]) b n h

@[simp] theorem field_head (x : Byte) (b : List Byte) : field (x :: b) 0 1 = x.toNat := by
  simp [field, slice, fromLe]

/-- A number that fits its bytes reads back at the front of a layout. -/
theorem field_le_of_lt {n v : Nat} (b : List Byte) (h : v < 256 ^ n) : field (le n v ++ b) 0 n = v := by
  rw [field, slice, List.drop_zero, List.take_left' (le_length n v), fromLe_le, Nat.mod_eq_of_lt h]

@[simp] theorem field_le_append {n w : Nat} (x : BitVec w) (b : List Byte) (h : w ≤ 8 * n) : field (le n x.toNat ++ b) 0 n = x.toNat := by
  refine field_le_of_lt b (x.isLt.trans_le ?_)
  rw [show (256 : Nat) = 2 ^ 8 from rfl, ← Nat.pow_mul]
  exact Nat.pow_le_pow_right (by decide) h

@[simp] theorem field_le {n w : Nat} (x : BitVec w) (h : w ≤ 8 * n) : field (le n x.toNat) 0 n = x.toNat := by
  simpa using field_le_append x [] h

/-- The rest of a layout behind a part of it. -/
@[simp] theorem drop_append_right {α : Type} {a : List α} (b : List α) {o : Nat} (h : a.length ≤ o) : (a ++ b).drop o = b.drop (o - a.length) := by
  rw [List.drop_append, List.drop_eq_nil_of_le h, List.nil_append]

/-- A record inside a layout, by the bytes before it and its size. -/
theorem slice_middle {α : Type} {a b : List α} (c : List α) {o n : Nat} (ha : a.length = o) (hb : b.length = n) : slice (a ++ (b ++ c)) o n = b := by
  rw [slice, List.drop_left' ha, List.take_left' hb]

/-! ### Records inside payloads -/

@[simp] theorem VerdictRec.body_length (r : VerdictRec) : (VerdictRec.body r).length = 60 := by
  simp [VerdictRec.body]

theorem VerdictRec.parse_body (r : VerdictRec) : VerdictRec.parse (VerdictRec.body r) = r := by
  simp [VerdictRec.body, VerdictRec.parse, w32, w64]

theorem Appointment.parse_bytes (a : Appointment) : Appointment.parse (Appointment.bytes a) = a := by
  simp [Appointment.bytes, Appointment.parse]

theorem ReduceP.parse_bytes (p : ReduceP) : ReduceP.parse (ReduceP.bytes p) = p := by
  simp [ReduceP.bytes, ReduceP.parse, w32]

/-! ### Mirror items -/

/-- Pieces of one size, put together and cut again, are the pieces. -/
theorem chunks_flatMap {α β : Type} {n : Nat} (hn : 0 < n) (g : α → List β) (xs : List α) (h : ∀ x ∈ xs, (g x).length = n) :
    chunks n (xs.flatMap g) = xs.map g := by
  suffices hfuel : ∀ f, (xs.flatMap g).length < f → chunksFuel n f (xs.flatMap g) = xs.map g from hfuel _ (Nat.lt_succ_self _)
  induction xs with
  | nil => intro f hf; cases f <;> rfl
  | cons x r ih =>
    intro f hf
    have hx : (g x).length = n := h x List.mem_cons_self
    rw [List.flatMap_cons, List.length_append, hx] at hf
    obtain ⟨f, rfl⟩ : ∃ k, f = k + 1 := ⟨f - 1, by omega⟩
    have hne : g x ++ r.flatMap g ≠ [] := by
      intro he; rw [(List.append_eq_nil_iff.1 he).1] at hx; exact hn.ne hx
    have hcut : chunksFuel n (f + 1) (g x ++ r.flatMap g) = (g x ++ r.flatMap g).take n :: chunksFuel n f ((g x ++ r.flatMap g).drop n) := by
      cases hl : g x ++ r.flatMap g with
      | nil => exact absurd hl hne
      | cons _ _ => rfl
    rw [List.flatMap_cons, hcut, List.take_left' hx, List.drop_left' hx,
      ih (fun y hy => h y (List.mem_cons_of_mem x hy)) f (by omega), List.map_cons]

/-- An item whose stream entry, if it is one, has its 64 bytes (R357). -/
def ItemOk (i : MirrorItem) : Prop := ∀ (idx : BitVec 20) (e : List Byte), i = .stream idx e → e.length = 64

theorem padTo_of_length {n : Nat} {bs : List Byte} (h : bs.length = n) : padTo n bs = bs := by
  simp [padTo, zeros, ← h]

theorem MirrorItem.bytes_length (i : MirrorItem) : (MirrorItem.bytes i).length = 72 := by
  cases i with
  | stream idx e => simp [MirrorItem.bytes, padTo]; omega
  | image did sect item v inst seq => simp [MirrorItem.bytes]
  | lease did ep ex => simp [MirrorItem.bytes]

theorem MirrorItem.parse_bytes {i : MirrorItem} (h : ItemOk i) : MirrorItem.parse (MirrorItem.bytes i) = some i := by
  cases i with
  | stream idx e =>
    have he : e.length = 64 := h idx e rfl
    have hentry : slice (([1] ++ le 3 idx.toNat ++ zeros 4) ++ (e ++ [])) 8 64 = e := slice_middle [] (by simp) he
    rw [List.append_nil] at hentry
    rw [MirrorItem.bytes, padTo_of_length he, MirrorItem.parse, hentry]
    simp
  | image did sect item v inst seq => simp [MirrorItem.bytes, MirrorItem.parse, w32]
  | lease did ep ex => simp [MirrorItem.bytes, MirrorItem.parse]

theorem mirrorItems_bytes {items : List MirrorItem} (h : ∀ i ∈ items, ItemOk i) : mirrorItems (items.map MirrorItem.bytes) = some items := by
  induction items with
  | nil => rfl
  | cons i r ih =>
    have hr := ih fun j hj => h j (List.mem_cons_of_mem i hj)
    rw [List.map_cons, mirrorItems, MirrorItem.parse_bytes (h i List.mem_cons_self), hr]

/-! ### Each payload -/

/-- A payload's bytes spell it under its own type. -/
def ReadsBack (p : Payload) : Prop := Payload.parse (Payload.code p).toNat (Payload.bytes p) = some p

/-- The time class stands in a byte of its own (R148). -/
theorem readsBack_leaseGrant (p : LeaseGrantP) : ReadsBack (.leaseGrant p) := by
  have htq : BitVec.ofNat 4 (p.tq.toNat % 256) = p.tq := by
    rw [Nat.mod_eq_of_lt (p.tq.isLt.trans (by decide)), BitVec.ofNat_toNat, BitVec.setWidth_eq]
  simp [ReadsBack, Payload.code, Payload.bytes, Payload.parse, htq, w64]

theorem readsBack_verdict (did : Did) (capture : Word) (r : VerdictRec) : ReadsBack (.verdict did capture r) := by
  have hbody : slice ((le 3 did.toNat ++ [0] ++ le 4 capture.toNat) ++ (VerdictRec.body r ++ le 4 (crc32c (VerdictRec.body r)).toNat)) 8 60
      = VerdictRec.body r := slice_middle _ (by simp) (VerdictRec.body_length r)
  rw [← List.append_assoc] at hbody
  simp only [ReadsBack, Payload.code, Payload.bytes, Payload.parse, BitVec.reduceToNat, hbody, VerdictRec.parse_body]
  simp [w32]

theorem readsBack_regRsp {p : RegRspP} (h : p.data.length < 65536) : ReadsBack (.regRsp p) := by
  obtain ⟨status, duplicate, data⟩ := p
  have hlen : field (le 2 data.length ++ data) 0 2 = data.length := field_le_of_lt data h
  have hbit : bit (b2n duplicate % 256) 0 = duplicate := by cases duplicate <;> rfl
  simp [ReadsBack, Payload.code, Payload.bytes, Payload.parse, hlen, hbit]

theorem readsBack_mirror {seq : Word} {items : List MirrorItem} (hlen : items.length < 65536) (hok : ∀ i ∈ items, ItemOk i) :
    ReadsBack (.mirror seq items) := by
  have hsize : (items.flatMap MirrorItem.bytes).length = 72 * items.length := by
    simp [List.length_flatMap, MirrorItem.bytes_length, Nat.mul_comm]
  have hcount : field (le 2 items.length ++ (zeros 2 ++ items.flatMap MirrorItem.bytes)) 0 2 = items.length := field_le_of_lt _ hlen
  have htake := List.take_of_length_le hsize.le
  have hcut := chunks_flatMap (by decide) MirrorItem.bytes items fun i _ => MirrorItem.bytes_length i
  simp [ReadsBack, Payload.code, Payload.bytes, Payload.parse, hcount, htake, hcut, mirrorItems_bytes hok, w32]

theorem readsBack_calReport {p : CalReportP} (h : p.thetaB.length = 8) : ReadsBack (.calReport p) := by
  obtain ⟨ring, leaves, exchanges, ownOffset, channel, thetaB⟩ := p
  obtain ⟨a, b, c, d, e, f, g, i, rfl⟩ : ∃ a b c d e f g i, thetaB = [a, b, c, d, e, f, g, i] := by
    match thetaB, h with
    | [a, b, c, d, e, f, g, i], _ => exact ⟨a, b, c, d, e, f, g, i, rfl⟩
  simp [ReadsBack, Payload.code, Payload.bytes, Payload.parse, padTo_of_length, List.range, List.range.loop, w32, w64]

end Sys2Proof.Claims

namespace Sys2Proof.Proofs

open Sys2Proof.Machine Sys2Proof.Claims

/-- Settles O10, payload by payload: those with records, lists or a check inside by their own lemmas, and those of fixed fields alone by reading
each field behind the ones before it. -/
theorem carriedFramesReadBack : Obligations.CarriedFramesReadBack := by
  intro p hp
  show ReadsBack p
  cases p with
  | leaseGrant p => exact readsBack_leaseGrant p
  | verdict did capture r => exact readsBack_verdict did capture r
  | regRsp p => exact readsBack_regRsp hp
  | mirror seq items =>
    obtain ⟨hlen, hentries⟩ := hp
    exact readsBack_mirror hlen fun i hi idx e he => hentries idx e (he ▸ hi)
  | calReport p => exact readsBack_calReport hp
  | appoint did a => simp [ReadsBack, Payload.code, Payload.bytes, Payload.parse, Appointment.parse_bytes]
  | reducePart p => simp [ReadsBack, Payload.code, Payload.bytes, Payload.parse, ReduceP.parse_bytes]
  | reduceResult p => simp [ReadsBack, Payload.code, Payload.bytes, Payload.parse, ReduceP.parse_bytes]
  | leaseReq | regRd | regWr | sleeping | mirrorAck | buddyState | stateLoad | stateDone =>
    simp [ReadsBack, Payload.code, Payload.bytes, Payload.parse, w32, w64]
  | timeSync | timeFollow | delayReq | delayResp | tally | tallyEnd | hist | health | trace | traceLoss | dump | captureDesc | captureData | nop
    | routed => exact hp.elim

end Sys2Proof.Proofs
end

section
/-! PROOFS. The link layer, frames in transit, leases and register frames: each obligation is the conjunction of its family's laws, one per command. -/

namespace Sys2Proof.Proofs

open Sys2Proof.Claims

/-- Settles O17, by the laws of ACK, of the two causes of a replay (`nakReplays`, `replayTimeoutReplays`), of the ACK timer, and of the damaged and the
malformed frame. -/
theorem linkAcknowledgesAndReplays : Obligations.LinkAcknowledgesAndReplays := by
  unfold Obligations.LinkAcknowledgesAndReplays
  exact ⟨ackReleases, nakReplays, replayTimeoutReplays, ackTimerAcks, damagedFrameNaks, malformedCounted⟩

/-- Settles O18, by the laws of credits received and advertised, of the refill, of the schedule at a frame boundary, and of a control block of unknown
type. -/
theorem linkCreditsAndShaping : Obligations.LinkCreditsAndShaping := by
  unfold Obligations.LinkCreditsAndShaping
  exact ⟨creditSets, creditAdvertised, shaperRefills, scheduled, unknownBlockCounted⟩

/-- Settles O22, by the laws of a frame that a leaf passes on, of a frame at a Tervon's port, and of ROUTED on its way and at its destination. -/
theorem framesTravel : Obligations.FramesTravel := by
  unfold Obligations.FramesTravel
  exact ⟨framesForwarded, transitRuns, routedOn, routedDelivered⟩

/-- Settles O36, by the laws of the lease commands, and of `Leaf.sendGrant` for the grant that each of them sends. -/
theorem leavesGrantLeases : Obligations.LeavesGrantLeases := by
  unfold Obligations.LeavesGrantLeases
  exact ⟨leaseAcquired, leaseRenewed, leaseEnds, grantStates⟩

/-- Settles O37, by the laws of REG_RD and REG_WR, and of the set-up lock from its acquire to its commit, its abandon or its loss. -/
theorem registerFramesAndTheLock : Obligations.RegisterFramesAndTheLock := by
  unfold Obligations.RegisterFramesAndTheLock
  exact ⟨registersRead, registersWritten, writesAnswered, lockTaken, lockedWrites, lockEnds, lockTimesOut⟩

end Sys2Proof.Proofs
end

section
/-! PROOFS. The captures of a leaf, its health records and its guardband port: each obligation is the conjunction of its family's laws, one per command. -/

namespace Sys2Proof.Proofs

open Sys2Proof.Claims

/-- Settles O38, by the laws of LF_STEP, of a capture from its post through its pulls (`capturesPosted`, `capturesPull`), of the three ways it ends early
or by a verdict (`pullsTimeOut`, `holdsExpire`, `verdictsArrive`), and of the holder's fetch of a retained output. -/
theorem leavesCapture : Obligations.LeavesCapture := by
  unfold Obligations.LeavesCapture
  exact ⟨stepWritten, capturesPosted, capturesPull, pullsTimeOut, holdsExpire, retainedFetched, verdictsArrive⟩

/-- Settles O39, by the laws of what enters the health store (`errorsReported`, `heldAdmitted`), of a guardband request from its start to its answer and
the record of it, of the port's other events and its reset, and of the step that an accepted risk names. -/
theorem healthAndGuardband : Obligations.HealthAndGuardband := by
  unfold Obligations.HealthAndGuardband
  exact ⟨errorsReported, heldAdmitted, guardbandRequests, guardbandAnswers, guardbandStepRecord, guardbandEvents, guardbandResets, risksAccepted⟩

end Sys2Proof.Proofs
end

section
/-! PROOFS. What one step of the block can do: nothing, one part put in place, or one cycle of the time domains; and so that it keeps the wiring. -/

namespace Sys2Proof.Machine

/-- The outcomes of a command on the block: a next state that differs from the one before in one part alone, put in place by `putLeaf` or `putTv`,
or in nothing. -/
inductive ChangesOnePart (s : State) : Res → Prop where
  | nothing : ChangesOnePart s (.next s)
  | leaf (who : LeafId) (l : Leaf) : ChangesOnePart s (.next (State.putLeaf s who l))
  | tervon (t : Tervon) : ChangesOnePart s (.next (State.putTv s t))

theorem tvStep_changesOnePart (f : Tervon → Tervon) (s : State) : ChangesOnePart s (tvStep f s) := .tervon _

theorem leafStep_changesOnePart (who : LeafId) (f : Leaf → Leaf) (s : State) : ChangesOnePart s (leafStep who f s) := .leaf who _

theorem leafStepR_changesOnePart (who : LeafId) (f : Leaf → Leaf) (s : State) : ChangesOnePart s (leafStepR who f s) := by
  cases who with
  | ring => exact leafStep_changesOnePart ..
  | internal => exact tvStep_changesOnePart ..

theorem partStep_changesOnePart (p : Part) (f : Leaf → Leaf) (g : Tervon → Tervon) (s : State) : ChangesOnePart s (partStep p f g s) := by
  cases p with
  | leaf who => exact leafStep_changesOnePart ..
  | tervon => exact tvStep_changesOnePart ..

/-- A Tervon has ports 0 to 12, so a command on another one does nothing. -/
theorem portStep_changesOnePart (p : PortId) (f : Leaf → Leaf) (g : Nat → Tervon → Tervon) (s : State) :
    ChangesOnePart s (portStep p f g s) := by
  cases p with
  | west | east | internal => exact leafStep_changesOnePart ..
  | tv k =>
    simp only [portStep]
    split
    · exact tvStep_changesOnePart ..
    · exact .nothing

/-- Two operations on one leaf, one after the other, put one leaf in place: the second replaces what the first put there. -/
theorem leafStep_onLeaf_changesOnePart (who : LeafId) (f g : Leaf → Leaf) (s : State) :
    ChangesOnePart s (leafStep who f (State.onLeaf s who g)) := by
  cases who with
  | ring => exact .leaf .ring _
  | internal => exact .leaf .internal _

theorem tvStep_onTv_changesOnePart (f g : Tervon → Tervon) (s : State) : ChangesOnePart s (tvStep f (State.onTv s g)) := .tervon _

theorem transitLease_changesOnePart (who : LeafId) (rx : Rx) (p : LeaseReqP) (s : State) : ChangesOnePart s (transitLease who rx p s) := by
  unfold transitLease
  split <;> exact leafStep_changesOnePart ..

theorem leafTransit_changesOnePart (who : LeafId) (rx : Rx) (p : Payload) (s : State) : ChangesOnePart s (leafTransit who rx p s) := by
  cases p with
  | timeSync | delayReq => exact leafStep_onLeaf_changesOnePart ..
  | leaseReq => exact transitLease_changesOnePart ..
  | _ => exact leafStep_changesOnePart ..

theorem tvTransit_changesOnePart (rx : Rx) (p : Payload) (s : State) : ChangesOnePart s (tvTransit rx p s) := by
  cases p with
  | delayResp => exact tvStep_onTv_changesOnePart ..
  | _ => exact tvStep_changesOnePart ..

theorem execFrameTransit_changesOnePart (port : PortId) (f : Frame) (s : State) : ChangesOnePart s (execFrameTransit port f s) := by
  cases port with
  | west | east | internal => exact leafTransit_changesOnePart ..
  | tv k => exact tvTransit_changesOnePart ..

/-- Every command completes and changes at most one part of the block. The cases are the shared operations by which a command reaches its part; a
command that names its part is split on the name. -/
theorem exec_changesOnePart (c : Instr) (s : State) : ChangesOnePart s (exec c s) := by
  cases c with
  | portLatencyMeasure | appointFrame | stationEntryDrain | stationFreezeEdge | freezeAckTimestamp | freezeMarkerApplied | histogramFreeze |
    stationStallTimeout | snapshotComplete | snapAckWrite | snapResendWrite | snapNowWrite | valuePortWrite | histogramSampleApply |
    timingStartEdge | timingStopEdge | supplyMarginReading | droopBegin | droopEnd | alarmEdge | alarmRelease | stuckActiveTimeout |
    chatterRecordTimer | chatterRelease | heartbeatEdge | hbCtlWrite | branchRetireCycle | traceEntryEncode | traceFlushIdle | syncPeriodic |
    traceFrameCloseTimer | trcCtlWrite | dumpCmdWrite | dumpWalkStart | dumpWalkResume | dumpReadTimeout | scanDone | scanDoneTimeout |
    lhpInitiatorResponse | leaseAcquire | leaseRenew | leaseRelease | leaseFence | leaseExpiry | regRd | regWr | lockAcquire | lockedWrite |
    lockCommit | lockAbandon | lockTimeout | verdictFrame | capPostWrite | captureProcess | captureHoldExpiry | capFetchWrite | stepWrite |
    healthStoreAdmit | guardbandRequestStart | guardbandAckLow | gbAcceptWrite | pageWriteStart | pageWriteComplete | vnvSag | vnvResume |
    operatingTimeTick | ldgReadPage | ldgProgramPage | attNonceWrite | attestationSigned | cvStart | cvFeed | cvResultRead | cvSave | cvRestore |
    cvCtlWrite | seqRestartCurrent | seqRestartOther | sequencerWatchdog | sequencerBoot | wakePhrase | cellarCommit | leafWakeStart | hdLcGood |
    leafWakeComplete | vddLcLoss | retentionLoss | leafColdReset | leafCoreReset | hostPortReset | stationReset | tracePortReset |
    stationClockEdge | capturePullTimeout | conflictRequestLow | hostPortResetRelease =>
    exact leafStep_changesOnePart ..
  | appoint | snapshotNow | leaseGrant | attestationCheck | takeoverDelayExpiry | leaseRenewDue | leaseLostLocal | fenceHoldExpiry | regRsp |
    ringRequestTimeout | sleeping | histFrame | streamAgingSweep | healthFrame | traceFrame | traceLossFrame | captureDesc | captureData |
    captureWindowExpiry | batchWaitExpiry | recomputeComplete | retainedFetchComplete | spareTileBistComplete | pwrWakeWrite | wakeAtReached |
    tervonWake | tervonColdReset | tervonWarmReset | mctpResetRequest | tervonBootReady | setupCommit | stewardRestart | commandDoorbell |
    completionDoorbell | recordDoorbell | descriptorFetch | msixCoalesceExpiry | ringEnWrite | ringArm | nop | leafCfgApply | leafRegRead |
    leafRegWrite | streamDefine | streamRemove | streamRestore | streamQuery | checkpoint | reduceDefine | reduceRemove | earlyWaitExpiry |
    closeExpiry | kaleLoad | kaleUnload | assayModelLoad | assayModelUnload | assayPolicy | assaySubmit | cooperCompress | cooperDecompress |
    dumpFetch | ledgerRead | rosterAdmitGiven | rosterAdmitObserved | rosterFence | rosterRetire | partitionCommit | partitionDrainTimeout |
    tileClearComplete | mirrorPeriod | mirror | mirrorAck | mirrorLagLimit | buddyStatePeriod | buddyState | buddyStateAbsent | buddySilent |
    stateLoad | stateDone | rosterSilentTimeout | warmRosterHbmUpdate | warmRosterNorUpdate | larderFreeRingRefill | hbmRowRepairComplete |
    eccTestWrite | tallyFrame | tallyEndFrame | watermarkLagExpiry | tervonCellarJobTimeout | functionLevelReset | busMasterDisable |
    reduceLocalWaitExpiry | reducePartDeadline | reducePart | reduceResult | reduceResultLost | routed | kaleScore | kaleWindowLoaded |
    kalePlacementComplete | kaleScrubCompare | abort | sramPatrolScrub | hbmPatrolScrub | eccTestRead | exchangePeriod | primaryLinkFail |
    ppsInEdge | ref10mQualified | ppsDisqualify | steerExpiry | ppsOutEdge | ringCalibrationComplete | calibrationRerun | calReport |
    softwarePtpTransmit | softwarePtpReceive | ptpTxqEntryRead | ptpTxqPop | timeAdjustSetSecond | timeAdjustSteer | timeAdjustSendPtp |
    ref10mDisqualify | dumpFrame =>
    exact tvStep_changesOnePart ..
  | errRptWrite | guardbandAck | guardbandTimeout | guardbandConflict | guardbandPortReset =>
    exact leafStepR_changesOnePart ..
  | snapshot | modeSwitch | laneRecal | mark | nopFrame =>
    exact partStep_changesOnePart ..
  | laneRecalComplete | spareLaneAligned | laneReady | laneSwap | damagedFrame | ack | nak | ackTimer | replayTimeout | credit | creditAdvertise |
    codewordLoss | retrainComplete | resume | portDownTimeout | trainingRetry | linkTrained | probe | probeEcho | frameBoundarySchedule |
    shaperRefill | wakeBurst | malformedFrame | unknownControlBlock =>
    exact portStep_changesOnePart ..
  | timeSync who | timeFollow who | timeDelayReq who | timeDelayResp who | slewTick who | holdoverTimeout who | holdoverLong who | timeCtlWrite who
  | timeCtlApply who | cellarEnter who | samplingRate who =>
    cases who with
    | leaf w => exact leafStep_changesOnePart ..
    | tervon => exact tvStep_changesOnePart ..
  | thermalReading who | heartbeatTimeout who =>
    cases who with
    | ring => exact leafStep_changesOnePart ..
    | internal => exact tvStep_changesOnePart ..
  | lowWordRead target =>
    cases target with
    | leaf => exact leafStep_changesOnePart ..
    | bar | command => exact tvStep_changesOnePart ..
  | registerWrite target =>
    cases target with
    | leaf => exact leafStepR_changesOnePart ..
    | bar | command => exact tvStep_changesOnePart ..
  | frameTransit => exact execFrameTransit_changesOnePart ..

theorem Wired.of_changesOnePart {s t : State} (h : Wired s) (hc : ChangesOnePart s (.next t)) : Wired t := by
  cases hc with
  | nothing => exact h
  | leaf who l => exact h.putLeaf who l
  | tervon u => exact h.putTv u

/-- The ring leaf keeps its kind as its time moves, and the internal leaf takes the Tervon's moved time. -/
theorem Wired.idle {s : State} (h : Wired s) : Wired (idle s) := ⟨h.1, rfl, rfl⟩

/-- The wiring says nothing of the queue. -/
theorem Wired.withPending {s : State} (h : Wired s) (cs : List Instr) : Wired { s with pending := cs } := h

theorem step_command {s : State} {c : Instr} {cs : List Instr} (h : s.pending = c :: cs) : step s = exec c { s with pending := cs } := by
  unfold step; rw [h]

end Sys2Proof.Machine
end

section
/-! PROOFS. The Tervon's organisation: the wiring that every step keeps, and the partitions and tiles, the conjunction of their laws, one per command. -/

namespace Sys2Proof.Proofs

open Sys2Proof.Machine Sys2Proof.Claims

/-- Settles O6, by the two forms of a step: a cycle of the time domains when no command waits, and otherwise a command, which puts at most one part in
place (`exec_changesOnePart`). -/
theorem stepsKeepTheWiring : Obligations.StepsKeepTheWiring := by
  intro s t h hstep
  cases hq : s.pending with
  | nil =>
    rw [step_idle hq] at hstep
    cases hstep
    exact h.idle
  | cons c cs =>
    have hc := exec_changesOnePart c { s with pending := cs }
    rw [← step_command hq, hstep] at hc
    exact (h.withPending cs).of_changesOnePart hc

/-- Settles O57, by the laws of a partition's commit and of the end of its drain wait, of a tile whose memories are clear, and of a spare
under test. -/
theorem partitionsAndTiles : Obligations.PartitionsAndTiles := by
  unfold Obligations.PartitionsAndTiles
  exact ⟨partitionsCommit, drainsEnd, tilesCleared, sparesTested⟩

end Sys2Proof.Proofs
end

section
/-! PROOFS. The operators of a reduction (R244): each gives out elements of its own encoding, and is commutative and associative on them. -/

namespace Sys2Proof.Claims

open Sys2Proof.Machine

/-! ### Bytes and the numbers that they spell -/

/-- Bytes are the little-endian form of the number that they spell. -/
theorem le_fromLe (b : List Byte) : le b.length (fromLe b) = b := by
  induction b with
  | nil => rfl
  | cons x r ih =>
    have hx : x.toNat < 256 := x.isLt
    have hhead : BitVec.ofNat 8 (x.toNat + 256 * fromLe r) = x := BitVec.eq_of_toNat_eq (by simp [hx])
    have htail : (x.toNat + 256 * fromLe r) / 256 = fromLe r := by omega
    rw [fromLe, List.length_cons, le, hhead, htail, ih]

theorem le_fromLe_of_length {n : Nat} {b : List Byte} (h : b.length = n) : le n (fromLe b) = b := h ▸ le_fromLe b

/-- Only the number modulo its bytes is written. -/
theorem le_mod (n v : Nat) : le n (v % 256 ^ n) = le n v := by
  rw [← fromLe_le, le_fromLe_of_length (le_length n v)]

theorem field_full {b : List Byte} {o n : Nat} (h : o + n ≤ b.length) : le n (field b o n) = slice b o n :=
  le_fromLe_of_length (by simp [slice]; omega)

theorem slice_append_slice (b : List Byte) (o m n : Nat) : slice b o m ++ slice b (o + m) n = slice b o (m + n) := by
  rw [slice, slice, slice, List.take_add, List.drop_drop]

/-! ### SUM64 and SUM96 -/

/-- The sum of two elements of `n` bytes, modulo what they hold. -/
def sumBytes (n : Nat) (a b : List Byte) : List Byte := le n (fromLe a + fromLe b)

theorem sumBytes_comm (n : Nat) (a b : List Byte) : sumBytes n a b = sumBytes n b a := by
  rw [sumBytes, sumBytes, Nat.add_comm]

theorem sumBytes_assoc (n : Nat) (a b c : List Byte) : sumBytes n (sumBytes n a b) c = sumBytes n a (sumBytes n b c) := by
  calc le n (fromLe (le n (fromLe a + fromLe b)) + fromLe c)
      = le n (fromLe a + fromLe b + fromLe c) := by rw [fromLe_le, ← le_mod, Nat.mod_add_mod, le_mod]
    _ = le n (fromLe a + (fromLe b + fromLe c)) := by rw [Nat.add_assoc]
    _ = le n (fromLe a + fromLe (le n (fromLe b + fromLe c))) := by rw [fromLe_le, ← le_mod n (_ + _ % _), Nat.add_mod_mod, le_mod]

/-! ### SATSUM40 -/

/-- The count of a saturating element. -/
def satCount (b : List Byte) : Nat := bits (fromLe b) 39 0

/-- Its mark that it has saturated. -/
def satMark (b : List Byte) : Bool := bit (fromLe b) 63

/-- The bytes of a saturating element: a count of 40 bits, zeros, and the mark. -/
def satBytes (count : Nat) (mark : Bool) : List Byte := le 8 (count + if mark then 2 ^ 63 else 0)

theorem satMark_satBytes {c : Nat} (m : Bool) (h : c < 2 ^ 40) : satMark (satBytes c m) = m := by
  rw [satMark, satBytes, bit, fromLe_le, Nat.testBit_eq_decide_div_mod_eq]
  cases m <;> simp <;> omega

theorem satCount_satBytes {c : Nat} (m : Bool) (h : c < 2 ^ 40) : satCount (satBytes c m) = c := by
  rw [satCount, satBytes, bits, fromLe_le]
  cases m <;> simp <;> omega

theorem elemOk_satBytes {c : Nat} (m : Bool) (h : c < 2 ^ 40) : elemOk .satsum40 (satBytes c m) := by
  refine ⟨le_length _ _, ?_⟩
  rw [satBytes, bits, fromLe_le]
  cases m <;> simp <;> omega

/-- The sum saturates at 2^40 − 1, and is marked when it does or when a part was. -/
theorem combine_satsum40 (a b : List Byte) :
    RedOp.combine .satsum40 a b =
      satBytes (min (satCount a + satCount b) (2 ^ 40 - 1)) (satMark a || satMark b || decide (2 ^ 40 - 1 < satCount a + satCount b)) := rfl

theorem satCount_combine (a b : List Byte) : satCount (RedOp.combine .satsum40 a b) = min (satCount a + satCount b) (2 ^ 40 - 1) := by
  rw [combine_satsum40, satCount_satBytes _ (by omega)]

theorem satMark_combine (a b : List Byte) :
    satMark (RedOp.combine .satsum40 a b) = (satMark a || satMark b || decide (2 ^ 40 - 1 < satCount a + satCount b)) := by
  rw [combine_satsum40, satMark_satBytes _ (by omega)]

/-- Two sums in a row overflow when the whole sum does. -/
theorem overflows_iff (x y z : Nat) : 2 ^ 40 - 1 < x + y ∨ 2 ^ 40 - 1 < min (x + y) (2 ^ 40 - 1) + z ↔ 2 ^ 40 - 1 < x + y + z := by
  omega

theorem combine_satsum40_comm (a b : List Byte) : RedOp.combine .satsum40 a b = RedOp.combine .satsum40 b a := by
  rw [combine_satsum40, combine_satsum40, Nat.add_comm, Bool.or_comm (satMark a)]

theorem combine_satsum40_assoc (a b c : List Byte) :
    RedOp.combine .satsum40 (RedOp.combine .satsum40 a b) c = RedOp.combine .satsum40 a (RedOp.combine .satsum40 b c) := by
  rw [combine_satsum40 _ c, combine_satsum40 a (RedOp.combine _ _ _), satCount_combine, satCount_combine, satMark_combine, satMark_combine]
  congr 1
  · omega
  · rw [Bool.eq_iff_iff]
    simp only [Bool.or_eq_true, decide_eq_true_eq]
    have hleft := overflows_iff (satCount a) (satCount b) (satCount c)
    have hright := overflows_iff (satCount b) (satCount c) (satCount a)
    rw [Nat.add_comm (min _ _), Nat.add_comm (_ + _), ← Nat.add_assoc] at hright
    tauto

/-! ### MIN and MAX -/

/-- The order of MIN: the least value, then the least time, then the least DID. -/
def minKey (b : List Byte) : Nat ×ₗ Nat ×ₗ Nat := toLex ((extOf b).1, toLex (extOf b).2)

/-- The order of MAX: the greatest value, then the least time, then the least DID. -/
def maxKey (b : List Byte) : Natᵒᵈ ×ₗ Nat ×ₗ Nat := toLex (OrderDual.toDual (extOf b).1, toLex (extOf b).2)

theorem combine_min (a b : List Byte) : RedOp.combine .min a b = minOn minKey a b := by
  have h : extBefore (fun x y => decide (x < y)) (extOf b) (extOf a) = true ↔ minKey b < minKey a := by
    simp [extBefore, minKey, Prod.Lex.toLex_lt_toLex]
  simp only [RedOp.combine, h, minOn_eq_if, ← not_lt, ite_not]

theorem combine_max (a b : List Byte) : RedOp.combine .max a b = minOn maxKey a b := by
  have h : extBefore (fun x y => decide (y < x)) (extOf b) (extOf a) = true ↔ maxKey b < maxKey a := by
    simp [extBefore, maxKey, Prod.Lex.toLex_lt_toLex]
  simp only [RedOp.combine, h, minOn_eq_if, ← not_lt, ite_not]

theorem minOn_comm_of_eq {α β : Type} [LinearOrder β] {f : α → β} {x y : α} (h : f x = f y → x = y) : minOn f x y = minOn f y x := by
  rcases lt_trichotomy (f x) (f y) with hlt | heq | hlt
  · rw [minOn_eq_left hlt.le, minOn_eq_right hlt.not_ge]
  · rw [h heq]
  · rw [minOn_eq_right hlt.not_ge, minOn_eq_left hlt.le]

/-- The bytes of an extreme in its encoding: 20 of them, the last one 0 (R244). -/
def ExtremeOk (b : List Byte) : Prop := b.length = 20 ∧ b[19]? = some 0

theorem extreme_bytes {b : List Byte} (h : ExtremeOk b) : b = le 8 (extOf b).1 ++ le 8 (extOf b).2.1 ++ le 3 (extOf b).2.2 ++ [0] := by
  obtain ⟨hlen, hlast⟩ := h
  have hend : b.drop 19 = [0] := by
    obtain ⟨hlt, hget⟩ := List.getElem?_eq_some_iff.1 hlast
    rw [List.drop_eq_getElem_cons hlt, hget, List.drop_eq_nil_of_le (by omega)]
  rw [extOf, field_full (by omega), field_full (by omega), field_full (by omega), slice_append_slice b 0 8 8, slice_append_slice b 0 16 3, ← hend]
  exact (List.take_append_drop 19 b).symm

/-- An extreme is known by its value, time and DID. -/
theorem extreme_eq_of_extOf_eq {a b : List Byte} (ha : ExtremeOk a) (hb : ExtremeOk b) (h : extOf a = extOf b) : a = b := by
  rw [extreme_bytes ha, extreme_bytes hb, h]

theorem minKey_eq {a b : List Byte} (h : minKey a = minKey b) : extOf a = extOf b := by
  simpa [minKey, Prod.ext_iff] using h

theorem maxKey_eq {a b : List Byte} (h : maxKey a = maxKey b) : extOf a = extOf b := by
  simpa [maxKey, Prod.ext_iff] using h

/-! ### Every operator -/

theorem elemOk_combine {o : RedOp} {a b : List Byte} (ha : elemOk o a) (hb : elemOk o b) : elemOk o (RedOp.combine o a b) := by
  cases o with
  | sum64 => exact ⟨le_length _ _, trivial⟩
  | sum96 => exact ⟨le_length _ _, trivial⟩
  | satsum40 => rw [combine_satsum40]; exact elemOk_satBytes _ (by omega)
  | min => rw [combine_min]; rcases minOn_eq_or (f := minKey) (x := a) (y := b) with h | h <;> rwa [h]
  | max => rw [combine_max]; rcases minOn_eq_or (f := maxKey) (x := a) (y := b) with h | h <;> rwa [h]

theorem combine_comm {o : RedOp} {a b : List Byte} (ha : elemOk o a) (hb : elemOk o b) : RedOp.combine o a b = RedOp.combine o b a := by
  cases o with
  | sum64 => exact sumBytes_comm 8 a b
  | sum96 => exact sumBytes_comm 12 a b
  | satsum40 => exact combine_satsum40_comm a b
  | min => rw [combine_min, combine_min]; exact minOn_comm_of_eq fun h => extreme_eq_of_extOf_eq ha hb (minKey_eq h)
  | max => rw [combine_max, combine_max]; exact minOn_comm_of_eq fun h => extreme_eq_of_extOf_eq ha hb (maxKey_eq h)

theorem combine_assoc (o : RedOp) (a b c : List Byte) : RedOp.combine o (RedOp.combine o a b) c = RedOp.combine o a (RedOp.combine o b c) := by
  cases o with
  | sum64 => exact sumBytes_assoc 8 a b c
  | sum96 => exact sumBytes_assoc 12 a b c
  | satsum40 => exact combine_satsum40_assoc a b c
  | min => simp only [combine_min]; exact minOn_assoc
  | max => simp only [combine_max]; exact minOn_assoc

end Sys2Proof.Claims
end

section
/-! PROOFS. Pod reductions (R243, R244): the elements of a source combine as a commutative semigroup, in which a way to combine contributions has their
product; and streams, reductions and the buddy, each the conjunction of its family's laws, one per command. -/

namespace Sys2Proof.Claims

open Sys2Proof.Machine

/-! ### The elements of a source -/

theorem combineElems_cons (o : RedOp) (r : List RedOp) (a b : List Byte) :
    combineElems (o :: r) a b =
      RedOp.combine o (a.take (RedOp.size o)) (b.take (RedOp.size o)) ++ combineElems r (a.drop (RedOp.size o)) (b.drop (RedOp.size o)) := rfl

/-- The first element of two combined, and the others: what each operator gives stands in its own bytes. -/
theorem take_combineElems {o : RedOp} {r : List RedOp} {a b : List Byte} (ha : elemsOk (o :: r) a) (hb : elemsOk (o :: r) b) :
    (combineElems (o :: r) a b).take (RedOp.size o) = RedOp.combine o (a.take (RedOp.size o)) (b.take (RedOp.size o)) :=
  List.take_left' (elemOk_combine ha.1 hb.1).1

theorem drop_combineElems {o : RedOp} {r : List RedOp} {a b : List Byte} (ha : elemsOk (o :: r) a) (hb : elemsOk (o :: r) b) :
    (combineElems (o :: r) a b).drop (RedOp.size o) = combineElems r (a.drop (RedOp.size o)) (b.drop (RedOp.size o)) :=
  List.drop_left' (elemOk_combine ha.1 hb.1).1

theorem elemsOk_combineElems {os : List RedOp} {a b : List Byte} (ha : elemsOk os a) (hb : elemsOk os b) : elemsOk os (combineElems os a b) := by
  induction os generalizing a b with
  | nil => rfl
  | cons o r ih =>
    rw [elemsOk, take_combineElems ha hb, drop_combineElems ha hb]
    exact ⟨elemOk_combine ha.1 hb.1, ih ha.2 hb.2⟩

theorem combineElems_comm {os : List RedOp} {a b : List Byte} (ha : elemsOk os a) (hb : elemsOk os b) :
    combineElems os a b = combineElems os b a := by
  induction os generalizing a b with
  | nil => rfl
  | cons o r ih => rw [combineElems_cons, combineElems_cons, combine_comm ha.1 hb.1, ih ha.2 hb.2]

theorem combineElems_assoc {os : List RedOp} {a b c : List Byte} (ha : elemsOk os a) (hb : elemsOk os b) (hc : elemsOk os c) :
    combineElems os (combineElems os a b) c = combineElems os a (combineElems os b c) := by
  induction os generalizing a b c with
  | nil => rfl
  | cons o r ih =>
    rw [combineElems_cons (b := c), combineElems_cons (a := a) (b := combineElems _ b c), take_combineElems ha hb, drop_combineElems ha hb, take_combineElems hb hc,
      drop_combineElems hb hc, combine_assoc, ih ha.2 hb.2 hc.2]

/-- Elements of a source, as its operators give them out. -/
def Elems (source : Nat) : Type := { e : List Byte // elemsOk (redOps source) e }

/-- Contributions combine in any grouping and any order. -/
abbrev elemsSemigroup (source : Nat) : CommSemigroup (Elems source) where
  mul a b := ⟨combineElems (redOps source) a.1 b.1, elemsOk_combineElems a.2 b.2⟩
  mul_assoc a b c := Subtype.ext (combineElems_assoc a.2 b.2 c.2)
  mul_comm a b := Subtype.ext (combineElems_comm a.2 b.2)

/-! ### Trees of contributions -/

/-- Every contribution of a way is as its operators give it out. -/
def Combining.Ok (source : Nat) (c : Combining) : Prop := ∀ e ∈ Combining.parts c, elemsOk (redOps source) e

theorem Combining.ok_join {source : Nat} {a b : Combining} : Combining.Ok source (.join a b) ↔ Combining.Ok source a ∧ Combining.Ok source b :=
  List.forall_mem_append

theorem Combining.Ok.value_ok {source : Nat} {c : Combining} (h : Combining.Ok source c) : elemsOk (redOps source) (Combining.value source c) := by
  induction c with
  | one e => exact h e List.mem_cons_self
  | join a b iha ihb => exact elemsOk_combineElems (iha (ok_join.1 h).1) (ihb (ok_join.1 h).2)

/-- A contribution as a factor. -/
def factor (source : Nat) (e : List Byte) (h : elemsOk (redOps source) e) : WithOne (Elems source) := WithOne.coe ⟨e, h⟩

theorem factor_injective {source : Nat} {a b : List Byte} {ha : elemsOk (redOps source) a} {hb : elemsOk (redOps source) b}
    (h : factor source a ha = factor source b hb) : a = b := congrArg Subtype.val (WithOne.coe_injective h)

/-- What a way to combine contributions gives is the product of its contributions, whatever its tree. -/
theorem Combining.factor_value {source : Nat} {c : Combining} (h : Combining.Ok source c) :
    letI := elemsSemigroup source
    factor source (Combining.value source c) h.value_ok = ((Combining.parts c).pmap (factor source) h).prod := by
  let := elemsSemigroup source
  induction c with
  | one e => exact (mul_one _).symm
  | join a b iha ihb =>
    obtain ⟨ha, hb⟩ := ok_join.1 h
    calc factor source (Combining.value source (.join a b)) h.value_ok
        = factor source (Combining.value source a) ha.value_ok * factor source (Combining.value source b) hb.value_ok := rfl
      _ = ((Combining.parts a).pmap (factor source) ha).prod * ((Combining.parts b).pmap (factor source) hb).prod := by rw [iha, ihb]
      _ = ((Combining.parts (.join a b)).pmap (factor source) h).prod := by
        rw [← List.prod_append]; exact congrArg List.prod (List.pmap_append ..).symm

end Sys2Proof.Claims

namespace Sys2Proof.Proofs

open Sys2Proof.Claims

/-- Settles O8: the value of a tree is the product of its contributions in a commutative semigroup (`Combining.factor_value`), which their order does
not change. -/
theorem reductionsIgnoreTreeAndOrder : Obligations.ReductionsIgnoreTreeAndOrder := by
  unfold Obligations.ReductionsIgnoreTreeAndOrder
  intro source a b (ha : Combining.Ok source a) hperm
  have hb : Combining.Ok source b := fun e he => ha e (hperm.mem_iff.2 he)
  let := elemsSemigroup source
  refine ⟨factor_injective (ha := ha.value_ok) (hb := hb.value_ok) ?_, ha.value_ok⟩
  rw [Combining.factor_value ha, Combining.factor_value hb]
  exact (hperm.pmap _).prod_eq

/-- Settles O53, by the laws of the commands on a stream's entry (`streamsDefined`, `streamsRemoved`, `streamsRestored`, `streamsQueried`), and of
CHECKPOINT and its copy of the next entry. -/
theorem streamsAreTabled : Obligations.StreamsAreTabled := by
  unfold Obligations.StreamsAreTabled
  exact ⟨streamsDefined, streamsRemoved, streamsRestored, streamsQueried, checkpoints, checkpointCopies⟩

/-- Settles O54, by the laws of a reduction from its definition through the Tervon's own part (`localWaits`, `partDeadlines`), the partials and results
that arrive, to the results lost, and by those of Gleaner's early wait and of the close of an instant. -/
theorem reductionsRun : Obligations.ReductionsRun := by
  unfold Obligations.ReductionsRun
  exact ⟨reductionsDefined, localWaits, partDeadlines, partsArrive, resultsArrive, resultsLost, earlyWaits, closesConfirm⟩

/-- Settles O58, by the laws of mirroring in both directions (`mirrorPeriods`, `mirrorsApply`, `itemsApply`, `mirrorsAcked`), of the lag's limit, of the
buddy's state sent, heard and lost, and of the bulk load. -/
theorem pairsMirror : Obligations.PairsMirror := by
  unfold Obligations.PairsMirror
  exact ⟨mirrorPeriods, mirrorsApply, itemsApply, mirrorsAcked, lagLimits, statesSent, statesHeard, buddyLost, bulkLoads⟩

end Sys2Proof.Proofs
end

section
/-! PROOFS. Kale: the obligation on its commands is the conjunction of their laws, one per command. -/

namespace Sys2Proof.Proofs

open Sys2Proof.Claims

/-- Settles O55, by the laws of an ensemble's life in its tiles (`ensemblesLoaded`, `ensemblesUnloaded`, `placementsEnd`), of the scores that it gives
when resident or streamed (`scoresGiven`, `windowsLoaded`), and of the scrub of a tile's entries against their golden copies (`scrubCompares`). -/
theorem kaleScores : Obligations.KaleScores := by
  unfold Obligations.KaleScores
  exact ⟨ensemblesLoaded, ensemblesUnloaded, placementsEnd, scoresGiven, windowsLoaded, scrubCompares⟩

end Sys2Proof.Proofs
end

section
/-! PROOFS. The Assayer at a Tervon and Cooper: each obligation is the conjunction of its family's laws, one per command or operation. -/

namespace Sys2Proof.Proofs

open Sys2Proof.Claims

/-- Settles O51, by the laws of a capture on its way to a run (`capturesAnnounced`, `capturesFill`, `batchesWait`, `batchesRun`), of the three events
that end its wait for a verdict (`windowsExpire`, `recomputesEnd`, `fetchesComplete`), and of the order in which `assaySteps` judges it. -/
theorem capturesAreAssayed : Obligations.CapturesAreAssayed := by
  unfold Obligations.CapturesAreAssayed
  exact ⟨capturesAnnounced, capturesFill, batchesWait, batchesRun, windowsExpire, recomputesEnd, fetchesComplete, assayOrder⟩

/-- Settles O52, by the laws of the Assayer's jobs on its model store and policies (`modelsLoaded`, `modelsUnloaded`, `policiesSet`), of a record
submitted, and of Cooper's two directions. -/
theorem assayerJobs : Obligations.AssayerJobs := by
  unfold Obligations.AssayerJobs
  exact ⟨modelsLoaded, modelsUnloaded, policiesSet, submitsAssayed, cooperCompresses, cooperDecompresses⟩

end Sys2Proof.Proofs
end

section
/-! PROOFS. What the record engine can change of a Tervon: its host functions and what it puts out, and nothing else. -/

namespace Sys2Proof.Machine

/-- `u` is `t` but for the host functions and the outputs. -/
def Tervon.HostOnly (t u : Tervon) : Prop := ∃ fns out, u = { t with fns, out }

namespace Tervon.HostOnly

variable {t u v : Tervon}

theorem refl (t : Tervon) : HostOnly t t := ⟨_, _, rfl⟩

theorem trans (h : HostOnly t u) (k : HostOnly u v) : HostOnly t v := by
  obtain ⟨_, _, rfl⟩ := h
  obtain ⟨_, _, rfl⟩ := k
  exact ⟨_, _, rfl⟩

theorem ros_eq (h : HostOnly t u) : u.ros = t.ros := by
  obtain ⟨_, _, rfl⟩ := h
  rfl

theorem ports_eq (h : HostOnly t u) : u.ports = t.ports := by
  obtain ⟨_, _, rfl⟩ := h
  rfl

theorem setFn (t : Tervon) (f : Nat) (x : HostFn) : HostOnly t (Tervon.setFn t f x) := ⟨_, _, rfl⟩

theorem emit (t : Tervon) (o : Out) : HostOnly t (Tervon.emit t o) := ⟨_, _, rfl⟩

theorem emitAll (t : Tervon) (os : List Out) : HostOnly t (Tervon.emitAll t os) := ⟨_, _, rfl⟩

theorem msix (t : Tervon) (f v : Nat) : HostOnly t (Tervon.msix t f v) := by
  unfold Tervon.msix
  dsimp only
  split
  · exact refl t
  · split
    · exact setFn ..
    · exact emit ..

theorem sendSignal (t : Tervon) (f v : Nat) : HostOnly t (Tervon.sendSignal t f v) := (setFn ..).trans (msix ..)

theorem signal (t : Tervon) (f v : Nat) : HostOnly t (Tervon.signal t f v) := by
  unfold Tervon.signal
  dsimp only
  split
  · split
    · exact setFn ..
    · exact sendSignal ..
  · exact sendSignal ..

theorem writeChain (t : Tervon) (f typ flags : Nat) (did : Did) (body : List Byte) (poisoned : Bool) :
    HostOnly t (Tervon.writeChain t f typ flags did body poisoned) :=
  ((setFn ..).trans (emitAll ..)).trans (signal ..)

/-- A record is written or dropped (R26, R389), and either way it is the function's affair alone. -/
theorem record (t : Tervon) (f typ flags : Nat) (did : Did) (body : List Byte) (poisoned : Bool) :
    HostOnly t (Tervon.record t f typ flags did body poisoned) := by
  unfold Tervon.record
  dsimp only
  split
  · exact setFn ..
  · exact writeChain ..

theorem rosterEvent (t : Tervon) (kind cause ring pos : Nat) (did : Did) (serial power epoch : Nat) :
    HostOnly t (Tervon.rosterEvent t kind cause ring pos did serial power epoch) := record ..

end Tervon.HostOnly

end Sys2Proof.Machine
end

section
/-! PROOFS. The buddy's silence: it is noted at the Tervon and told to the host, and a frame of the buddy by either path ends it (R358). -/

namespace Sys2Proof.Machine

/-- BUDDY_SILENT marks the silence and writes a record, or does nothing. -/
theorem Tervon.buddyQuiet_hostOnly (t : Tervon) : ∃ silent, HostOnly { t with mir.silent := silent } (Tervon.buddyQuiet t) := by
  unfold Tervon.buddyQuiet
  split
  · exact ⟨t.mir.silent, .refl t⟩
  · exact ⟨true, .rosterEvent ..⟩

/-- The Tervon's roster, with the leases in it, and its ports stay as they are when the buddy is silent. -/
theorem exec_buddySilent_keeps {s t : State} (h : exec .buddySilent s = .next t) : t.tv.ros = s.tv.ros ∧ t.tv.ports = s.tv.ports := by
  cases h
  obtain ⟨_, hq⟩ := Tervon.buddyQuiet_hostOnly s.tv
  exact ⟨hq.ros_eq, hq.ports_eq⟩

/-- A frame at the buddy port is of no leaf's position, and is noted as the buddy's. -/
theorem Tervon.noteFrame_buddyPort (t : Tervon) {rx : Rx} (h : rx.port = .tv 8) :
    Tervon.noteFrame t rx = { t with mir.lastFrame := some (Tervon.now t), mir.silent := false } := by
  have hkey : rxKey rx = none := by
    unfold rxKey
    rw [h]
    exact if_neg fun hk => absurd hk.1 (Nat.lt_irrefl 8)
  unfold Tervon.noteFrame
  simp only [hkey, h]

theorem Tervon.noteCarried_buddy (t : Tervon) :
    Tervon.noteCarried t (Tervon.buddyXY t) = { t with mir.lastFrame := some (Tervon.now t), mir.silent := false } := if_pos rfl

end Sys2Proof.Machine
end

section
/-! PROOFS. The pair and its repair: the buddy's silence, and the leases, the Larder and the roster, the conjunction of their laws, one per command. -/

namespace Sys2Proof.Proofs

open Sys2Proof.Machine Sys2Proof.Claims

/-- Settles O16, by the law of BUDDY_SILENT in `buddyLost`, by the record engine's frame, which leaves the roster and the ports alone
(`exec_buddySilent_keeps`), and by the two notes of a frame from the buddy. -/
theorem quietBuddiesKeepTheirLeases : Obligations.QuietBuddiesKeepTheirLeases := by
  unfold Obligations.QuietBuddiesKeepTheirLeases
  obtain ⟨-, -, -, -, hquiet⟩ := buddyLost
  refine ⟨hquiet, fun _ _ => exec_buddySilent_keeps, fun t rx hport => ?_, fun t rx h p => ⟨rfl, ?_⟩⟩
  · rw [Tervon.noteFrame_buddyPort t hport]
  · rw [Tervon.noteCarried_buddy]

/-- Settles O44, by the laws of the three times of a lease at its holder (`takeoversEnd`, `leasesRenew`, `leasesLapse`), of the LEASE_GRANT frames that
grant, refuse or end one, and of `Tervon.wantLease`. -/
theorem tervonsHoldLeases : Obligations.TervonsHoldLeases := by
  unfold Obligations.TervonsHoldLeases
  exact ⟨takeoversEnd, leasesRenew, leasesLapse, grantsTaken, grantsRefused, leasesWanted⟩

/-- Settles O49, by the laws of the Larder's buffers and the dumps in them (`cachesRefill`, `buffersGranted`, `dumpsFetched`), of the commands on a
roster's entry, of a position's silence, and of the two copies of the warm roster. -/
theorem larderAndRoster : Obligations.LarderAndRoster := by
  unfold Obligations.LarderAndRoster
  exact ⟨cachesRefill, buffersGranted, dumpsFetched, rosterAdmits, rosterFences, rosterSilence, warmRosters⟩

end Sys2Proof.Proofs
end

section
/-! PROOFS. The code of stored words (R411): both the check byte and the parity of a syndrome are sums over the set bits of a word, so each bit
inverted adds its own column to the syndrome, and a syndrome of even weight is no single error's. -/

namespace Sys2Proof.Machine

/-! ### Sums over the set bits of a word -/

/-- The sum, by exclusive or, of a column for each set bit among those listed. -/
def bitSum {n m : Nat} (col : Nat → BitVec m) (is : List Nat) (d : BitVec n) (c : BitVec m) : BitVec m :=
  is.foldl (fun c i => if d.getLsbD i then c ^^^ col i else c) c

theorem bitSum_xor {n m : Nat} (col : Nat → BitVec m) (is : List Nat) (a b : BitVec n) (c e : BitVec m) :
    bitSum col is (a ^^^ b) (c ^^^ e) = bitSum col is a c ^^^ bitSum col is b e := by
  induction is generalizing c e with
  | nil => rfl
  | cons i is ih =>
    have head : (if (a ^^^ b).getLsbD i then (c ^^^ e) ^^^ col i else c ^^^ e)
        = (if a.getLsbD i then c ^^^ col i else c) ^^^ (if b.getLsbD i then e ^^^ col i else e) := by
      rw [BitVec.getLsbD_xor]
      have hcc : c ^^^ col i ^^^ (e ^^^ col i) = c ^^^ e := by
        rw [BitVec.xor_assoc, BitVec.xor_comm e, ← BitVec.xor_assoc (col i), BitVec.xor_self, BitVec.zero_xor]
      cases a.getLsbD i <;> cases b.getLsbD i <;> simp [hcc, BitVec.xor_assoc, BitVec.xor_comm (col i)]
    simp only [bitSum, List.foldl_cons] at ih ⊢
    rw [head, ih]

/-- The check byte is the sum of the columns of the set data bits (R411). -/
theorem eccCheck_eq_bitSum (d : DWord) : eccCheck d = bitSum (fun i => BitVec.ofNat 8 (eccColumns.getD i 0)) (List.range 64) d 0 := rfl

theorem eccCheck_xor (a b : DWord) : eccCheck (a ^^^ b) = eccCheck a ^^^ eccCheck b := by
  simp only [eccCheck_eq_bitSum]
  exact bitSum_xor _ _ a b 0 0

/-- Whether a byte has an odd number of set bits, as one bit. -/
def parity8 (b : Byte) : BitVec 1 := bitSum (fun _ => 1) (List.range 8) b 0

theorem parity8_xor (a b : Byte) : parity8 (a ^^^ b) = parity8 a ^^^ parity8 b := bitSum_xor _ _ a b 0 0

/-! ### The columns -/

/-- The columns of R411 are 64 different bytes, each of odd weight above 1. -/
theorem eccColumns_odd : ∀ c ∈ eccColumns, c < 256 ∧ weight8 c ≠ 1 ∧ parity8 (BitVec.ofNat 8 c) = 1 := by decide +kernel

theorem eccColumns_length : eccColumns.length = 64 := by decide +kernel

theorem eccColumns_nodup : eccColumns.Nodup := by decide +kernel

theorem parity8_of_weight8_one : ∀ b : Byte, weight8 b.toNat = 1 → parity8 b = 1 := by decide +kernel

/-- What inverting bit `i` of a stored word adds to its syndrome: the column of a data bit, and itself for a check bit (R411). -/
def eccBit (i : Nat) : Byte := if i < 64 then BitVec.ofNat 8 (eccColumns.getD i 0) else 1#8 <<< (i - 64)

theorem eccBit_odd {i : Nat} (h : i < 72) : parity8 (eccBit i) = 1 := by
  revert i; decide +kernel

theorem eccBit_nodup : ((List.range 72).map eccBit).Nodup := by decide +kernel

theorem eccBit_ne {i j : Nat} (hij : i < j) (hj : j < 72) : eccBit i ≠ eccBit j := fun h =>
  hij.ne (List.inj_on_of_nodup_map eccBit_nodup (List.mem_range.2 (hij.trans hj)) (List.mem_range.2 hj) h)

theorem eccBit_check_weight {i : Nat} (h64 : 64 ≤ i) (h : i < 72) : weight8 (eccBit i).toNat = 1 := by
  revert i; decide +kernel

theorem eccBit_data_toNat {i : Nat} (h : i < 64) : (eccBit i).toNat = eccColumns[i]'(h.trans_eq eccColumns_length.symm) := by
  have hi : i < eccColumns.length := h.trans_eq eccColumns_length.symm
  rw [eccBit, if_pos h, List.getD_eq_getElem _ _ hi, BitVec.toNat_ofNat, Nat.mod_eq_of_lt (eccColumns_odd _ (List.getElem_mem hi)).1]

theorem eccCheck_bit {i : Nat} (h : i < 64) : eccCheck (1#64 <<< i) = eccBit i := by
  revert i; decide +kernel

/-! ### How a stored word reads -/

/-- The syndrome of a stored word: its check byte against the one that its data give (R411). -/
def EccWord.syndrome (w : EccWord) : Byte := w.chk ^^^ eccCheck w.data

theorem EccWord.read_good {w : EccWord} (h : EccWord.syndrome w = 0) : EccWord.read w = (w.data, 0) := if_pos h

theorem EccWord.read_checkBit {w : EccWord} (h0 : EccWord.syndrome w ≠ 0) (h1 : weight8 (EccWord.syndrome w).toNat = 1) :
    EccWord.read w = (w.data, 1) := (if_neg h0).trans (if_pos h1)

/-- A syndrome of several bits is looked up among the columns. -/
theorem EccWord.read_column {w : EccWord} (h0 : EccWord.syndrome w ≠ 0) (h1 : weight8 (EccWord.syndrome w).toNat ≠ 1) :
    EccWord.read w = match eccColumns.findIdx? fun c => decide (c = (EccWord.syndrome w).toNat) with
      | some i => (w.data ^^^ (1#64 <<< i), 1)
      | none => (w.data, 2) := (if_neg h0).trans (if_neg h1)

/-- The syndrome of data bit `i` alone names that bit, since the columns differ. -/
theorem EccWord.read_dataBit {w : EccWord} {i : Nat} (hi : i < 64) (h : EccWord.syndrome w = eccBit i) :
    EccWord.read w = (w.data ^^^ (1#64 <<< i), 1) := by
  have hlen : i < eccColumns.length := hi.trans_eq eccColumns_length.symm
  have hcol := eccBit_data_toNat hi
  have hodd : parity8 (EccWord.syndrome w) = 1 := h ▸ eccBit_odd (hi.trans (by decide))
  have hne : EccWord.syndrome w ≠ 0 := fun h0 => absurd (h0 ▸ hodd) (by decide)
  have hw : weight8 (EccWord.syndrome w).toNat ≠ 1 := by
    rw [h, hcol]; exact (eccColumns_odd _ (List.getElem_mem hlen)).2.1
  have hfind : eccColumns.findIdx? (fun c => decide (c = (EccWord.syndrome w).toNat)) = some i := by
    rw [List.findIdx?_eq_some_iff_getElem]
    refine ⟨hlen, by simp [h, hcol], fun j hji => ?_⟩
    rw [h, hcol, Bool.not_eq_true, decide_eq_false_iff_not, eccColumns_nodup.getElem_inj_iff]
    exact hji.ne
  rw [EccWord.read_column hne hw, hfind]

/-- A syndrome of even weight is no column's and no check bit's, as those are of odd weight. -/
theorem EccWord.read_even {w : EccWord} (h0 : EccWord.syndrome w ≠ 0) (he : parity8 (EccWord.syndrome w) = 0) : (EccWord.read w).2 = 2 := by
  have hw : weight8 (EccWord.syndrome w).toNat ≠ 1 := fun h => absurd (he.symm.trans (parity8_of_weight8_one _ h)) (by decide)
  have hfind : eccColumns.findIdx? (fun c => decide (c = (EccWord.syndrome w).toNat)) = none := by
    rw [List.findIdx?_eq_none_iff]
    rintro c hc
    refine decide_eq_false fun hcs => ?_
    have hodd := (eccColumns_odd c hc).2.2
    rw [hcs, BitVec.ofNat_toNat, BitVec.setWidth_eq] at hodd
    exact absurd (he.symm.trans hodd) (by decide)
  rw [EccWord.read_column h0 hw, hfind]

/-! ### Inverted bits and poison -/

/-- A stored word with bit `i` inverted: a data bit below 64, and a check bit from there on. -/
def EccWord.flip (w : EccWord) (i : Nat) : EccWord :=
  if i < 64 then { w with data := w.data ^^^ (1#64 <<< i) } else { w with chk := w.chk ^^^ (1#8 <<< (i - 64)) }

theorem EccWord.flip_data {i : Nat} (h : i < 64) (w : EccWord) : (EccWord.flip w i).data = w.data ^^^ (1#64 <<< i) := by
  rw [EccWord.flip, if_pos h]

theorem EccWord.flip_check_data {i : Nat} (h : 64 ≤ i) (w : EccWord) : (EccWord.flip w i).data = w.data := by
  rw [EccWord.flip, if_neg h.not_gt]

@[simp] theorem EccWord.syndrome_flip (w : EccWord) (i : Nat) : EccWord.syndrome (EccWord.flip w i) = EccWord.syndrome w ^^^ eccBit i := by
  by_cases h : i < 64
  · rw [EccWord.syndrome, EccWord.flip, if_pos h, eccCheck_xor, eccCheck_bit h, ← BitVec.xor_assoc, EccWord.syndrome]
  · rw [EccWord.syndrome, EccWord.flip, if_neg h, eccBit, if_neg h, EccWord.syndrome, BitVec.xor_assoc, BitVec.xor_assoc,
      BitVec.xor_comm (1#8 <<< (i - 64))]

@[simp] theorem syndrome_eccGood (d : DWord) : EccWord.syndrome (eccGood d) = 0 := by
  rw [EccWord.syndrome, eccGood, BitVec.xor_self]
  rfl

@[simp] theorem syndrome_eccPoison (d : DWord) : EccWord.syndrome (eccPoison d) = 0xFF := by
  rw [EccWord.syndrome, eccPoison, BitVec.xor_comm (eccCheck d), BitVec.xor_assoc, BitVec.xor_self, BitVec.xor_zero]

theorem read_eccGood (d : DWord) : EccWord.read (eccGood d) = (d, 0) := EccWord.read_good (syndrome_eccGood d)

/-- One bit inverted: a data bit is inverted back, and a check bit leaves the data as they were. -/
theorem read_flip_eccGood (d : DWord) {i : Nat} (h : i < 72) : EccWord.read (EccWord.flip (eccGood d) i) = (d, 1) := by
  have hs : EccWord.syndrome (EccWord.flip (eccGood d) i) = eccBit i := by simp
  by_cases h64 : i < 64
  · rw [EccWord.read_dataBit h64 hs, EccWord.flip_data h64, BitVec.xor_assoc, BitVec.xor_self, BitVec.xor_zero, eccGood]
  · have h64 : 64 ≤ i := not_lt.1 h64
    have hw : weight8 (EccWord.syndrome (EccWord.flip (eccGood d) i)).toNat = 1 := hs ▸ eccBit_check_weight h64 h
    rw [EccWord.read_checkBit (fun h0 => absurd (h0 ▸ hw) (by decide)) hw, EccWord.flip_check_data h64, eccGood]

/-- Two bits inverted leave the sum of two different columns of odd weight: an even weight, and not 0. -/
theorem read_flip_flip_eccGood (d : DWord) {i j : Nat} (hij : i < j) (hj : j < 72) :
    (EccWord.read (EccWord.flip (EccWord.flip (eccGood d) i) j)).2 = 2 := by
  have hs : EccWord.syndrome (EccWord.flip (EccWord.flip (eccGood d) i) j) = eccBit i ^^^ eccBit j := by simp
  refine EccWord.read_even ?_ ?_
  · rw [hs]
    exact fun h0 => eccBit_ne hij hj (BitVec.xor_eq_zero_iff.1 h0)
  · rw [hs, parity8_xor, eccBit_odd (hij.trans hj), eccBit_odd hj]
    rfl

theorem read_eccPoison (d : DWord) : (EccWord.read (eccPoison d)).2 = 2 :=
  EccWord.read_even (by rw [syndrome_eccPoison]; decide) (by rw [syndrome_eccPoison]; decide)

end Sys2Proof.Machine
end

section
/-! PROOFS. The memory services: a stored word against one error, against two, and against poison. -/

namespace Sys2Proof.Proofs

open Sys2Proof.Machine

/-- Settles O9, by the linearity of the check byte (`eccCheck_xor`): one bit inverted leaves its own column, which names it, and two leave a sum of even
weight, which no column has. -/
theorem storedWordsSurviveOneError : Obligations.StoredWordsSurviveOneError := by
  intro d
  exact ⟨read_eccGood d, fun _ hi => read_flip_eccGood d hi, fun _ _ hij hj => read_flip_flip_eccGood d hij hj, read_eccPoison d⟩

end Sys2Proof.Proofs
end

section
/-! PROOFS. Every command acts on one part of the block by that part's state alone; so it completes, keeps the queue, and does the same whatever waits. -/

namespace Sys2Proof.Machine

open Sys2Proof.Claims

/-- The effect is one of one part of the block alone, the ring leaf or the Tervon with its internal leaf. -/
def OfOnePart (e : State → Res) : Prop := OfLeaf e ∨ OfTervon e

theorem tvStep_ofOnePart (f : Tervon → Tervon) : OfOnePart (tvStep f) := .inr ⟨fun t => Tervon.syncTime (f t), fun _ => rfl⟩

/-- Two operations on the Tervon, the second of which also knows the Tervon as the first found it. -/
theorem tvStep_onTv_ofOnePart (f : Tervon → Tervon → Tervon) (g : Tervon → Tervon) :
    OfOnePart fun s => tvStep (f s.tv) (State.onTv s g) :=
  .inr ⟨fun t => Tervon.syncTime (f t (Tervon.syncTime (g t))), fun _ => rfl⟩

/-- Two operations on one leaf, the second of which also knows the leaf as the first found it. -/
theorem leafStep_onLeaf_ofOnePart (who : LeafId) (f : Leaf → Leaf → Leaf) (g : Leaf → Leaf) :
    OfOnePart fun s => leafStep who (f (State.leafNow s who)) (State.onLeaf s who g) := by
  cases who with
  | ring => exact .inl ⟨fun l => { f l { g l with kind := .ring } with kind := .ring }, fun _ => rfl⟩
  | internal =>
    exact .inr ⟨fun t => Tervon.syncTime
      { t with ileaf := f (Tervon.ileafNow t) { g (Tervon.ileafNow t) with time := t.time, kind := .internal } }, fun _ => rfl⟩

theorem leafStep_ofOnePart (who : LeafId) (f : Leaf → Leaf) : OfOnePart (leafStep who f) := by
  cases who with
  | ring => exact .inl ⟨fun l => { f l with kind := .ring }, fun _ => rfl⟩
  | internal => exact .inr ⟨fun t => Tervon.syncTime { t with ileaf := f (Tervon.ileafNow t) }, fun _ => rfl⟩

/-- An operation may take a value, as the time of an arrival, from the part as it finds it. -/
theorem leafStep_knowing_ofOnePart (who : LeafId) (f : Leaf → Leaf → Leaf) : OfOnePart fun s => leafStep who (f (State.leafNow s who)) s :=
  leafStep_ofOnePart who fun l => f l l

theorem timeStep_knowing_ofOnePart (f : Tervon → Tervon → Tervon) : OfOnePart fun s => timeStep (f s.tv) s :=
  tvStep_ofOnePart fun t => Tervon.noteClass (f t t)

theorem leafStepR_ofOnePart (who : LeafId) (f : Leaf → Leaf) : OfOnePart (leafStepR who f) := by
  cases who with
  | ring => exact leafStep_ofOnePart ..
  | internal => exact tvStep_ofOnePart _

theorem partStep_ofOnePart (p : Part) (f : Leaf → Leaf) (g : Tervon → Tervon) : OfOnePart (partStep p f g) := by
  cases p with
  | leaf who => exact leafStep_ofOnePart ..
  | tervon => exact tvStep_ofOnePart _

/-- The port names its part, and a port that a Tervon has not names the Tervon and leaves it as it is. -/
theorem portStep_ofOnePart (p : PortId) (f : Leaf → Leaf) (g : Nat → Tervon → Tervon) : OfOnePart (portStep p f g) := by
  cases p with
  | west | east | internal => exact leafStep_ofOnePart ..
  | tv k =>
    by_cases hk : k ≤ 12
    · exact .inr ⟨fun t => Tervon.syncTime (g k t), fun _ => if_pos hk⟩
    · exact .inr ⟨id, fun _ => if_neg hk⟩

theorem transitLease_ofOnePart (who : LeafId) (rx : Rx) (p : LeaseReqP) : OfOnePart (transitLease who rx p) := by
  unfold transitLease
  split <;> exact leafStep_ofOnePart ..

/-- A frame at a leaf; the stamp of its arrival and its residence are the leaf's own. -/
theorem leafTransit_ofOnePart (who : LeafId) (rx : Rx) (p : Payload) : OfOnePart (leafTransit who rx p) := by
  cases p with
  | timeSync q =>
    exact leafStep_onLeaf_ofOnePart who
      (fun old l => Leaf.frameIn l rx (.timeSync q) (.timeSync q) fun l => Leaf.timeSync l rx q (TimeDom.stamp old.time) (Config.residence old.free))
      fun l => { l with free := l.free + 1 }
  | timeFollow q =>
    exact leafStep_knowing_ofOnePart who fun old l => Leaf.frameIn l rx (.timeFollow q)
      (.timeFollow { q with corr := q.corr + Leaf.residenceFor l (srcOf rx.hdr) q.seq }) fun l => Leaf.timeFollow l rx q (TimeDom.stamp old.time)
  | delayReq q =>
    exact leafStep_onLeaf_ofOnePart who
      (fun old l => Leaf.frameIn l rx (.delayReq q) (.delayReq { q with corr := q.corr + Config.residence old.free }) id)
      fun l => { l with free := l.free + 1 }
  | leaseReq => exact transitLease_ofOnePart ..
  | _ => exact leafStep_ofOnePart who _

/-- A frame at a port of the Tervon; the stamp of its arrival and the port's temperature are the Tervon's own. -/
theorem tvTransit_ofOnePart (rx : Rx) (p : Payload) : OfOnePart (tvTransit rx p) := by
  cases p with
  | timeSync q =>
    exact timeStep_knowing_ofOnePart fun old t => Tervon.frameIn t rx (.timeSync q) fun t => Tervon.timeSync t rx q (TimeDom.stamp old.time)
  | timeFollow q =>
    exact timeStep_knowing_ofOnePart fun old t => Tervon.frameIn t rx (.timeFollow q) fun t => Tervon.timeFollow t rx q (TimeDom.stamp old.time)
  | delayReq q =>
    exact timeStep_knowing_ofOnePart fun old t => Tervon.frameIn t rx (.delayReq q) fun t => Tervon.timeDelayReq t rx q (TimeDom.stamp old.time)
  | delayResp q =>
    exact tvStep_onTv_ofOnePart
      (fun old t => Tervon.noteClass (Tervon.frameIn t rx (.delayResp q) fun t => Tervon.timeDelayResp t rx q (Config.portTemp old.free)))
      fun t => { t with free := t.free + 1 }
  | _ => exact tvStep_ofOnePart _

theorem execFrameTransit_ofOnePart (port : PortId) (f : Frame) : OfOnePart (execFrameTransit port f) := by
  cases port with
  | west | east | internal => exact leafTransit_ofOnePart ..
  | tv k => exact tvTransit_ofOnePart ..

/-- Every command acts on one part. The cases are the shared operations by which a command reaches its part; a command that names its part is split on
the name, and the commands left over are the Tervon's. -/
theorem exec_ofOnePart (c : Instr) : OfOnePart (exec c) := by
  cases c with
  | portLatencyMeasure | appointFrame | stationEntryDrain | stationFreezeEdge | freezeAckTimestamp | freezeMarkerApplied | histogramFreeze |
    stationStallTimeout | snapshotComplete | snapAckWrite | snapResendWrite | snapNowWrite | valuePortWrite | histogramSampleApply |
    timingStartEdge | timingStopEdge | supplyMarginReading | droopBegin | droopEnd | alarmEdge | alarmRelease | stuckActiveTimeout |
    chatterRecordTimer | chatterRelease | heartbeatEdge | hbCtlWrite | branchRetireCycle | traceEntryEncode | traceFlushIdle | syncPeriodic |
    traceFrameCloseTimer | trcCtlWrite | dumpCmdWrite | dumpWalkStart | dumpWalkResume | dumpReadTimeout | scanDone | scanDoneTimeout |
    lhpInitiatorResponse | leaseAcquire | leaseRenew | leaseRelease | leaseFence | leaseExpiry | regRd | regWr | lockAcquire | lockedWrite |
    lockCommit | lockAbandon | lockTimeout | verdictFrame | capPostWrite | captureProcess | captureHoldExpiry | capFetchWrite | stepWrite |
    healthStoreAdmit | guardbandRequestStart | guardbandAckLow | gbAcceptWrite | pageWriteStart | pageWriteComplete | vnvSag | vnvResume |
    operatingTimeTick | ldgReadPage | ldgProgramPage | attNonceWrite | attestationSigned | cvStart | cvFeed | cvResultRead | cvSave | cvRestore |
    cvCtlWrite | seqRestartCurrent | seqRestartOther | sequencerWatchdog | sequencerBoot | wakePhrase | cellarCommit | leafWakeStart | hdLcGood |
    leafWakeComplete | vddLcLoss | retentionLoss | leafColdReset | leafCoreReset | hostPortReset | stationReset | tracePortReset |
    stationClockEdge | capturePullTimeout | conflictRequestLow | hostPortResetRelease =>
    exact leafStep_ofOnePart ..
  | errRptWrite | guardbandAck | guardbandTimeout | guardbandConflict | guardbandPortReset =>
    exact leafStepR_ofOnePart ..
  | snapshot | modeSwitch | laneRecal | mark | nopFrame =>
    exact partStep_ofOnePart ..
  | laneRecalComplete | spareLaneAligned | laneReady | laneSwap | damagedFrame | ack | nak | ackTimer | replayTimeout | credit | creditAdvertise |
    codewordLoss | retrainComplete | resume | portDownTimeout | trainingRetry | linkTrained | probe | probeEcho | frameBoundarySchedule |
    shaperRefill | wakeBurst | malformedFrame | unknownControlBlock =>
    exact portStep_ofOnePart ..
  | timeSync who | timeFollow who | timeDelayReq who | timeDelayResp who | slewTick who | holdoverTimeout who | holdoverLong who | timeCtlWrite who
  | timeCtlApply who | cellarEnter who | samplingRate who =>
    cases who with
    | leaf w => exact leafStep_ofOnePart ..
    | tervon => exact tvStep_ofOnePart _
  | thermalReading who | heartbeatTimeout who =>
    cases who with
    | ring => exact leafStep_ofOnePart ..
    | internal => exact tvStep_ofOnePart _
  | lowWordRead target =>
    cases target with
    | leaf => exact leafStep_ofOnePart ..
    | bar | command => exact tvStep_ofOnePart _
  | registerWrite target =>
    cases target with
    | leaf => exact leafStepR_ofOnePart ..
    | bar | command => exact tvStep_ofOnePart _
  | frameTransit => exact execFrameTransit_ofOnePart ..
  | _ => exact tvStep_ofOnePart _

/-- What a command does is the same whatever commands wait, and it leaves them waiting. -/
theorem exec_withPending (c : Instr) (s : State) :
    ∃ t : State, ∀ q : List Instr, exec c { s with pending := q } = .next { t with pending := q } := by
  rcases exec_ofOnePart c with ⟨f, hf⟩ | ⟨f, hf⟩
  · exact ⟨{ s with leaf := f s.leaf }, fun _ => hf _⟩
  · exact ⟨{ s with tv := f s.tv }, fun _ => hf _⟩

theorem run_succ {M : Host.Core} {s t : M.State} {k : Nat} (h : M.step s = .next t) : Host.Core.run M (k + 1) s = Host.Core.run M k t := by
  rw [Host.Core.run.eq_def]
  simp only [h]

/-- The machine, run for as many steps as commands wait, does what they do one after the other on an empty queue. -/
theorem run_pending (cs : List Instr) (s : State) :
    ∃ t : State, Host.Core.run machine cs.length { s with pending := cs } = .next t ∧ t.pending = [] ∧
      runAll cs { s with pending := [] } = .next t := by
  induction cs generalizing s with
  | nil => exact ⟨{ s with pending := [] }, rfl, rfl, rfl⟩
  | cons c cs ih =>
    obtain ⟨u, hu⟩ := exec_withPending c s
    obtain ⟨t, hrun, hempty, hall⟩ := ih u
    have hstep : machine.step { s with pending := c :: cs } = .next { u with pending := cs } :=
      (step_command (s := { s with pending := c :: cs }) rfl).trans (hu cs)
    refine ⟨t, ?_, hempty, ?_⟩
    · exact (run_succ hstep).trans hrun
    · rw [runAll, hu []]
      exact hall

end Sys2Proof.Machine
end

section
/-! PROOFS. The block as a whole: what a command is to its state, to the rest of the queue, and to a run of the machine. -/

namespace Sys2Proof.Proofs

open Sys2Proof.Machine Sys2Proof.Claims

/-- Settles O4, by the operation through which each command reaches its part (`exec_ofOnePart`). -/
theorem commandsActOnOnePart : Obligations.CommandsActOnOnePart := exec_ofOnePart

/-- Settles O3, by the one part that a command acts on (`exec_withPending`): the command completes there, and the queue is in neither part. -/
theorem everyCommandCompletes : Obligations.EveryCommandCompletes := by
  intro c s
  obtain ⟨t, ht⟩ := exec_withPending c s
  exact ⟨{ t with pending := s.pending }, ht s.pending, rfl⟩

/-- Settles O5, by induction on the queue (`run_pending`). -/
theorem queueRunsInOrder : Obligations.QueueRunsInOrder := by
  rintro cs s rfl
  exact run_pending s.pending s

/-- Settles O1, by the case of `step` in which a command waits. -/
theorem stepRunsFrontCommand : Obligations.StepRunsFrontCommand := fun _ _ _ h => step_command h

end Sys2Proof.Proofs
end

section
/-! PROOFS. The queue of software PTP transmit times (R60, R61, R442): its ENTRY registers, its latch, and what a time that joins it leaves of both. -/

namespace Sys2Proof.Machine

/-! ### Fields of bytes -/

theorem fromLe_lt (bs : List Byte) : fromLe bs < 256 ^ bs.length := by
  induction bs with
  | nil => exact Nat.one_pos
  | cons b bs ih =>
    have hb : b.toNat < 256 := b.isLt
    rw [fromLe, List.length_cons, pow_succ]
    omega

theorem field_lt (bs : List Byte) (o n : Nat) : field bs o n < 256 ^ n :=
  (fromLe_lt _).trans_le (Nat.pow_le_pow_right (by decide) (List.length_take_le ..))

/-- A word of a list of bytes, widened, is its four bytes. -/
theorem wordAt_setWidth (bs : List Byte) (i : Nat) : (wordAt bs i).setWidth 64 = BitVec.ofNat 64 (field bs (4 * i) 4) := by
  have h : field bs (4 * i) 4 < 2 ^ 32 := field_lt bs (4 * i) 4
  rw [wordAt, w32, BitVec.setWidth_ofNat_of_le_of_lt (by decide) h]

/-! ### The ENTRY registers -/

/-- Offset of ENTRY register `k` of the PTP queue (R442). -/
abbrev ptpEntryAt (k : Nat) : Nat := 0x160 + 4 * k

theorem regAt_ptpEntry {k : Nat} (h : k ≤ 3) : regAt (ptpEntryAt k) = (ptpEntryAt k, 1) := by
  revert k; decide

theorem touchReg_ptpEntry (t : Tervon) (f : Nat) {k : Nat} (h1 : 1 ≤ k) (h3 : k ≤ 3) : Tervon.touchReg t f (ptpEntryAt k) = t := by
  rw [Tervon.touchReg, if_neg (by unfold ptpEntryAt; omega), if_neg (by unfold ptpEntryAt; omega)]

theorem peek_ptpEntry (t : Tervon) (f : Nat) {k : Nat} (h : k ≤ 3) : Tervon.peek t f (ptpEntryAt k) = wordAt (Tervon.ptpEntry t) k := by
  interval_cases k <;> rfl

/-! ### What a time that joins the queue leaves as it is -/

namespace Tervon.HostOnly

theorem tt_eq {t u : Tervon} (h : HostOnly t u) : u.tt = t.tt := by
  obtain ⟨_, _, rfl⟩ := h
  rfl

end Tervon.HostOnly

/-- A change of the class is noted, and told to the host by a record (R390). -/
theorem Tervon.noteClass_tt (t : Tervon) : ∃ c, (Tervon.noteClass t).tt = { t.tt with lastClass := c } := by
  unfold Tervon.noteClass
  dsimp only
  split
  · exact ⟨t.tt.lastClass, rfl⟩
  · exact ⟨Tervon.tq t, (HostOnly.record ..).tt_eq⟩

@[simp] theorem Tervon.noteClass_txq (t : Tervon) : (Tervon.noteClass t).tt.txq = t.tt.txq := by
  obtain ⟨_, h⟩ := Tervon.noteClass_tt t
  rw [h]

@[simp] theorem Tervon.noteClass_txqLatch (t : Tervon) : (Tervon.noteClass t).tt.txqLatch = t.tt.txqLatch := by
  obtain ⟨_, h⟩ := Tervon.noteClass_tt t
  rw [h]

@[simp] theorem Tervon.ptpSent_txqLatch (t : Tervon) (id : Half) (port : BitVec 2) (a : Stamp) :
    (Tervon.ptpSent t id port a).tt.txqLatch = t.tt.txqLatch := by
  unfold Tervon.ptpSent
  split <;> rfl

/-- A time joins the queue behind its oldest entry, or is dropped. -/
theorem Tervon.ptpSent_head? {t : Tervon} (id : Half) (port : BitVec 2) (a : Stamp) (h : t.tt.txq.head? ≠ none) :
    (Tervon.ptpSent t id port a).tt.txq.head? = t.tt.txq.head? := by
  unfold Tervon.ptpSent
  split
  · rfl
  · exact List.head?_append_of_ne_nil _ (mt List.head?_eq_none_iff.2 h)

theorem exec_softwarePtpTransmit_tt (id : Half) (port : BitVec 2) (a : Stamp) {s t : State} (h : exec (.softwarePtpTransmit id port a) s = .next t) :
    t.tv.tt = (Tervon.noteClass (Tervon.ptpSent s.tv id port a)).tt := by
  cases h
  rfl

end Sys2Proof.Machine

namespace Sys2Proof.Claims

open Sys2Proof.Machine

theorem tvGives_of_tvDoes {c : Instr} {H : Tervon → Prop} {E : Tervon → Tervon} {P : Tervon → Tervon → Prop} (h : TvDoes c H E)
    (hp : ∀ t, H t → P t (E t)) : TvGives c H P := fun s hs => ⟨E s.tv, h s hs, hp s.tv hs⟩

/-- ENTRY1 to ENTRY3 are registers of one word each, so a read answers the word and latches nothing. -/
theorem ptpEntryRead {k : Nat} (h1 : 1 ≤ k) (h3 : k ≤ 3) (ep : Bool) :
    TvGives (.lowWordRead (.bar ⟨0, false, ptpEntryAt k, ep⟩)) (fun _ => True)
      (fun t u => u.out = .barRead 0 (ptpEntryAt k) (BitVec.ofNat 64 (field (Tervon.ptpEntry t) (4 * k) 4)) :: t.out ∧ u.tt = t.tt) := by
  have hoff : barOffset 0 (ptpEntryAt k) = some (ptpEntryAt k) := (if_pos rfl).trans (if_pos (by unfold ptpEntryAt; omega))
  obtain ⟨-, hreads⟩ := barReads ⟨0, false, ptpEntryAt k, ep⟩ (Nat.zero_le _) rfl
  obtain ⟨hread, -⟩ := hreads _ hoff (by unfold ptpEntryAt; omega)
  refine tvGives_of_tvDoes (hread (by rw [regAt_ptpEntry h3])) fun t _ => ?_
  simp only [touchReg_ptpEntry t 0 h1 h3, peek_ptpEntry t 0 h3, wordAt_setWidth]
  exact ⟨rfl, rfl⟩

/-- A pop without an entry in the latch. -/
theorem ptpPopsNothing : TimeDoes .ptpTxqPop (fun t => t.tt.txqLatch = none) id := timeDoes _ (fun _ => rfl) fun t h => by
  rw [Tervon.ptpPop, h]
  rfl

end Sys2Proof.Claims
end

section
/-! PROOFS. The registers of the PTP queue, and the functions of the host that stop. -/

namespace Sys2Proof.Proofs

open Sys2Proof.Machine Sys2Proof.Claims

/-- Settles O15, by the laws of the queue's commands (`ptpQueueReads`, `ptpPopsNothing`), of its ENTRY registers (`ptpEntryRead`), and by the oldest
entry's place, which no later entry takes (`Tervon.ptpSent_head?`). -/
theorem ptpEntriesReadWhole : Obligations.PtpEntriesReadWhole := by
  unfold Obligations.PtpEntriesReadWhole
  refine ⟨ptpQueueReads, ptpPopsNothing, fun k h1 h3 ep => ptpEntryRead h1 h3 ep, fun id port a s t hlatch hshows hexec => ?_⟩
  have hhead : s.tv.tt.txq.head? ≠ none := hlatch ▸ hshows
  rw [exec_softwarePtpTransmit_tt id port a hexec, Tervon.noteClass_txqLatch, Tervon.noteClass_txq, Tervon.ptpSent_txqLatch,
    Tervon.ptpSent_head? id port a hhead]
  exact ⟨rfl, hlatch⟩

/-- Settles O47, by the laws of NOP and ABORT, of the end of Bus Master Enable, and of the function-level reset. -/
theorem functionsStop : Obligations.FunctionsStop := by
  unfold Obligations.FunctionsStop
  exact ⟨jobsAbort, busMasterEnds, functionsReset⟩

end Sys2Proof.Proofs
end
